-- ==== Sys2Proof/Word.lean ====
section
/-! DEFINITION. The words of the FK-1024 (R4). -/

namespace Sys2Proof

/-- The unit of memory. -/
abbrev Byte := BitVec 8

/-- A lane of a token, an operation word, a 32-bit register. -/
abbrev Word := BitVec 32

/-- A 64-bit register. -/
abbrev DWord := BitVec 64

end Sys2Proof
end

