-- ==== Sys2Proof/Machine/Bits.lean ====
section
/-! DEFINITION. Bit fields, sign extension, byte order and association lists: the helpers that
every operation of the machine shares. -/

namespace Sys2Proof.Machine

open Sys2Proof

/-- Bits [lo + width - 1 : lo] of a number. -/
def bits (x lo width : Nat) : Nat := x / 2 ^ lo % 2 ^ width

/-- Bit `i` of a number. -/
def bit (x i : Nat) : Bool := x / 2 ^ i % 2 == 1

/-- A number with bit `i` set. -/
def setBit (x i : Nat) : Nat := if bit x i then x else x + 2 ^ i

/-- 1 for true and 0 for false. -/
def b2n (b : Bool) : Nat := if b then 1 else 0

/-- The signed value of the low `w` bits (R8). -/
def sval (w x : Nat) : Int :=
  let y := x % 2 ^ w
  if y < 2 ^ (w - 1) then (y : Int) else (y : Int) - (2 ^ w : Nat)

/-- The low `w` bits of an integer, as a number below 2^w. -/
def wrap (w : Nat) (x : Int) : Nat := (x % ((2 ^ w : Nat) : Int)).toNat

/-- A signed integer clamped to `w` bits, as its low `w` bits (sat_s of R8). -/
def satS (w : Nat) (x : Int) : Nat :=
  let hi : Int := ((2 ^ (w - 1) : Nat) : Int) - 1
  let lo : Int := -((2 ^ (w - 1) : Nat) : Int)
  wrap w (if hi < x then hi else if x < lo then lo else x)

/-- An integer clamped to 0 to 2^w - 1. -/
def satU (w : Nat) (x : Int) : Nat :=
  let hi : Int := ((2 ^ w : Nat) : Int) - 1
  (if hi < x then hi else if x < 0 then 0 else x).toNat

/-- A number's `n` low bytes, little-endian (R4). -/
def toBytes : Nat → Nat → List Byte
  | 0, _ => []
  | n + 1, x => BitVec.ofNat 8 x :: toBytes n (x / 256)

/-- The number that little-endian bytes hold (R4). -/
def ofBytes : List Byte → Nat
  | [] => 0
  | b :: bs => b.toNat + 256 * ofBytes bs

/-- The number that big-endian bytes hold. -/
def ofBytesBE (bs : List Byte) : Nat := ofBytes bs.reverse

/-- A number's `n` low bytes, big-endian. -/
def toBytesBE (n x : Nat) : List Byte := (toBytes n x).reverse

/-- `n` bytes from offset `o` of a byte string, which reads as zero beyond its end. -/
def slice (bs : List Byte) (o n : Nat) : List Byte :=
  let t := (bs.drop o).take n
  t ++ List.replicate (n - t.length) 0

/-- The little-endian number of `n` bytes at offset `o`. -/
def leAt (bs : List Byte) (o n : Nat) : Nat := ofBytes (slice bs o n)

/-- A byte string with bytes written from offset `o`; a string too short is filled with zeros. -/
def patch (bs : List Byte) (o : Nat) (new : List Byte) : List Byte :=
  let pre := slice bs 0 o
  pre ++ new ++ bs.drop (o + new.length)

/-- The element at `i` replaced. -/
def setAt {α : Type} (l : List α) (i : Nat) (v : α) : List α := l.set i v

/-- The value an association list gives a key, or a default. -/
def aget {α : Type} (d : α) : List (Nat × α) → Nat → α
  | [], _ => d
  | (k, v) :: r, i => if k = i then v else aget d r i

/-- An association list with one key's value set. -/
def aset {α : Type} : List (Nat × α) → Nat → α → List (Nat × α)
  | [], i, v => [(i, v)]
  | (k, w) :: r, i, v => if k = i then (i, v) :: r else (k, w) :: aset r i v

/-- An association list without a key. -/
def adel {α : Type} (l : List (Nat × α)) (i : Nat) : List (Nat × α) := l.filter fun p => p.1 != i

/-- The first element that meets a test, with its index. -/
def findIdx? {α : Type} (p : α → Bool) : List α → Nat → Option (Nat × α)
  | [], _ => none
  | a :: r, i => if p a then some (i, a) else findIdx? p r (i + 1)

/-- The first element replaced by `f` of it where the test holds. -/
def modFirst {α : Type} (p : α → Bool) (f : α → α) : List α → List α
  | [] => []
  | a :: r => if p a then f a :: r else a :: modFirst p f r

/-- The list without its first element that meets a test. -/
def delFirst {α : Type} (p : α → Bool) : List α → List α
  | [] => []
  | a :: r => if p a then r else a :: delFirst p r

/-- The list without the element at an index. -/
def delAt {α : Type} (l : List α) (i : Nat) : List α := l.take i ++ l.drop (i + 1)

/-- Whether a number is in a list. -/
def has (l : List Nat) (x : Nat) : Bool := l.any fun y => y == x

/-- A number added to a list that does not hold it. -/
def addMem (l : List Nat) (x : Nat) : List Nat := if has l x then l else l ++ [x]

/-- ⌈a / b⌉. -/
def ceilDiv (a b : Nat) : Nat := (a + b - 1) / b

/-- A count that stops at `m`. -/
def satAdd (x k m : Nat) : Nat := if m < x + k then m else x + k

end Sys2Proof.Machine
end

