-- ==== Sys2Proof/Machine/Crypto.lean ====
section
/-! DEFINITION. The SM3 digest (R29, R30, R107, R137, R198) and CRC-32C (R19), as their published
standards give them. PRESUMED: the spec names the standards and prints neither (log 7). -/

namespace Sys2Proof.Machine

open Sys2Proof

/-- A 32-bit rotation to the left. -/
def rotl32 (x : Word) (n : Nat) : Word := (x <<< (n % 32)) ||| (x >>> (32 - n % 32))

/-- The permutation P0 of SM3. -/
def sm3P0 (x : Word) : Word := x ^^^ rotl32 x 9 ^^^ rotl32 x 17

/-- The permutation P1 of SM3. -/
def sm3P1 (x : Word) : Word := x ^^^ rotl32 x 15 ^^^ rotl32 x 23

/-- The boolean function FF of round `j`. -/
def sm3FF (j : Nat) (x y z : Word) : Word :=
  if j < 16 then x ^^^ y ^^^ z else (x &&& y) ||| (x &&& z) ||| (y &&& z)

/-- The boolean function GG of round `j`. -/
def sm3GG (j : Nat) (x y z : Word) : Word :=
  if j < 16 then x ^^^ y ^^^ z else (x &&& y) ||| (~~~x &&& z)

/-- The message expansion: `n` further words behind the words so far. -/
def sm3Expand : Nat → List Word → List Word
  | 0, w => w
  | n + 1, w =>
    let j := w.length
    let g := fun k => w.getD (j - k) 0
    sm3Expand n (w ++ [sm3P1 (g 16 ^^^ g 9 ^^^ rotl32 (g 3) 15) ^^^ rotl32 (g 13) 7 ^^^ g 6])

/-- The state of the compression function: the words A to H. -/
structure Sm3St where
  a : Word
  b : Word
  c : Word
  d : Word
  e : Word
  f : Word
  g : Word
  h : Word
  deriving DecidableEq, Repr

/-- Round `j` of the compression function over the expanded message. -/
def sm3Round (w : List Word) (s : Sm3St) (j : Nat) : Sm3St :=
  let t : Word := if j < 16 then 0x79CC4519 else 0x7A879D8A
  let ss1 := rotl32 (rotl32 s.a 12 + s.e + rotl32 t j) 7
  let ss2 := ss1 ^^^ rotl32 s.a 12
  let wj := w.getD j 0
  let wj' := wj ^^^ w.getD (j + 4) 0
  let tt1 := sm3FF j s.a s.b s.c + s.d + ss2 + wj'
  let tt2 := sm3GG j s.e s.f s.g + s.h + ss1 + wj
  { a := tt1, b := s.a, c := rotl32 s.b 9, d := s.c, e := sm3P0 tt2, f := s.e, g := rotl32 s.f 19,
    h := s.g }

/-- The compression of one block of sixteen words. -/
def sm3Block (v : Sm3St) (blk : List Word) : Sm3St :=
  let w := sm3Expand 52 blk
  let r := (List.range 64).foldl (sm3Round w) v
  { a := r.a ^^^ v.a, b := r.b ^^^ v.b, c := r.c ^^^ v.c, d := r.d ^^^ v.d, e := r.e ^^^ v.e,
    f := r.f ^^^ v.f, g := r.g ^^^ v.g, h := r.h ^^^ v.h }

/-- Sixteen big-endian words of the bytes at the front. -/
def sm3Words (bs : List Byte) : List Word :=
  (List.range 16).map fun i => BitVec.ofNat 32 (ofBytesBE (slice bs (4 * i) 4))

/-- The blocks of a padded message, one after another. -/
def sm3Blocks : Nat → Sm3St → List Byte → Sm3St
  | 0, v, _ => v
  | n + 1, v, bs => sm3Blocks n (sm3Block v (sm3Words bs)) (bs.drop 64)

/-- The initial value of SM3. -/
def sm3IV : Sm3St where
  a := 0x7380166F
  b := 0x4914B2B9
  c := 0x172442D7
  d := 0xDA8A0600
  e := 0xA96F30BC
  f := 0x163138AA
  g := 0xE38DEE4D
  h := 0xB0FB0E4E

/-- The SM3 digest of a byte string: 32 bytes. -/
def sm3 (bs : List Byte) : List Byte :=
  let zeros := (119 - bs.length % 64) % 64
  let padded := bs ++ (0x80 : Byte) :: List.replicate zeros 0 ++ toBytesBE 8 (8 * bs.length)
  let r := sm3Blocks (padded.length / 64) sm3IV padded
  [r.a, r.b, r.c, r.d, r.e, r.f, r.g, r.h].flatMap fun w => toBytesBE 4 w.toNat

/-- The first 64 bits of an SM3 digest, byte for byte in memory order (R107, R137; log 7). -/
def sm3First64 (bs : List Byte) : Nat := ofBytes ((sm3 bs).take 8)

/-- One bit of CRC-32C, reflected. -/
def crcBit (c : Word) : Word :=
  if c.getLsbD 0 then (c >>> 1) ^^^ 0x82F63B78 else c >>> 1

/-- One byte of CRC-32C. -/
def crcByte (c : Word) (b : Byte) : Word :=
  let x := c ^^^ (b.zeroExtend 32)
  crcBit (crcBit (crcBit (crcBit (crcBit (crcBit (crcBit (crcBit x)))))))

/-- The CRC-32C of a byte string (R19). -/
def crc32c (bs : List Byte) : Word := ~~~(bs.foldl crcByte 0xFFFFFFFF)

end Sys2Proof.Machine
end

