-- ==== Sys2Proof/Syntax.lean ====
section
/-! DEFINITION. The instructions of the FK-1024 as one inductive type: the 162 instructions of
the opcode map (R239 to R246), with the fields of the operation word (R231) and of the extension
word (R235) as typed arguments, and the 81 device steps of the table, each with the data that the
environment brings to it. -/

namespace Sys2Proof

/-- The fields every operation word has (R231): arity, tag arithmetic and the two targets. A
target holds the slot in its upper seven bits and the position in its lower two (R232). -/
structure OpWord where
  ar : BitVec 2
  tg : BitVec 2
  t0 : BitVec 9
  t1 : BitVec 9
  deriving DecidableEq, Repr

/-- Class I types (R234): lane elements of the integer forms. -/
inductive ITy where
  | s32 | u32 | s8 | u8 | s4
  deriving DecidableEq, Repr

/-- Class I32 types (R234). -/
inductive I32Ty where
  | s32 | u32
  deriving DecidableEq, Repr

/-- Class I8 types (R234): four s8 or eight s4. -/
inductive I8Ty where
  | s8 | s4
  deriving DecidableEq, Repr

/-- Integer conditions, class C (R234). -/
inductive CondTy where
  | eq | ne | lt | ge | ltu | geu
  deriving DecidableEq, Repr

/-- Floating lane formats, classes F and F0 (R234). -/
inductive FTy where
  | f32 | f16 | bf16
  deriving DecidableEq, Repr

/-- UNT5 modes (R240). -/
inductive UntTy where
  | lenient | strict
  deriving DecidableEq, Repr

/-- Reductions of VRED and VSCAN, class S6 (R242). -/
inductive VOp where
  | addS32 | minS32 | maxS32 | addF32 | minF32 | maxF32
  deriving DecidableEq, Repr

/-- Load widths (R243, R302). -/
inductive LdTy where
  | u8 | s8 | u16 | s16 | w32
  deriving DecidableEq, Repr

/-- Store widths (R243, R302). -/
inductive StTy where
  | w8 | w16 | w32
  deriving DecidableEq, Repr

/-- Rounding modes (R212). -/
inductive Rm where
  | rne | rz | ru | rd
  deriving DecidableEq, Repr

/-- Element formats (R209). -/
inductive Fmt where
  | fp32 | fp16 | bf16 | e4m3 | e5m2 | fb8 | fb6 | fb4 | int32 | int8 | uint8 | int4 | tern5
  deriving DecidableEq, Repr

/-- Modes of FSGN (R288). -/
inductive FsgnMode where
  | copy | neg | xor
  deriving DecidableEq, Repr

/-- Conditions of FCMP (R289). -/
inductive FcmpCond where
  | eq | lt | le | gt | ge | un
  deriving DecidableEq, Repr

/-- Modes of VLANE (R298). -/
inductive VlaneMode where
  | up | down | rot
  deriving DecidableEq, Repr

/-- Operations of ATOM (R304). -/
inductive AtomOp where
  | add | and | or | xor | mins | maxs | minu | maxu | swap | fadd
  deriving DecidableEq, Repr

/-- Orderings of ATOM and CAS (R304). -/
inductive MemOrd where
  | relaxed | acquire | release | acqRel
  deriving DecidableEq, Repr

/-- Kinds of FENCE (R308). -/
inductive FenceKind where
  | acquire | release | full
  deriving DecidableEq, Repr

/-- Operations of CRED (R318). -/
inductive CredOp where
  | add | min | max
  deriving DecidableEq, Repr

/-- Register kinds of MLD and MST (R334). -/
inductive MKind where
  | ma | md | acc
  deriving DecidableEq, Repr

/-- Operations of PTOP (R334). -/
inductive PtOp where
  | and | or | xor | andn
  deriving DecidableEq, Repr

/-- Predicate choices of PGATH and PMARCH (R362). -/
inductive PSel where
  | hit | unseen | outside
  deriving DecidableEq, Repr

/-- Counters of PSTAT (R362). -/
inductive PWhich where
  | clipped | unseen | conflost | lostbrick | blendovf
  deriving DecidableEq, Repr

/-- What has stalled (R120, R128): a waiting request of the core by its place, or an instance whose
commit is held. -/
inductive StallAt where
  | request (k : Nat)
  | commit (iid : Nat)
  deriving DecidableEq, Repr

/-- What an SRAM of a core that carries SECDED holds (R141, R326): a scratchpad line, entry `n` of a queue
buffer, a lane that waits in the matching store at a position of a slot, a row of an ma or md register, or an
element of an acc register's active bank (R332). -/
inductive Place where
  | scratch (core addr : Nat)
  | queue (core q n : Nat)
  | matching (core iid slot pos idx : Nat)
  | ma (core r row : Nat)
  | md (core r row : Nat)
  | acc (core r row col : Nat)
  deriving DecidableEq, Repr

/-- A hand-over (R27), a row of its table each: a line at a physical address from DRAM to its Burtex die, from
there to a compute die, and from a compute die to a Twinik port; a flit, by its port and SEQ, across a link and
from a port to a compute die; a line from a bridge to a core's scratchpad. Last, a read of an SRAM (R141). -/
inductive Handoff where
  | dramBurtex (addr : Nat)
  | burtexDie (addr : Nat)
  | dieTwinik (addr : Nat)
  | link (port seq : Nat)
  | twinikDie (port seq : Nat)
  | bridgeScratch (core addr : Nat)
  | sram (place : Place)
  deriving DecidableEq, Repr

/-- What a hand-over's sending check finds (R27, R141). -/
inductive CheckResult where
  | passed | corrected | failed
  deriving DecidableEq, Repr

/-- A host's or peer's access through BAR4 (R34): a read of `n` bytes, or a write. -/
inductive HostAccess where
  | read (n : Nat)
  | write (bytes : List Byte)
  deriving DecidableEq, Repr

/-- What a reset finds failed in the cores' fabrics (R106, R109): by core its retired elements as a mask, and its retired
switch links by element and heading. -/
structure FabricFaults where
  elems : List (Nat × Nat)
  links : List (Nat × Nat × Nat)
  deriving DecidableEq, Repr

/-- One constructor per row of the opcode table. An instruction carries its operation word's
fields and the fields of its extension word; a device step carries what the environment brings. -/
inductive Instr where
  /-- BRA (R258). -/
  | bra (h : OpWord) (d : BitVec 32)
  /-- BRI (R258). -/
  | bri (h : OpWord)
  /-- CALLB (R259). -/
  | callb (h : OpWord) (dc : BitVec 16) (dr : BitVec 16)
  /-- RETB (R259). -/
  | retb (h : OpWord)
  /-- SPAWN (R260). -/
  | spawn (h : OpWord) (ds : BitVec 16)
  /-- SRET (R261). -/
  | sret (h : OpWord)
  /-- TAGENTER (R262, width minus 1). -/
  | tagenter (h : OpWord) (width : BitVec 5)
  /-- TAGLEAVE (R262). -/
  | tagleave (h : OpWord)
  /-- READ (R263). -/
  | read (h : OpWord) (reg : BitVec 5)
  /-- WRITE (R263). -/
  | write (h : OpWord) (reg : BitVec 5)
  /-- PHASE (R265). -/
  | phase (h : OpWord)
  /-- JOIN (R265). -/
  | join (h : OpWord)
  /-- REP (R266). -/
  | rep (h : OpWord) (n : BitVec 8) (stride : BitVec 4)
  /-- SHADV (R267). -/
  | shadv (h : OpWord)
  /-- BOBINIT (R268, slots minus 1). -/
  | bobinit (h : OpWord) (slots : BitVec 8) (bob : BitVec 4)
  /-- BOBWAIT (R268). -/
  | bobwait (h : OpWord) (n : BitVec 8) (bob : BitVec 4)
  /-- BOBREL (R268). -/
  | bobrel (h : OpWord) (count : BitVec 8) (bob : BitVec 4)
  /-- SYSCALL (R269). -/
  | syscall (h : OpWord) (code : BitVec 16)
  /-- BREAK (R269). -/
  | brk (h : OpWord) (code : BitVec 16)
  /-- TRAPIF (R269). -/
  | trapif (h : OpWord)
  /-- ERET (R270). -/
  | eret (h : OpWord)
  /-- ENDL (R271). -/
  | endl (h : OpWord)
  /-- MFSR (R263, R264). -/
  | mfsr (h : OpWord) (num : BitVec 16)
  /-- MTSR (R263, R264). -/
  | mtsr (h : OpWord) (num : BitVec 16)
  /-- CONST (R280). -/
  | const (h : OpWord) (value : BitVec 32)
  /-- MOV (R280). -/
  | mov (h : OpWord)
  /-- ADD (R276). -/
  | add (h : OpWord) (ty : ITy)
  /-- SUB (R276). -/
  | sub (h : OpWord) (ty : ITy)
  /-- MUL (R276). -/
  | mul (h : OpWord) (ty : ITy)
  /-- MULH (R276). -/
  | mulh (h : OpWord) (ty : ITy)
  /-- MAD (R277; AR 1 is the partner word of R236). -/
  | mad (h : OpWord) (ty : ITy)
  /-- DIV (R278). -/
  | div (h : OpWord) (ty : I32Ty)
  /-- REM (R278). -/
  | rem (h : OpWord) (ty : I32Ty)
  /-- AND (R279). -/
  | and (h : OpWord)
  /-- OR (R279). -/
  | or (h : OpWord)
  /-- XOR (R279). -/
  | xor (h : OpWord)
  /-- ANDN (R279). -/
  | andn (h : OpWord)
  /-- SHL (R276). -/
  | shl (h : OpWord) (ty : ITy)
  /-- SHR (R276). -/
  | shr (h : OpWord) (ty : ITy)
  /-- SRA (R276). -/
  | sra (h : OpWord) (ty : ITy)
  /-- ROTL (R279). -/
  | rotl (h : OpWord)
  /-- CLZ (R279). -/
  | clz (h : OpWord)
  /-- POPC (R279). -/
  | popc (h : OpWord)
  /-- MIN (R276). -/
  | min (h : OpWord) (ty : ITy)
  /-- MAX (R276). -/
  | max (h : OpWord) (ty : ITy)
  /-- ABS (R276). -/
  | abs (h : OpWord) (ty : ITy)
  /-- NEG (R276). -/
  | neg (h : OpWord) (ty : ITy)
  /-- ADDSAT (R276). -/
  | addsat (h : OpWord) (ty : ITy)
  /-- SUBSAT (R276). -/
  | subsat (h : OpWord) (ty : ITy)
  /-- CMP (R281). -/
  | cmp (h : OpWord) (ty : CondTy)
  /-- SEL (R282). -/
  | sel (h : OpWord)
  /-- TST (R281). -/
  | tst (h : OpWord)
  /-- EXTR (R283, length minus 1). -/
  | extr (h : OpWord) (sgn : BitVec 1) (pos : BitVec 5) (len : BitVec 5)
  /-- INS (R283, length minus 1). -/
  | ins (h : OpWord) (pos : BitVec 5) (len : BitVec 5)
  /-- LEA (R283). -/
  | lea (h : OpWord) (sh : BitVec 3)
  /-- PACKN (R284). -/
  | packn (h : OpWord) (ty : ITy)
  /-- UNPACKN (R284). -/
  | unpackn (h : OpWord) (ty : ITy) (half : BitVec 1)
  /-- UNT5 (R285). -/
  | unt5 (h : OpWord) (ty : UntTy)
  /-- ACCT (R286). -/
  | acct (h : OpWord) (ty : I8Ty)
  /-- DOTP (R286). -/
  | dotp (h : OpWord) (ty : ITy)
  /-- FADD (R287). -/
  | fadd (h : OpWord) (ty : FTy)
  /-- FADD_ROUNDING (R287, R212). -/
  | faddRounding (h : OpWord) (ty : FTy) (rm : Rm)
  /-- FSUB (R287). -/
  | fsub (h : OpWord) (ty : FTy)
  /-- FSUB_ROUNDING (R287, R212). -/
  | fsubRounding (h : OpWord) (ty : FTy) (rm : Rm)
  /-- FMUL (R287). -/
  | fmul (h : OpWord) (ty : FTy)
  /-- FMUL_ROUNDING (R287, R212). -/
  | fmulRounding (h : OpWord) (ty : FTy) (rm : Rm)
  /-- FMA (R287; AR 1 is the partner word of R236). -/
  | fma (h : OpWord) (ty : FTy)
  /-- FMA_ROUNDING (R287, R212). -/
  | fmaRounding (h : OpWord) (ty : FTy) (rm : Rm)
  /-- FMIN (R288). -/
  | fmin (h : OpWord) (ty : FTy)
  /-- FMAX (R288). -/
  | fmax (h : OpWord) (ty : FTy)
  /-- FSGN (R288). -/
  | fsgn (h : OpWord) (ty : FTy) (mode : FsgnMode)
  /-- FCMP (R289). -/
  | fcmp (h : OpWord) (ty : FTy) (cond : FcmpCond)
  /-- FCLASS (R288). -/
  | fclass (h : OpWord) (ty : FTy)
  /-- FCVT (R290). -/
  | fcvt (h : OpWord) (group : BitVec 3) (rm : Rm) (src : Fmt) (dst : Fmt)
  /-- FRINT (R291). -/
  | frint (h : OpWord) (ty : FTy) (rm : Rm)
  /-- FEXPI (R292). -/
  | fexpi (h : OpWord) (ty : FTy)
  /-- FEXPI_ROUNDING (R292, R212). -/
  | fexpiRounding (h : OpWord) (ty : FTy) (rm : Rm)
  /-- FGETX (R292). -/
  | fgetx (h : OpWord) (ty : FTy)
  /-- FDIV (R287). -/
  | fdiv (h : OpWord) (ty : FTy)
  /-- FDIV_ROUNDING (R287, R212). -/
  | fdivRounding (h : OpWord) (ty : FTy) (rm : Rm)
  /-- FSQRT (R287). -/
  | fsqrt (h : OpWord) (ty : FTy)
  /-- FSQRT_ROUNDING (R287, R212). -/
  | fsqrtRounding (h : OpWord) (ty : FTy) (rm : Rm)
  /-- FRCP (R293). -/
  | frcp (h : OpWord)
  /-- FRSQ (R293). -/
  | frsq (h : OpWord)
  /-- FRCPS (R294). -/
  | frcps (h : OpWord)
  /-- FRSQS (R294). -/
  | frsqs (h : OpWord)
  /-- FEXP2F (R293). -/
  | fexp2f (h : OpWord)
  /-- FLOG2F (R293). -/
  | flog2f (h : OpWord)
  /-- VRUN (R296, count minus 1). -/
  | vrun (h : OpWord) (count : BitVec 5) (first : BitVec 5)
  /-- VRED (R297). -/
  | vred (h : OpWord) (ty : VOp)
  /-- VSCAN (R297). -/
  | vscan (h : OpWord) (ty : VOp)
  /-- VBCAST (R298). -/
  | vbcast (h : OpWord) (j : BitVec 5)
  /-- VLANE (R298). -/
  | vlane (h : OpWord) (mode : VlaneMode) (k : BitVec 5)
  /-- VSHUF (R298). -/
  | vshuf (h : OpWord)
  /-- VIOTA (R296). -/
  | viota (h : OpWord) (offset : BitVec 32)
  /-- LD (R302). -/
  | ld (h : OpWord) (ty : LdTy)
  /-- ST (R302). -/
  | st (h : OpWord) (ty : StTy)
  /-- LDV (R303). -/
  | ldv (h : OpWord) (sh : BitVec 3) (high : BitVec 24)
  /-- STV (R303). -/
  | stv (h : OpWord) (high : BitVec 24)
  /-- ATOM (R304). -/
  | atom (h : OpWord) (opc : AtomOp) (ord : MemOrd) (scope : BitVec 3) (g : BitVec 1) (hi : BitVec 16)
  /-- CAS (R305; AR 1 is the partner word of R236, which carries no extension word). -/
  | cas (h : OpWord) (ord : MemOrd) (scope : BitVec 3) (g : BitVec 1) (hi : BitVec 16)
  /-- LDLK (R307). -/
  | ldlk (h : OpWord)
  /-- STUL (R307). -/
  | stul (h : OpWord)
  /-- FENCE (R308). -/
  | fence (h : OpWord) (kind : FenceKind) (scope : BitVec 3)
  /-- PREF (R309). -/
  | pref (h : OpWord)
  /-- TSTATE_FILL (R310). -/
  | tstateFill (h : OpWord)
  /-- TSTATE_PUBLISH (R310). -/
  | tstatePublish (h : OpWord)
  /-- TSTATE_DRAIN (R310). -/
  | tstateDrain (h : OpWord)
  /-- TSTATE_RELEASE (R310). -/
  | tstateRelease (h : OpWord)
  /-- TWAIT (R311). -/
  | twait (h : OpWord)
  /-- SOPEN (R312). -/
  | sopen (h : OpWord) (node : BitVec 4)
  /-- SCLOSE (R313). -/
  | sclose (h : OpWord) (node : BitVec 4)
  /-- GROWS (R314). -/
  | grows (h : OpWord) (tile : BitVec 8) (desc : BitVec 12) (rowoff : BitVec 12)
  /-- SCAT (R314). -/
  | scat (h : OpWord) (tile : BitVec 8) (desc : BitVec 12) (rowoff : BitVec 12)
  /-- CWALK (R315, count minus 1). -/
  | cwalk (h : OpWord) (first : BitVec 5) (cnt : BitVec 5)
  /-- STLD (R317). -/
  | stld (h : OpWord) (a : BitVec 3)
  /-- SISECT (R317, count minus 1). -/
  | sisect (h : OpWord) (n : BitVec 5) (b : BitVec 3) (a : BitVec 3)
  /-- SUNION (R317, count minus 1). -/
  | sunion (h : OpWord) (n : BitVec 5) (b : BitVec 3) (a : BitVec 3)
  /-- SDIFF (R317, count minus 1). -/
  | sdiff (h : OpWord) (n : BitVec 5) (b : BitVec 3) (a : BitVec 3)
  /-- SMADD (R317, count minus 1). -/
  | smadd (h : OpWord) (fp : BitVec 1) (n : BitVec 5) (b : BitVec 3) (a : BitVec 3)
  /-- SNEXT (R317, count minus 1). -/
  | snext (h : OpWord) (n : BitVec 5) (a : BitVec 3)
  /-- STST (R317). -/
  | stst (h : OpWord) (a : BitVec 3)
  /-- CRED (R318). -/
  | cred (h : OpWord) (op : CredOp) (fmt : Fmt) (mode : BitVec 1) (scope : BitVec 3)
  /-- CBC (R318). -/
  | cbc (h : OpWord) (scope : BitVec 3) (root : BitVec 12)
  /-- CAG (R318). -/
  | cag (h : OpWord) (scope : BitVec 3)
  /-- CA2A (R318). -/
  | ca2a (h : OpWord) (scope : BitVec 3)
  /-- MLD (R335). -/
  | mld (h : OpWord) (fmt : Fmt) (reg : BitVec 4) (tile : BitVec 8) (pten : BitVec 1) (pt : BitVec 4) (t : BitVec 1) (mo : BitVec 1) (kind : MKind)
  /-- MST (R335). -/
  | mst (h : OpWord) (fmt : Fmt) (reg : BitVec 4) (tile : BitVec 8) (pten : BitVec 1) (pt : BitVec 4) (t : BitVec 1) (mo : BitVec 1) (kind : MKind)
  /-- MZERO (R337). -/
  | mzero (h : OpWord) (acc : BitVec 3) (int : BitVec 1) (empty : BitVec 1)
  /-- MMA (R338). -/
  | mma (h : OpWord) (fmt : Fmt) (acc : BitVec 3) (ma : BitVec 4) (mb : BitVec 4)
  /-- MMSP (R339). -/
  | mmsp (h : OpWord) (fmt : Fmt) (acc : BitVec 3) (ma : BitVec 4) (mb : BitVec 4) (md : BitVec 3) (pat : BitVec 1)
  /-- MCOMP (R340). -/
  | mcomp (h : OpWord) (fmt : Fmt) (ma : BitVec 4) (ms : BitVec 4) (md : BitVec 3) (pat : BitVec 1) (gap : BitVec 3)
  /-- MQNT (R341). -/
  | mqnt (h : OpWord) (fmt : Fmt) (acc : BitVec 3) (ma : BitVec 4) (gap : BitVec 3) (orient : BitVec 1)
  /-- MDEQ (R342). -/
  | mdeq (h : OpWord) (df : Fmt) (sf : Fmt) (ma : BitVec 4) (ms : BitVec 4) (strict : BitVec 1)
  /-- MTRN (R343). -/
  | mtrn (h : OpWord) (ma : BitVec 4) (ms : BitVec 4)
  /-- MACCR (R344). -/
  | maccr (h : OpWord) (acc : BitVec 3) (row : BitVec 6) (half : BitVec 1) (w : BitVec 1)
  /-- MCOR (R346, count minus 1). -/
  | mcor (h : OpWord) (acc : BitVec 3) (mk : BitVec 4) (mv : BitVec 4) (ss : BitVec 2) (gd : BitVec 2) (n : BitVec 5) (half : BitVec 1)
  /-- MTRI (R347, size minus 1). -/
  | mtri (h : OpWord) (acc : BitVec 3) (mk : BitVec 4) (ss : BitVec 2) (c : BitVec 6)
  /-- MWY (R348, size minus 1). -/
  | mwy (h : OpWord) (acc : BitVec 3) (atri : BitVec 3) (mk : BitVec 4) (mv : BitVec 4) (gd : BitVec 2) (c : BitVec 6)
  /-- MSTEP (R345). -/
  | mstep (h : OpWord) (ss : BitVec 2) (mode : BitVec 1)
  /-- MGRD (R345). -/
  | mgrd (h : OpWord) (gd : BitVec 2)
  /-- PTSET (R350). -/
  | ptset (h : OpWord) (pt : BitVec 4) (half : BitVec 1)
  /-- PTOP (R350). -/
  | ptop (h : OpWord) (pd : BitVec 4) (pa : BitVec 4) (pb : BitVec 4) (op : PtOp)
  /-- PLY (R351). -/
  | ply (h : OpWord) (acc : BitVec 3) (mq : BitVec 4) (mk : BitVec 4) (mv : BitVec 4) (first : BitVec 1) (causal : BitVec 1)
  /-- PLYC (R352). -/
  | plyc (h : OpWord) (a : BitVec 3) (b : BitVec 3)
  /-- PLYF (R352). -/
  | plyf (h : OpWord) (acc : BitVec 3)
  /-- WARP (R353). -/
  | warp (h : OpWord)
  /-- REEL (R354). -/
  | reel (h : OpWord) (append : BitVec 1)
  /-- CAMLD (R364). -/
  | camld (h : OpWord) (bv : BitVec 3)
  /-- CAMST (R364). -/
  | camst (h : OpWord) (bv : BitVec 3)
  /-- CAMCOMP (R365). -/
  | camcomp (h : OpWord) (bvd : BitVec 3) (bvs : BitVec 3)
  /-- PGATH (R366, R367). -/
  | pgath (h : OpWord) (bv : BitVec 3) (tile : BitVec 8) (rowoff : BitVec 12) (psel : PSel)
  /-- PMARCH (R366, R367). -/
  | pmarch (h : OpWord) (bv : BitVec 3) (tile : BitVec 8) (rowoff : BitVec 12) (psel : PSel)
  /-- PSCAT (R368). -/
  | pscat (h : OpWord) (bv : BitVec 3) (tile : BitVec 8) (rowoff : BitVec 12)
  /-- PSTEP (R369). -/
  | pstep (h : OpWord) (store : BitVec 6)
  /-- PSTAT (R370). -/
  | pstat (h : OpWord) (clr : BitVec 1) (which : PWhich) (bv : BitVec 3)
  /-- SKBIND (R384). -/
  | skbind (h : OpWord) (bind : BitVec 3)
  /-- SPIN (R385). -/
  | spin (h : OpWord) (bind : BitVec 3)
  /-- DRAW (R381). -/
  | draw (h : OpWord) (bind : BitVec 3)
  /-- SKUPD (R386). -/
  | skupd (h : OpWord) (inc : BitVec 8) (bind : BitVec 3)
  /-- SKRD (R387). -/
  | skrd (h : OpWord) (word : BitVec 5) (bind : BitVec 3)
  /-- SKWR (R387). -/
  | skwr (h : OpWord) (word : BitVec 5) (bind : BitVec 3)
  /-- DEVICE_RESET (R29). -/
  | deviceReset (cores : List Nat) (elems : FabricFaults)
  /-- SUPPLY_SAG_TRIP (R15). -/
  | supplySagTrip (die : Nat)
  /-- STRETCH_STEP_UP (R15). -/
  | stretchStepUp (die : Nat)
  /-- STRETCH_STEP_DOWN (R15). -/
  | stretchStepDown (die : Nat)
  /-- PACKAGE_POWER_OVER_CAP (R17). -/
  | packagePowerOverCap
  /-- HARD_SAG_STOP (R16). -/
  | hardSagStop (die : Nat)
  /-- HARD_SAG_RESTART (R16). -/
  | hardSagRestart (die : Nat)
  /-- POWER_CAP_WRITE (R17). -/
  | powerCapWrite (value : Word)
  /-- TWINIK_FLIT_RECEIVE (R23). -/
  | twinikFlitReceive (port : Nat) (header : Word) (payload : List Byte) (check : Word)
  /-- TWINIK_NAK_RECEIVE (R23). -/
  | twinikNakReceive (port seq : Nat)
  /-- TWINIK_ACK_RECEIVE (R22). -/
  | twinikAckReceive (module id : Nat)
  /-- UNDELIVERABLE_RESPONSE (R21). -/
  | undeliverableResponse (module : Nat) (alternate : Bool) (packet : Option Nat)
  /-- PORT_RETRAIN (R25). -/
  | portRetrain (port : Nat)
  /-- PORT_RETRAIN_DONE (R23). -/
  | portRetrainDone (port : Nat) (ok : Bool)
  /-- PORT_RETIRE (R24). -/
  | portRetire (port : Nat)
  /-- ROUTE_TABLE_WRITE (R26). -/
  | routeTableWrite (module word value : Nat)
  /-- HANDOVER_TRANSFER (R27). -/
  | handoverTransfer (hand : Handoff) (res : CheckResult)
  /-- HANDOVER_RETRY (R28). -/
  | handoverRetry (passed : Bool)
  /-- FIRMWARE_LOAD (R32). -/
  | firmwareLoad (len : Nat) (cores : List Nat) (elems : FabricFaults)
  /-- MEASUREMENT_EXTEND (R30). -/
  | measurementExtend (reg : Nat)
  /-- QUOTE_BUILD (R31). -/
  | quoteBuild
  /-- REGISTER_WRITE (R5). -/
  | registerWrite (vf : Option Nat) (offset value : Nat)
  /-- BAR4_ACCESS (R34). -/
  | bar4Access (part link func va : Nat) (access : HostAccess)
  /-- LAUNCH_WINDOW_WRITE (R41). -/
  | launchWindowWrite (vf : Option Nat) (offset : Nat) (bytes : List Byte)
  /-- LAUNCH_ACCEPT (R42). -/
  | launchAccept (part prio : Nat) (bad : Bool)
  /-- SPILL_RETURN (R43). -/
  | spillReturn (part prio : Nat) (bad : Bool)
  /-- PARTITION_ENABLE (R39). -/
  | partitionEnable (part : Nat)
  /-- PARTITION_DISABLE (R39). -/
  | partitionDisable (part : Nat)
  /-- PARTITION_RESIZE (R67). -/
  | partitionResize (part granules : Nat)
  /-- WAIT_WORD_POLL (R46). -/
  | waitWordPoll (lid : Nat)
  /-- LAUNCH_AGING (R63). -/
  | launchAging (lid us : Nat)
  /-- PLACEMENT_PASS (R64). -/
  | placementPass (part : Nat)
  /-- ARGUMENT_COPY (R48). -/
  | argumentCopy (lid : Nat)
  /-- LAUNCH_COMPLETE (R51). -/
  | launchComplete (lid : Nat)
  /-- LAUNCH_CANCEL (R52). -/
  | launchCancel (part lnum : Nat)
  /-- LAUNCH_WATCHDOG_EXPIRY (R53). -/
  | launchWatchdogExpiry (lid : Nat)
  /-- WATCHDOG_TRAP_UNANSWERED (R53). -/
  | watchdogTrapUnanswered (lid : Nat)
  /-- WITHHELD_FAULT_RECORD_POST (R56). -/
  | withheldFaultRecordPost (queue : Nat)
  /-- FAULT_RESPONSE_RETRY (R57). -/
  | faultResponseRetry (part id : Nat)
  /-- FAULT_RESPONSE_FAIL (R57). -/
  | faultResponseFail (part id : Nat)
  /-- CORE_RETIRE (R68). -/
  | coreRetire (core : Nat) (device usable : Bool)
  /-- LAUNCH_RESUME (R66). -/
  | launchResume (lid : Nat)
  /-- TLB_INVALIDATE (R114). -/
  | tlbInvalidate (part size va : Nat)
  /-- TLB_INVALIDATE_DONE (R114). -/
  | tlbInvalidateDone (part : Nat)
  /-- PAGE_WALK (R112). -/
  | pageWalk (core va : Nat)
  /-- SPAWN_GRANT (R70). -/
  | spawnGrant (core : Nat)
  /-- COLOUR_RELEASE (R70). -/
  | colourRelease (core colour : Nat)
  /-- BLOCK_ADMISSION (R73). -/
  | blockAdmission (core cycles : Nat)
  /-- BLOCK_MAPPING (R107). -/
  | blockMapping (core : Nat)
  /-- TOKEN_ARRIVAL (R94). -/
  | tokenArrival (core n : Nat)
  /-- INSTANCE_COMMIT (R101). -/
  | instanceCommit (core : Nat)
  /-- ARBOUR_ARRIVAL (R76). -/
  | arbourArrival (core : Nat)
  /-- BARRIER_TIMEOUT (R77). -/
  | barrierTimeout (core k : Nat)
  /-- FRAME_EXHAUSTION (R99). -/
  | frameExhaustion (core : Nat)
  /-- QUEUE_STALL (R120). -/
  | queueStall (core : Nat) (what : StallAt)
  /-- CONFIG_ECC_ERROR (R108). -/
  | configEccError (core block elem : Nat) (corrected : Bool) (unread : List (Nat × Nat))
  /-- CONFIG_RELOAD (R108). -/
  | configReload (core block : Nat)
  /-- NODE_ELEMENT_READ (R124). -/
  | nodeElementRead (core node : Nat)
  /-- SHUTTLE_ENTRY_START (R129). -/
  | shuttleEntryStart (core : Nat)
  /-- SHUTTLE_ROW_COPY (R129). -/
  | shuttleRowCopy (core entry : Nat)
  /-- SHUTTLE_COMPLETION_POST (R130). -/
  | shuttleCompletionPost (core : Nat)
  /-- BURTEX_ATOMIC (R134). -/
  | burtexAtomic (core : Nat)
  /-- ATOMMODE_SWITCH (R135). -/
  | atommodeSwitch (core : Nat)
  /-- LOCK_GRANT (R136). -/
  | lockGrant (core : Nat)
  /-- REEL_PAGE_FILL (R138). -/
  | reelPageFill (core : Nat)
  /-- SCATTER_WRITE_BUFFER (R154). -/
  | scatterWriteBuffer (part store n : Nat)
  /-- WORLD_STEP_ARRIVAL (R156). -/
  | worldStepArrival (core : Nat)
  /-- WORLD_STEP_CLOSE (R156). -/
  | worldStepClose (part store : Nat)
  /-- COLLECTIVE_COMPLETE (R319). -/
  | collectiveComplete
  /-- PROXY_ABSENCE_RECEIVE (R207). -/
  | proxyAbsenceReceive (module gid : Nat)
  /-- PROXY_WITHDRAWAL_RECEIVE (R207). -/
  | proxyWithdrawalReceive (module gid : Nat)
  /-- TRAP_DELIVERY (R188). -/
  | trapDelivery (core : Nat)
  /-- PREEMPT_GATING (R195). -/
  | preemptGating (lid : Nat)
  /-- QUIESCENCE (R195). -/
  | quiescence (core : Nat)
  /-- DRAIN_LIMIT_EXPIRY (R83). -/
  | drainLimitExpiry (core : Nat)
  /-- IMAGE_SAVE (R198). -/
  | imageSave (core : Nat)
  /-- SAVE_RESUME (R202). -/
  | saveResume (part id : Nat)
  /-- SAVE_ABANDON (R202). -/
  | saveAbandon (part id : Nat)
  /-- PREEMPT_RETRY (R203). -/
  | preemptRetry (lid : Nat)
  /-- LAUNCH_RESTORE (R205). -/
  | launchRestore (core : Nat)
  /-- QUOTE_COMPLETE (R32). -/
  | quoteComplete
  deriving DecidableEq, Repr

end Sys2Proof
end

