-- ==== Sys2Proof/Decode.lean ====
section
/-! DEFINITION. The decoder of operation and extension words (R231 to R246, R248), total on any
bytes, which rejects every reserved encoding under a name of its own; and the encoder, written
from the same tables. -/

namespace Sys2Proof

/-- Why bits name no instruction (R248). -/
inductive DecodeError where
  | truncated | reservedOpcode | reservedTy | reservedSec | nonZeroBits | reservedField
  deriving DecidableEq, Repr

/-- Bits [lo + width - 1 : lo] of a word. -/
def fieldOf (w lo width : Nat) : Nat := w / 2 ^ lo % 2 ^ width

/-- The operation word's own fields (R231). -/
def opWord (w : Nat) : OpWord where
  ar := BitVec.ofNat 2 (fieldOf w 23 2)
  tg := BitVec.ofNat 2 (fieldOf w 21 2)
  t0 := BitVec.ofNat 9 (fieldOf w 9 9)
  t1 := BitVec.ofNat 9 (fieldOf w 0 9)

/-- Class Z: TY must be zero (R234). -/
def tyZero (w : Nat) (r : Except DecodeError Instr) : Except DecodeError Instr :=
  if fieldOf w 18 3 = 0 then r else .error .reservedTy

/-- The code of a ITy field. -/
def ITy.code : ITy → Nat
  | .s32 => 0
  | .u32 => 1
  | .s8 => 2
  | .u8 => 3
  | .s4 => 4

/-- The ITy a code names, or none where the code is reserved. -/
def ITy.ofCode : Nat → Option ITy
  | 0 => some .s32
  | 1 => some .u32
  | 2 => some .s8
  | 3 => some .u8
  | 4 => some .s4
  | _ => none

/-- The code of a I32Ty field. -/
def I32Ty.code : I32Ty → Nat
  | .s32 => 0
  | .u32 => 1

/-- The I32Ty a code names, or none where the code is reserved. -/
def I32Ty.ofCode : Nat → Option I32Ty
  | 0 => some .s32
  | 1 => some .u32
  | _ => none

/-- The code of a I8Ty field. -/
def I8Ty.code : I8Ty → Nat
  | .s8 => 2
  | .s4 => 4

/-- The I8Ty a code names, or none where the code is reserved. -/
def I8Ty.ofCode : Nat → Option I8Ty
  | 2 => some .s8
  | 4 => some .s4
  | _ => none

/-- The code of a CondTy field. -/
def CondTy.code : CondTy → Nat
  | .eq => 0
  | .ne => 1
  | .lt => 2
  | .ge => 3
  | .ltu => 4
  | .geu => 5

/-- The CondTy a code names, or none where the code is reserved. -/
def CondTy.ofCode : Nat → Option CondTy
  | 0 => some .eq
  | 1 => some .ne
  | 2 => some .lt
  | 3 => some .ge
  | 4 => some .ltu
  | 5 => some .geu
  | _ => none

/-- The code of a FTy field. -/
def FTy.code : FTy → Nat
  | .f32 => 0
  | .f16 => 1
  | .bf16 => 2

/-- The FTy a code names, or none where the code is reserved. -/
def FTy.ofCode : Nat → Option FTy
  | 0 => some .f32
  | 1 => some .f16
  | 2 => some .bf16
  | _ => none

/-- The code of a UntTy field. -/
def UntTy.code : UntTy → Nat
  | .lenient => 0
  | .strict => 1

/-- The UntTy a code names, or none where the code is reserved. -/
def UntTy.ofCode : Nat → Option UntTy
  | 0 => some .lenient
  | 1 => some .strict
  | _ => none

/-- The code of a VOp field. -/
def VOp.code : VOp → Nat
  | .addS32 => 0
  | .minS32 => 1
  | .maxS32 => 2
  | .addF32 => 3
  | .minF32 => 4
  | .maxF32 => 5

/-- The VOp a code names, or none where the code is reserved. -/
def VOp.ofCode : Nat → Option VOp
  | 0 => some .addS32
  | 1 => some .minS32
  | 2 => some .maxS32
  | 3 => some .addF32
  | 4 => some .minF32
  | 5 => some .maxF32
  | _ => none

/-- The code of a LdTy field. -/
def LdTy.code : LdTy → Nat
  | .u8 => 0
  | .s8 => 1
  | .u16 => 2
  | .s16 => 3
  | .w32 => 4

/-- The LdTy a code names, or none where the code is reserved. -/
def LdTy.ofCode : Nat → Option LdTy
  | 0 => some .u8
  | 1 => some .s8
  | 2 => some .u16
  | 3 => some .s16
  | 4 => some .w32
  | _ => none

/-- The code of a StTy field. -/
def StTy.code : StTy → Nat
  | .w8 => 0
  | .w16 => 2
  | .w32 => 4

/-- The StTy a code names, or none where the code is reserved. -/
def StTy.ofCode : Nat → Option StTy
  | 0 => some .w8
  | 2 => some .w16
  | 4 => some .w32
  | _ => none

/-- The code of a Rm field. -/
def Rm.code : Rm → Nat
  | .rne => 0
  | .rz => 1
  | .ru => 2
  | .rd => 3

/-- The Rm a code names, or none where the code is reserved. -/
def Rm.ofCode : Nat → Option Rm
  | 0 => some .rne
  | 1 => some .rz
  | 2 => some .ru
  | 3 => some .rd
  | _ => none

/-- The code of a Fmt field. -/
def Fmt.code : Fmt → Nat
  | .fp32 => 0
  | .fp16 => 1
  | .bf16 => 2
  | .e4m3 => 3
  | .e5m2 => 4
  | .fb8 => 5
  | .fb6 => 6
  | .fb4 => 7
  | .int32 => 8
  | .int8 => 9
  | .uint8 => 10
  | .int4 => 11
  | .tern5 => 12

/-- The Fmt a code names, or none where the code is reserved. -/
def Fmt.ofCode : Nat → Option Fmt
  | 0 => some .fp32
  | 1 => some .fp16
  | 2 => some .bf16
  | 3 => some .e4m3
  | 4 => some .e5m2
  | 5 => some .fb8
  | 6 => some .fb6
  | 7 => some .fb4
  | 8 => some .int32
  | 9 => some .int8
  | 10 => some .uint8
  | 11 => some .int4
  | 12 => some .tern5
  | _ => none

/-- The code of a FsgnMode field. -/
def FsgnMode.code : FsgnMode → Nat
  | .copy => 0
  | .neg => 1
  | .xor => 2

/-- The FsgnMode a code names, or none where the code is reserved. -/
def FsgnMode.ofCode : Nat → Option FsgnMode
  | 0 => some .copy
  | 1 => some .neg
  | 2 => some .xor
  | _ => none

/-- The code of a FcmpCond field. -/
def FcmpCond.code : FcmpCond → Nat
  | .eq => 0
  | .lt => 1
  | .le => 2
  | .gt => 3
  | .ge => 4
  | .un => 5

/-- The FcmpCond a code names, or none where the code is reserved. -/
def FcmpCond.ofCode : Nat → Option FcmpCond
  | 0 => some .eq
  | 1 => some .lt
  | 2 => some .le
  | 3 => some .gt
  | 4 => some .ge
  | 5 => some .un
  | _ => none

/-- The code of a VlaneMode field. -/
def VlaneMode.code : VlaneMode → Nat
  | .up => 0
  | .down => 1
  | .rot => 2

/-- The VlaneMode a code names, or none where the code is reserved. -/
def VlaneMode.ofCode : Nat → Option VlaneMode
  | 0 => some .up
  | 1 => some .down
  | 2 => some .rot
  | _ => none

/-- The code of a AtomOp field. -/
def AtomOp.code : AtomOp → Nat
  | .add => 0
  | .and => 1
  | .or => 2
  | .xor => 3
  | .mins => 4
  | .maxs => 5
  | .minu => 6
  | .maxu => 7
  | .swap => 8
  | .fadd => 9

/-- The AtomOp a code names, or none where the code is reserved. -/
def AtomOp.ofCode : Nat → Option AtomOp
  | 0 => some .add
  | 1 => some .and
  | 2 => some .or
  | 3 => some .xor
  | 4 => some .mins
  | 5 => some .maxs
  | 6 => some .minu
  | 7 => some .maxu
  | 8 => some .swap
  | 9 => some .fadd
  | _ => none

/-- The code of a MemOrd field. -/
def MemOrd.code : MemOrd → Nat
  | .relaxed => 0
  | .acquire => 1
  | .release => 2
  | .acqRel => 3

/-- The MemOrd a code names, or none where the code is reserved. -/
def MemOrd.ofCode : Nat → Option MemOrd
  | 0 => some .relaxed
  | 1 => some .acquire
  | 2 => some .release
  | 3 => some .acqRel
  | _ => none

/-- The code of a FenceKind field. -/
def FenceKind.code : FenceKind → Nat
  | .acquire => 1
  | .release => 2
  | .full => 3

/-- The FenceKind a code names, or none where the code is reserved. -/
def FenceKind.ofCode : Nat → Option FenceKind
  | 1 => some .acquire
  | 2 => some .release
  | 3 => some .full
  | _ => none

/-- The code of a CredOp field. -/
def CredOp.code : CredOp → Nat
  | .add => 0
  | .min => 1
  | .max => 2

/-- The CredOp a code names, or none where the code is reserved. -/
def CredOp.ofCode : Nat → Option CredOp
  | 0 => some .add
  | 1 => some .min
  | 2 => some .max
  | _ => none

/-- The code of a MKind field. -/
def MKind.code : MKind → Nat
  | .ma => 0
  | .md => 1
  | .acc => 2

/-- The MKind a code names, or none where the code is reserved. -/
def MKind.ofCode : Nat → Option MKind
  | 0 => some .ma
  | 1 => some .md
  | 2 => some .acc
  | _ => none

/-- The code of a PtOp field. -/
def PtOp.code : PtOp → Nat
  | .and => 0
  | .or => 1
  | .xor => 2
  | .andn => 3

/-- The PtOp a code names, or none where the code is reserved. -/
def PtOp.ofCode : Nat → Option PtOp
  | 0 => some .and
  | 1 => some .or
  | 2 => some .xor
  | 3 => some .andn
  | _ => none

/-- The code of a PSel field. -/
def PSel.code : PSel → Nat
  | .hit => 0
  | .unseen => 1
  | .outside => 2

/-- The PSel a code names, or none where the code is reserved. -/
def PSel.ofCode : Nat → Option PSel
  | 0 => some .hit
  | 1 => some .unseen
  | 2 => some .outside
  | _ => none

/-- The code of a PWhich field. -/
def PWhich.code : PWhich → Nat
  | .clipped => 0
  | .unseen => 1
  | .conflost => 2
  | .lostbrick => 3
  | .blendovf => 4

/-- The PWhich a code names, or none where the code is reserved. -/
def PWhich.ofCode : Nat → Option PWhich
  | 0 => some .clipped
  | 1 => some .unseen
  | 2 => some .conflost
  | 3 => some .lostbrick
  | 4 => some .blendovf
  | _ => none

/-- The formats that a field of kind CvtFmt may name. -/
def cvtFmt.ofCode (c : Nat) : Option Fmt :=
  match Fmt.ofCode c with
  | some .fp32 => some .fp32
  | some .fp16 => some .fp16
  | some .bf16 => some .bf16
  | some .e4m3 => some .e4m3
  | some .e5m2 => some .e5m2
  | some .int32 => some .int32
  | some .int8 => some .int8
  | some .uint8 => some .uint8
  | some .int4 => some .int4
  | _ => none

/-- The formats that a field of kind CredFmt may name. -/
def credFmt.ofCode (c : Nat) : Option Fmt :=
  match Fmt.ofCode c with
  | some .fp32 => some .fp32
  | some .fp16 => some .fp16
  | some .bf16 => some .bf16
  | some .e4m3 => some .e4m3
  | some .e5m2 => some .e5m2
  | some .fb8 => some .fb8
  | some .fb6 => some .fb6
  | some .fb4 => some .fb4
  | some .int32 => some .int32
  | some .int8 => some .int8
  | some .uint8 => some .uint8
  | some .int4 => some .int4
  | _ => none

/-- The formats that a field of kind MmaFmt may name. -/
def mmaFmt.ofCode (c : Nat) : Option Fmt :=
  match Fmt.ofCode c with
  | some .fp16 => some .fp16
  | some .bf16 => some .bf16
  | some .e4m3 => some .e4m3
  | some .e5m2 => some .e5m2
  | some .fb8 => some .fb8
  | some .fb6 => some .fb6
  | some .fb4 => some .fb4
  | some .int8 => some .int8
  | some .uint8 => some .uint8
  | some .int4 => some .int4
  | _ => none

/-- The formats that a field of kind MqntFmt may name. -/
def mqntFmt.ofCode (c : Nat) : Option Fmt :=
  match Fmt.ofCode c with
  | some .fp16 => some .fp16
  | some .bf16 => some .bf16
  | some .e4m3 => some .e4m3
  | some .e5m2 => some .e5m2
  | some .fb8 => some .fb8
  | some .fb6 => some .fb6
  | some .fb4 => some .fb4
  | some .int8 => some .int8
  | some .int4 => some .int4
  | _ => none

/-- The formats that a field of kind MdeqFmt may name. -/
def mdeqFmt.ofCode (c : Nat) : Option Fmt :=
  match Fmt.ofCode c with
  | some .fp16 => some .fp16
  | some .bf16 => some .bf16
  | some .int8 => some .int8
  | _ => none

/-- BRA (R258). -/
def decBra (w x : Nat) : Except DecodeError Instr :=
  .ok (.bra (opWord w) (BitVec.ofNat 32 (fieldOf x 0 32)))

/-- BRI (R258). -/
def decBri (w _x : Nat) : Except DecodeError Instr :=
  .ok (.bri (opWord w))

/-- CALLB (R259). -/
def decCallb (w x : Nat) : Except DecodeError Instr :=
  .ok (.callb (opWord w) (BitVec.ofNat 16 (fieldOf x 16 16)) (BitVec.ofNat 16 (fieldOf x 0 16)))

/-- RETB (R259). -/
def decRetb (w _x : Nat) : Except DecodeError Instr :=
  .ok (.retb (opWord w))

/-- SPAWN (R260). -/
def decSpawn (w x : Nat) : Except DecodeError Instr :=
  if fieldOf x 0 16 = 0 then
    .ok (.spawn (opWord w) (BitVec.ofNat 16 (fieldOf x 16 16)))
  else .error .nonZeroBits

/-- SRET (R261). -/
def decSret (w _x : Nat) : Except DecodeError Instr :=
  .ok (.sret (opWord w))

/-- TAGENTER (R262, width minus 1). -/
def decTagenter (w x : Nat) : Except DecodeError Instr :=
  if fieldOf x 5 27 = 0 then
    .ok (.tagenter (opWord w) (BitVec.ofNat 5 (fieldOf x 0 5)))
  else .error .nonZeroBits

/-- TAGLEAVE (R262). -/
def decTagleave (w _x : Nat) : Except DecodeError Instr :=
  .ok (.tagleave (opWord w))

/-- READ (R263). -/
def decRead (w x : Nat) : Except DecodeError Instr :=
  if fieldOf x 5 27 = 0 then
    .ok (.read (opWord w) (BitVec.ofNat 5 (fieldOf x 0 5)))
  else .error .nonZeroBits

/-- WRITE (R263). -/
def decWrite (w x : Nat) : Except DecodeError Instr :=
  if fieldOf x 5 27 = 0 then
    .ok (.write (opWord w) (BitVec.ofNat 5 (fieldOf x 0 5)))
  else .error .nonZeroBits

/-- PHASE (R265). -/
def decPhase (w _x : Nat) : Except DecodeError Instr :=
  .ok (.phase (opWord w))

/-- JOIN (R265). -/
def decJoin (w _x : Nat) : Except DecodeError Instr :=
  .ok (.join (opWord w))

/-- REP (R266). -/
def decRep (w x : Nat) : Except DecodeError Instr :=
  if fieldOf x 0 4 = 0 ∧ fieldOf x 16 16 = 0 then
    .ok (.rep (opWord w) (BitVec.ofNat 8 (fieldOf x 8 8)) (BitVec.ofNat 4 (fieldOf x 4 4)))
  else .error .nonZeroBits

/-- SHADV (R267). -/
def decShadv (w _x : Nat) : Except DecodeError Instr :=
  .ok (.shadv (opWord w))

/-- BOBINIT (R268, slots minus 1). -/
def decBobinit (w x : Nat) : Except DecodeError Instr :=
  if fieldOf x 4 12 = 0 ∧ fieldOf x 24 8 = 0 then
    .ok (.bobinit (opWord w) (BitVec.ofNat 8 (fieldOf x 16 8)) (BitVec.ofNat 4 (fieldOf x 0 4)))
  else .error .nonZeroBits

/-- BOBWAIT (R268). -/
def decBobwait (w x : Nat) : Except DecodeError Instr :=
  if fieldOf x 4 4 = 0 ∧ fieldOf x 16 16 = 0 then
    .ok (.bobwait (opWord w) (BitVec.ofNat 8 (fieldOf x 8 8)) (BitVec.ofNat 4 (fieldOf x 0 4)))
  else .error .nonZeroBits

/-- BOBREL (R268). -/
def decBobrel (w x : Nat) : Except DecodeError Instr :=
  if fieldOf x 4 4 = 0 ∧ fieldOf x 16 16 = 0 then
    .ok (.bobrel (opWord w) (BitVec.ofNat 8 (fieldOf x 8 8)) (BitVec.ofNat 4 (fieldOf x 0 4)))
  else .error .nonZeroBits

/-- SYSCALL (R269). -/
def decSyscall (w x : Nat) : Except DecodeError Instr :=
  if fieldOf x 16 16 = 0 then
    .ok (.syscall (opWord w) (BitVec.ofNat 16 (fieldOf x 0 16)))
  else .error .nonZeroBits

/-- BREAK (R269). -/
def decBrk (w x : Nat) : Except DecodeError Instr :=
  if fieldOf x 16 16 = 0 then
    .ok (.brk (opWord w) (BitVec.ofNat 16 (fieldOf x 0 16)))
  else .error .nonZeroBits

/-- TRAPIF (R269). -/
def decTrapif (w _x : Nat) : Except DecodeError Instr :=
  .ok (.trapif (opWord w))

/-- ERET (R270). -/
def decEret (w _x : Nat) : Except DecodeError Instr :=
  .ok (.eret (opWord w))

/-- ENDL (R271). -/
def decEndl (w _x : Nat) : Except DecodeError Instr :=
  .ok (.endl (opWord w))

/-- MFSR (R263, R264). -/
def decMfsr (w x : Nat) : Except DecodeError Instr :=
  if fieldOf x 16 16 = 0 then
    .ok (.mfsr (opWord w) (BitVec.ofNat 16 (fieldOf x 0 16)))
  else .error .nonZeroBits

/-- MTSR (R263, R264). -/
def decMtsr (w x : Nat) : Except DecodeError Instr :=
  if fieldOf x 16 16 = 0 then
    .ok (.mtsr (opWord w) (BitVec.ofNat 16 (fieldOf x 0 16)))
  else .error .nonZeroBits

/-- CONST (R280). -/
def decConst (w x : Nat) : Except DecodeError Instr :=
  .ok (.const (opWord w) (BitVec.ofNat 32 (fieldOf x 0 32)))

/-- MOV (R280). -/
def decMov (w _x : Nat) : Except DecodeError Instr :=
  .ok (.mov (opWord w))

/-- ADD (R276). -/
def decAdd (w _x : Nat) : Except DecodeError Instr :=
  match ITy.ofCode (fieldOf w 18 3) with
  | none => .error .reservedTy
  | some ty =>
    .ok (.add (opWord w) ty)

/-- SUB (R276). -/
def decSub (w _x : Nat) : Except DecodeError Instr :=
  match ITy.ofCode (fieldOf w 18 3) with
  | none => .error .reservedTy
  | some ty =>
    .ok (.sub (opWord w) ty)

/-- MUL (R276). -/
def decMul (w _x : Nat) : Except DecodeError Instr :=
  match ITy.ofCode (fieldOf w 18 3) with
  | none => .error .reservedTy
  | some ty =>
    .ok (.mul (opWord w) ty)

/-- MULH (R276). -/
def decMulh (w _x : Nat) : Except DecodeError Instr :=
  match ITy.ofCode (fieldOf w 18 3) with
  | none => .error .reservedTy
  | some ty =>
    .ok (.mulh (opWord w) ty)

/-- MAD (R277; AR 1 is the partner word of R236). -/
def decMad (w _x : Nat) : Except DecodeError Instr :=
  match ITy.ofCode (fieldOf w 18 3) with
  | none => .error .reservedTy
  | some ty =>
    .ok (.mad (opWord w) ty)

/-- DIV (R278). -/
def decDiv (w _x : Nat) : Except DecodeError Instr :=
  match I32Ty.ofCode (fieldOf w 18 3) with
  | none => .error .reservedTy
  | some ty =>
    .ok (.div (opWord w) ty)

/-- REM (R278). -/
def decRem (w _x : Nat) : Except DecodeError Instr :=
  match I32Ty.ofCode (fieldOf w 18 3) with
  | none => .error .reservedTy
  | some ty =>
    .ok (.rem (opWord w) ty)

/-- AND (R279). -/
def decAnd (w _x : Nat) : Except DecodeError Instr :=
  .ok (.and (opWord w))

/-- OR (R279). -/
def decOr (w _x : Nat) : Except DecodeError Instr :=
  .ok (.or (opWord w))

/-- XOR (R279). -/
def decXor (w _x : Nat) : Except DecodeError Instr :=
  .ok (.xor (opWord w))

/-- ANDN (R279). -/
def decAndn (w _x : Nat) : Except DecodeError Instr :=
  .ok (.andn (opWord w))

/-- SHL (R276). -/
def decShl (w _x : Nat) : Except DecodeError Instr :=
  match ITy.ofCode (fieldOf w 18 3) with
  | none => .error .reservedTy
  | some ty =>
    .ok (.shl (opWord w) ty)

/-- SHR (R276). -/
def decShr (w _x : Nat) : Except DecodeError Instr :=
  match ITy.ofCode (fieldOf w 18 3) with
  | none => .error .reservedTy
  | some ty =>
    .ok (.shr (opWord w) ty)

/-- SRA (R276). -/
def decSra (w _x : Nat) : Except DecodeError Instr :=
  match ITy.ofCode (fieldOf w 18 3) with
  | none => .error .reservedTy
  | some ty =>
    .ok (.sra (opWord w) ty)

/-- ROTL (R279). -/
def decRotl (w _x : Nat) : Except DecodeError Instr :=
  .ok (.rotl (opWord w))

/-- CLZ (R279). -/
def decClz (w _x : Nat) : Except DecodeError Instr :=
  .ok (.clz (opWord w))

/-- POPC (R279). -/
def decPopc (w _x : Nat) : Except DecodeError Instr :=
  .ok (.popc (opWord w))

/-- MIN (R276). -/
def decMin (w _x : Nat) : Except DecodeError Instr :=
  match ITy.ofCode (fieldOf w 18 3) with
  | none => .error .reservedTy
  | some ty =>
    .ok (.min (opWord w) ty)

/-- MAX (R276). -/
def decMax (w _x : Nat) : Except DecodeError Instr :=
  match ITy.ofCode (fieldOf w 18 3) with
  | none => .error .reservedTy
  | some ty =>
    .ok (.max (opWord w) ty)

/-- ABS (R276). -/
def decAbs (w _x : Nat) : Except DecodeError Instr :=
  match ITy.ofCode (fieldOf w 18 3) with
  | none => .error .reservedTy
  | some ty =>
    .ok (.abs (opWord w) ty)

/-- NEG (R276). -/
def decNeg (w _x : Nat) : Except DecodeError Instr :=
  match ITy.ofCode (fieldOf w 18 3) with
  | none => .error .reservedTy
  | some ty =>
    .ok (.neg (opWord w) ty)

/-- ADDSAT (R276). -/
def decAddsat (w _x : Nat) : Except DecodeError Instr :=
  match ITy.ofCode (fieldOf w 18 3) with
  | none => .error .reservedTy
  | some ty =>
    .ok (.addsat (opWord w) ty)

/-- SUBSAT (R276). -/
def decSubsat (w _x : Nat) : Except DecodeError Instr :=
  match ITy.ofCode (fieldOf w 18 3) with
  | none => .error .reservedTy
  | some ty =>
    .ok (.subsat (opWord w) ty)

/-- CMP (R281). -/
def decCmp (w _x : Nat) : Except DecodeError Instr :=
  match CondTy.ofCode (fieldOf w 18 3) with
  | none => .error .reservedTy
  | some ty =>
    .ok (.cmp (opWord w) ty)

/-- SEL (R282). -/
def decSel (w _x : Nat) : Except DecodeError Instr :=
  .ok (.sel (opWord w))

/-- TST (R281). -/
def decTst (w _x : Nat) : Except DecodeError Instr :=
  .ok (.tst (opWord w))

/-- EXTR (R283, length minus 1). -/
def decExtr (w x : Nat) : Except DecodeError Instr :=
  if fieldOf x 11 21 = 0 then
    .ok (.extr (opWord w) (BitVec.ofNat 1 (fieldOf x 10 1)) (BitVec.ofNat 5 (fieldOf x 5 5)) (BitVec.ofNat 5 (fieldOf x 0 5)))
  else .error .nonZeroBits

/-- INS (R283, length minus 1). -/
def decIns (w x : Nat) : Except DecodeError Instr :=
  if fieldOf x 10 22 = 0 then
    .ok (.ins (opWord w) (BitVec.ofNat 5 (fieldOf x 5 5)) (BitVec.ofNat 5 (fieldOf x 0 5)))
  else .error .nonZeroBits

/-- LEA (R283). -/
def decLea (w x : Nat) : Except DecodeError Instr :=
  if fieldOf x 3 29 = 0 then
    .ok (.lea (opWord w) (BitVec.ofNat 3 (fieldOf x 0 3)))
  else .error .nonZeroBits

/-- PACKN (R284). -/
def decPackn (w _x : Nat) : Except DecodeError Instr :=
  match ITy.ofCode (fieldOf w 18 3) with
  | none => .error .reservedTy
  | some ty =>
    .ok (.packn (opWord w) ty)

/-- UNPACKN (R284). -/
def decUnpackn (w x : Nat) : Except DecodeError Instr :=
  if fieldOf x 1 31 = 0 then
    match ITy.ofCode (fieldOf w 18 3) with
    | none => .error .reservedTy
    | some ty =>
      .ok (.unpackn (opWord w) ty (BitVec.ofNat 1 (fieldOf x 0 1)))
  else .error .nonZeroBits

/-- UNT5 (R285). -/
def decUnt5 (w _x : Nat) : Except DecodeError Instr :=
  match UntTy.ofCode (fieldOf w 18 3) with
  | none => .error .reservedTy
  | some ty =>
    .ok (.unt5 (opWord w) ty)

/-- ACCT (R286). -/
def decAcct (w _x : Nat) : Except DecodeError Instr :=
  match I8Ty.ofCode (fieldOf w 18 3) with
  | none => .error .reservedTy
  | some ty =>
    .ok (.acct (opWord w) ty)

/-- DOTP (R286). -/
def decDotp (w _x : Nat) : Except DecodeError Instr :=
  match ITy.ofCode (fieldOf w 18 3) with
  | none => .error .reservedTy
  | some ty =>
    .ok (.dotp (opWord w) ty)

/-- FADD (R287). -/
def decFadd (w _x : Nat) : Except DecodeError Instr :=
  match FTy.ofCode (fieldOf w 18 3) with
  | none => .error .reservedTy
  | some ty =>
    .ok (.fadd (opWord w) ty)

/-- FADD_ROUNDING (R287, R212). -/
def decFaddRounding (w x : Nat) : Except DecodeError Instr :=
  if fieldOf x 2 30 = 0 then
    match FTy.ofCode (fieldOf w 18 2) with
    | none => .error .reservedTy
    | some ty =>
      match Rm.ofCode (fieldOf x 0 2) with
      | none => .error .reservedField
      | some rm =>
        .ok (.faddRounding (opWord w) ty rm)
  else .error .nonZeroBits

/-- FSUB (R287). -/
def decFsub (w _x : Nat) : Except DecodeError Instr :=
  match FTy.ofCode (fieldOf w 18 3) with
  | none => .error .reservedTy
  | some ty =>
    .ok (.fsub (opWord w) ty)

/-- FSUB_ROUNDING (R287, R212). -/
def decFsubRounding (w x : Nat) : Except DecodeError Instr :=
  if fieldOf x 2 30 = 0 then
    match FTy.ofCode (fieldOf w 18 2) with
    | none => .error .reservedTy
    | some ty =>
      match Rm.ofCode (fieldOf x 0 2) with
      | none => .error .reservedField
      | some rm =>
        .ok (.fsubRounding (opWord w) ty rm)
  else .error .nonZeroBits

/-- FMUL (R287). -/
def decFmul (w _x : Nat) : Except DecodeError Instr :=
  match FTy.ofCode (fieldOf w 18 3) with
  | none => .error .reservedTy
  | some ty =>
    .ok (.fmul (opWord w) ty)

/-- FMUL_ROUNDING (R287, R212). -/
def decFmulRounding (w x : Nat) : Except DecodeError Instr :=
  if fieldOf x 2 30 = 0 then
    match FTy.ofCode (fieldOf w 18 2) with
    | none => .error .reservedTy
    | some ty =>
      match Rm.ofCode (fieldOf x 0 2) with
      | none => .error .reservedField
      | some rm =>
        .ok (.fmulRounding (opWord w) ty rm)
  else .error .nonZeroBits

/-- FMA (R287; AR 1 is the partner word of R236). -/
def decFma (w _x : Nat) : Except DecodeError Instr :=
  match FTy.ofCode (fieldOf w 18 3) with
  | none => .error .reservedTy
  | some ty =>
    .ok (.fma (opWord w) ty)

/-- FMA_ROUNDING (R287, R212). -/
def decFmaRounding (w x : Nat) : Except DecodeError Instr :=
  if fieldOf x 2 30 = 0 then
    match FTy.ofCode (fieldOf w 18 2) with
    | none => .error .reservedTy
    | some ty =>
      match Rm.ofCode (fieldOf x 0 2) with
      | none => .error .reservedField
      | some rm =>
        .ok (.fmaRounding (opWord w) ty rm)
  else .error .nonZeroBits

/-- FMIN (R288). -/
def decFmin (w _x : Nat) : Except DecodeError Instr :=
  match FTy.ofCode (fieldOf w 18 3) with
  | none => .error .reservedTy
  | some ty =>
    .ok (.fmin (opWord w) ty)

/-- FMAX (R288). -/
def decFmax (w _x : Nat) : Except DecodeError Instr :=
  match FTy.ofCode (fieldOf w 18 3) with
  | none => .error .reservedTy
  | some ty =>
    .ok (.fmax (opWord w) ty)

/-- FSGN (R288). -/
def decFsgn (w x : Nat) : Except DecodeError Instr :=
  if fieldOf x 2 30 = 0 then
    match FTy.ofCode (fieldOf w 18 3) with
    | none => .error .reservedTy
    | some ty =>
      match FsgnMode.ofCode (fieldOf x 0 2) with
      | none => .error .reservedField
      | some mode =>
        .ok (.fsgn (opWord w) ty mode)
  else .error .nonZeroBits

/-- FCMP (R289). -/
def decFcmp (w x : Nat) : Except DecodeError Instr :=
  if fieldOf x 3 29 = 0 then
    match FTy.ofCode (fieldOf w 18 3) with
    | none => .error .reservedTy
    | some ty =>
      match FcmpCond.ofCode (fieldOf x 0 3) with
      | none => .error .reservedField
      | some cond =>
        .ok (.fcmp (opWord w) ty cond)
  else .error .nonZeroBits

/-- FCLASS (R288). -/
def decFclass (w _x : Nat) : Except DecodeError Instr :=
  match FTy.ofCode (fieldOf w 18 3) with
  | none => .error .reservedTy
  | some ty =>
    .ok (.fclass (opWord w) ty)

/-- FCVT (R290). -/
def decFcvt (w x : Nat) : Except DecodeError Instr :=
  if fieldOf x 13 19 = 0 then
    match Rm.ofCode (fieldOf x 8 2) with
    | none => .error .reservedField
    | some rm =>
      match cvtFmt.ofCode (fieldOf x 4 4) with
      | none => .error .reservedField
      | some src =>
        match cvtFmt.ofCode (fieldOf x 0 4) with
        | none => .error .reservedField
        | some dst =>
          .ok (.fcvt (opWord w) (BitVec.ofNat 3 (fieldOf x 10 3)) rm src dst)
  else .error .nonZeroBits

/-- FRINT (R291). -/
def decFrint (w x : Nat) : Except DecodeError Instr :=
  if fieldOf x 2 30 = 0 then
    match FTy.ofCode (fieldOf w 18 3) with
    | none => .error .reservedTy
    | some ty =>
      match Rm.ofCode (fieldOf x 0 2) with
      | none => .error .reservedField
      | some rm =>
        .ok (.frint (opWord w) ty rm)
  else .error .nonZeroBits

/-- FEXPI (R292). -/
def decFexpi (w _x : Nat) : Except DecodeError Instr :=
  match FTy.ofCode (fieldOf w 18 3) with
  | none => .error .reservedTy
  | some ty =>
    .ok (.fexpi (opWord w) ty)

/-- FEXPI_ROUNDING (R292, R212). -/
def decFexpiRounding (w x : Nat) : Except DecodeError Instr :=
  if fieldOf x 2 30 = 0 then
    match FTy.ofCode (fieldOf w 18 2) with
    | none => .error .reservedTy
    | some ty =>
      match Rm.ofCode (fieldOf x 0 2) with
      | none => .error .reservedField
      | some rm =>
        .ok (.fexpiRounding (opWord w) ty rm)
  else .error .nonZeroBits

/-- FGETX (R292). -/
def decFgetx (w _x : Nat) : Except DecodeError Instr :=
  match FTy.ofCode (fieldOf w 18 3) with
  | none => .error .reservedTy
  | some ty =>
    .ok (.fgetx (opWord w) ty)

/-- FDIV (R287). -/
def decFdiv (w _x : Nat) : Except DecodeError Instr :=
  match FTy.ofCode (fieldOf w 18 3) with
  | none => .error .reservedTy
  | some ty =>
    .ok (.fdiv (opWord w) ty)

/-- FDIV_ROUNDING (R287, R212). -/
def decFdivRounding (w x : Nat) : Except DecodeError Instr :=
  if fieldOf x 2 30 = 0 then
    match FTy.ofCode (fieldOf w 18 2) with
    | none => .error .reservedTy
    | some ty =>
      match Rm.ofCode (fieldOf x 0 2) with
      | none => .error .reservedField
      | some rm =>
        .ok (.fdivRounding (opWord w) ty rm)
  else .error .nonZeroBits

/-- FSQRT (R287). -/
def decFsqrt (w _x : Nat) : Except DecodeError Instr :=
  match FTy.ofCode (fieldOf w 18 3) with
  | none => .error .reservedTy
  | some ty =>
    .ok (.fsqrt (opWord w) ty)

/-- FSQRT_ROUNDING (R287, R212). -/
def decFsqrtRounding (w x : Nat) : Except DecodeError Instr :=
  if fieldOf x 2 30 = 0 then
    match FTy.ofCode (fieldOf w 18 2) with
    | none => .error .reservedTy
    | some ty =>
      match Rm.ofCode (fieldOf x 0 2) with
      | none => .error .reservedField
      | some rm =>
        .ok (.fsqrtRounding (opWord w) ty rm)
  else .error .nonZeroBits

/-- FRCP (R293). -/
def decFrcp (w _x : Nat) : Except DecodeError Instr :=
  .ok (.frcp (opWord w))

/-- FRSQ (R293). -/
def decFrsq (w _x : Nat) : Except DecodeError Instr :=
  .ok (.frsq (opWord w))

/-- FRCPS (R294). -/
def decFrcps (w _x : Nat) : Except DecodeError Instr :=
  .ok (.frcps (opWord w))

/-- FRSQS (R294). -/
def decFrsqs (w _x : Nat) : Except DecodeError Instr :=
  .ok (.frsqs (opWord w))

/-- FEXP2F (R293). -/
def decFexp2f (w _x : Nat) : Except DecodeError Instr :=
  .ok (.fexp2f (opWord w))

/-- FLOG2F (R293). -/
def decFlog2f (w _x : Nat) : Except DecodeError Instr :=
  .ok (.flog2f (opWord w))

/-- VRUN (R296, count minus 1). -/
def decVrun (w x : Nat) : Except DecodeError Instr :=
  if fieldOf x 10 22 = 0 then
    .ok (.vrun (opWord w) (BitVec.ofNat 5 (fieldOf x 5 5)) (BitVec.ofNat 5 (fieldOf x 0 5)))
  else .error .nonZeroBits

/-- VRED (R297). -/
def decVred (w _x : Nat) : Except DecodeError Instr :=
  match VOp.ofCode (fieldOf w 18 3) with
  | none => .error .reservedTy
  | some ty =>
    .ok (.vred (opWord w) ty)

/-- VSCAN (R297). -/
def decVscan (w _x : Nat) : Except DecodeError Instr :=
  match VOp.ofCode (fieldOf w 18 3) with
  | none => .error .reservedTy
  | some ty =>
    .ok (.vscan (opWord w) ty)

/-- VBCAST (R298). -/
def decVbcast (w x : Nat) : Except DecodeError Instr :=
  if fieldOf x 5 27 = 0 then
    .ok (.vbcast (opWord w) (BitVec.ofNat 5 (fieldOf x 0 5)))
  else .error .nonZeroBits

/-- VLANE (R298). -/
def decVlane (w x : Nat) : Except DecodeError Instr :=
  if fieldOf x 7 25 = 0 then
    match VlaneMode.ofCode (fieldOf x 5 2) with
    | none => .error .reservedField
    | some mode =>
      .ok (.vlane (opWord w) mode (BitVec.ofNat 5 (fieldOf x 0 5)))
  else .error .nonZeroBits

/-- VSHUF (R298). -/
def decVshuf (w _x : Nat) : Except DecodeError Instr :=
  .ok (.vshuf (opWord w))

/-- VIOTA (R296). -/
def decViota (w x : Nat) : Except DecodeError Instr :=
  .ok (.viota (opWord w) (BitVec.ofNat 32 (fieldOf x 0 32)))

/-- LD (R302). -/
def decLd (w _x : Nat) : Except DecodeError Instr :=
  match LdTy.ofCode (fieldOf w 18 3) with
  | none => .error .reservedTy
  | some ty =>
    .ok (.ld (opWord w) ty)

/-- ST (R302). -/
def decSt (w _x : Nat) : Except DecodeError Instr :=
  match StTy.ofCode (fieldOf w 18 3) with
  | none => .error .reservedTy
  | some ty =>
    .ok (.st (opWord w) ty)

/-- LDV (R303). -/
def decLdv (w x : Nat) : Except DecodeError Instr :=
  if fieldOf x 27 5 = 0 then
    .ok (.ldv (opWord w) (BitVec.ofNat 3 (fieldOf x 24 3)) (BitVec.ofNat 24 (fieldOf x 0 24)))
  else .error .nonZeroBits

/-- STV (R303). -/
def decStv (w x : Nat) : Except DecodeError Instr :=
  if fieldOf x 24 8 = 0 then
    .ok (.stv (opWord w) (BitVec.ofNat 24 (fieldOf x 0 24)))
  else .error .nonZeroBits

/-- ATOM (R304). -/
def decAtom (w x : Nat) : Except DecodeError Instr :=
  if fieldOf x 17 6 = 0 then
    match AtomOp.ofCode (fieldOf x 28 4) with
    | none => .error .reservedField
    | some opc =>
      match MemOrd.ofCode (fieldOf x 26 2) with
      | none => .error .reservedField
      | some ord =>
        .ok (.atom (opWord w) opc ord (BitVec.ofNat 3 (fieldOf x 23 3)) (BitVec.ofNat 1 (fieldOf x 16 1)) (BitVec.ofNat 16 (fieldOf x 0 16)))
  else .error .nonZeroBits

/-- CAS (R305; AR 1 is the partner word of R236, which carries no extension word). -/
def decCas (w x : Nat) : Except DecodeError Instr :=
  if fieldOf x 17 6 = 0 ∧ fieldOf x 28 4 = 0 then
    match MemOrd.ofCode (fieldOf x 26 2) with
    | none => .error .reservedField
    | some ord =>
      .ok (.cas (opWord w) ord (BitVec.ofNat 3 (fieldOf x 23 3)) (BitVec.ofNat 1 (fieldOf x 16 1)) (BitVec.ofNat 16 (fieldOf x 0 16)))
  else .error .nonZeroBits

/-- LDLK (R307). -/
def decLdlk (w _x : Nat) : Except DecodeError Instr :=
  .ok (.ldlk (opWord w))

/-- STUL (R307). -/
def decStul (w _x : Nat) : Except DecodeError Instr :=
  .ok (.stul (opWord w))

/-- FENCE (R308). -/
def decFence (w x : Nat) : Except DecodeError Instr :=
  if fieldOf x 5 27 = 0 then
    match FenceKind.ofCode (fieldOf x 3 2) with
    | none => .error .reservedField
    | some kind =>
      .ok (.fence (opWord w) kind (BitVec.ofNat 3 (fieldOf x 0 3)))
  else .error .nonZeroBits

/-- PREF (R309). -/
def decPref (w _x : Nat) : Except DecodeError Instr :=
  .ok (.pref (opWord w))

/-- TSTATE_FILL (R310). -/
def decTstateFill (w _x : Nat) : Except DecodeError Instr :=
  .ok (.tstateFill (opWord w))

/-- TSTATE_PUBLISH (R310). -/
def decTstatePublish (w _x : Nat) : Except DecodeError Instr :=
  .ok (.tstatePublish (opWord w))

/-- TSTATE_DRAIN (R310). -/
def decTstateDrain (w _x : Nat) : Except DecodeError Instr :=
  .ok (.tstateDrain (opWord w))

/-- TSTATE_RELEASE (R310). -/
def decTstateRelease (w _x : Nat) : Except DecodeError Instr :=
  .ok (.tstateRelease (opWord w))

/-- TWAIT (R311). -/
def decTwait (w _x : Nat) : Except DecodeError Instr :=
  .ok (.twait (opWord w))

/-- SOPEN (R312). -/
def decSopen (w x : Nat) : Except DecodeError Instr :=
  if fieldOf x 4 28 = 0 then
    .ok (.sopen (opWord w) (BitVec.ofNat 4 (fieldOf x 0 4)))
  else .error .nonZeroBits

/-- SCLOSE (R313). -/
def decSclose (w x : Nat) : Except DecodeError Instr :=
  if fieldOf x 4 28 = 0 then
    .ok (.sclose (opWord w) (BitVec.ofNat 4 (fieldOf x 0 4)))
  else .error .nonZeroBits

/-- GROWS (R314). -/
def decGrows (w x : Nat) : Except DecodeError Instr :=
  .ok (.grows (opWord w) (BitVec.ofNat 8 (fieldOf x 24 8)) (BitVec.ofNat 12 (fieldOf x 12 12)) (BitVec.ofNat 12 (fieldOf x 0 12)))

/-- SCAT (R314). -/
def decScat (w x : Nat) : Except DecodeError Instr :=
  .ok (.scat (opWord w) (BitVec.ofNat 8 (fieldOf x 24 8)) (BitVec.ofNat 12 (fieldOf x 12 12)) (BitVec.ofNat 12 (fieldOf x 0 12)))

/-- CWALK (R315, count minus 1). -/
def decCwalk (w x : Nat) : Except DecodeError Instr :=
  if fieldOf x 10 22 = 0 then
    .ok (.cwalk (opWord w) (BitVec.ofNat 5 (fieldOf x 5 5)) (BitVec.ofNat 5 (fieldOf x 0 5)))
  else .error .nonZeroBits

/-- STLD (R317). -/
def decStld (w x : Nat) : Except DecodeError Instr :=
  if fieldOf x 3 29 = 0 then
    .ok (.stld (opWord w) (BitVec.ofNat 3 (fieldOf x 0 3)))
  else .error .nonZeroBits

/-- SISECT (R317, count minus 1). -/
def decSisect (w x : Nat) : Except DecodeError Instr :=
  if fieldOf x 6 3 = 0 ∧ fieldOf x 14 18 = 0 then
    .ok (.sisect (opWord w) (BitVec.ofNat 5 (fieldOf x 9 5)) (BitVec.ofNat 3 (fieldOf x 3 3)) (BitVec.ofNat 3 (fieldOf x 0 3)))
  else .error .nonZeroBits

/-- SUNION (R317, count minus 1). -/
def decSunion (w x : Nat) : Except DecodeError Instr :=
  if fieldOf x 6 3 = 0 ∧ fieldOf x 14 18 = 0 then
    .ok (.sunion (opWord w) (BitVec.ofNat 5 (fieldOf x 9 5)) (BitVec.ofNat 3 (fieldOf x 3 3)) (BitVec.ofNat 3 (fieldOf x 0 3)))
  else .error .nonZeroBits

/-- SDIFF (R317, count minus 1). -/
def decSdiff (w x : Nat) : Except DecodeError Instr :=
  if fieldOf x 6 3 = 0 ∧ fieldOf x 14 18 = 0 then
    .ok (.sdiff (opWord w) (BitVec.ofNat 5 (fieldOf x 9 5)) (BitVec.ofNat 3 (fieldOf x 3 3)) (BitVec.ofNat 3 (fieldOf x 0 3)))
  else .error .nonZeroBits

/-- SMADD (R317, count minus 1). -/
def decSmadd (w x : Nat) : Except DecodeError Instr :=
  if fieldOf x 6 3 = 0 ∧ fieldOf x 15 17 = 0 then
    .ok (.smadd (opWord w) (BitVec.ofNat 1 (fieldOf x 14 1)) (BitVec.ofNat 5 (fieldOf x 9 5)) (BitVec.ofNat 3 (fieldOf x 3 3)) (BitVec.ofNat 3 (fieldOf x 0 3)))
  else .error .nonZeroBits

/-- SNEXT (R317, count minus 1). -/
def decSnext (w x : Nat) : Except DecodeError Instr :=
  if fieldOf x 3 6 = 0 ∧ fieldOf x 14 18 = 0 then
    .ok (.snext (opWord w) (BitVec.ofNat 5 (fieldOf x 9 5)) (BitVec.ofNat 3 (fieldOf x 0 3)))
  else .error .nonZeroBits

/-- STST (R317). -/
def decStst (w x : Nat) : Except DecodeError Instr :=
  if fieldOf x 3 29 = 0 then
    .ok (.stst (opWord w) (BitVec.ofNat 3 (fieldOf x 0 3)))
  else .error .nonZeroBits

/-- CRED (R318). -/
def decCred (w x : Nat) : Except DecodeError Instr :=
  if fieldOf x 0 20 = 0 then
    match CredOp.ofCode (fieldOf x 28 4) with
    | none => .error .reservedField
    | some op =>
      match credFmt.ofCode (fieldOf x 24 4) with
      | none => .error .reservedField
      | some fmt =>
        .ok (.cred (opWord w) op fmt (BitVec.ofNat 1 (fieldOf x 23 1)) (BitVec.ofNat 3 (fieldOf x 20 3)))
  else .error .nonZeroBits

/-- CBC (R318). -/
def decCbc (w x : Nat) : Except DecodeError Instr :=
  if fieldOf x 0 8 = 0 ∧ fieldOf x 23 9 = 0 then
    .ok (.cbc (opWord w) (BitVec.ofNat 3 (fieldOf x 20 3)) (BitVec.ofNat 12 (fieldOf x 8 12)))
  else .error .nonZeroBits

/-- CAG (R318). -/
def decCag (w x : Nat) : Except DecodeError Instr :=
  if fieldOf x 0 20 = 0 ∧ fieldOf x 23 9 = 0 then
    .ok (.cag (opWord w) (BitVec.ofNat 3 (fieldOf x 20 3)))
  else .error .nonZeroBits

/-- CA2A (R318). -/
def decCa2a (w x : Nat) : Except DecodeError Instr :=
  if fieldOf x 0 20 = 0 ∧ fieldOf x 23 9 = 0 then
    .ok (.ca2a (opWord w) (BitVec.ofNat 3 (fieldOf x 20 3)))
  else .error .nonZeroBits

/-- MLD (R335). -/
def decMld (w x : Nat) : Except DecodeError Instr :=
  if fieldOf x 0 7 = 0 then
    match Fmt.ofCode (fieldOf x 28 4) with
    | none => .error .reservedField
    | some fmt =>
      match MKind.ofCode (fieldOf x 7 2) with
      | none => .error .reservedField
      | some kind =>
        .ok (.mld (opWord w) fmt (BitVec.ofNat 4 (fieldOf x 24 4)) (BitVec.ofNat 8 (fieldOf x 16 8)) (BitVec.ofNat 1 (fieldOf x 15 1)) (BitVec.ofNat 4 (fieldOf x 11 4)) (BitVec.ofNat 1 (fieldOf x 10 1)) (BitVec.ofNat 1 (fieldOf x 9 1)) kind)
  else .error .nonZeroBits

/-- MST (R335). -/
def decMst (w x : Nat) : Except DecodeError Instr :=
  if fieldOf x 0 7 = 0 then
    match Fmt.ofCode (fieldOf x 28 4) with
    | none => .error .reservedField
    | some fmt =>
      match MKind.ofCode (fieldOf x 7 2) with
      | none => .error .reservedField
      | some kind =>
        .ok (.mst (opWord w) fmt (BitVec.ofNat 4 (fieldOf x 24 4)) (BitVec.ofNat 8 (fieldOf x 16 8)) (BitVec.ofNat 1 (fieldOf x 15 1)) (BitVec.ofNat 4 (fieldOf x 11 4)) (BitVec.ofNat 1 (fieldOf x 10 1)) (BitVec.ofNat 1 (fieldOf x 9 1)) kind)
  else .error .nonZeroBits

/-- MZERO (R337). -/
def decMzero (w x : Nat) : Except DecodeError Instr :=
  if fieldOf x 0 23 = 0 ∧ fieldOf x 28 4 = 0 then
    .ok (.mzero (opWord w) (BitVec.ofNat 3 (fieldOf x 25 3)) (BitVec.ofNat 1 (fieldOf x 24 1)) (BitVec.ofNat 1 (fieldOf x 23 1)))
  else .error .nonZeroBits

/-- MMA (R338). -/
def decMma (w x : Nat) : Except DecodeError Instr :=
  if fieldOf x 0 17 = 0 then
    match mmaFmt.ofCode (fieldOf x 28 4) with
    | none => .error .reservedField
    | some fmt =>
      .ok (.mma (opWord w) fmt (BitVec.ofNat 3 (fieldOf x 25 3)) (BitVec.ofNat 4 (fieldOf x 21 4)) (BitVec.ofNat 4 (fieldOf x 17 4)))
  else .error .nonZeroBits

/-- MMSP (R339). -/
def decMmsp (w x : Nat) : Except DecodeError Instr :=
  if fieldOf x 0 13 = 0 then
    match mmaFmt.ofCode (fieldOf x 28 4) with
    | none => .error .reservedField
    | some fmt =>
      .ok (.mmsp (opWord w) fmt (BitVec.ofNat 3 (fieldOf x 25 3)) (BitVec.ofNat 4 (fieldOf x 21 4)) (BitVec.ofNat 4 (fieldOf x 17 4)) (BitVec.ofNat 3 (fieldOf x 14 3)) (BitVec.ofNat 1 (fieldOf x 13 1)))
  else .error .nonZeroBits

/-- MCOMP (R340). -/
def decMcomp (w x : Nat) : Except DecodeError Instr :=
  if fieldOf x 0 13 = 0 then
    match mmaFmt.ofCode (fieldOf x 28 4) with
    | none => .error .reservedField
    | some fmt =>
      .ok (.mcomp (opWord w) fmt (BitVec.ofNat 4 (fieldOf x 24 4)) (BitVec.ofNat 4 (fieldOf x 20 4)) (BitVec.ofNat 3 (fieldOf x 17 3)) (BitVec.ofNat 1 (fieldOf x 16 1)) (BitVec.ofNat 3 (fieldOf x 13 3)))
  else .error .nonZeroBits

/-- MQNT (R341). -/
def decMqnt (w x : Nat) : Except DecodeError Instr :=
  if fieldOf x 0 17 = 0 then
    match mqntFmt.ofCode (fieldOf x 28 4) with
    | none => .error .reservedField
    | some fmt =>
      .ok (.mqnt (opWord w) fmt (BitVec.ofNat 3 (fieldOf x 25 3)) (BitVec.ofNat 4 (fieldOf x 21 4)) (BitVec.ofNat 3 (fieldOf x 18 3)) (BitVec.ofNat 1 (fieldOf x 17 1)))
  else .error .nonZeroBits

/-- MDEQ (R342). -/
def decMdeq (w x : Nat) : Except DecodeError Instr :=
  if fieldOf x 0 15 = 0 then
    match mdeqFmt.ofCode (fieldOf x 28 4) with
    | none => .error .reservedField
    | some df =>
      match Fmt.ofCode (fieldOf x 24 4) with
      | none => .error .reservedField
      | some sf =>
        .ok (.mdeq (opWord w) df sf (BitVec.ofNat 4 (fieldOf x 20 4)) (BitVec.ofNat 4 (fieldOf x 16 4)) (BitVec.ofNat 1 (fieldOf x 15 1)))
  else .error .nonZeroBits

/-- MTRN (R343). -/
def decMtrn (w x : Nat) : Except DecodeError Instr :=
  if fieldOf x 0 14 = 0 then
    .ok (.mtrn (opWord w) (BitVec.ofNat 4 (fieldOf x 18 4)) (BitVec.ofNat 4 (fieldOf x 14 4)))
  else .error .nonZeroBits

/-- MACCR (R344). -/
def decMaccr (w x : Nat) : Except DecodeError Instr :=
  if fieldOf x 0 11 = 0 then
    .ok (.maccr (opWord w) (BitVec.ofNat 3 (fieldOf x 19 3)) (BitVec.ofNat 6 (fieldOf x 13 6)) (BitVec.ofNat 1 (fieldOf x 12 1)) (BitVec.ofNat 1 (fieldOf x 11 1)))
  else .error .nonZeroBits

/-- MCOR (R346, count minus 1). -/
def decMcor (w x : Nat) : Except DecodeError Instr :=
  if fieldOf x 0 1 = 0 then
    .ok (.mcor (opWord w) (BitVec.ofNat 3 (fieldOf x 19 3)) (BitVec.ofNat 4 (fieldOf x 15 4)) (BitVec.ofNat 4 (fieldOf x 11 4)) (BitVec.ofNat 2 (fieldOf x 9 2)) (BitVec.ofNat 2 (fieldOf x 7 2)) (BitVec.ofNat 5 (fieldOf x 2 5)) (BitVec.ofNat 1 (fieldOf x 1 1)))
  else .error .nonZeroBits

/-- MTRI (R347, size minus 1). -/
def decMtri (w x : Nat) : Except DecodeError Instr :=
  if fieldOf x 0 7 = 0 then
    .ok (.mtri (opWord w) (BitVec.ofNat 3 (fieldOf x 19 3)) (BitVec.ofNat 4 (fieldOf x 15 4)) (BitVec.ofNat 2 (fieldOf x 13 2)) (BitVec.ofNat 6 (fieldOf x 7 6)))
  else .error .nonZeroBits

/-- MWY (R348, size minus 1). -/
def decMwy (w x : Nat) : Except DecodeError Instr :=
  .ok (.mwy (opWord w) (BitVec.ofNat 3 (fieldOf x 19 3)) (BitVec.ofNat 3 (fieldOf x 16 3)) (BitVec.ofNat 4 (fieldOf x 12 4)) (BitVec.ofNat 4 (fieldOf x 8 4)) (BitVec.ofNat 2 (fieldOf x 6 2)) (BitVec.ofNat 6 (fieldOf x 0 6)))

/-- MSTEP (R345). -/
def decMstep (w x : Nat) : Except DecodeError Instr :=
  if fieldOf x 0 19 = 0 then
    .ok (.mstep (opWord w) (BitVec.ofNat 2 (fieldOf x 20 2)) (BitVec.ofNat 1 (fieldOf x 19 1)))
  else .error .nonZeroBits

/-- MGRD (R345). -/
def decMgrd (w x : Nat) : Except DecodeError Instr :=
  if fieldOf x 0 20 = 0 then
    .ok (.mgrd (opWord w) (BitVec.ofNat 2 (fieldOf x 20 2)))
  else .error .nonZeroBits

/-- PTSET (R350). -/
def decPtset (w x : Nat) : Except DecodeError Instr :=
  if fieldOf x 0 17 = 0 then
    .ok (.ptset (opWord w) (BitVec.ofNat 4 (fieldOf x 18 4)) (BitVec.ofNat 1 (fieldOf x 17 1)))
  else .error .nonZeroBits

/-- PTOP (R350). -/
def decPtop (w x : Nat) : Except DecodeError Instr :=
  if fieldOf x 0 8 = 0 then
    match PtOp.ofCode (fieldOf x 8 2) with
    | none => .error .reservedField
    | some op =>
      .ok (.ptop (opWord w) (BitVec.ofNat 4 (fieldOf x 18 4)) (BitVec.ofNat 4 (fieldOf x 14 4)) (BitVec.ofNat 4 (fieldOf x 10 4)) op)
  else .error .nonZeroBits

/-- PLY (R351). -/
def decPly (w x : Nat) : Except DecodeError Instr :=
  if fieldOf x 0 5 = 0 then
    .ok (.ply (opWord w) (BitVec.ofNat 3 (fieldOf x 19 3)) (BitVec.ofNat 4 (fieldOf x 15 4)) (BitVec.ofNat 4 (fieldOf x 11 4)) (BitVec.ofNat 4 (fieldOf x 7 4)) (BitVec.ofNat 1 (fieldOf x 6 1)) (BitVec.ofNat 1 (fieldOf x 5 1)))
  else .error .nonZeroBits

/-- PLYC (R352). -/
def decPlyc (w x : Nat) : Except DecodeError Instr :=
  if fieldOf x 0 16 = 0 then
    .ok (.plyc (opWord w) (BitVec.ofNat 3 (fieldOf x 19 3)) (BitVec.ofNat 3 (fieldOf x 16 3)))
  else .error .nonZeroBits

/-- PLYF (R352). -/
def decPlyf (w x : Nat) : Except DecodeError Instr :=
  if fieldOf x 0 19 = 0 then
    .ok (.plyf (opWord w) (BitVec.ofNat 3 (fieldOf x 19 3)))
  else .error .nonZeroBits

/-- WARP (R353). -/
def decWarp (w x : Nat) : Except DecodeError Instr :=
  if fieldOf x 0 22 = 0 then
    .ok (.warp (opWord w))
  else .error .nonZeroBits

/-- REEL (R354). -/
def decReel (w x : Nat) : Except DecodeError Instr :=
  if fieldOf x 0 21 = 0 then
    .ok (.reel (opWord w) (BitVec.ofNat 1 (fieldOf x 21 1)))
  else .error .nonZeroBits

/-- CAMLD (R364). -/
def decCamld (w x : Nat) : Except DecodeError Instr :=
  if fieldOf x 3 29 = 0 then
    .ok (.camld (opWord w) (BitVec.ofNat 3 (fieldOf x 0 3)))
  else .error .nonZeroBits

/-- CAMST (R364). -/
def decCamst (w x : Nat) : Except DecodeError Instr :=
  if fieldOf x 3 29 = 0 then
    .ok (.camst (opWord w) (BitVec.ofNat 3 (fieldOf x 0 3)))
  else .error .nonZeroBits

/-- CAMCOMP (R365). -/
def decCamcomp (w x : Nat) : Except DecodeError Instr :=
  if fieldOf x 6 26 = 0 then
    .ok (.camcomp (opWord w) (BitVec.ofNat 3 (fieldOf x 3 3)) (BitVec.ofNat 3 (fieldOf x 0 3)))
  else .error .nonZeroBits

/-- PGATH (R366, R367). -/
def decPgath (w x : Nat) : Except DecodeError Instr :=
  if fieldOf x 0 7 = 0 then
    match PSel.ofCode (fieldOf x 7 2) with
    | none => .error .reservedField
    | some psel =>
      .ok (.pgath (opWord w) (BitVec.ofNat 3 (fieldOf x 29 3)) (BitVec.ofNat 8 (fieldOf x 21 8)) (BitVec.ofNat 12 (fieldOf x 9 12)) psel)
  else .error .nonZeroBits

/-- PMARCH (R366, R367). -/
def decPmarch (w x : Nat) : Except DecodeError Instr :=
  if fieldOf x 0 7 = 0 then
    match PSel.ofCode (fieldOf x 7 2) with
    | none => .error .reservedField
    | some psel =>
      .ok (.pmarch (opWord w) (BitVec.ofNat 3 (fieldOf x 29 3)) (BitVec.ofNat 8 (fieldOf x 21 8)) (BitVec.ofNat 12 (fieldOf x 9 12)) psel)
  else .error .nonZeroBits

/-- PSCAT (R368). -/
def decPscat (w x : Nat) : Except DecodeError Instr :=
  if fieldOf x 0 9 = 0 then
    .ok (.pscat (opWord w) (BitVec.ofNat 3 (fieldOf x 29 3)) (BitVec.ofNat 8 (fieldOf x 21 8)) (BitVec.ofNat 12 (fieldOf x 9 12)))
  else .error .nonZeroBits

/-- PSTEP (R369). -/
def decPstep (w x : Nat) : Except DecodeError Instr :=
  if fieldOf x 6 26 = 0 then
    .ok (.pstep (opWord w) (BitVec.ofNat 6 (fieldOf x 0 6)))
  else .error .nonZeroBits

/-- PSTAT (R370). -/
def decPstat (w x : Nat) : Except DecodeError Instr :=
  if fieldOf x 3 1 = 0 ∧ fieldOf x 8 24 = 0 then
    match PWhich.ofCode (fieldOf x 4 3) with
    | none => .error .reservedField
    | some which =>
      .ok (.pstat (opWord w) (BitVec.ofNat 1 (fieldOf x 7 1)) which (BitVec.ofNat 3 (fieldOf x 0 3)))
  else .error .nonZeroBits

/-- SKBIND (R384). -/
def decSkbind (w x : Nat) : Except DecodeError Instr :=
  if fieldOf x 3 29 = 0 then
    .ok (.skbind (opWord w) (BitVec.ofNat 3 (fieldOf x 0 3)))
  else .error .nonZeroBits

/-- SPIN (R385). -/
def decSpin (w x : Nat) : Except DecodeError Instr :=
  if fieldOf x 3 29 = 0 then
    .ok (.spin (opWord w) (BitVec.ofNat 3 (fieldOf x 0 3)))
  else .error .nonZeroBits

/-- DRAW (R381). -/
def decDraw (w x : Nat) : Except DecodeError Instr :=
  if fieldOf x 3 29 = 0 then
    .ok (.draw (opWord w) (BitVec.ofNat 3 (fieldOf x 0 3)))
  else .error .nonZeroBits

/-- SKUPD (R386). -/
def decSkupd (w x : Nat) : Except DecodeError Instr :=
  if fieldOf x 3 5 = 0 ∧ fieldOf x 16 16 = 0 then
    .ok (.skupd (opWord w) (BitVec.ofNat 8 (fieldOf x 8 8)) (BitVec.ofNat 3 (fieldOf x 0 3)))
  else .error .nonZeroBits

/-- SKRD (R387). -/
def decSkrd (w x : Nat) : Except DecodeError Instr :=
  if fieldOf x 8 24 = 0 then
    .ok (.skrd (opWord w) (BitVec.ofNat 5 (fieldOf x 3 5)) (BitVec.ofNat 3 (fieldOf x 0 3)))
  else .error .nonZeroBits

/-- SKWR (R387). -/
def decSkwr (w x : Nat) : Except DecodeError Instr :=
  if fieldOf x 8 24 = 0 then
    .ok (.skwr (opWord w) (BitVec.ofNat 5 (fieldOf x 3 5)) (BitVec.ofNat 3 (fieldOf x 0 3)))
  else .error .nonZeroBits

/-- The forms behind the escape opcode 0x7F, by secondary opcode (R246). -/
def decEscape (w x : Nat) : Except DecodeError Instr :=
  if fieldOf w 18 3 = 0 then
    match fieldOf x 22 10 with
    | 0 => decMtrn w x
    | 1 => decMaccr w x
    | 2 => decMcor w x
    | 3 => decMtri w x
    | 4 => decMwy w x
    | 5 => decMstep w x
    | 6 => decMgrd w x
    | 7 => decPtset w x
    | 8 => decPtop w x
    | 16 => decPly w x
    | 17 => decPlyc w x
    | 18 => decPlyf w x
    | 19 => decWarp w x
    | 20 => decReel w x
    | _ => .error .reservedSec
  else .error .reservedTy

/-- The forms of opcode 13, by TY. -/
def decTy13 (w x : Nat) : Except DecodeError Instr :=
  match fieldOf w 18 3 with
  | 0 => decShadv w x
  | 1 => decBobinit w x
  | 2 => decBobwait w x
  | 3 => decBobrel w x
  | _ => .error .reservedTy

/-- The forms of opcode 14, by TY. -/
def decTy14 (w x : Nat) : Except DecodeError Instr :=
  match fieldOf w 18 3 with
  | 0 => decSyscall w x
  | 1 => decBrk w x
  | 2 => decTrapif w x
  | 3 => decEret w x
  | 4 => decEndl w x
  | _ => .error .reservedTy

/-- The forms of opcode 15, by TY. -/
def decTy15 (w x : Nat) : Except DecodeError Instr :=
  match fieldOf w 18 3 with
  | 0 => decMfsr w x
  | 1 => decMtsr w x
  | _ => .error .reservedTy

/-- The forms of opcode 98, by TY. -/
def decTy98 (w x : Nat) : Except DecodeError Instr :=
  match fieldOf w 18 3 with
  | 0 => decTstateFill w x
  | 1 => decTstatePublish w x
  | 2 => decTstateDrain w x
  | 3 => decTstateRelease w x
  | _ => .error .reservedTy

/-- The forms of opcode 102, by TY. -/
def decTy102 (w x : Nat) : Except DecodeError Instr :=
  match fieldOf w 18 3 with
  | 0 => decGrows w x
  | 1 => decScat w x
  | _ => .error .reservedTy

/-- The forms of opcode 126, by TY. -/
def decTy126 (w x : Nat) : Except DecodeError Instr :=
  match fieldOf w 18 3 with
  | 0 => decCred w x
  | 1 => decCbc w x
  | 2 => decCag w x
  | 3 => decCa2a w x
  | _ => .error .reservedTy

/-- The forms of opcode 120, by TY. -/
def decTy120 (w x : Nat) : Except DecodeError Instr :=
  match fieldOf w 18 3 with
  | 0 => decCamld w x
  | 1 => decCamst w x
  | 2 => decCamcomp w x
  | _ => .error .reservedTy

/-- The forms of opcode 121, by TY. -/
def decTy121 (w x : Nat) : Except DecodeError Instr :=
  match fieldOf w 18 3 with
  | 0 => decPgath w x
  | 1 => decPmarch w x
  | _ => .error .reservedTy

/-- The forms of opcode 123, by TY. -/
def decTy123 (w x : Nat) : Except DecodeError Instr :=
  match fieldOf w 18 3 with
  | 0 => decPstep w x
  | 1 => decPstat w x
  | _ => .error .reservedTy

/-- The forms of opcode 124, by TY. -/
def decTy124 (w x : Nat) : Except DecodeError Instr :=
  match fieldOf w 18 3 with
  | 0 => decSkbind w x
  | 1 => decSpin w x
  | 2 => decDraw w x
  | _ => .error .reservedTy

/-- The forms of opcode 125, by TY. -/
def decTy125 (w x : Nat) : Except DecodeError Instr :=
  match fieldOf w 18 3 with
  | 0 => decSkupd w x
  | 1 => decSkrd w x
  | 2 => decSkwr w x
  | _ => .error .reservedTy

/-- Opcodes 0 to 15 of the map. -/
def decGroup0 (low w x : Nat) : Except DecodeError Instr :=
  match low with
  | 0 => tyZero w (decBra w x)
  | 1 => tyZero w (decBri w x)
  | 2 => tyZero w (decCallb w x)
  | 3 => tyZero w (decRetb w x)
  | 4 => tyZero w (decSpawn w x)
  | 5 => tyZero w (decSret w x)
  | 6 => tyZero w (decTagenter w x)
  | 7 => tyZero w (decTagleave w x)
  | 8 => tyZero w (decRead w x)
  | 9 => tyZero w (decWrite w x)
  | 10 => tyZero w (decPhase w x)
  | 11 => tyZero w (decJoin w x)
  | 12 => tyZero w (decRep w x)
  | 13 => decTy13 w x
  | 14 => decTy14 w x
  | 15 => decTy15 w x
  | _ => .error .reservedOpcode

/-- Opcodes 16 to 31 of the map. -/
def decGroup1 (low w x : Nat) : Except DecodeError Instr :=
  match low with
  | 0 => tyZero w (decConst w x)
  | 1 => tyZero w (decMov w x)
  | 2 => decAdd w x
  | 3 => decSub w x
  | 4 => decMul w x
  | 5 => decMulh w x
  | 6 => decMad w x
  | 7 => decDiv w x
  | 8 => decRem w x
  | 9 => tyZero w (decAnd w x)
  | 10 => tyZero w (decOr w x)
  | 11 => tyZero w (decXor w x)
  | 12 => tyZero w (decAndn w x)
  | 13 => decShl w x
  | 14 => decShr w x
  | 15 => decSra w x
  | _ => .error .reservedOpcode

/-- Opcodes 32 to 47 of the map. -/
def decGroup2 (low w x : Nat) : Except DecodeError Instr :=
  match low with
  | 0 => tyZero w (decRotl w x)
  | 1 => tyZero w (decClz w x)
  | 2 => tyZero w (decPopc w x)
  | 3 => decMin w x
  | 4 => decMax w x
  | 5 => decAbs w x
  | 6 => decNeg w x
  | 7 => decAddsat w x
  | 8 => decSubsat w x
  | 9 => decCmp w x
  | 10 => tyZero w (decSel w x)
  | 11 => tyZero w (decTst w x)
  | 12 => tyZero w (decExtr w x)
  | 13 => tyZero w (decIns w x)
  | 14 => tyZero w (decLea w x)
  | 15 => decPackn w x
  | _ => .error .reservedOpcode

/-- Opcodes 48 to 63 of the map. -/
def decGroup3 (low w x : Nat) : Except DecodeError Instr :=
  match low with
  | 0 => decUnpackn w x
  | 1 => decUnt5 w x
  | 2 => decAcct w x
  | 3 => decDotp w x
  | 8 => if fieldOf w 20 1 = 0 then decFadd w x else decFaddRounding w x
  | 9 => if fieldOf w 20 1 = 0 then decFsub w x else decFsubRounding w x
  | 10 => if fieldOf w 20 1 = 0 then decFmul w x else decFmulRounding w x
  | 11 => if fieldOf w 20 1 = 0 then decFma w x else decFmaRounding w x
  | 12 => decFmin w x
  | 13 => decFmax w x
  | 14 => decFsgn w x
  | 15 => decFcmp w x
  | _ => .error .reservedOpcode

/-- Opcodes 64 to 79 of the map. -/
def decGroup4 (low w x : Nat) : Except DecodeError Instr :=
  match low with
  | 0 => decFclass w x
  | 1 => tyZero w (decFcvt w x)
  | 2 => decFrint w x
  | 3 => if fieldOf w 20 1 = 0 then decFexpi w x else decFexpiRounding w x
  | 4 => decFgetx w x
  | 5 => if fieldOf w 20 1 = 0 then decFdiv w x else decFdivRounding w x
  | 6 => if fieldOf w 20 1 = 0 then decFsqrt w x else decFsqrtRounding w x
  | 7 => tyZero w (decFrcp w x)
  | 8 => tyZero w (decFrsq w x)
  | 9 => tyZero w (decFrcps w x)
  | 10 => tyZero w (decFrsqs w x)
  | 11 => tyZero w (decFexp2f w x)
  | 12 => tyZero w (decFlog2f w x)
  | _ => .error .reservedOpcode

/-- Opcodes 80 to 95 of the map. -/
def decGroup5 (low w x : Nat) : Except DecodeError Instr :=
  match low with
  | 0 => tyZero w (decVrun w x)
  | 1 => decVred w x
  | 2 => decVscan w x
  | 3 => tyZero w (decVbcast w x)
  | 4 => tyZero w (decVlane w x)
  | 5 => tyZero w (decVshuf w x)
  | 6 => tyZero w (decViota w x)
  | 8 => decLd w x
  | 9 => decSt w x
  | 10 => tyZero w (decLdv w x)
  | 11 => tyZero w (decStv w x)
  | 12 => tyZero w (decAtom w x)
  | 13 => tyZero w (decCas w x)
  | 14 => tyZero w (decLdlk w x)
  | 15 => tyZero w (decStul w x)
  | _ => .error .reservedOpcode

/-- Opcodes 96 to 111 of the map. -/
def decGroup6 (low w x : Nat) : Except DecodeError Instr :=
  match low with
  | 0 => tyZero w (decFence w x)
  | 1 => tyZero w (decPref w x)
  | 2 => decTy98 w x
  | 3 => tyZero w (decTwait w x)
  | 4 => tyZero w (decSopen w x)
  | 5 => tyZero w (decSclose w x)
  | 6 => decTy102 w x
  | 7 => tyZero w (decCwalk w x)
  | 8 => tyZero w (decStld w x)
  | 9 => tyZero w (decSisect w x)
  | 10 => tyZero w (decSunion w x)
  | 11 => tyZero w (decSdiff w x)
  | 12 => tyZero w (decSmadd w x)
  | 13 => tyZero w (decSnext w x)
  | 14 => tyZero w (decStst w x)
  | _ => .error .reservedOpcode

/-- Opcodes 112 to 127 of the map. -/
def decGroup7 (low w x : Nat) : Except DecodeError Instr :=
  match low with
  | 0 => tyZero w (decMld w x)
  | 1 => tyZero w (decMst w x)
  | 2 => tyZero w (decMzero w x)
  | 3 => tyZero w (decMma w x)
  | 4 => tyZero w (decMmsp w x)
  | 5 => tyZero w (decMcomp w x)
  | 6 => tyZero w (decMqnt w x)
  | 7 => tyZero w (decMdeq w x)
  | 8 => decTy120 w x
  | 9 => decTy121 w x
  | 10 => tyZero w (decPscat w x)
  | 11 => decTy123 w x
  | 12 => decTy124 w x
  | 13 => decTy125 w x
  | 14 => decTy126 w x
  | 15 => decEscape w x
  | _ => .error .reservedOpcode

/-- The instruction of an operation word `w` and its extension word `x` (0 where the slot has
none), or the reason it has none (R248). -/
def decodeWords (w x : Nat) : Except DecodeError Instr :=
  match fieldOf w 29 3 with
  | 0 => decGroup0 (fieldOf w 25 4) w x
  | 1 => decGroup1 (fieldOf w 25 4) w x
  | 2 => decGroup2 (fieldOf w 25 4) w x
  | 3 => decGroup3 (fieldOf w 25 4) w x
  | 4 => decGroup4 (fieldOf w 25 4) w x
  | 5 => decGroup5 (fieldOf w 25 4) w x
  | 6 => decGroup6 (fieldOf w 25 4) w x
  | _ => decGroup7 (fieldOf w 25 4) w x

/-- Whether a slot with operation word `w` carries an extension word (R235). A partner word
(R236: MAD, FMA or CAS with AR 1) carries none. -/
def hasExt (w : Nat) : Bool :=
  let op := fieldOf w 25 7
  let ty := fieldOf w 18 3
  let ar := fieldOf w 23 2
  if op ∈ [0x00, 0x02, 0x04, 0x06, 0x08, 0x09, 0x0C, 0x0F, 0x10, 0x2C, 0x2D, 0x2E, 0x30, 0x3E, 0x3F,
      0x41, 0x42, 0x50, 0x53, 0x54, 0x56, 0x5A, 0x5B, 0x5C, 0x60, 0x64, 0x65, 0x66, 0x67] then true
  else if 0x68 ≤ op ∧ op ≤ 0x6E then true
  else if 0x70 ≤ op then true
  else if op = 0x0D then ty == 1 || ty == 2 || ty == 3
  else if op = 0x0E then ty == 0 || ty == 1
  else if op = 0x5D then ar != 1
  else if op = 0x3B then (decide (4 ≤ ty)) && ar != 1
  else if op ∈ [0x38, 0x39, 0x3A, 0x43, 0x45, 0x46] then decide (4 ≤ ty)
  else false

/-- The operation word of an instruction with opcode `op` and type field `ty` (R231). -/
def encOp (op ty : Nat) (h : OpWord) : Nat :=
  op * 2 ^ 25 + h.ar.toNat * 2 ^ 23 + h.tg.toNat * 2 ^ 21 + ty * 2 ^ 18 + h.t0.toNat * 2 ^ 9
    + h.t1.toNat

/-- The words of an instruction (R231, R235), the operation word first; a device step has none. -/
def encodeWords : Instr → List Nat
  | .bra h d => [encOp 0 0 h, d.toNat]
  | .bri h => [encOp 1 0 h]
  | .callb h dc dr => [encOp 2 0 h, dc.toNat * 65536 + dr.toNat]
  | .retb h => [encOp 3 0 h]
  | .spawn h ds => [encOp 4 0 h, ds.toNat * 65536]
  | .sret h => [encOp 5 0 h]
  | .tagenter h width => [encOp 6 0 h, width.toNat]
  | .tagleave h => [encOp 7 0 h]
  | .read h reg => [encOp 8 0 h, reg.toNat]
  | .write h reg => [encOp 9 0 h, reg.toNat]
  | .phase h => [encOp 10 0 h]
  | .join h => [encOp 11 0 h]
  | .rep h n stride => [encOp 12 0 h, n.toNat * 256 + stride.toNat * 16]
  | .shadv h => [encOp 13 0 h]
  | .bobinit h slots bob => [encOp 13 1 h, slots.toNat * 65536 + bob.toNat]
  | .bobwait h n bob => [encOp 13 2 h, n.toNat * 256 + bob.toNat]
  | .bobrel h count bob => [encOp 13 3 h, count.toNat * 256 + bob.toNat]
  | .syscall h code => [encOp 14 0 h, code.toNat]
  | .brk h code => [encOp 14 1 h, code.toNat]
  | .trapif h => [encOp 14 2 h]
  | .eret h => [encOp 14 3 h]
  | .endl h => [encOp 14 4 h]
  | .mfsr h num => [encOp 15 0 h, num.toNat]
  | .mtsr h num => [encOp 15 1 h, num.toNat]
  | .const h value => [encOp 16 0 h, value.toNat]
  | .mov h => [encOp 17 0 h]
  | .add h ty => [encOp 18 ty.code h]
  | .sub h ty => [encOp 19 ty.code h]
  | .mul h ty => [encOp 20 ty.code h]
  | .mulh h ty => [encOp 21 ty.code h]
  | .mad h ty => [encOp 22 ty.code h]
  | .div h ty => [encOp 23 ty.code h]
  | .rem h ty => [encOp 24 ty.code h]
  | .and h => [encOp 25 0 h]
  | .or h => [encOp 26 0 h]
  | .xor h => [encOp 27 0 h]
  | .andn h => [encOp 28 0 h]
  | .shl h ty => [encOp 29 ty.code h]
  | .shr h ty => [encOp 30 ty.code h]
  | .sra h ty => [encOp 31 ty.code h]
  | .rotl h => [encOp 32 0 h]
  | .clz h => [encOp 33 0 h]
  | .popc h => [encOp 34 0 h]
  | .min h ty => [encOp 35 ty.code h]
  | .max h ty => [encOp 36 ty.code h]
  | .abs h ty => [encOp 37 ty.code h]
  | .neg h ty => [encOp 38 ty.code h]
  | .addsat h ty => [encOp 39 ty.code h]
  | .subsat h ty => [encOp 40 ty.code h]
  | .cmp h ty => [encOp 41 ty.code h]
  | .sel h => [encOp 42 0 h]
  | .tst h => [encOp 43 0 h]
  | .extr h sgn pos len => [encOp 44 0 h, sgn.toNat * 1024 + pos.toNat * 32 + len.toNat]
  | .ins h pos len => [encOp 45 0 h, pos.toNat * 32 + len.toNat]
  | .lea h sh => [encOp 46 0 h, sh.toNat]
  | .packn h ty => [encOp 47 ty.code h]
  | .unpackn h ty half => [encOp 48 ty.code h, half.toNat]
  | .unt5 h ty => [encOp 49 ty.code h]
  | .acct h ty => [encOp 50 ty.code h]
  | .dotp h ty => [encOp 51 ty.code h]
  | .fadd h ty => [encOp 56 ty.code h]
  | .faddRounding h ty rm => [encOp 56 (ty.code + 4) h, rm.code]
  | .fsub h ty => [encOp 57 ty.code h]
  | .fsubRounding h ty rm => [encOp 57 (ty.code + 4) h, rm.code]
  | .fmul h ty => [encOp 58 ty.code h]
  | .fmulRounding h ty rm => [encOp 58 (ty.code + 4) h, rm.code]
  | .fma h ty => [encOp 59 ty.code h]
  | .fmaRounding h ty rm => if h.ar = 1 then [encOp 59 (ty.code + 4) h] else [encOp 59 (ty.code + 4) h, rm.code]
  | .fmin h ty => [encOp 60 ty.code h]
  | .fmax h ty => [encOp 61 ty.code h]
  | .fsgn h ty mode => [encOp 62 ty.code h, mode.code]
  | .fcmp h ty cond => [encOp 63 ty.code h, cond.code]
  | .fclass h ty => [encOp 64 ty.code h]
  | .fcvt h group rm src dst => [encOp 65 0 h, group.toNat * 1024 + rm.code * 256 + src.code * 16 + dst.code]
  | .frint h ty rm => [encOp 66 ty.code h, rm.code]
  | .fexpi h ty => [encOp 67 ty.code h]
  | .fexpiRounding h ty rm => [encOp 67 (ty.code + 4) h, rm.code]
  | .fgetx h ty => [encOp 68 ty.code h]
  | .fdiv h ty => [encOp 69 ty.code h]
  | .fdivRounding h ty rm => [encOp 69 (ty.code + 4) h, rm.code]
  | .fsqrt h ty => [encOp 70 ty.code h]
  | .fsqrtRounding h ty rm => [encOp 70 (ty.code + 4) h, rm.code]
  | .frcp h => [encOp 71 0 h]
  | .frsq h => [encOp 72 0 h]
  | .frcps h => [encOp 73 0 h]
  | .frsqs h => [encOp 74 0 h]
  | .fexp2f h => [encOp 75 0 h]
  | .flog2f h => [encOp 76 0 h]
  | .vrun h count first => [encOp 80 0 h, count.toNat * 32 + first.toNat]
  | .vred h ty => [encOp 81 ty.code h]
  | .vscan h ty => [encOp 82 ty.code h]
  | .vbcast h j => [encOp 83 0 h, j.toNat]
  | .vlane h mode k => [encOp 84 0 h, mode.code * 32 + k.toNat]
  | .vshuf h => [encOp 85 0 h]
  | .viota h offset => [encOp 86 0 h, offset.toNat]
  | .ld h ty => [encOp 88 ty.code h]
  | .st h ty => [encOp 89 ty.code h]
  | .ldv h sh high => [encOp 90 0 h, sh.toNat * 16777216 + high.toNat]
  | .stv h high => [encOp 91 0 h, high.toNat]
  | .atom h opc ord scope g hi => [encOp 92 0 h, opc.code * 268435456 + ord.code * 67108864 + scope.toNat * 8388608 + g.toNat * 65536 + hi.toNat]
  | .cas h ord scope g hi => if h.ar = 1 then [encOp 93 0 h] else [encOp 93 0 h, ord.code * 67108864 + scope.toNat * 8388608 + g.toNat * 65536 + hi.toNat]
  | .ldlk h => [encOp 94 0 h]
  | .stul h => [encOp 95 0 h]
  | .fence h kind scope => [encOp 96 0 h, kind.code * 8 + scope.toNat]
  | .pref h => [encOp 97 0 h]
  | .tstateFill h => [encOp 98 0 h]
  | .tstatePublish h => [encOp 98 1 h]
  | .tstateDrain h => [encOp 98 2 h]
  | .tstateRelease h => [encOp 98 3 h]
  | .twait h => [encOp 99 0 h]
  | .sopen h node => [encOp 100 0 h, node.toNat]
  | .sclose h node => [encOp 101 0 h, node.toNat]
  | .grows h tile desc rowoff => [encOp 102 0 h, tile.toNat * 16777216 + desc.toNat * 4096 + rowoff.toNat]
  | .scat h tile desc rowoff => [encOp 102 1 h, tile.toNat * 16777216 + desc.toNat * 4096 + rowoff.toNat]
  | .cwalk h first cnt => [encOp 103 0 h, first.toNat * 32 + cnt.toNat]
  | .stld h a => [encOp 104 0 h, a.toNat]
  | .sisect h n b a => [encOp 105 0 h, n.toNat * 512 + b.toNat * 8 + a.toNat]
  | .sunion h n b a => [encOp 106 0 h, n.toNat * 512 + b.toNat * 8 + a.toNat]
  | .sdiff h n b a => [encOp 107 0 h, n.toNat * 512 + b.toNat * 8 + a.toNat]
  | .smadd h fp n b a => [encOp 108 0 h, fp.toNat * 16384 + n.toNat * 512 + b.toNat * 8 + a.toNat]
  | .snext h n a => [encOp 109 0 h, n.toNat * 512 + a.toNat]
  | .stst h a => [encOp 110 0 h, a.toNat]
  | .cred h op fmt mode scope => [encOp 126 0 h, op.code * 268435456 + fmt.code * 16777216 + mode.toNat * 8388608 + scope.toNat * 1048576]
  | .cbc h scope root => [encOp 126 1 h, scope.toNat * 1048576 + root.toNat * 256]
  | .cag h scope => [encOp 126 2 h, scope.toNat * 1048576]
  | .ca2a h scope => [encOp 126 3 h, scope.toNat * 1048576]
  | .mld h fmt reg tile pten pt t mo kind => [encOp 112 0 h, fmt.code * 268435456 + reg.toNat * 16777216 + tile.toNat * 65536 + pten.toNat * 32768 + pt.toNat * 2048 + t.toNat * 1024 + mo.toNat * 512 + kind.code * 128]
  | .mst h fmt reg tile pten pt t mo kind => [encOp 113 0 h, fmt.code * 268435456 + reg.toNat * 16777216 + tile.toNat * 65536 + pten.toNat * 32768 + pt.toNat * 2048 + t.toNat * 1024 + mo.toNat * 512 + kind.code * 128]
  | .mzero h acc int empty => [encOp 114 0 h, acc.toNat * 33554432 + int.toNat * 16777216 + empty.toNat * 8388608]
  | .mma h fmt acc ma mb => [encOp 115 0 h, fmt.code * 268435456 + acc.toNat * 33554432 + ma.toNat * 2097152 + mb.toNat * 131072]
  | .mmsp h fmt acc ma mb md pat => [encOp 116 0 h, fmt.code * 268435456 + acc.toNat * 33554432 + ma.toNat * 2097152 + mb.toNat * 131072 + md.toNat * 16384 + pat.toNat * 8192]
  | .mcomp h fmt ma ms md pat gap => [encOp 117 0 h, fmt.code * 268435456 + ma.toNat * 16777216 + ms.toNat * 1048576 + md.toNat * 131072 + pat.toNat * 65536 + gap.toNat * 8192]
  | .mqnt h fmt acc ma gap orient => [encOp 118 0 h, fmt.code * 268435456 + acc.toNat * 33554432 + ma.toNat * 2097152 + gap.toNat * 262144 + orient.toNat * 131072]
  | .mdeq h df sf ma ms strict => [encOp 119 0 h, df.code * 268435456 + sf.code * 16777216 + ma.toNat * 1048576 + ms.toNat * 65536 + strict.toNat * 32768]
  | .mtrn h ma ms => [encOp 127 0 h, 0 + ma.toNat * 262144 + ms.toNat * 16384]
  | .maccr h acc row half w => [encOp 127 0 h, 4194304 + acc.toNat * 524288 + row.toNat * 8192 + half.toNat * 4096 + w.toNat * 2048]
  | .mcor h acc mk mv ss gd n half => [encOp 127 0 h, 8388608 + acc.toNat * 524288 + mk.toNat * 32768 + mv.toNat * 2048 + ss.toNat * 512 + gd.toNat * 128 + n.toNat * 4 + half.toNat * 2]
  | .mtri h acc mk ss c => [encOp 127 0 h, 12582912 + acc.toNat * 524288 + mk.toNat * 32768 + ss.toNat * 8192 + c.toNat * 128]
  | .mwy h acc atri mk mv gd c => [encOp 127 0 h, 16777216 + acc.toNat * 524288 + atri.toNat * 65536 + mk.toNat * 4096 + mv.toNat * 256 + gd.toNat * 64 + c.toNat]
  | .mstep h ss mode => [encOp 127 0 h, 20971520 + ss.toNat * 1048576 + mode.toNat * 524288]
  | .mgrd h gd => [encOp 127 0 h, 25165824 + gd.toNat * 1048576]
  | .ptset h pt half => [encOp 127 0 h, 29360128 + pt.toNat * 262144 + half.toNat * 131072]
  | .ptop h pd pa pb op => [encOp 127 0 h, 33554432 + pd.toNat * 262144 + pa.toNat * 16384 + pb.toNat * 1024 + op.code * 256]
  | .ply h acc mq mk mv first causal => [encOp 127 0 h, 67108864 + acc.toNat * 524288 + mq.toNat * 32768 + mk.toNat * 2048 + mv.toNat * 128 + first.toNat * 64 + causal.toNat * 32]
  | .plyc h a b => [encOp 127 0 h, 71303168 + a.toNat * 524288 + b.toNat * 65536]
  | .plyf h acc => [encOp 127 0 h, 75497472 + acc.toNat * 524288]
  | .warp h => [encOp 127 0 h, 79691776]
  | .reel h append => [encOp 127 0 h, 83886080 + append.toNat * 2097152]
  | .camld h bv => [encOp 120 0 h, bv.toNat]
  | .camst h bv => [encOp 120 1 h, bv.toNat]
  | .camcomp h bvd bvs => [encOp 120 2 h, bvd.toNat * 8 + bvs.toNat]
  | .pgath h bv tile rowoff psel => [encOp 121 0 h, bv.toNat * 536870912 + tile.toNat * 2097152 + rowoff.toNat * 512 + psel.code * 128]
  | .pmarch h bv tile rowoff psel => [encOp 121 1 h, bv.toNat * 536870912 + tile.toNat * 2097152 + rowoff.toNat * 512 + psel.code * 128]
  | .pscat h bv tile rowoff => [encOp 122 0 h, bv.toNat * 536870912 + tile.toNat * 2097152 + rowoff.toNat * 512]
  | .pstep h store => [encOp 123 0 h, store.toNat]
  | .pstat h clr which bv => [encOp 123 1 h, clr.toNat * 128 + which.code * 16 + bv.toNat]
  | .skbind h bind => [encOp 124 0 h, bind.toNat]
  | .spin h bind => [encOp 124 1 h, bind.toNat]
  | .draw h bind => [encOp 124 2 h, bind.toNat]
  | .skupd h inc bind => [encOp 125 0 h, inc.toNat * 256 + bind.toNat]
  | .skrd h word bind => [encOp 125 1 h, word.toNat * 8 + bind.toNat]
  | .skwr h word bind => [encOp 125 2 h, word.toNat * 8 + bind.toNat]
  | .deviceReset _ _ => []
  | .supplySagTrip _ => []
  | .stretchStepUp _ => []
  | .stretchStepDown _ => []
  | .packagePowerOverCap => []
  | .hardSagStop _ => []
  | .hardSagRestart _ => []
  | .powerCapWrite _ => []
  | .twinikFlitReceive _ _ _ _ => []
  | .twinikNakReceive _ _ => []
  | .twinikAckReceive _ _ => []
  | .undeliverableResponse _ _ _ => []
  | .portRetrain _ => []
  | .portRetrainDone _ _ => []
  | .portRetire _ => []
  | .routeTableWrite _ _ _ => []
  | .handoverTransfer _ _ => []
  | .handoverRetry _ => []
  | .firmwareLoad _ _ _ => []
  | .measurementExtend _ => []
  | .quoteBuild => []
  | .registerWrite _ _ _ => []
  | .bar4Access _ _ _ _ _ => []
  | .launchWindowWrite _ _ _ => []
  | .launchAccept _ _ _ => []
  | .spillReturn _ _ _ => []
  | .partitionEnable _ => []
  | .partitionDisable _ => []
  | .partitionResize _ _ => []
  | .waitWordPoll _ => []
  | .launchAging _ _ => []
  | .placementPass _ => []
  | .argumentCopy _ => []
  | .launchComplete _ => []
  | .launchCancel _ _ => []
  | .launchWatchdogExpiry _ => []
  | .watchdogTrapUnanswered _ => []
  | .withheldFaultRecordPost _ => []
  | .faultResponseRetry _ _ => []
  | .faultResponseFail _ _ => []
  | .coreRetire _ _ _ => []
  | .launchResume _ => []
  | .tlbInvalidate _ _ _ => []
  | .tlbInvalidateDone _ => []
  | .pageWalk _ _ => []
  | .spawnGrant _ => []
  | .colourRelease _ _ => []
  | .blockAdmission _ _ => []
  | .blockMapping _ => []
  | .tokenArrival _ _ => []
  | .instanceCommit _ => []
  | .arbourArrival _ => []
  | .barrierTimeout _ _ => []
  | .frameExhaustion _ => []
  | .queueStall _ _ => []
  | .configEccError _ _ _ _ _ => []
  | .configReload _ _ => []
  | .nodeElementRead _ _ => []
  | .shuttleEntryStart _ => []
  | .shuttleRowCopy _ _ => []
  | .shuttleCompletionPost _ => []
  | .burtexAtomic _ => []
  | .atommodeSwitch _ => []
  | .lockGrant _ => []
  | .reelPageFill _ => []
  | .scatterWriteBuffer _ _ _ => []
  | .worldStepArrival _ => []
  | .worldStepClose _ _ => []
  | .collectiveComplete => []
  | .proxyAbsenceReceive _ _ => []
  | .proxyWithdrawalReceive _ _ => []
  | .trapDelivery _ => []
  | .preemptGating _ => []
  | .quiescence _ => []
  | .drainLimitExpiry _ => []
  | .imageSave _ => []
  | .saveResume _ _ => []
  | .saveAbandon _ _ => []
  | .preemptRetry _ => []
  | .launchRestore _ => []
  | .quoteComplete => []

/-- A 32-bit word as its four bytes, little-endian (R4). -/
def wordBytes (w : Nat) : List Byte :=
  [BitVec.ofNat 8 w, BitVec.ofNat 8 (w / 256), BitVec.ofNat 8 (w / 65536),
    BitVec.ofNat 8 (w / 16777216)]

/-- The bytes of an instruction's words. -/
def encode (i : Instr) : List Byte := (encodeWords i).flatMap wordBytes

/-- The first 32-bit word of a byte string and what follows it. -/
def takeWord : List Byte → Option (Nat × List Byte)
  | a :: b :: c :: d :: rest =>
    some (a.toNat + 256 * b.toNat + 65536 * c.toNat + 16777216 * d.toNat, rest)
  | _ => none

/-- The instruction at the front of a byte string, with the bytes behind it (R247). -/
def decode (bs : List Byte) : Except DecodeError (Instr × List Byte) :=
  match takeWord bs with
  | none => .error .truncated
  | some (w, rest) =>
    if hasExt w then
      match takeWord rest with
      | none => .error .truncated
      | some (x, rest') => (decodeWords w x).map fun i => (i, rest')
    else (decodeWords w 0).map fun i => (i, rest)

/-- The instruction the decoder reads from bits numbered as the opcode table numbers them: the
operation word in bits 31..0 and the extension word in bits 63..32. -/
def decodeTableWord (nbits w : Nat) : Option Instr :=
  let v := w % 2 ^ nbits
  match decode (wordBytes (v % 2 ^ 32) ++ wordBytes (v / 2 ^ 32)) with
  | .ok (i, _) => some i
  | .error _ => none

end Sys2Proof
end

