-- ==== Sys2Proof/Machine/Mem.lean ====
section
/-! DEFINITION. Memory as a list of cells in one canonical form: addresses strictly rising and no
cell equal to what an unlisted address reads as, which is zero. DESIGN CHOICE: the spec gives DRAM
no contents after power-on (log 1, unsafe). -/

namespace Sys2Proof.Machine

open Sys2Proof

/-- The byte at an address. -/
def memByte : List Host.Cell → Nat → Byte
  | [], _ => 0
  | (k, v) :: r, a => if k = a then v else if a < k then 0 else memByte r a

/-- The memory with one byte written. -/
def memSet : List Host.Cell → Nat → Byte → List Host.Cell
  | [], a, v => if v = 0 then [] else [(a, v)]
  | (k, w) :: r, a, v =>
    if k = a then (if v = 0 then r else (a, v) :: r)
    else if a < k then (if v = 0 then (k, w) :: r else (a, v) :: (k, w) :: r)
    else (k, w) :: memSet r a v

/-- `n` bytes from an address. -/
def memRead (m : List Host.Cell) (a : Nat) : Nat → List Byte
  | 0 => []
  | n + 1 => memByte m a :: memRead m (a + 1) n

/-- The memory with consecutive bytes written from an address. -/
def memWrite (m : List Host.Cell) (a : Nat) : List Byte → List Host.Cell
  | [] => m
  | b :: bs => memWrite (memSet m a b) (a + 1) bs

/-- Whether every listed address from `lo` on rises strictly and no listed byte is zero. -/
def memWfFrom : Nat → List Host.Cell → Bool
  | _, [] => true
  | lo, (k, v) :: r => decide (lo ≤ k) && v != 0 && memWfFrom (k + 1) r

/-- The canonical form of a memory. -/
def Memory.wf (m : List Host.Cell) : Bool := memWfFrom 0 m

/-- The memory without the cells in [lo, hi). -/
def memClear (m : List Host.Cell) (lo hi : Nat) : List Host.Cell :=
  m.filter fun c => decide (c.1 < lo) || decide (hi ≤ c.1)

end Sys2Proof.Machine
end

