-- ==== Sys2Proof/Config.lean ====
section
/-! DEFINITION. What an implementation fixes and the spec leaves open: constants without a body,
so that no statement can rest on a value of theirs. -/

namespace Sys2Proof

/-- A number the spec leaves open, one for each value of the state's counter: which cached
translation a new one replaces (R114). -/
opaque Config.freeNat : Nat → Nat

/-- The module's fused 12-bit identifier (R32). -/
opaque Config.moduleId : BitVec 12

/-- The code by which DETAIL of a data-poison trap names the kind of consumer (R190): the spec
gives the field and no codes. The argument numbers the consumers in the order of R194. -/
opaque Config.consumerKind : Nat → BitVec 64

/-- DETAIL of a format-mismatch trap for an expected and a found format (R190): the spec gives the
content and no layout. -/
opaque Config.formatDetail : Nat → Nat → BitVec 64

/-- DETAIL of an illegal TERN5 byte's trap for its row and byte index (R342): the spec gives the
content and no layout. -/
opaque Config.rowByteDetail : Nat → Nat → BitVec 64

/-- DETAIL of a configuration-region error's trap for the old and the new signature (R190): the spec
gives the content, a half of each, and no layout. -/
opaque Config.signatureDetail : Nat → Nat → BitVec 64

/-- The rest of a packet's payload behind its route word (R20): the spec gives no layout for it. The
arguments are the packet's kind (0 ordered write, 1 undeliverable response, 2 absence token, 3 its
withdrawal, 4 request, 5 response, 6 acknowledgement of an ordered write, 7 arrival at a collective) and the numbers
and bytes that it carries. -/
opaque Config.packetBody : Nat → List Nat → List Byte → List Byte

/-- A number that a received packet's payload carries (R20, R134, R181), of which the spec gives no layout: 0 the
source module; 1 the sender's number of the packet; 2 the offset in the exported window; 3 the length; 4 the atomic
operation plus 1, 33 for the check of a write, 0 for a read; 5 and 6 its operands; 7 its width in bytes; 8 whether the access is checked; 9 to 14 the
launch, the rank, the agent's number, the core, the step and the epoch; 15 whether its data are poisoned; 16 the
number of the request that a response answers, plus 1, or 0; 17 whether that access raced; 18 and 19 the race's DETAIL
and AUX; 20 the radius of a releasing write, plus 1, or 0, which the request is or its answer found; 21 to 26 the
module, the launch, the rank, the agent's number, the core and the epoch of the release found; 27 whether it is an arrival
at a collective, 28 to 31 whose GID, number, participant index and radius. -/
opaque Config.packetField : Nat → List Byte → Nat

/-- A list of numbers that a received packet's payload carries, likewise: 0 what its agent has acquired, five numbers to
an entry (module, launch, rank, agent's number and epoch); 1 the poison of each byte of its data; 2 the group table of a
collective's arrival, and 3 its parameters. -/
opaque Config.packetList : Nat → List Byte → List Nat

/-- The data that a received packet's payload carries: likewise. -/
opaque Config.packetData : List Byte → List Byte

/-- Byte `i` of the payload of an ack or a nak, by its KIND and SEQ: every flit has 64 bytes of payload (R2, R19),
and the spec says nothing of these. -/
opaque Config.controlByte : Nat → Nat → Nat → BitVec 8

/-- The hops of the route between two other modules, which is in their route tables (R20, R169). -/
opaque Config.hopsBetween : Nat → Nat → Nat

/-- The physical address at which the window that this module exports to others lies (R111). -/
opaque Config.exportBase : Nat

/-- Byte `j` of a piece of a core's image whose content R199 lists and whose layout it leaves open: of the piece with a
number (1 the core control registers and the Shuttle's positions, 2 the head of a parked request, 3 a branch token), by
the values that it holds. -/
opaque Config.imageByte : Nat → List Nat → Nat → BitVec 8

/-- The digest that a write of the route table extends DR_MEAS3 with (R26, R30), a digest of what is
measured: the entry, the word and the entry's two route words. The spec gives no layout. -/
opaque Config.routeDigest : List Nat → BitVec 256

/-- The digest that a change of the partitions extends DR_MEAS2 with (R30, R39): of the partition, its
granules and EN. The spec gives no layout. -/
opaque Config.partitionDigest : List Nat → BitVec 256

/-- The digest that DR_MEAS1 is extended with at boot (R30): of the fused security version and the module
identifier. The spec gives no layout. -/
opaque Config.identityDigest : BitVec 256

/-- Whether a firmware image can be read (R29, R32). -/
opaque Config.imageReadable : List Byte → Bool

/-- Whether a firmware image's SM2 signature is good against the key whose digest is fused (R29): the spec
gives no place of the signature in the image. -/
opaque Config.imageSigned : List Byte → Bool

/-- The security version that a firmware image carries (R29, R32), 1 to 0xFFFF. -/
opaque Config.imageVersion : List Byte → BitVec 16

/-- The fused minimum security version (R29). -/
opaque Config.minVersion : BitVec 16

/-- The module's SM2 signature over bytes (R31), by a private key that never leaves the part. -/
opaque Config.quoteSignature : List Byte → BitVec 512

/-- The fused silicon stepping (R32). -/
opaque Config.stepping : BitVec 8

/-- Whether VF `p` of the PF on a link is enabled (R33, R56): PCI configuration space, of which the spec gives
no register. -/
opaque Config.vfEnabled : Nat → Nat → Bool

/-- The size of a PF's BAR4 on a link, as a power of two of GiB (R33, R34): the resizable BAR is set in PCI
configuration space, of which the spec gives no register. -/
opaque Config.pfWindow : Nat → Nat

/-- Whether vector 0 of a function on a link is enabled (R56): likewise. -/
opaque Config.vectorEnabled : Nat → Nat → Bool

/-- DETAIL of a power-fault record that names a die (R16, R55): the spec gives the content and no
layout. -/
opaque Config.powerDetail : Nat → BitVec 32

end Sys2Proof
end

