-- ==== Sys2Proof/Machine/Data.lean ====
section
/-! DEFINITION. The kinds of data that the machine's state is made of: lanes, tags, tokens,
instances, mappings, race records, units, launches and the registers of the device. -/

namespace Sys2Proof.Machine

open Sys2Proof

/-! ### Lanes, tags and runs -/

/-- A lane of a token: 32 bits and its poison (R93, R193). A predicate lane holds 0 or 1. -/
structure Lane where
  val : Word
  poison : Bool
  deriving DecidableEq, Repr

/-- A tag (R90): the colour and the field stack, outermost field first. -/
structure Tag where
  colour : Nat
  fields : List Nat
  deriving DecidableEq, Repr

/-- Consecutive lanes from lane index `first` (R93, R295). -/
structure Run where
  first : Nat
  lanes : List Lane
  deriving DecidableEq, Repr

/-! ### Places in memory and race records -/

/-- A byte's place (R110, R111): a scratchpad byte of a core, or a physical address. -/
inductive Loc where
  | scratch (core addr : Nat)
  | phys (addr : Nat)
  deriving DecidableEq, Repr

/-- A piece of a write: consecutive bytes within one 64-byte line, and whether they are poisoned. -/
structure Seg where
  loc : Loc
  bytes : List Byte
  poison : Bool
  deriving DecidableEq, Repr

/-- An agent (R161, R168, R206): the other module it belongs to, or none for this one, the launch, the rank
of the core in its set, and which agent of that core in the numbering of R405: a colour, 0x8000 the Shuttle,
0x8001 the Reel, 0x8002 the Spindle. -/
structure Agent where
  module : Option Nat
  launch : Nat
  rank : Nat
  who : Nat
  deriving DecidableEq, Repr

/-- An access as a line's record holds it (R165, R405). -/
structure Acc where
  agent : Agent
  core : Nat
  step : Nat
  epoch : Nat
  write : Bool
  atomic : Bool
  deriving DecidableEq, Repr

/-- The reads a record keeps (R165); many are those of different agents in one step, the last added last
(R405). -/
inductive Reads where
  | none
  | one (a : Acc)
  | many (rs : List Acc)
  deriving DecidableEq, Repr

/-- A releasing write, the latest write of its line (R171, R172). -/
structure Release where
  agent : Agent
  core : Nat
  epoch : Nat
  radius : Nat
  deriving DecidableEq, Repr

/-- The record of a line (R165, R171). -/
structure LineRec where
  lastWrite : Option Acc
  reads : Reads
  release : Option Release
  deriving DecidableEq, Repr

/-! ### Requests to other modules -/

/-- Who asks another module for an access (R181): an operation's matched set, by its core, instance, slot
and first lane; an engine of a core, by its number as an agent (R405); or the commit of an instance (R166). -/
inductive Asker where
  | op (core iid slot first : Nat)
  | engine (core who : Nat)
  | commit (core iid : Nat)
  deriving DecidableEq, Repr

/-- Where a request to another module stands (R21, R181): on its way by the primary or the alternate route;
answered, an atomic with the old words of its lanes; answered by a race trap's DETAIL and AUX (R166), an atomic
with the old words of the lanes performed before; or undeliverable. -/
inductive AskSt where
  | sent (alt : Bool)
  | answered (olds : List Lane)
  | raced (olds : List Lane) (detail aux : Nat)
  | failed
  deriving DecidableEq, Repr

/-- A read or an atomic of another module's memory (R134, R181), or the check of a write before it is made (R166):
its number, who asks, the destination, the physical address, the length, the numbers that describe an atomic or a check
(none for a read), the radius at which an atomic releases (R171), and where it stands. -/
structure Ask where
  id : Nat
  asker : Asker
  dest : Nat
  addr : Nat
  len : Nat
  atomic : List Nat
  release : Option Nat
  acc : Acc
  st : AskSt
  deriving DecidableEq, Repr

/-! ### Blocks -/

/-- A further channel of a target (R105). -/
structure Chan where
  slot : Nat
  second : Bool
  dslot : Nat
  dpos : Nat
  deriving DecidableEq, Repr

/-- A mapped block (R86, R88, R107): its header, the operation and extension word of each slot,
its multicast channels, its switch words, where it lies and its signature. `lastUse` orders the
admissions for R88; `frozen` and `eccElems` are R108, and `differs` marks a frozen block whose bytes in
memory no longer match, which RESUME maps again. `off` marks a frozen block that is unmapped and holds no cells
until it is mapped again (R106), and `routes` are the routes generated anew: slot, target, channel and the
candidate taken. -/
structure Mapping where
  block : Nat
  size : Nat
  res : Bool
  resOrdinary : Bool
  vec : Bool
  reent : Bool
  nslot : Nat
  nword : Nat
  nout : Nat
  narg : Nat
  wmask : Nat
  slots : List (Nat × Nat)
  chans : List Chan
  switchWords : List Nat
  b : Nat
  x0 : Nat
  y0 : Nat
  sig : Nat
  lastUse : Nat
  frozen : Bool
  eccElems : List Nat
  differs : Bool
  off : Bool := false
  routes : List (Nat × Nat × Nat × Nat) := []
  deriving DecidableEq, Repr

/-! ### Instances -/

/-- A lane waiting at a position of a slot (R94, R96); `spilled` once it stands in the frame. `tok` is the
model's number of the token it came with, and `fmt` the format code that the token carries, where it carries
one (R209, R221). -/
structure Waiting where
  idx : Nat
  lane : Lane
  spilled : Bool
  tok : Nat := 0
  fmt : Option Nat := none
  deriving DecidableEq, Repr

/-- The scale token and the element token of an FB operand that fires (R221): the format code that the element
token carries, its run length, and the scale token's lane. -/
structure FbSet where
  fmt : Option Nat
  len : Nat
  scale : Lane
  deriving DecidableEq, Repr

/-- What a matched set carries from its issue on: its number in the order of issue (R301), CR_ALLOT as it was
then (R328), the answers of other modules so far, by address (R181), the FB block of its left operand (R221),
and, for an atomic or a lock form that has reached its port, its number in the order of such arrivals (R135,
R136). -/
structure Ticket where
  seq : Nat
  allot : Option Nat
  got : List (Nat × AskSt)
  fb : Option FbSet
  turn : Option Nat
  deriving DecidableEq, Repr

/-- The ticket of a set that has not issued. -/
def Ticket.blank : Ticket := { seq := 0, allot := none, got := [], fb := none, turn := none }

/-- What a slot of an instance holds: the waiting lanes of each position, the lanes that have
fired or retired, those retired by a false predicate (R95), the tag a TAGENTER or TAGLEAVE gave
the left token (R257), and the scale tokens that wait for the slot's FB operand (R221). -/
structure SlotOps where
  slot : Nat
  left : List Waiting
  right : List Waiting
  pred : List Waiting
  done : List Nat
  off : List Nat
  leftTag : Option Tag
  scale : List Waiting := []
  deriving DecidableEq, Repr

/-- The state of a repetition (R266): n, the stride and REPC. -/
structure RepState where
  n : Nat
  stride : Nat
  left : Nat
  deriving DecidableEq, Repr

/-- A matched set (R94): the lanes at each position, from lane index `first`. `third` holds the
partner's left lanes (R236). For AR 0, `left` holds the start token's lanes (R93). `answered` is
set where a handler's RESUME has completed
the operation (SYSCALL, BREAK, TRAPIF: R269) with the value it holds. `skip` counts the lanes of
an atomic already performed when a later one trapped (R134). -/
structure Firing where
  iid : Nat
  slot : Nat
  elem : Nat
  first : Nat
  n : Nat
  left : List Lane
  right : List Lane
  third : List Lane
  rep : Option RepState
  answered : Option Word
  opTag : Option Tag
  heldAt : Option Nat
  skip : Nat
  ticket : Ticket := Ticket.blank
  deriving DecidableEq, Repr

/-- What an instance does at its commit (R101). -/
inductive Effect where
  | store (slot : Nat) (segs : List Seg)
  | lockClear (core addr : Nat)
  | writeReg (reg : Nat) (lane : Lane)
  | pushQueue (slot q : Nat) (lane : Lane)
  | mtsr (slot num val : Nat)
  | push (slot va : Nat) (loc : Loc) (ret : Nat)
  | pop
  | sret (run : Run)
  | eret (slot addr : Nat)
  | endl
  | nodeData (node : Nat) (segs : List Seg)
  | scatter (store : Nat) (cam t : Nat) (cell : List Nat) (d : Word) (w : Nat) (feature : List Nat)
      (slot prio : Nat)
  deriving DecidableEq, Repr

/-- An access an instance has made, for the checks of R175 and R176, as it was when it was made; `seen` is the
release that the line's latest write was when a relaxed ATOM or CAS performed, for the fences of R174. -/
structure InstAcc where
  slot : Nat
  line : Loc
  acc : Acc
  seen : Option Release
  deriving DecidableEq, Repr

/-- Where an instance stands (R73, R186). -/
inductive IStatus where
  | pending | admitted | parked
  deriving DecidableEq, Repr

/-- A frame (R97, R98). -/
inductive FrameRef where
  | pool (i : Nat)
  | dram (i : Nat)
  deriving DecidableEq, Repr

/-- What a trap withholds (R130, R185, R186). -/
inductive TrapSrc where
  | op | mapping | untied | watchdog
  | shuttle (entry : Nat)
  | reel (cmd : Nat)
  | queue (q : Nat)
  | node (n : Nat)
  deriving DecidableEq, Repr

/-- A trap as it is raised (R189, R190). `iid` is the parked instance; `firing` the operation that
raised it. -/
structure Trap where
  cause : Nat
  slot : Nat
  colour : Nat
  lane : Nat
  tag : Nat
  block : Nat
  addr : Nat
  detail : Nat
  aux : Nat
  iid : Option Nat
  firing : Option Firing
  src : TrapSrc
  deriving DecidableEq, Repr

/-- A block instance (R73, R96, R100, R101, R186). Instances stand in the order in which they became
pending. `effects` stand in the order in which their sets issued, each with its set's number; `stalled` is
set once its commit has found a queue or a buffer full, and `fullAt` are the queues whose FULL has counted it (R128).
`waited` are the cycles it has been pending (R73), and `admitNo` is its place in the order of admission (R199).
`owed` is a trap that waits until the one that it is parked on has been answered (R108, R323), and `frameBad` is set once
a fault of its frame has been told (R98). -/
structure Instance where
  iid : Nat
  tag : Tag
  block : Nat
  status : IStatus
  frame : Option FrameRef
  ops : List SlotOps
  counted : Nat
  outs : List Nat
  branch : Option (Nat × Tag)
  branchDone : Bool
  effects : List (Nat × Effect)
  accs : List InstAcc
  portmode : Bool
  handler : Bool
  stalled : Bool
  parkedSets : List Firing
  waited : Nat := 0
  fullAt : List Nat := []
  admitNo : Nat := 0
  owed : Option Trap := none
  frameBad : Bool := false
  deriving DecidableEq, Repr

/-- A token on the switch network (R85, R93): the instance it goes to, the slot and position, the
lanes, and the producing slot. `acq` is a release that its arrival acquires (R177), `fmt` the format code that
it carries (R209), and `scale` marks a scale token, which travels on the scale network (R221). -/
structure Token where
  iid : Nat
  src : Nat
  slot : Nat
  pos : Nat
  run : Run
  opTag : Option Tag
  acq : Option (Agent × Nat)
  fmt : Option Nat := none
  scale : Bool := false
  deriving DecidableEq, Repr

/-! ### Requests that wait -/

/-- What a taken operation waits for (R120, R195). -/
inductive Wait where
  | earlier
  | grant (narg : Nat)
  | spawned (colour : Nat)
  | register
  | queue (q : Nat)
  | phase
  | step
  | flight
  | arbour (step : Nat)
  | bobbin (b : Nat)
  | tile (t : Nat)
  | twait (t : Nat)
  | port
  | lock (core addr : Nat)
  | atomic (lines : List Loc)
  | fault (id : Nat)
  | buffer (store : Nat)
  | world (store : Nat)
  | worldClose (store step : Nat)
  | collective (gid : Nat)
  | collTurn (gid : Nat)
  | path
  | reel
  | remote
  | stream
  deriving DecidableEq, Repr

/-- The unit that holds a request (R85, R120). -/
inductive HUnit where
  | sequencer | carder | matrix | spindle | collective
  deriving DecidableEq, Repr

/-- An operation taken by a unit and waiting. -/
structure Held where
  firing : Firing
  unit : HUnit
  wait : Wait
  deriving DecidableEq, Repr

/-! ### The core's units -/

/-- A live colour (R69, R90, R102, R259, R328). -/
structure Colour where
  id : Nat
  prio : Nat
  regs : List Lane
  shape : List Nat
  depth : Nat
  top : Nat
  allot : Nat
  sret : Bool
  deriving DecidableEq, Repr

/-- A tile table entry (R118). `users` are the agents counted in the current fill or drain and
`rels` the releases that the last ready or empty state gave (R177). -/
structure Tile where
  state : Nat
  poison : Bool
  valid : Bool
  count : Nat
  base : Nat
  len : Nat
  users : List Agent
  rels : List (Agent × Nat)
  deriving DecidableEq, Repr

/-- A bobbin (R132). `filled` holds the releases of the completions it has counted and `freed` those
of the BOBRELs, each with RP as it left it (R177). -/
structure Bobbin where
  wp : Nat
  rp : Nat
  slots : Nat
  err : Bool
  poison : Bool
  infl : Nat
  filled : List (Agent × Nat)
  freed : List (Nat × Agent × Nat)
  deriving DecidableEq, Repr

/-- A queue entry (R127), the release that its pop acquires (R177) and the node that read it. -/
structure QEntry where
  lanes : List Lane
  preds : List Bool
  rel : Option (Agent × Nat)
  src : Option Nat
  deriving DecidableEq, Repr

/-- A queue (R127, R128): the entries on chip in pop order, the ring of spilled entries in its spill area with
the release and the node that each one carries, and its registers. -/
structure Queue where
  entries : List QEntry
  spillHead : Nat
  spillCount : Nat
  spilled : List (Option (Agent × Nat) × Option Nat)
  size : Nat
  base : Nat
  spfault : Bool
  full : Nat
  deriving DecidableEq, Repr

/-- An address-generator node (R122 to R126). `protFault` is a protection fault or race on the
next element, raised when a consumer asks for it. -/
structure Node where
  state : Nat
  desc : List Nat
  i0 : Nat
  i1 : Nat
  i2 : Nat
  i3 : Nat
  opener : Nat
  ahead : Nat
  fault : Option Nat
  badElem : Option Trap
  deriving DecidableEq, Repr

/-- An entry of the copy schedule (R50). -/
structure SchedEntry where
  src : Nat
  dst : Nat
  srcpitch : Nat
  dstpitch : Nat
  stage : Nat
  boben : Bool
  bob : Nat
  rank : Nat
  rowbytes : Nat
  rows : Nat
  deriving DecidableEq, Repr

/-- How far the Shuttle is with an entry (R129, R130). -/
inductive ShState where
  | waiting | running | copied | posted
  deriving DecidableEq, Repr

/-- A schedule entry on a core's Shuttle (R129 to R131). -/
structure ShEntry where
  entry : SchedEntry
  st : ShState
  row : Nat
  err : Bool
  poison : Bool
  withheld : Option Nat
  deriving DecidableEq, Repr

/-- A stream register (R316). -/
structure Stream where
  base : Nat
  len : Nat
  pos : Nat
  lastkey : Nat
  flags : Nat
  deriving DecidableEq, Repr

/-- A register ma0 to ma15 (R324): 64 rows of 128 bytes and the scale plane, each empty while
zero. -/
structure MaReg where
  data : List Byte
  scale : List Byte
  fmt : Nat
  orient : Bool
  written : Bool
  prow : Nat
  deriving DecidableEq, Repr

/-- An accumulator acc0 to acc7 (R325): two banks of 64 x 64 words, each empty while zero. -/
structure AccReg where
  bank0 : List Word
  bank1 : List Word
  active : Bool
  int : Bool
  written : Bool
  psum : Bool
  prow : Nat
  pcol : Nat
  deriving DecidableEq, Repr

/-- A selection register md0 to md7 (R326); `prow` marks the rows that hold an uncorrectable error or
came from a poisoned line (R332). -/
structure MdReg where
  data : List Byte
  written : Bool
  prow : Nat
  deriving DecidableEq, Repr

/-- A step register ss0 to ss3 (R327). -/
structure SsReg where
  mode : Nat
  value : Word
  deriving DecidableEq, Repr

/-- A guard register gd0 to gd3 (R327). -/
structure GdReg where
  emax : Word
  smax : Word
  nf : Bool
  sen : Bool
  een : Bool
  deriving DecidableEq, Repr

/-- A cached translation (R114): a page of `span` bytes. -/
structure TlbEntry where
  va : Nat
  span : Nat
  pa : Nat
  w : Bool
  x : Bool
  deriving DecidableEq, Repr

/-- Where the Reel stands with a page (R139, R389, R354): it follows the link; it checks the copy of a page at T3 once
more; it records an abort; it copies the page that it has come to, which is poisoned where both checks failed; or it
writes DONE, after which the last completion goes out with its poison flag, where a page is under way. -/
inductive ReelStage where
  | follow
  | recheck (page copy : Nat)
  | abort (page at_ : Nat)
  | copy (at_ : Nat) (bad : Bool)
  | finish (last : Option Bool)
  deriving DecidableEq, Repr

/-- A Reel command (R138, R139, R354): the descriptor's fields, the word that links to the next
page, the next page's index, whether its fill is started and how far it is. `withheld` is the fault that withholds
the page, or `trapHeld` where a trap to colour 0 does; `posts` are the completions of pages copied that wait
behind an earlier command on the bobbin, each with its error and poison flags, and `ended` is set once no page is
left (R130, R185). `lost` is set once a write of it has turned out undeliverable (R21). -/
structure ReelCmd where
  id : Nat
  colour : Nat
  link : Nat
  maxpages : Nat
  bob : Nat
  nslot : Nat
  slotbase : Nat
  free : Nat
  skein : Nat
  doneAt : Nat
  k : Nat
  started : Bool
  err : Bool
  poison : Bool
  withheld : Option Nat
  posts : List (Bool × Bool)
  ended : Bool
  stage : ReelStage := .follow
  lost : Bool := false
  deriving DecidableEq, Repr

/-- A candidate of a draw (R379): its token and its value. -/
structure Cand where
  tok : Nat
  val : Word
  deriving DecidableEq, Repr

/-- A binding of the Spindle (R373). -/
structure Binding where
  bound : Bool
  skein : Nat
  prog : List Nat
  ks : List Word
  temp : Word
  vocab : Nat
  maskptr : Nat
  cands : List Cand
  poisoned : Bool
  nonfin : Bool
  deriving DecidableEq, Repr

/-- A camera register (R148); the derived state of R149 is computed from it. -/
structure Camera where
  loaded : Bool
  bytes : List Byte
  deriving DecidableEq, Repr

/-- The core control registers (R69 to R109, R135, R142, R187, R197, R264, R267). -/
structure CoreRegs where
  portmode : Bool
  colLimit : Nat
  admitAge : Nat
  stallwd : Nat
  arbto : Nat
  drainmax : Nat
  poolCount : Nat
  poolBase : Nat
  dramBase : Nat
  dramCount : Nat
  discard : Nat
  spill : Nat
  cfgce : Nat
  reload : Nat
  resdeny : Nat
  elret : Nat
  atomLock : Bool
  atomPending : Option Bool
  memCe : Nat
  memTrans : Nat
  memUe : Nat
  trapvec : Nat
  traparea : Nat
  trapSeq : Nat
  trapWaiting : Bool
  spsave : Nat
  shadv : Nat
  allotSel : Nat
  spFails : Nat
  spDraws : Nat
  deriving DecidableEq, Repr

/-- The launch a core runs (R61, R71). -/
structure Placed where
  lid : Nat
  part : Nat
  rank : Nat
  prio : Nat
  deriving DecidableEq, Repr

/-- A save under way on a core (R198, R201, R202): `written` is the offset of the next byte to write, and
`base` the counter that the image's open bytes are drawn from. -/
structure Saving where
  slot : Nat
  full : Bool
  inflight : Bool
  written : Nat
  fault : Option Nat
  complete : Bool
  base : Nat
  deriving DecidableEq, Repr

/-! ### The device -/

/-- A compute die's clock (R15, R16): the stretch factor's code of R18, whether a sensor is
tripped, and whether the clock is stopped. -/
structure Die where
  factor : Nat
  tripped : Bool
  stopped : Bool
  deriving DecidableEq, Repr

/-- Power control (R15 to R18). -/
structure Power where
  capw : Nat
  overCap : Bool
  episodes : Nat
  hardSag : Bool
  dies : List Die
  deriving DecidableEq, Repr

/-- The firmware state (R29, R32). -/
structure Firmware where
  state : Nat
  fail : Nat
  secver : Nat
  len : Nat
  image : List Byte
  recovery : List Host.Cell
  deriving DecidableEq, Repr

/-- The measurement and quote registers (R30 to R32); each 32-byte register as its bytes. -/
structure Attest where
  meas : List (List Byte)
  dig : List Byte
  measReg : Nat
  nonce : List Byte
  qBusy : Bool
  qDone : Bool
  quote : List Byte
  deriving DecidableEq, Repr

/-- What a packet is to the module that holds it (R20 to R24): another module's, under way; or this one's,
an ordered write or a request with its number, or any other, by its destination, its CLASS and the launch that it is
tied to. -/
inductive Origin where
  | transit
  | write (id : Nat)
  | request (id : Nat)
  | own (dest cls : Nat) (lid : Option Nat)
  deriving DecidableEq, Repr

/-- A packet as a port holds it: the model's number of it, its whole payload, the index of the port field
that this module used, and what it is. -/
structure Parcel where
  num : Nat
  payload : List Byte
  hop : Nat
  origin : Origin
  deriving DecidableEq, Repr

/-- A flit of a packet (R19): its header without CREDIT, which is put in as it leaves, its 64-byte payload
and the packet it belongs to. -/
structure Flit where
  header : Nat
  payload : List Byte
  parcel : Parcel
  deriving DecidableEq, Repr

/-- A flit as it leaves a port (R2, R19): the header, 64 bytes of payload and the check word. -/
structure WireFlit where
  port : Nat
  header : Nat
  payload : List Byte
  check : Word
  deriving DecidableEq, Repr

/-- How far the retry of a failing flit has gone (R23). -/
inductive RetryStage where
  | replayed | retrained
  deriving DecidableEq, Repr

/-- A Twinik port (R19, R23 to R25). `waiting` are the flits for which the replay buffer has no room yet,
`failing` and `rxFailing` the flits whose retry is under way at the sender and at the receiver, each by its SEQ,
`owed` the buffer credits not yet returned to the peer, and `rxPart` a packet whose tail has not arrived: its
head's header and the payload so far. -/
structure Port where
  retired : Bool
  up : Bool
  retraining : Bool
  lasting : Nat
  trans : Nat
  txSeq : Nat
  rxSeq : Nat
  replay : List Flit
  waiting : List Flit
  owed : Nat
  failing : List (Nat × RetryStage)
  rxFailing : List (Nat × RetryStage)
  rxPart : Option (Nat × List Byte)
  deriving DecidableEq, Repr

/-- A route-table entry (R26). -/
structure Route where
  primary : Nat
  alternate : Nat
  priFail : Bool
  altFail : Bool
  deriving DecidableEq, Repr

/-- Where an ordered write stands (R22). -/
inductive OwState where
  | queued | outstanding | returned
  deriving DecidableEq, Repr

/-- An ordered write to another module (R22): the destination, its number in the order sent, the address
and bytes it carries and whether they are poisoned, the access it is, where an agent of this module makes it,
whether it went by the alternate route, where it stands, and the Shuttle's entry or the Reel's command that it is part
of, where it is one's. -/
structure OrderedWrite where
  dest : Nat
  id : Nat
  addr : Nat
  bytes : List Byte
  poison : Bool
  acc : Option Acc
  alt : Bool
  st : OwState
  part : Nat := 0
  deriving DecidableEq, Repr

/-- A hand-over whose first attempt failed (R27, R28), and is tried again. -/
structure Handover where
  what : Handoff
  deriving DecidableEq, Repr

/-- A partition's registers (R39, R42, R43, R60, R62, R114, R143, R187, R200), the launches that are not
pre-empted for priority again (R203) and the granules that a resize releases (R67). `tlbGo` is the
invalidation under way, as SIZE and VA. -/
structure Part where
  en : Bool
  busy : Bool
  fsvc : Bool
  home : Bool
  granules : Nat
  err : Bool
  vfwin : Nat
  ptroot : Nat
  lspillSize : Nat
  lspillBase : Nat
  accepted : List (Nat × Nat)
  pdelta : Nat
  ageus : Nat
  storeCount : Nat
  storeBase : Nat
  supvec : Nat
  saveSlotSz : Nat
  saveBase : Nat
  saveSlots : Nat
  tlbGo : Option (Nat × Nat)
  tlbSize : Nat
  tlbVa : Nat
  noPreempt : List Nat
  releasing : List Nat
  deriving DecidableEq, Repr

/-- A fault queue's registers (R54, R55); `pass` is the PHASE of the current pass. -/
structure FaultQ where
  base : Nat
  en : Bool
  overflow : Bool
  cspace : Bool
  wfault : Bool
  log2n : Nat
  lost : Nat
  head : Nat
  tail : Nat
  pass : Bool
  deriving DecidableEq, Repr

/-- A fault record (R55) before its PHASE is known. -/
structure FRec where
  queue : Nat
  lnum : Nat
  write : Bool
  node : Nat
  core : Nat
  part : Nat
  type : Nat
  address : Nat
  count0 : Nat
  count1 : Nat
  detail : Nat
  faultid : Nat
  deriving DecidableEq, Repr

/-- What a serviceable fault withholds (R46, R49, R57, R98, R130, R202). -/
inductive FaultOwner where
  | held (core lane : Nat)
  | node (core k : Nat)
  | shuttle (core e : Nat)
  | reel (core : Nat)
  | frame (core iid : Nat)
  | args (lid : Nat)
  | sched (lid : Nat)
  | waitWord (lid : Nat)
  | save (lid rank : Nat)
  | restore (lid rank : Nat)
  deriving DecidableEq, Repr

/-- A fault posted and not answered (R57, R202). -/
structure Outstanding where
  id : Nat
  part : Nat
  owner : FaultOwner
  va : Nat
  deriving DecidableEq, Repr

/-- A record in an ingress slot (R41). -/
structure Ingress where
  part : Nat
  prio : Nat
  slot : Nat
  bytes : List Byte
  deriving DecidableEq, Repr

/-- A launch record's fields (R44). -/
structure LaunchRec where
  lnum : Nat
  shape : Nat
  rigid : Bool
  msixen : Bool
  cspace : Bool
  depmode : Bool
  msixvec : Nat
  fmt : Nat
  entry : Nat
  argptr : Nat
  schedptr : Nat
  compladdr : Nat
  word5 : Nat
  waitval : Nat
  schedlen : Nat
  arglen : Nat
  timeout : Nat
  deriving DecidableEq, Repr

/-- Where a launch stands (R43, R47, R49, R52, R66, R195). -/
inductive LPhase where
  | queued | spilled | placed | running | preempting | preempted | resuming | ending
  deriving DecidableEq, Repr

/-- Why a launch is pre-empted (R52, R53, R65, R67, R68). -/
inductive PreReason where
  | priority | resize | retire | cancel | watchdog
  deriving DecidableEq, Repr

/-- An accepted launch (R42 to R53, R61 to R66, R76). `waited` is w of R63 in microseconds; `status` the status and
DETAIL it completes with; `arrived` the ranks arrived at the open step; `pre` why it is pre-empted or is to be, `was`
the cores before a resumption, `again` that this was asked for while it was placed or resumed; `restored` the ranks
restored so far at a resumption; `proxies` the absence tokens sent and not withdrawn, as module and group (R207);
`spillAt` its record's place in the spill area (R43). `back` marks one that a pre-emption sent back to the head of its
queue before it ran (R65), and `resized` and `retired` one that a resize or a retirement pre-empts and waits for (R67,
R68). A launch leaves the list when it is complete. -/
structure Launch where
  lid : Nat
  part : Nat
  prio : Nat
  record : LaunchRec
  phase : LPhase
  waited : Nat
  waitMet : Bool
  waitFault : Option Nat
  cores : List Nat
  placedSize : Nat
  was : List Nat
  schedule : List SchedEntry
  argFault : Option Nat
  steps : Nat
  arrived : List Nat
  ended : List Nat
  status : Option (Nat × Nat)
  pre : Option PreReason
  again : Bool
  wdFired : Bool
  wdAnswered : List Nat
  placedOrder : Nat
  restored : List Nat
  proxies : List (Nat × Nat)
  spillAt : Nat := 0
  back : Bool := false
  resized : Bool := false
  retired : Bool := false
  deriving DecidableEq, Repr

/-- A buffered scatter write (R154): the cell, the writer's ordering key (c, colour, tag, slot, t)
and the contribution; `late` where it was performed after its core's arrival (R156), and `spilled` where it takes
a record in its store's step area (R155). -/
structure SWrite where
  cell : List Nat
  core : Nat
  rank : Nat
  tag : Tag
  slot : Nat
  t : Nat
  d : Word
  w : Nat
  feature : List Nat
  prio : Nat
  cam : Nat
  late : Bool
  spilled : Bool
  deriving DecidableEq, Repr

/-- A bound store (R144, R145, R154 to R158). -/
structure Store where
  part : Nat
  id : Nat
  lid : Nat
  desc : List Byte
  step : Nat
  lostbrick : Nat
  blendovf : Nat
  arrived : List Nat
  pending : List SWrite
  buffer : List SWrite
  deriving DecidableEq, Repr

/-- A collective that a core has issued and that has not completed (R320): its GID, its number there, and the
matched set by its instance, slot and first lane. -/
structure CollIssue where
  gid : Nat
  seq : Nat
  iid : Nat
  slot : Nat
  first : Nat
  deriving DecidableEq, Repr

/-- A participant of an open collective (R318 to R320): its index, its core, the agent it arrived
as with the epoch of that release (R182), the radius of its scope, its form and parameters, and the
local addresses of its blocks; for a participant on another module, the bytes that it has sent, each with its
poison. -/
structure CollPart where
  idx : Nat
  core : Nat
  iid : Nat
  slot : Nat
  agent : Agent
  epoch : Nat
  radius : Nat
  params : List Nat
  src : Nat
  dst : Nat
  first : Nat := 0
  far : Option (List (Byte × Bool)) := none
  deriving DecidableEq, Repr

/-- An open collective (R320): its GID, the number of it that each participant counts, its
participants as the entries of a group table, and who has arrived. -/
structure Coll where
  gid : Nat
  seq : Nat
  group : List Nat
  arrived : List CollPart
  deriving DecidableEq, Repr

/-- What leaves the device for the host (R34, R38, R51, R56), in order: writes of completion words and fault
records to host memory, each on its link, vectors, errors, and what a read answers. -/
inductive HostMsg where
  | write (link addr : Nat) (bytes : List Byte)
  | msix (link func vec : Nat)
  | aer (link func : Nat)
  | readData (bytes : List Byte) (poisoned : Bool)
  | unsupported
  deriving DecidableEq, Repr

/-- A packet that leaves a port or is delivered here (R20, R21). -/
structure Packet where
  port : Nat
  header : Nat
  payload : List Byte
  deriving DecidableEq, Repr

end Sys2Proof.Machine
end

