-- ==== Sys2Proof/Machine/State.lean ====
section
/-! DEFINITION. The state of the FK-1024: every register, memory, queue and unit that the spec
gives it, as plain data, and the state right after reset. -/

namespace Sys2Proof.Machine

open Sys2Proof

/-- The state of one core (R61 to R109, R118 to R142, R186 to R197, R316, R324 to R329, R373).
`inflight` is the switch network, `issueQ` the matched sets of all elements in the order they
entered, `held` the operations taken and waiting, in the order taken, and `deadLinks` the retired switch links,
each by an element and its heading from there (R106). -/
structure Core where
  placed : Option Placed
  endl : Bool
  gated : Bool
  frozen : Bool
  noAdmit : Bool
  regs : CoreRegs
  scratch : List Host.Cell
  scratchPoison : List Nat
  scratchRecs : List (Nat × LineRec)
  colours : List Colour
  nextIid : Nat
  admitSeq : Nat
  instances : List Instance
  mappings : List Mapping
  mapping : Option Nat
  inflight : List Token
  issueQ : List Firing
  held : List Held
  ports : List (Nat × Run)
  nodeData : List (Nat × Run)
  matPath : List (Nat × List Lane)
  nextTok : Nat
  issueSeq : Nat
  traps : List Trap
  ring : List (Nat × Trap)
  tiles : List (Nat × Tile)
  nodes : List (Nat × Node)
  queues : List (Nat × Queue)
  bobbins : List (Nat × Bobbin)
  locks : List Nat
  shuttle : List ShEntry
  reel : List ReelCmd
  streams : List (Nat × Stream)
  mas : List (Nat × MaReg)
  accs : List (Nat × AccReg)
  mds : List (Nat × MdReg)
  sss : List (Nat × SsReg)
  gds : List (Nat × GdReg)
  pts : List (Nat × Nat)
  cams : List (Nat × Camera)
  binds : List (Nat × Binding)
  collSeq : List (Nat × Nat)
  collOpen : List CollIssue
  tlb : List TlbEntry
  saving : Option Saving
  deadLinks : List (Nat × Nat)
  deriving DecidableEq, Repr

/-- What the model does next: a core's element issues its oldest matched set, or the Carder takes
that set to perform it later, a core retries a held request, or a device step happens. -/
inductive Move where
  | issue (core elem : Nat)
  | take (core elem : Nat)
  | retry (core k : Nat)
  | event (i : Instr)
  deriving DecidableEq, Repr

/-- An image in a save slot (R198 to R201): the launch and rank it belongs to, its bytes as
written, and the state of the core it was taken from. -/
structure Image where
  part : Nat
  slot : Nat
  lid : Nat
  rank : Nat
  full : Bool
  size : Nat
  kept : Core
  deriving DecidableEq, Repr

/-- The machine's state. `torn` are the lines of other modules' memory of which the next ordered write has failed its
hand-over to the Twinik port on both attempts (R28). The first fields are the spec's; `agenda`, `firing` and `freeCtr` are the
model's own: the order of moves, the matched set being executed with the core that executes it,
and the counter that free values are drawn by. -/
structure State where
  power : Power
  fw : Firmware
  attest : Attest
  ports : List (Nat × Port)
  routes : List (Nat × Route)
  undel : Nat
  owrites : List OrderedWrite
  nextOw : Nat
  asks : List Ask
  nextParcel : Nat
  nextTurn : Nat
  sent : List WireFlit
  delivered : List Packet
  handovers : List Handover
  handTrans : List (Nat × Nat)
  torn : List Nat
  parts : List (Nat × Part)
  owner : List (Nat × Nat)
  retired : List Nat
  retiring : List Nat
  retCore : Nat
  fqs : List (Nat × FaultQ)
  withheld : List FRec
  outstanding : List Outstanding
  nextFault : Nat
  raceLimit : Nat
  raceBase : Nat
  scopes : List Nat
  stkerr : List (Nat × Nat)
  ingress : List Ingress
  launches : List Launch
  nextLid : Nat
  mem : List Host.Cell
  memPoison : List Nat
  memRecs : List (Nat × LineRec)
  epochs : List (Agent × Nat)
  acquired : List ((Agent × Agent) × Nat)
  collAcq : List ((Agent × Agent) × Nat)
  stores : List Store
  colls : List Coll
  absent : List (Nat × Nat)
  images : List Image
  hostOut : List HostMsg
  cores : List (Nat × Core)
  agenda : List Move
  firing : Option (Nat × Firing)
  freeCtr : Nat
  deriving DecidableEq, Repr

/-- What stops the machine: only an operation executed with no matched set to fire on. `step`
never does that; the fault is safe. -/
inductive Fault where
  /-- Raised by `exec` of an operation when no matched set is being executed. Safe. -/
  | noOperands
  deriving DecidableEq, Repr

/-- Why the model refuses. -/
inductive Refusal where
  /-- Raised by the dispatch for a row that has no meaning yet. Safe. -/
  | notModelled (mnemonic : String)
  deriving DecidableEq, Repr

/-! ### The state after reset -/

/-- The reset values of the core control registers (their register maps). -/
def CoreRegs.reset : CoreRegs where
  portmode := false
  colLimit := 0x3FE
  admitAge := 0x0400
  stallwd := 0x00100000
  arbto := 0x01000000
  drainmax := 0x1000
  poolCount := 8
  poolBase := 0x1B8
  dramBase := 0
  dramCount := 0
  discard := 0
  spill := 0
  cfgce := 0
  reload := 0
  resdeny := 0
  elret := 0
  atomLock := true
  atomPending := none
  memCe := 0
  memTrans := 0
  memUe := 0
  trapvec := 0
  traparea := 0x36F
  trapSeq := 0
  trapWaiting := false
  spsave := 32
  shadv := 0
  allotSel := 0
  spFails := 0
  spDraws := 0

/-- A core after reset: no launch placed, every memory and unit empty. -/
def Core.reset : Core where
  placed := none
  endl := false
  gated := false
  frozen := false
  noAdmit := false
  regs := CoreRegs.reset
  scratch := []
  scratchPoison := []
  scratchRecs := []
  colours := []
  nextIid := 0
  admitSeq := 0
  instances := []
  mappings := []
  mapping := none
  inflight := []
  issueQ := []
  held := []
  ports := []
  nodeData := []
  matPath := []
  nextTok := 0
  issueSeq := 0
  traps := []
  ring := []
  tiles := []
  nodes := []
  queues := []
  bobbins := []
  locks := []
  shuttle := []
  reel := []
  streams := []
  mas := []
  accs := []
  mds := []
  sss := []
  gds := []
  pts := []
  cams := []
  binds := []
  collSeq := []
  collOpen := []
  tlb := []
  saving := none
  deadLinks := []

/-- A die's clock after reset: not stretched. -/
def Die.reset : Die := { factor := 0, tripped := false, stopped := false }

/-- Power control after reset (R17, R18). -/
def Power.reset : Power where
  capw := 0x3A98
  overCap := false
  episodes := 0
  hardSag := false
  dies := [Die.reset, Die.reset, Die.reset, Die.reset, Die.reset, Die.reset, Die.reset, Die.reset]

/-- The firmware state after reset: booting (R32). -/
def Firmware.reset : Firmware where
  state := 0
  fail := 0
  secver := 0
  len := 0
  image := []
  recovery := []

/-- A 32-byte register of zeros. -/
def zero32 : List Byte := List.replicate 32 0

/-- The measurement and quote registers after reset (R30, R32). -/
def Attest.reset : Attest where
  meas := [zero32, zero32, zero32, zero32, zero32, zero32, zero32, zero32]
  dig := zero32
  measReg := 0
  nonce := zero32
  qBusy := false
  qDone := false
  quote := List.replicate 368 0

/-- A port after reset (R25). -/
def Port.reset : Port where
  retired := false
  up := false
  retraining := false
  lasting := 0
  trans := 0
  txSeq := 0
  rxSeq := 0
  replay := []
  waiting := []
  owed := 0
  failing := []
  rxFailing := []
  rxPart := none

/-- A route-table entry after reset (R26). -/
def Route.reset : Route := { primary := 0, alternate := 0, priFail := false, altFail := false }

/-- A partition's registers after reset. -/
def Part.reset : Part where
  en := false
  busy := false
  fsvc := false
  home := false
  granules := 0
  err := false
  vfwin := 0
  ptroot := 0
  lspillSize := 0
  lspillBase := 0
  accepted := []
  pdelta := 0
  ageus := 0x64
  storeCount := 0
  storeBase := 0
  supvec := 0
  saveSlotSz := 0
  saveBase := 0
  saveSlots := 0
  tlbGo := none
  tlbSize := 0
  tlbVa := 0
  noPreempt := []
  releasing := []

/-- A fault queue's registers after reset (R54); the first pass has PHASE 1 (R55). -/
def FaultQ.reset : FaultQ where
  base := 0
  en := false
  overflow := false
  cspace := false
  wfault := false
  log2n := 0
  lost := 0
  head := 0
  tail := 0
  pass := true

/-- The machine right after reset. -/
def State.reset : State where
  power := Power.reset
  fw := Firmware.reset
  attest := Attest.reset
  ports := []
  routes := []
  undel := 0
  owrites := []
  nextOw := 0
  asks := []
  nextParcel := 0
  nextTurn := 0
  sent := []
  delivered := []
  handovers := []
  handTrans := []
  torn := []
  parts := []
  owner := []
  retired := []
  retiring := []
  retCore := 0
  fqs := []
  withheld := []
  outstanding := []
  nextFault := 0
  raceLimit := 0x03C0
  raceBase := 0x00F00000
  scopes := [0, 16, 18, 38, 128, 1024, 65535, 0]
  stkerr := []
  ingress := []
  launches := []
  nextLid := 1
  mem := []
  memPoison := []
  memRecs := []
  epochs := []
  acquired := []
  collAcq := []
  stores := []
  colls := []
  absent := []
  images := []
  hostOut := []
  cores := []
  agenda := []
  firing := none
  freeCtr := 0

end Sys2Proof.Machine
end

