-- ==== Sys2Proof/Machine/Access.lean ====
section
/-! DEFINITION. The state's parts by number, the fault queues and messages to the host (R38, R54 to
R56), and addresses: windows, page tables, cached translations (R110 to R114), poison (R141). -/

namespace Sys2Proof.Machine

open Sys2Proof

/-! ### Parts of the state -/

/-- Core `c`. -/
def State.core (s : State) (c : Nat) : Core := aget Core.reset s.cores c

/-- The state with core `c` replaced. -/
def State.setCore (s : State) (c : Nat) (k : Core) : State := { s with cores := aset s.cores c k }

/-- The state with core `c` changed. -/
def State.modCore (s : State) (c : Nat) (f : Core → Core) : State := s.setCore c (f (s.core c))

/-- Partition `p`. -/
def State.part (s : State) (p : Nat) : Part := aget Part.reset s.parts p

/-- The state with partition `p` changed. -/
def State.modPart (s : State) (p : Nat) (f : Part → Part) : State :=
  { s with parts := aset s.parts p (f (s.part p)) }

/-- Fault queue `i`. -/
def State.fq (s : State) (i : Nat) : FaultQ := aget FaultQ.reset s.fqs i

/-- The state with fault queue `i` changed. -/
def State.modFq (s : State) (i : Nat) (f : FaultQ → FaultQ) : State :=
  { s with fqs := aset s.fqs i (f (s.fq i)) }

/-- Twinik port `n`. -/
def State.port (s : State) (n : Nat) : Port := aget Port.reset s.ports n

/-- The state with port `n` changed. -/
def State.modPort (s : State) (n : Nat) (f : Port → Port) : State :=
  { s with ports := aset s.ports n (f (s.port n)) }

/-- The launch with the model's number `lid`. -/
def State.launch (s : State) (lid : Nat) : Option Launch := s.launches.find? fun l => l.lid == lid

/-- The state with a launch changed. -/
def State.modLaunch (s : State) (lid : Nat) (f : Launch → Launch) : State :=
  { s with launches := modFirst (fun l => l.lid == lid) f s.launches }

/-- The launch a core runs. -/
def State.coreLaunch (s : State) (c : Nat) : Option Launch :=
  (s.core c).placed.bind fun p => s.launch p.lid

/-- The size of a core's set; a core with no launch counts itself alone. -/
def State.setSize (s : State) (c : Nat) : Nat :=
  match s.coreLaunch c with
  | some l => l.cores.length
  | none => 1

/-- The partition of a core's launch. -/
def State.corePart (s : State) (c : Nat) : Nat :=
  match (s.core c).placed with
  | some p => p.part
  | none => 0

/-- The model's number of a core's launch, 0 where it runs none. -/
def State.coreLid (s : State) (c : Nat) : Nat :=
  match (s.core c).placed with
  | some p => p.lid
  | none => 0

/-- A core's rank in its set. -/
def State.coreRank (s : State) (c : Nat) : Nat :=
  match (s.core c).placed with
  | some p => p.rank
  | none => 0

/-- The launch number of a core's launch. -/
def State.coreLnum (s : State) (c : Nat) : Nat :=
  match s.coreLaunch c with
  | some l => l.record.lnum
  | none => 0

/-- The core of rank `r` in the set of core `c`. -/
def State.rankCore (s : State) (c r : Nat) : Option Nat :=
  match s.coreLaunch c with
  | some l => l.cores[r]?
  | none => if r = 0 then some c else none

/-- The supervisor services the translation faults of a core's partition (R39 FSVC). -/
def State.fsvc (s : State) (c : Nat) : Bool := (s.part (s.corePart c)).fsvc

/-- The next free value of the model. -/
def State.drawFree (s : State) : Nat × State :=
  (Config.freeNat s.freeCtr, { s with freeCtr := s.freeCtr + 1 })

/-! ### Physical memory and scratchpads -/

/-- The line of an address. -/
def lineOf (a : Nat) : Nat := a / 64 * 64

/-- The line of a place. -/
def Loc.line : Loc → Loc
  | .scratch c a => .scratch c (lineOf a)
  | .phys a => .phys (lineOf a)

/-- A place `n` bytes on. -/
def Loc.plus : Loc → Nat → Loc
  | .scratch c a, n => .scratch c (a + n)
  | .phys a, n => .phys (a + n)

/-- `n` bytes from a place. -/
def State.readLoc (s : State) (l : Loc) (n : Nat) : List Byte :=
  match l with
  | .scratch c a => memRead (s.core c).scratch a n
  | .phys a => memRead s.mem a n

/-- Bytes written from a place. -/
def State.writeLoc (s : State) (l : Loc) (bs : List Byte) : State :=
  match l with
  | .scratch c a => s.modCore c fun k => { k with scratch := memWrite k.scratch a bs }
  | .phys a => { s with mem := memWrite s.mem a bs }

/-- Whether the line of a place is poisoned (R141). -/
def State.poisoned (s : State) (l : Loc) : Bool :=
  match l with
  | .scratch c a => has (s.core c).scratchPoison (lineOf a)
  | .phys a => has s.memPoison (lineOf a)

/-- The poison bit of a place's line set or cleared. -/
def State.setPoison (s : State) (l : Loc) (p : Bool) : State :=
  let upd := fun (ls : List Nat) (a : Nat) =>
    if p then addMem ls (lineOf a) else ls.filter fun x => x != lineOf a
  match l with
  | .scratch c a => s.modCore c fun k => { k with scratchPoison := upd k.scratchPoison a }
  | .phys a => { s with memPoison := upd s.memPoison a }

/-- One piece of a write performed: its bytes, and the line's poison. A poisoned piece sets the
line's poison bit; a clean piece that fills the line clears it (R141). -/
def State.performSeg (s : State) (g : Seg) : State :=
  let s1 := s.writeLoc g.loc g.bytes
  if g.poison then s1.setPoison g.loc true
  else if g.bytes.length = 64 then s1.setPoison g.loc false
  else s1

/-! ### The host (R34, R38, R51, R54 to R56) -/

/-- The physical place of a host bus address (R111). -/
def hostPhys (a : Nat) : Nat := 0x010000000000 + a

/-- A message to the host. -/
def State.emit (s : State) (m : HostMsg) : State := { s with hostOut := s.hostOut ++ [m] }

/-- A number as bits. -/
def homeLink (p : Part) : Nat := b2n p.home

/-! ### Page tables (R112) -/

/-- What a walk yields. -/
inductive Walk where
  | page (e : TlbEntry)
  | fault
  | poisoned (pa : Nat)
  deriving DecidableEq, Repr

/-- A level of the walk: the lowest bit of its index, its entries, and whether a leaf is allowed. -/
structure Level where
  shift : Nat
  entries : Nat
  leafOk : Bool
  last : Bool
  deriving DecidableEq, Repr

/-- The five levels, from the root (R112). -/
def levels : List Level :=
  [{ shift := 48, entries := 256, leafOk := false, last := false },
   { shift := 39, entries := 512, leafOk := false, last := false },
   { shift := 30, entries := 512, leafOk := true, last := false },
   { shift := 21, entries := 512, leafOk := true, last := false },
   { shift := 16, entries := 32, leafOk := true, last := true }]

/-- A walk from a table at one level on. -/
def walkFrom (s : State) (va : Nat) : List Level → Nat → Walk
  | [], _ => .fault
  | l :: rest, table =>
    let pa := table + 8 * (va / 2 ^ l.shift % l.entries)
    if s.poisoned (.phys pa) then .poisoned pa
    else
      let e := ofBytes (memRead s.mem pa 8)
      let addr := bits e 12 36 * 4096
      if !bit e 0 || bits e 48 16 != 0 || bits e 4 8 != 0 then .fault
      else if bit e 1 then
        if l.leafOk && addr % 2 ^ l.shift == 0 then
          .page { va := va / 2 ^ l.shift * 2 ^ l.shift, span := 2 ^ l.shift, pa := addr,
                  w := bit e 2, x := bit e 3 }
        else .fault
      else if l.last then .fault
      else walkFrom s va rest addr

/-- The walk of an address through a partition's page table (R39 PTROOT, R112). -/
def State.walk (s : State) (p va : Nat) : Walk := walkFrom s va levels ((s.part p).ptroot * 65536)

/-- A cached translation of an address in a core's Carder (R114). -/
def Core.tlbFind (k : Core) (va : Nat) : Option TlbEntry :=
  k.tlb.find? fun e => decide (e.va ≤ va) && decide (va < e.va + e.span)

/-- The translation a core uses: the cached one, or else that of a walk. -/
def State.translation (s : State) (c va : Nat) : Walk :=
  match (s.core c).tlbFind va with
  | some e => .page e
  | none => s.walk (s.corePart c) va

/-- The Carder's cache after a translation has been used: a new one takes a free place, or replaces
an entry the spec leaves open (R114). -/
def State.cacheTlb (s : State) (c : Nat) (e : TlbEntry) : State :=
  let k := s.core c
  if k.tlb.length < 512 then s.setCore c { k with tlb := k.tlb ++ [e] }
  else
    let d := s.drawFree
    d.2.setCore c { k with tlb := setAt k.tlb (d.1 % 512) e }

/-! ### Resolution of addresses (R110, R111) -/

/-- Why an access cannot be made. -/
inductive XFault where
  | translation
  | protection
  deriving DecidableEq, Repr

/-- What an access is for. -/
inductive Use where
  | read | write | fetch | atomic
  deriving DecidableEq, Repr

/-- The windows of R110. -/
inductive Window where
  | own
  | rank (r : Nat)
  | badRank
  | mapped
  deriving DecidableEq, Repr

/-- The window an address falls in, for a set of `n` cores. -/
def windowOf (n va : Nat) : Window :=
  let g := 0x00F0000000000000
  if va < 0x200000 then .own
  else if g ≤ va ∧ va < g + 0x1000000000000 then
    (if (va - g) / 0x200000 < n then .rank ((va - g) / 0x200000) else .badRank)
  else .mapped

/-- The frame pool of a core, as a range of local addresses (R97). -/
def Core.poolRange (k : Core) : Nat × Nat :=
  (k.regs.poolBase * 4096, k.regs.poolBase * 4096 + k.regs.poolCount * 0x9000)

/-- Whether a local address lies in a core's frame pool (R96). -/
def Core.inPool (k : Core) (a : Nat) : Bool :=
  decide (k.poolRange.1 ≤ a) && decide (a < k.poolRange.2)

/-- The end of DRAM (R10). -/
def dramEnd : Nat := 0x010000000000

/-- Whether a physical address lies in the race records' carve-out (R167). -/
def State.inCarveOut (s : State) (pa : Nat) : Bool :=
  decide (s.raceBase * 65536 ≤ pa) && decide (pa < s.raceBase * 65536 + s.raceLimit * 0x4000000)

/-- Whether an address lies in [b, b + n). -/
def inRange (a b n : Nat) : Bool := decide (b ≤ a) && decide (a < b + n)

/-- The bytes of a brick (R147). -/
def brickBytes (fb8 : Bool) : Nat := if fb8 then 12 * 1024 else 20 * 1024

/-- Whether a physical address belongs to a bound store's brick table, pool, step area or
descriptor (R145). -/
def Store.covers (t : Store) (descPa pa : Nat) : Bool :=
  let n := 2 ^ bits (leAt t.desc 32 8) 58 6
  let fb8 := bit (leAt t.desc 24 4) 30
  inRange pa (bits (leAt t.desc 32 8) 12 36 * 4096) (8 * n) ||
    inRange pa (bits (leAt t.desc 40 8) 12 36 * 4096) (brickBytes fb8 * n) ||
    inRange pa (bits (leAt t.desc 48 8) 16 32 * 65536) (bits (leAt t.desc 48 8) 48 16 * 65536) ||
    inRange pa descPa 128

/-- Whether a physical address belongs to a bound store (R145). -/
def State.inStore (s : State) (pa : Nat) : Bool :=
  s.stores.any fun t => t.covers ((s.part t.part).storeBase * 128 + 128 * t.id) pa

/-- Where an access goes, whether it is checked for races as its page is writable (R168), and whether its
target is host memory, or T3 at all. -/
structure Target where
  loc : Loc
  checked : Bool
  host : Bool
  t3 : Bool
  deriving DecidableEq, Repr

/-- Whether the module of a pooled address can be reached (R21). -/
def State.routeUp (s : State) (m : Nat) : Bool :=
  let r := aget Route.reset s.routes m
  let ok := fun (w : Nat) => decide (1 ≤ bits w 60 4) && decide (bits w 60 4 ≤ 12) &&
    decide (bits w 0 5 < 24) && !(s.port (bits w 0 5)).retired
  (!r.priFail && ok r.primary) || (!r.altFail && ok r.alternate)

/-- The page of a translated access, by what the access is for (R110 to R113, R134, R145, R167). -/
def State.pageTarget (s : State) (use : Use) (e : TlbEntry) (va : Nat) : Except XFault Target :=
  let pa := e.pa + (va - e.va)
  if (use == .fetch && !e.x) || ((use == .write || use == .atomic) && !e.w) then .error .protection
  else if pa < dramEnd then
    if s.inCarveOut pa || (e.w && decide (s.raceLimit * 0x40000000 ≤ pa)) ||
        (use != .fetch && s.inStore pa) then .error .protection
    else .ok { loc := .phys pa, checked := e.w, host := false, t3 := false }
  else if pa < 0x800000000000 then
    if use == .atomic then .error .protection
    else .ok { loc := .phys pa, checked := false, host := true, t3 := true }
  else
    let m := bits pa 35 12
    if m = Config.moduleId.toNat then .error .protection
    else if !s.routeUp m then .error .translation
    else .ok { loc := .phys pa, checked := e.w, host := false, t3 := true }

/-- Where one byte's access by a program on core `c` goes (R110). -/
def State.resolve (s : State) (c : Nat) (use : Use) (va : Nat) : Except XFault Target :=
  match windowOf (s.setSize c) va with
  | .own =>
    if (s.core c).inPool va then .error .protection
    else .ok { loc := .scratch c va, checked := true, host := false, t3 := false }
  | .rank r =>
    match s.rankCore c r with
    | none => .error .protection
    | some c' =>
      let a := va % 0x200000
      if (s.core c').inPool a then .error .protection
      else .ok { loc := .scratch c' a, checked := true, host := false, t3 := false }
  | .badRank => .error .protection
  | .mapped =>
    match s.translation c va with
    | .page e => s.pageTarget use e va
    | .fault => .error .translation
    | .poisoned _ => .error .protection

/-- The address space has 56 bits. -/
def wrapVa (a : Nat) : Nat := a % 2 ^ 56

/-- The pieces of [va, va + n) that lie within one line each, as address and length. -/
def pieces : Nat → Nat → Nat → List (Nat × Nat)
  | 0, _, _ => []
  | fuel + 1, va, n =>
    if n = 0 then []
    else
      let k := min n (64 - va % 64)
      (va, k) :: pieces fuel (va + k) (n - k)

/-- Where the bytes of one access go: a target for each piece, all through one row of R110. -/
def State.resolveRange (s : State) (c : Nat) (use : Use) (va n : Nat) :
    Except (XFault × Nat) (List (Target × Nat)) :=
  if windowOf (s.setSize c) va != windowOf (s.setSize c) (wrapVa (va + n - 1)) then
    .error (.protection, va)
  else
    (pieces (n / 64 + 2) va n).mapM fun p =>
      match s.resolve c use (wrapVa p.1) with
      | .ok t => .ok (t, p.2)
      | .error e => .error (e, wrapVa p.1)

end Sys2Proof.Machine
end

