-- ==== Sys2Proof/Machine/Faults.lean ====
section
/-! DEFINITION. Fault records and their queues (R54 to R56), serviceable faults (R57), and the end
of a launch (R51, R191, R192). -/

namespace Sys2Proof.Machine

open Sys2Proof

/-- The records a ring holds (R54): LOG2N below 4 is taken as 4. -/
def FaultQ.size (q : FaultQ) : Nat := 2 ^ (if q.log2n < 4 then 4 else q.log2n)

/-- Whether a ring is full. -/
def FaultQ.isFull (q : FaultQ) : Bool := (q.head + 1) % q.size == q.tail % q.size

/-- The four words of a fault record (R55). -/
def FRec.words (f : FRec) (phase : Bool) : List Nat :=
  [f.lnum % 2 ^ 32 * 2 ^ 32 + b2n f.write * 2 ^ 27 + f.node % 32 * 2 ^ 22 + f.core % 1024 * 2 ^ 12 +
      f.part % 16 * 2 ^ 8 + f.type % 256,
   f.address % 2 ^ 56,
   f.count1 % 2 ^ 32 * 2 ^ 32 + f.count0 % 2 ^ 32,
   f.detail % 2 ^ 32 * 2 ^ 32 + b2n phase * 2 ^ 31 + f.faultid % 2 ^ 16]

/-- The bytes of a fault record. -/
def FRec.bytes (f : FRec) (phase : Bool) : List Byte := (f.words phase).flatMap (toBytes 8)

/-- Where the device writes a record of a ring (R54), or none where the write would fault: in host
memory, at a virtual address of the queue's partition, or (queue 16) at a physical address. DESIGN CHOICE: the write
meets a lasting integrity failure where its line is poisoned (log 126). -/
def State.ringPlace (s : State) (i : Nat) (q : FaultQ) : Option Loc :=
  let a := q.base + 32 * (q.head % q.size)
  let sound := fun (l : Loc) => if s.poisoned l then none else some l
  if !q.cspace then some (.phys (hostPhys a))
  else if i = 16 then sound (.phys a)
  else
    match windowOf 0 (wrapVa a), s.walk i (wrapVa a) with
    | .mapped, .page e =>
      match s.pageTarget .write e (wrapVa a) with
      | .ok t => sound t.loc
      | .error _ => none
    | _, _ => none

/-- A record that finds its ring full or not enabled (R56): a type 0x01 record is withheld, any
other is counted as lost. -/
def State.loseRec (s : State) (f : FRec) : State :=
  if f.type = 1 then { s with withheld := s.withheld ++ [f] }
  else s.modFq f.queue fun q => { q with lost := satAdd q.lost 1 0xFFFF, overflow := true }

/-- The function that owns a partition's queue (R56), as its number on the home link: VF p, numbered p + 1,
where it is enabled, or else the PF, numbered 0. -/
def State.ownFunc (s : State) (p : Nat) : Nat := if Config.vfEnabled (homeLink (s.part p)) p then p + 1 else 0

/-- The link of a queue's owning function, and its number there (R56): PF0 for queue 16. -/
def State.ringFunc (s : State) (i : Nat) : Nat × Nat :=
  if i = 16 then (0, 0) else (homeLink (s.part i), s.ownFunc i)

/-- MSI-X vector 0 of a queue's owning function sent, where it is enabled (R56). -/
def State.ringVector (s : State) (i : Nat) : State :=
  let f := s.ringFunc i
  if Config.vectorEnabled f.1 f.2 then s.emit (.msix f.1 f.2 0) else s

/-- Bytes written at a place as they leave for the host on the link of a queue's owner (R38), where the place is one of
host memory (R111), by whichever address it was found. -/
def State.noteHost (s : State) (queue : Nat) (l : Loc) (bs : List Byte) : State :=
  match l with
  | .phys a => if hostPhys 0 ≤ a ∧ a < 0x800000000000 then s.emit (.write (s.ringFunc queue).1 (a - hostPhys 0) bs) else s
  | .scratch _ _ => s

/-- Bytes that the device writes for the host: at a place of device memory or of host memory, after what left before. -/
def State.tellHost (s : State) (queue : Nat) (l : Loc) (bs : List Byte) : State := (s.writeLoc l bs).noteHost queue l bs

/-- FAULT_RECORD_POST (R56): the record is written to its ring, HEAD advances and the vector is
sent; or the record is withheld or counted as lost. -/
def State.postRec (s : State) (f : FRec) : State :=
  let q := s.fq f.queue
  if !q.en || q.isFull then s.loseRec f
  else
    match s.ringPlace f.queue q with
    | none => (s.modFq f.queue fun q => { q with wfault := true, en := false }).loseRec f
    | some l =>
      let s1 := s.tellHost f.queue l (f.bytes q.pass)
      let h := (q.head + 1) % q.size
      let s2 := s1.modFq f.queue fun q => { q with head := h, pass := if h = 0 then !q.pass else q.pass }
      s2.ringVector f.queue

/-- A record with every field zero but its queue, partition and type. -/
def FRec.blank (queue part type : Nat) : FRec where
  queue := queue
  lnum := 0
  write := false
  node := 0
  core := 0
  part := part
  type := type
  address := 0
  count0 := 0
  count1 := 0
  detail := 0
  faultid := 0

/-- A record about a core's launch. -/
def State.coreRec (s : State) (c type : Nat) : FRec :=
  { FRec.blank (s.corePart c) (s.corePart c) type with lnum := s.coreLnum c, core := c }

/-- A serviceable fault (R57): a type 0x01 record with a fresh FAULTID, outstanding until it is
answered. The identifier is the second component. -/
def State.serviceFault (s : State) (f : FRec) (owner : FaultOwner) : State × Nat :=
  let id := s.nextFault
  let s1 := { s with nextFault := (id + 1) % 65536,
                     outstanding := s.outstanding ++
                       [(Outstanding.mk id f.part owner f.address)] }
  (s1.postRec { f with faultid := id }, id)

/-- A fault withdrawn: no later answer finds it (R58, R125). -/
def State.withdrawFault (s : State) (id : Nat) : State :=
  { s with outstanding := s.outstanding.filter fun o => o.id != id,
           withheld := s.withheld.filter fun f => f.faultid != id }

/-- A type 0x06 record of a poisoned page-table entry (R112). -/
def State.postPoisonedWalk (s : State) (c pa : Nat) : State :=
  s.postRec { s.coreRec c 6 with address := pa }

/-- A launch brought to its end with a status and DETAIL (R51): LAUNCH_COMPLETE then completes it.
A launch that already ends keeps its first status. -/
def State.endLaunch (s : State) (lid status detail : Nat) : State :=
  s.modLaunch lid fun l =>
    if l.phase == .ending then l
    else { l with phase := .ending, status := some (status, detail) }

end Sys2Proof.Machine
end

