-- ==== Sys2Proof/Machine/Float.lean ====
section
/-! DEFINITION. Number formats (R209 to R215): every operation takes the exact value of its
operands, computes without rounding and rounds once. -/

namespace Sys2Proof.Machine

open Sys2Proof

/-- A floating-point format (R211): exponent width, mantissa width and bias; E4M3 has no Inf. -/
structure FForm where
  eb : Nat
  mb : Nat
  bias : Nat
  noInf : Bool
  deriving DecidableEq, Repr

/-- IEEE 754 binary32. -/
def fp32 : FForm := { eb := 8, mb := 23, bias := 127, noInf := false }
/-- IEEE 754 binary16. -/
def fp16 : FForm := { eb := 5, mb := 10, bias := 15, noInf := false }
/-- bfloat16. -/
def bf16 : FForm := { eb := 8, mb := 7, bias := 127, noInf := false }
/-- OCP FP8 E4M3. -/
def e4m3 : FForm := { eb := 4, mb := 3, bias := 7, noInf := true }
/-- OCP FP8 E5M2. -/
def e5m2 : FForm := { eb := 5, mb := 2, bias := 15, noInf := false }

/-- An exact value: a NaN with its sign and its mantissa aligned to 23 bits, an infinity, or
m·2^e with a sign (so that zeros keep theirs). -/
inductive FV where
  | nan (neg : Bool) (frac : Nat)
  | inf (neg : Bool)
  | fin (neg : Bool) (m : Nat) (e : Int)
  deriving DecidableEq, Repr

/-- The value of a bit pattern. -/
def FForm.decode (F : FForm) (x : Nat) : FV :=
  let neg := bit x (F.eb + F.mb)
  let ex := bits x F.mb F.eb
  let mant := bits x 0 F.mb
  if F.noInf then
    if ex = 2 ^ F.eb - 1 ∧ mant = 2 ^ F.mb - 1 then .nan neg (mant * 2 ^ (23 - F.mb))
    else if ex = 0 then .fin neg mant (1 - (F.bias : Int) - F.mb)
    else .fin neg (2 ^ F.mb + mant) ((ex : Int) - F.bias - F.mb)
  else if ex = 2 ^ F.eb - 1 then
    if mant = 0 then .inf neg else .nan neg (mant * 2 ^ (23 - F.mb))
  else if ex = 0 then .fin neg mant (1 - (F.bias : Int) - F.mb)
  else .fin neg (2 ^ F.mb + mant) ((ex : Int) - F.bias - F.mb)

/-- The sign bit of a format. -/
def FForm.signBit (F : FForm) (neg : Bool) : Nat := if neg then 2 ^ (F.eb + F.mb) else 0

/-- The default NaN (R211). -/
def FForm.defNaN (F : FForm) : Nat :=
  if F.noInf then 0x7F else (2 ^ F.eb - 1) * 2 ^ F.mb + 2 ^ (F.mb - 1)

/-- A NaN in a format, quieted (R214). -/
def FForm.encNaN (F : FForm) (neg : Bool) (frac : Nat) : Nat :=
  if F.noInf then F.signBit neg + 0x7F
  else
    let m := frac / 2 ^ (23 - F.mb)
    F.signBit neg + (2 ^ F.eb - 1) * 2 ^ F.mb + (if bit m (F.mb - 1) then m else m + 2 ^ (F.mb - 1))

/-- The code of the largest finite magnitude. -/
def FForm.maxCode (F : FForm) : Nat :=
  if F.noInf then 2 ^ (F.eb + F.mb) - 2 else (2 ^ F.eb - 1) * 2 ^ F.mb - 1

/-- An infinity in a format; E4M3 saturates (R212). -/
def FForm.encInf (F : FForm) (neg : Bool) : Nat :=
  F.signBit neg + (if F.noInf then F.maxCode else (2 ^ F.eb - 1) * 2 ^ F.mb)

/-- Whether a remainder rounds the magnitude up: `r` out of `d`, the quotient's parity `odd`. -/
def roundUp (rm : Rm) (neg : Bool) (odd : Bool) (r d : Nat) : Bool :=
  match rm with
  | .rne => decide (d < 2 * r) || (decide (d = 2 * r) && odd)
  | .rz => false
  | .ru => !neg && decide (0 < r)
  | .rd => neg && decide (0 < r)

/-- ⌊log2 (n / d)⌋ for positive n and d. -/
def floorLog2 (n d : Nat) : Int :=
  let k : Int := (Nat.log2 n : Int) - Nat.log2 d
  let less : Bool := if 0 ≤ k then decide (n < d * 2 ^ k.toNat) else decide (n * 2 ^ (-k).toNat < d)
  if less then k - 1 else k

/-- n / d · 2^s as a fraction of naturals. -/
def scaleQ (n d : Nat) (s : Int) : Nat × Nat :=
  if 0 ≤ s then (n * 2 ^ s.toNat, d) else (n, d * 2 ^ (-s).toNat)

/-- The magnitude n / d · 2^e rounded to an integer multiple of 2^q. -/
def roundQ (rm : Rm) (neg : Bool) (n d : Nat) (e q : Int) : Nat :=
  let p := scaleQ n d (e - q)
  let k := p.1 / p.2
  if roundUp rm neg (k % 2 == 1) (p.1 % p.2) p.2 then k + 1 else k

/-- ±n / d · 2^e rounded once to a format (R212). -/
def FForm.round (F : FForm) (rm : Rm) (neg : Bool) (n d : Nat) (e : Int) : Nat :=
  if n = 0 then F.signBit neg
  else
    let emin : Int := 1 - (F.bias : Int)
    let ex := floorLog2 n d + e
    let q : Int := (if ex < emin then emin else ex) - F.mb
    let k := roundQ rm neg n d e q
    let code := ((q + F.mb + F.bias - 1).toNat) * 2 ^ F.mb + k
    if code ≤ F.maxCode then F.signBit neg + code
    else if F.noInf then F.signBit neg + F.maxCode
    else
      match rm with
      | .rne => F.encInf neg
      | .rz => F.signBit neg + F.maxCode
      | .ru => if neg then F.signBit neg + F.maxCode else F.encInf neg
      | .rd => if neg then F.encInf neg else F.signBit neg + F.maxCode

/-- An exact value rounded once to a format. -/
def FForm.encode (F : FForm) (rm : Rm) : FV → Nat
  | .nan neg frac => F.encNaN neg frac
  | .inf neg => F.encInf neg
  | .fin neg m e => F.round rm neg m 1 e

/-- An exact integer multiple of 2^e as a value; zero takes the sign `z`. -/
def FV.ofInt (z : Bool) (x : Int) (e : Int) : FV :=
  if x = 0 then .fin z 0 0 else .fin (decide (x < 0)) x.natAbs e

/-- The signed mantissa of a finite value over the exponent `e`, which is at most its own. -/
def signedAt (neg : Bool) (m : Nat) (e0 e : Int) : Int :=
  let y : Int := (m * 2 ^ (e0 - e).toNat : Nat)
  if neg then -y else y

/-- The lesser of two integers. -/
def imin (a b : Int) : Int := if a ≤ b then a else b

/-- The exact sum of two values that are not NaN; `none` is an invalid sum (R214). An exact zero of
unlike signs is +0, and -0 under RD (R212). -/
def FV.addV (rm : Rm) : FV → FV → Option FV
  | .inf a, .inf b => if a = b then some (.inf a) else none
  | .inf a, _ => some (.inf a)
  | _, .inf b => some (.inf b)
  | .fin a m e, .fin b n f =>
    let g := imin e f
    let s := signedAt a m e g + signedAt b n f g
    if s = 0 then
      if m = 0 ∧ n = 0 ∧ a = b then some (.fin a 0 0) else some (.fin (rm == .rd) 0 0)
    else some (FV.ofInt false s g)
  | a, _ => some a

/-- The exact product of two values that are not NaN; `none` is 0·Inf. -/
def FV.mulV : FV → FV → Option FV
  | .inf a, .inf b => some (.inf (a != b))
  | .inf a, .fin b m _ => if m = 0 then none else some (.inf (a != b))
  | .fin a m _, .inf b => if m = 0 then none else some (.inf (a != b))
  | .fin a m e, .fin b n f => some (.fin (a != b) (m * n) (e + f))
  | a, _ => some a

/-- Whether a value is a NaN. -/
def FV.isNaN : FV → Bool
  | .nan _ _ => true
  | _ => false

/-- The first NaN of a list of operands (R214). -/
def firstNaN : List FV → Option FV
  | [] => none
  | v :: r => if v.isNaN then some v else firstNaN r

/-- The negation of a value. -/
def FV.negV : FV → FV
  | .nan s f => .nan s f
  | .inf s => .inf (!s)
  | .fin s m e => .fin (!s) m e

/-- A result in a format: the first NaN operand, the default NaN of an invalid operation, or the
exact value rounded once. -/
def FForm.result (F : FForm) (rm : Rm) (ops : List FV) (r : Option FV) : Nat :=
  match firstNaN ops with
  | some v => F.encode rm v
  | none =>
    match r with
    | none => F.defNaN
    | some v => F.encode rm v

/-- a + b. -/
def FForm.add (F : FForm) (rm : Rm) (a b : Nat) : Nat :=
  F.result rm [F.decode a, F.decode b] (FV.addV rm (F.decode a) (F.decode b))

/-- a - b; a NaN operand keeps its sign. -/
def FForm.sub (F : FForm) (rm : Rm) (a b : Nat) : Nat :=
  F.result rm [F.decode a, F.decode b] (FV.addV rm (F.decode a) (F.decode b).negV)

/-- a·b. -/
def FForm.mul (F : FForm) (rm : Rm) (a b : Nat) : Nat :=
  F.result rm [F.decode a, F.decode b] (FV.mulV (F.decode a) (F.decode b))

/-- a·b + c, rounded once, of exact values. -/
def FForm.fmaV (F : FForm) (rm : Rm) (a b c : FV) : Nat :=
  F.result rm [a, b, c] ((FV.mulV a b).bind fun p => FV.addV rm p c)

/-- a·b + c, rounded once (R287). -/
def FForm.fma (F : FForm) (rm : Rm) (a b c : Nat) : Nat :=
  F.fmaV rm (F.decode a) (F.decode b) (F.decode c)

/-- a / b (R287, R214). -/
def FForm.div (F : FForm) (rm : Rm) (a b : Nat) : Nat :=
  match firstNaN [F.decode a, F.decode b] with
  | some v => F.encode rm v
  | none =>
    match F.decode a, F.decode b with
    | .inf _, .inf _ => F.defNaN
    | .inf s, .fin t _ _ => F.encInf (s != t)
    | .fin s _ _, .inf t => F.signBit (s != t)
    | .fin s m e, .fin t n f =>
      if n = 0 then (if m = 0 then F.defNaN else F.encInf (s != t))
      else F.round rm (s != t) m n (e - f)
    | _, _ => F.defNaN

/-- The square root of m·2^e with 2^-k of its own size: the numerator of a value over 2^p with a
sticky bit, and the exponent. -/
def sqrtQ (m : Nat) (e : Int) : Nat × Int :=
  let m' := if e % 2 = 0 then m else 2 * m
  let e' := if e % 2 = 0 then e else e - 1
  let w := m' * 2 ^ 128
  let r := Nat.sqrt w
  (2 * r + (if r * r = w then 0 else 1), e' / 2 - 65)

/-- √a (R287). -/
def FForm.sqrt (F : FForm) (rm : Rm) (a : Nat) : Nat :=
  match F.decode a with
  | .nan s f => F.encNaN s f
  | .inf s => if s then F.defNaN else F.encInf false
  | .fin s m e =>
    if m = 0 then F.signBit s
    else if s then F.defNaN
    else
      let p := sqrtQ m e
      F.round rm false p.1 1 p.2

/-- The helpers of R230 on FP32 words. -/
def addF32 (a b : Nat) : Nat := fp32.add .rne a b
/-- round_rne(a·b, FP32). -/
def mulF32 (a b : Nat) : Nat := fp32.mul .rne a b
/-- round_rne(a·b + c, FP32). -/
def fmaF32 (a b c : Nat) : Nat := fp32.fma .rne a b c
/-- round_rne(a / b, FP32). -/
def divF32 (a b : Nat) : Nat := fp32.div .rne a b
/-- round_rne(√a, FP32). -/
def sqrtF32 (a : Nat) : Nat := fp32.sqrt .rne a

/-- An FP32 word with its sign flipped. -/
def negF32 (a : Nat) : Nat := if bit a 31 then a - 2 ^ 31 else a + 2 ^ 31

/-- The magnitude bits of an FP32 word. -/
def absF32 (a : Nat) : Nat := a % 2 ^ 31

/-- The comparison of two values that are not NaN: -1, 0 or 1. -/
def FV.cmpV : FV → FV → Int
  | .inf a, .inf b => if a = b then 0 else if a then -1 else 1
  | .inf a, _ => if a then -1 else 1
  | _, .inf b => if b then 1 else -1
  | .fin a m e, .fin b n f =>
    let g := imin e f
    let x := signedAt a m e g
    let y := signedAt b n f g
    if x < y then -1 else if x = y then 0 else 1
  | _, _ => 0

/-- Whether a < b, false on a NaN. -/
def FForm.lt (F : FForm) (a b : Nat) : Bool :=
  let x := F.decode a
  let y := F.decode b
  !x.isNaN && !y.isNaN && decide (FV.cmpV x y < 0)

/-- Whether a ≤ b, false on a NaN. -/
def FForm.le (F : FForm) (a b : Nat) : Bool :=
  let x := F.decode a
  let y := F.decode b
  !x.isNaN && !y.isNaN && decide (FV.cmpV x y ≤ 0)

/-- Whether a = b, false on a NaN; -0 equals +0. -/
def FForm.eq (F : FForm) (a b : Nat) : Bool :=
  let x := F.decode a
  let y := F.decode b
  !x.isNaN && !y.isNaN && decide (FV.cmpV x y = 0)

/-- Whether a bit pattern is a NaN. -/
def FForm.isNaN (F : FForm) (a : Nat) : Bool := (F.decode a).isNaN

/-- Whether a bit pattern is finite. -/
def FForm.isFin (F : FForm) (a : Nat) : Bool :=
  match F.decode a with
  | .fin _ _ _ => true
  | _ => false

/-- The lesser (or greater) of two elements: -0 counts as less than +0, and the first NaN wins,
quieted (R288). -/
def FForm.minMax (F : FForm) (greater : Bool) (a b : Nat) : Nat :=
  let x := F.decode a
  let y := F.decode b
  match firstNaN [x, y] with
  | some v => F.encode .rne v
  | none =>
    let c := FV.cmpV x y
    let na := bit a (F.eb + F.mb)
    let aLess : Bool := decide (c < 0) || (decide (c = 0) && na)
    if greater then (if aLess then b else a) else (if aLess then a else b)

/-- ⌊x⌋ of an FP32 word; 0 for NaN or Inf (R230). -/
def floorF32 (a : Nat) : Int :=
  match fp32.decode a with
  | .fin s m e =>
    let num : Int := if s then -(m : Int) else m
    if 0 ≤ e then num * (2 ^ e.toNat : Nat) else num.fdiv ((2 ^ (-e).toNat : Nat) : Int)
  | _ => 0

/-- An integer rounded to FP32 (R230). -/
def floatF32 (x : Int) : Nat := fp32.encode .rne (FV.ofInt false x 0)

/-- A value rounded to an integer, as its magnitude. -/
def roundInt (rm : Rm) (neg : Bool) (m : Nat) (e : Int) : Nat := roundQ rm neg m 1 e 0

/-- A float to an integer of `w` bits, signed or not, by R215: the low bits. -/
def cvtIntV (rm : Rm) (w : Nat) (signed : Bool) (v : FV) : Nat :=
  match v with
  | .nan _ _ => 0
  | .inf neg =>
    if signed then (if neg then 2 ^ (w - 1) else 2 ^ (w - 1) - 1) else (if neg then 0 else 2 ^ w - 1)
  | .fin neg m e =>
    let k : Int := roundInt rm neg m e
    let x : Int := if neg then -k else k
    if signed then satS w x else satU w x

/-- FRINT: an element rounded to an integral value in its own format (R291). -/
def FForm.rint (F : FForm) (rm : Rm) (a : Nat) : Nat :=
  match F.decode a with
  | .fin neg m e => F.round .rne neg (roundInt rm neg m e) 1 0
  | v => F.encode rm v

/-- FEXPI: a·2^n, rounded once (R292). -/
def FForm.expi (F : FForm) (rm : Rm) (a : Nat) (n : Int) : Nat :=
  match F.decode a with
  | .fin neg m e =>
    let lim : Int := 4096
    let n' := if n < -lim then -lim else if lim < n then lim else n
    F.round rm neg m 1 (e + n')
  | v => F.encode rm v

/-- FGETX: ⌊log2 |a|⌋ as a `w`-bit integer, with the special values of R292. -/
def FForm.getx (F : FForm) (w : Nat) (a : Nat) : Nat :=
  match F.decode a with
  | .nan _ _ => 2 ^ (w - 1) + 1
  | .inf _ => 2 ^ (w - 1) - 1
  | .fin _ m e => if m = 0 then 2 ^ (w - 1) else wrap w (floorLog2 m 1 + e)

/-- FCLASS: one bit for the class of an element (R288). -/
def FForm.classify (F : FForm) (a : Nat) : Nat :=
  match F.decode a with
  | .nan _ _ => if bit a (F.mb - 1) then 2 ^ 9 else 2 ^ 8
  | .inf neg => if neg then 1 else 2 ^ 7
  | .fin neg m _ =>
    if m = 0 then (if neg then 2 ^ 3 else 2 ^ 4)
    else if m < 2 ^ F.mb then (if neg then 2 ^ 2 else 2 ^ 5)
    else (if neg then 2 ^ 1 else 2 ^ 6)

/-! ### Exponentials and logarithms

DEDUCED (log 9): the spec asks for the exact function value rounded once; the value is computed in
fixed point with 256 fraction bits, far below the spacing of any result. -/

/-- The fraction bits of the fixed-point values. -/
def fxp : Nat := 256

/-- Σ z^(2k+1)/(2k+1), the area tangent of z in fixed point, with `n` terms from the `k`-th; `t` is
z^(2k+1). -/
def atanhSum (z2 : Nat) : Nat → Nat → Nat → Nat
  | 0, _, _ => 0
  | n + 1, k, t => t / (2 * k + 1) + atanhSum z2 n (k + 1) (t * z2 / 2 ^ fxp)

/-- ln of n / d in [1, 2), in fixed point. -/
def lnFx (n d : Nat) : Nat :=
  let z := (n - d) * 2 ^ fxp / (n + d)
  2 * atanhSum (z * z / 2 ^ fxp) 96 0 z

/-- ln 2 in fixed point. -/
def ln2Fx : Nat := 2 * atanhSum (2 ^ fxp / 9) 96 0 (2 ^ fxp / 3)

/-- Σ x^k/k! in fixed point: `n` terms from the `k`-th, whose value is `t`. -/
def expSum (x : Nat) : Nat → Nat → Nat → Nat
  | 0, _, _ => 0
  | n + 1, k, t => t + expSum x n (k + 1) (t * x / 2 ^ fxp / (k + 1))

/-- e^x for a fixed-point x in [0, 1). -/
def expFx (x : Nat) : Nat := expSum x 80 0 (2 ^ fxp)

/-- A finite value as a fixed-point integer, rounded down; for |value| below 2^20. -/
def toFx (neg : Bool) (m : Nat) (e : Int) : Int :=
  let num : Int := if neg then -(m : Int) else m
  let s := e + fxp
  if 0 ≤ s then num * (2 ^ s.toNat : Nat) else num.fdiv ((2 ^ (-s).toNat : Nat) : Int)

/-- e^v as a positive value M·2^E, for |v| below 2^20; an exact 1 for v = 0. -/
def expVal (neg : Bool) (m : Nat) (e : Int) : Nat × Int :=
  if m = 0 then (1, 0)
  else
    let x := toFx neg m e
    let k := x.fdiv (ln2Fx : Int)
    let r := (x - k * ln2Fx).toNat
    (expFx r, k - fxp)

/-- 2^v as a positive value M·2^E, exact for an integral v. -/
def exp2Val (neg : Bool) (m : Nat) (e : Int) : Nat × Int :=
  if m = 0 then (1, 0)
  else
    let x := toFx neg m e
    let k := x.fdiv ((2 ^ fxp : Nat) : Int)
    let r := (x - k * (2 ^ fxp : Nat)).toNat
    if r = 0 then (1, k) else (expFx (r * ln2Fx / 2 ^ fxp), k - fxp)

/-- ln of a positive value m·2^e, in fixed point. -/
def lnVal (m : Nat) (e : Int) : Int :=
  let k := Nat.log2 m
  (lnFx m (2 ^ k) : Int) + (e + k) * ln2Fx

/-- A fixed-point integer as an exact value; zero is +0. -/
def FV.ofFx (x : Int) : FV := FV.ofInt false x (-(fxp : Int))

/-- exp_f32 (R230): round_rne(e^y, FP32). -/
def expF32 (a : Nat) : Nat :=
  match fp32.decode a with
  | .nan s f => fp32.encNaN s f
  | .inf neg => if neg then 0 else fp32.encInf false
  | .fin neg m e =>
    if 9 ≤ floorLog2 m 1 + e ∧ m ≠ 0 then (if neg then 0 else fp32.encInf false)
    else
      let p := expVal neg m e
      fp32.round .rne false p.1 1 p.2

/-- round_rne(2^y, FP32) (R351, R352). -/
def exp2F32 (a : Nat) : Nat :=
  match fp32.decode a with
  | .nan s f => fp32.encNaN s f
  | .inf neg => if neg then 0 else fp32.encInf false
  | .fin neg m e =>
    if 9 ≤ floorLog2 m 1 + e ∧ m ≠ 0 then (if neg then 0 else fp32.encInf false)
    else
      let p := exp2Val neg m e
      fp32.round .rne false p.1 1 p.2

/-- round_rne(ln x, FP32) of an FP32 word: of a negative the default NaN, of a zero -Inf. -/
def lnF32 (a : Nat) : Nat :=
  match fp32.decode a with
  | .nan s f => fp32.encNaN s f
  | .inf neg => if neg then fp32.defNaN else fp32.encInf false
  | .fin neg m e =>
    if m = 0 then fp32.encInf true
    else if neg then fp32.defNaN
    else fp32.encode .rne (FV.ofFx (lnVal m e))

/-- A positive value rounded by RNE to 12 significant bits, as an FP32 word: Inf from 2^128, and
zero below 2^-126 (R293). -/
def round12 (neg : Bool) (n d : Nat) (e : Int) : Nat :=
  if n = 0 then fp32.signBit neg
  else
    let ex := floorLog2 n d + e
    if ex < -126 then fp32.signBit neg
    else
      let q := ex - 11
      let k := roundQ .rne neg n d e q
      fp32.round .rne neg k 1 q

/-- FRCP (R293). -/
def frcpBits (a : Nat) : Nat :=
  match fp32.decode a with
  | .nan s f => fp32.encNaN s f
  | .inf neg => fp32.signBit neg
  | .fin neg m e => if m = 0 then fp32.encInf neg else round12 neg 1 m (-e)

/-- FRSQ (R293). -/
def frsqBits (a : Nat) : Nat :=
  match fp32.decode a with
  | .nan s f => fp32.encNaN s f
  | .inf neg => if neg then fp32.defNaN else 0
  | .fin neg m e =>
    if m = 0 then fp32.encInf neg
    else if neg then fp32.defNaN
    else
      let p := sqrtQ m e
      round12 false 1 p.1 (-p.2)

/-- FEXP2F (R293). -/
def fexp2fBits (a : Nat) : Nat :=
  match fp32.decode a with
  | .nan s f => fp32.encNaN s f
  | .inf neg => if neg then 0 else fp32.encInf false
  | .fin neg m e =>
    if 9 ≤ floorLog2 m 1 + e ∧ m ≠ 0 then (if neg then 0 else fp32.encInf false)
    else
      let p := exp2Val neg m e
      round12 false p.1 1 p.2

/-- FLOG2F (R293): ln x / ln 2, exact for a power of two. -/
def flog2fBits (a : Nat) : Nat :=
  match fp32.decode a with
  | .nan s f => fp32.encNaN s f
  | .inf neg => if neg then fp32.defNaN else fp32.encInf false
  | .fin neg m e =>
    if m = 0 then fp32.encInf true
    else if neg then fp32.defNaN
    else
      let k := Nat.log2 m
      if m = 2 ^ k then
        let x : Int := e + k
        round12 (decide (x < 0)) x.natAbs 1 0
      else
        let x := lnVal m e
        round12 (decide (x < 0)) x.natAbs ln2Fx 0

end Sys2Proof.Machine
end

