-- ==== Sys2Proof/Machine/Formats.lean ====
section
/-! DEFINITION. Element formats by code (R209, R210), the FB block formats (R217 to R220), TERN5
(R224) and the reductions of the matrix unit and of collectives (R225 to R229). -/

namespace Sys2Proof.Machine

open Sys2Proof

/-- The bits of one element of a format (R209). -/
def fmtBits : Fmt → Nat
  | .fp32 => 32 | .fp16 => 16 | .bf16 => 16 | .e4m3 => 8 | .e5m2 => 8 | .fb8 => 8 | .fb6 => 6
  | .fb4 => 4 | .int32 => 32 | .int8 => 8 | .uint8 => 8 | .int4 => 4 | .tern5 => 8

/-- The code of a format (R209). -/
def fmtCode : Fmt → Nat
  | .fp32 => 0 | .fp16 => 1 | .bf16 => 2 | .e4m3 => 3 | .e5m2 => 4 | .fb8 => 5 | .fb6 => 6
  | .fb4 => 7 | .int32 => 8 | .int8 => 9 | .uint8 => 10 | .int4 => 11 | .tern5 => 12

/-- The format of a code; a reserved code names none (R209). -/
def fmtOf : Nat → Option Fmt
  | 0 => some .fp32 | 1 => some .fp16 | 2 => some .bf16 | 3 => some .e4m3 | 4 => some .e5m2
  | 5 => some .fb8 | 6 => some .fb6 | 7 => some .fb4 | 8 => some .int32 | 9 => some .int8
  | 10 => some .uint8 | 11 => some .int4 | 12 => some .tern5 | _ => none

/-- The floating-point format of a code, where it is one of R211. -/
def fmtFloat : Fmt → Option FForm
  | .fp32 => some fp32 | .fp16 => some fp16 | .bf16 => some bf16 | .e4m3 => some e4m3
  | .e5m2 => some e5m2 | .fb8 => none | .fb6 => none | .fb4 => none | .int32 => none
  | .int8 => none | .uint8 => none | .int4 => none | .tern5 => none

/-- Whether a format is FB8, FB6 or FB4. -/
def fmtFB : Fmt → Bool
  | .fb8 => true | .fb6 => true | .fb4 => true
  | .fp32 => false | .fp16 => false | .bf16 => false | .e4m3 => false | .e5m2 => false
  | .int32 => false | .int8 => false | .uint8 => false | .int4 => false | .tern5 => false

/-- Whether a format is an integer format or TERN5. -/
def fmtInt : Fmt → Bool
  | .int32 => true | .int8 => true | .uint8 => true | .int4 => true | .tern5 => true
  | .fp32 => false | .fp16 => false | .bf16 => false | .e4m3 => false | .e5m2 => false
  | .fb8 => false | .fb6 => false | .fb4 => false

/-- The integer an element of an integer format holds (R216). -/
def intElem (f : Fmt) (x : Nat) : Int :=
  match f with
  | .int32 => sval 32 x
  | .int8 => sval 8 x
  | .uint8 => (x % 256 : Nat)
  | .int4 => sval 4 x
  | _ => sval 32 x

/-- The exponent and mantissa widths of an FB format's minifloat (R217). -/
def fbShape : Fmt → Nat × Nat
  | .fb6 => (2, 2)
  | .fb4 => (1, 1)
  | _ => (3, 3)

/-- The magnitude code of an FB element: exponent and mantissa. -/
def fbMagBits (f : Fmt) : Nat := (fbShape f).1 + (fbShape f).2

/-- dec_fb (R218): the exact value of an FB element under its block's scale pair. -/
def decFB (f : Fmt) (x e0 e1 : Nat) : FV :=
  if e0 = 0xFF ∨ e1 = 0xFF then .nan false (2 ^ 22)
  else
    let k := (fbShape f).1
    let mw := (fbShape f).2
    let b : Int := (2 ^ k : Nat) - 1
    let ex := bits x mw k
    let mant := bits x 0 mw
    let neg := bit x (k + mw)
    let sc : Int := (if bit x (k + mw + 1) then e1 else e0 : Nat) - 127
    if ex = 0 then .fin neg mant (1 - b - mw + sc)
    else .fin neg (2 ^ mw + mant) ((ex : Int) - b - mw + sc)

/-- round_mini (R219) of n / d · 2^e, as a magnitude code that may pass the largest one. -/
def roundMini (f : Fmt) (n d : Nat) (e : Int) : Nat :=
  if n = 0 then 0
  else
    let k := (fbShape f).1
    let mw := (fbShape f).2
    let emin : Int := 1 - ((2 ^ k : Nat) - 1)
    let ex := floorLog2 n d + e
    let q := (if ex < emin then emin else ex) - mw
    (q + mw - emin).toNat * 2 ^ mw + roundQ .rne false n d e q

/-- The value of a list of exact values that is not finite, if there is one. -/
def anySpecial (xs : List FV) : Bool :=
  xs.any fun v => match v with
    | .fin _ _ _ => false
    | _ => true

/-- The larger magnitude of two finite values, as (m, e). -/
def maxMag (a b : Nat × Int) : Nat × Int :=
  if FV.cmpV (.fin false a.1 a.2) (.fin false b.1 b.2) < 0 then b else a

/-- quant_fb (R219): the scale pair and the 32 element codes of a block. -/
def quantFB (f : Fmt) (g : Nat) (xs : List FV) : Nat × Nat × List Nat :=
  if anySpecial xs then (0xFF, 0xFF, xs.map fun _ => 0)
  else
    let mags := xs.map fun v => match v with
      | .fin _ m e => (m, e)
      | _ => (0, 0)
    let mx := mags.foldl maxMag (0, 0)
    let e1 := if mx.1 = 0 then 0 else (floorLog2 mx.1 1 + mx.2 + 127).toNat
    let e0 := e1 - g
    let top := 2 ^ fbMagBits f - 1
    let code := fun (v : FV) => match v with
      | .fin neg m e =>
        let sgn := if neg then 2 ^ fbMagBits f else 0
        let a := roundMini f m 1 (e - ((e0 : Int) - 127))
        if a ≤ top then sgn + a
        else
          let c := roundMini f m 1 (e - ((e1 : Int) - 127))
          2 ^ (fbMagBits f + 1) + sgn + (if top < c then top else c)
      | _ => 0
    (e0, e1, xs.map code)

/-- dec_t5 (R224): the trits of a byte, least significant first; five zeros for an illegal one. -/
def decT5 (b : Nat) : List Int :=
  let t := fun (d : Nat) => if d % 3 = 0 then (0 : Int) else if d % 3 = 1 then 1 else -1
  if b < 243 then [t b, t (b / 3), t (b / 9), t (b / 27), t (b / 81)] else [0, 0, 0, 0, 0]

/-! ### Block sums (R225, R226) -/

/-- What a block sum has met so far: the first NaN operand, an invalid product, an infinity of each
sign, the exact finite sum over 2^e, and whether every product was -0. -/
structure SumAcc where
  nanv : Option FV
  invalid : Bool
  posInf : Bool
  negInf : Bool
  sum : Int
  e : Int
  allNegZero : Bool
  deriving DecidableEq, Repr

/-- The empty sum. -/
def SumAcc.start : SumAcc where
  nanv := none
  invalid := false
  posInf := false
  negInf := false
  sum := 0
  e := 0
  allNegZero := true

/-- One more exact finite value in a sum. -/
def SumAcc.addFin (s : SumAcc) (neg : Bool) (m : Nat) (e : Int) : SumAcc :=
  let g := imin s.e e
  { s with sum := s.sum * (2 ^ (s.e - g).toNat : Nat) + signedAt neg m e g, e := g,
           allNegZero := s.allNegZero && (neg && m == 0) }

/-- One more value, NaN and infinities included. -/
def SumAcc.add (s : SumAcc) (v : FV) : SumAcc :=
  match v with
  | .nan n f => { s with nanv := s.nanv.or (some (.nan n f)), allNegZero := false }
  | .inf true => { s with negInf := true, allNegZero := false }
  | .inf false => { s with posInf := true, allNegZero := false }
  | .fin n m e => s.addFin n m e

/-- One more product in a block sum. -/
def SumAcc.addProd (s : SumAcc) (p : FV × FV) : SumAcc :=
  match firstNaN [p.1, p.2] with
  | some v => s.add v
  | none =>
    match FV.mulV p.1 p.2 with
    | none => { s with invalid := true, allNegZero := false }
    | some v => s.add v

/-- The value of a sum rounded once to a format, with the specials in the order of R225; `some0`
says whether anything was summed. -/
def SumAcc.value (F : FForm) (s : SumAcc) (some0 : Bool) : Nat :=
  match s.nanv with
  | some v => F.encode .rne v
  | none =>
    if s.invalid || (s.posInf && s.negInf) then F.defNaN
    else if s.posInf then F.encInf false
    else if s.negInf then F.encInf true
    else if s.sum = 0 then F.signBit (some0 && s.allNegZero)
    else F.encode .rne (FV.ofInt false s.sum s.e)

/-- The sum of one block of products, rounded to FP32. -/
def blockSum (ps : List (FV × FV)) : Nat :=
  SumAcc.value fp32 (ps.foldl SumAcc.addProd SumAcc.start) (!ps.isEmpty)

/-- R225: an accumulator updated by the blocks of products, each at most 32 long. -/
def reduceFloat (acc : Nat) (blocks : List (List (FV × FV))) : Nat :=
  blocks.foldl (fun a b => addF32 a (blockSum b)) acc

/-- R226: an INT32 accumulator updated by the blocks of products. -/
def reduceInt (acc : Nat) (blocks : List (List (Int × Int))) : Nat :=
  blocks.foldl (fun a b => satS 32 (sval 32 a + (b.map fun p => p.1 * p.2).foldl (· + ·) 0)) acc

/-- A list cut into pieces of `k`. -/
def chunks {α : Type} (k : Nat) : Nat → List α → List (List α)
  | 0, _ => []
  | n + 1, l => if l.isEmpty then [] else l.take k :: chunks k n (l.drop k)

/-- dot_r220 (R230): the sum of R225 over paired elements, from +0. -/
def dotR220 (ps : List (FV × FV)) : Nat := reduceFloat 0 (chunks 32 ps.length ps)

/-! ### Collective reductions (R227 to R229) -/

/-- One level of the canonical tree: each even participant takes in its neighbour. -/
def treeLevel (op : Nat → Nat → Nat) : List Nat → List Nat
  | a :: b :: r => op a b :: treeLevel op r
  | l => l

/-- The canonical tree over a list, with `fuel` levels. -/
def treeFold (op : Nat → Nat → Nat) : Nat → List Nat → Nat
  | 0, l => l.headD 0
  | n + 1, l => treeFold op n (treeLevel op l)

/-- R228: the exact sum of contributions rounded once. -/
def exactSum (F : FForm) (vs : List FV) : Nat :=
  SumAcc.value F (vs.foldl SumAcc.add SumAcc.start) (!vs.isEmpty)

/-! ### Packed lanes (R210) -/

/-- The `w`-bit elements of a lane, `n` of them from the least significant end. -/
def elems (w n : Nat) (x : Nat) : List Nat := (List.range n).map fun i => bits x (w * i) w

/-- A lane packed from `w`-bit elements. -/
def packElems (w : Nat) : List Nat → Nat
  | [] => 0
  | x :: r => x % 2 ^ w + 2 ^ w * packElems w r

/-- A function applied to each element of a lane. -/
def mapElems1 (w : Nat) (f : Nat → Nat) (a : Nat) : Nat := packElems w ((elems w (32 / w) a).map f)

/-- A function applied to the elements of two lanes, pairwise. -/
def mapElems2 (w : Nat) (f : Nat → Nat → Nat) (a b : Nat) : Nat :=
  packElems w (List.zipWith f (elems w (32 / w) a) (elems w (32 / w) b))

/-- A function applied to the elements of three lanes. -/
def mapElems3 (w : Nat) (f : Nat → Nat → Nat → Nat) (a b c : Nat) : Nat :=
  packElems w (List.zipWith (fun x g => g x) (elems w (32 / w) c)
    (List.zipWith (fun x y => fun z => f x y z) (elems w (32 / w) a) (elems w (32 / w) b)))

/-- The format of a lane type of classes F and F0 (R234). -/
def ftyForm : FTy → FForm
  | .f32 => fp32
  | .f16 => fp16
  | .bf16 => bf16

/-- The element width of a lane type. -/
def ftyWidth : FTy → Nat
  | .f32 => 32
  | .f16 => 16
  | .bf16 => 16

end Sys2Proof.Machine
end

