-- ==== Sys2Proof/Machine/Lanes.lean ====
section
/-! DEFINITION. What the element instructions compute on the bits of a lane (R276 to R298). -/

namespace Sys2Proof.Machine

open Sys2Proof

/-! ### Integer forms (R276 to R279) -/

/-- The element width of a class I type. -/
def ITy.width : ITy → Nat
  | .s32 => 32 | .u32 => 32 | .s8 => 8 | .u8 => 8 | .s4 => 4

/-- Whether a class I type is signed. -/
def ITy.signed : ITy → Bool
  | .s32 => true | .u32 => false | .s8 => true | .u8 => false | .s4 => true

/-- The integer value of an element by its type. -/
def ITy.val (t : ITy) (x : Nat) : Int :=
  if ITy.signed t then sval (ITy.width t) x else ((x % 2 ^ ITy.width t : Nat) : Int)

/-- A lane-wise form of two operands over a class I type. -/
def intOp2 (t : ITy) (f : Nat → Nat → Nat) (a b : Word) : Word :=
  BitVec.ofNat 32 (mapElems2 (ITy.width t) f a.toNat b.toNat)

/-- A lane-wise form of one operand. -/
def intOp1 (t : ITy) (f : Nat → Nat) (a : Word) : Word :=
  BitVec.ofNat 32 (mapElems1 (ITy.width t) f a.toNat)

/-- ADD: (a + b) mod 2^w. -/
def laneAdd (t : ITy) (a b : Word) : Word := intOp2 t (fun x y => (x + y) % 2 ^ ITy.width t) a b
/-- SUB: (a - b) mod 2^w. -/
def laneSub (t : ITy) (a b : Word) : Word :=
  intOp2 t (fun x y => wrap (ITy.width t) ((x : Int) - y)) a b
/-- MUL: (a·b) mod 2^w. -/
def laneMul (t : ITy) (a b : Word) : Word := intOp2 t (fun x y => (x * y) % 2 ^ ITy.width t) a b
/-- MULH: the high half of the exact product. -/
def laneMulh (t : ITy) (a b : Word) : Word :=
  intOp2 t (fun x y => wrap (ITy.width t)
    ((ITy.val t x * ITy.val t y).fdiv ((2 ^ ITy.width t : Nat) : Int))) a b
/-- MIN or MAX, compared by the type's signedness. -/
def laneMinMax (greater : Bool) (t : ITy) (a b : Word) : Word :=
  intOp2 t (fun x y =>
    let less := decide (ITy.val t x < ITy.val t y)
    if greater then (if less then y else x) else (if less then x else y)) a b
/-- ABS: |a| mod 2^w. -/
def laneAbs (t : ITy) (a : Word) : Word :=
  intOp1 t (fun x => wrap (ITy.width t) (ITy.val t x).natAbs) a
/-- NEG: (-a) mod 2^w. -/
def laneNeg (t : ITy) (a : Word) : Word := intOp1 t (fun x => wrap (ITy.width t) (-(x : Int))) a
/-- An integer saturated to a class I type. -/
def ITy.sat (t : ITy) (x : Int) : Nat :=
  if ITy.signed t then satS (ITy.width t) x else satU (ITy.width t) x
/-- ADDSAT. -/
def laneAddsat (t : ITy) (a b : Word) : Word :=
  intOp2 t (fun x y => ITy.sat t (ITy.val t x + ITy.val t y)) a b
/-- SUBSAT. -/
def laneSubsat (t : ITy) (a b : Word) : Word :=
  intOp2 t (fun x y => ITy.sat t (ITy.val t x - ITy.val t y)) a b
/-- SHL: TY chooses only the width. -/
def laneShl (t : ITy) (a b : Word) : Word :=
  intOp2 t (fun x y => x * 2 ^ (y % ITy.width t) % 2 ^ ITy.width t) a b
/-- SHR: logical. -/
def laneShr (t : ITy) (a b : Word) : Word := intOp2 t (fun x y => x / 2 ^ (y % ITy.width t)) a b
/-- SRA: arithmetic. -/
def laneSra (t : ITy) (a b : Word) : Word :=
  intOp2 t (fun x y => wrap (ITy.width t)
    ((sval (ITy.width t) x).fdiv ((2 ^ (y % ITy.width t) : Nat) : Int))) a b
/-- MAD: (a·b + c) mod 2^w (R277). -/
def laneMad (t : ITy) (a b c : Word) : Word :=
  BitVec.ofNat 32 (mapElems3 (ITy.width t) (fun x y z => (x * y + z) % 2 ^ ITy.width t)
    a.toNat b.toNat c.toNat)
/-- DIV (R278): truncation towards zero; by zero all ones. -/
def laneDiv (t : I32Ty) (a b : Word) : Word :=
  if b = 0 then 0xFFFFFFFF
  else match t with
    | .u32 => a / b
    | .s32 => BitVec.ofInt 32 (a.toInt.tdiv b.toInt)
/-- REM (R278): the sign is that of a; by zero a. -/
def laneRem (t : I32Ty) (a b : Word) : Word :=
  if b = 0 then a
  else match t with
    | .u32 => a % b
    | .s32 => BitVec.ofInt 32 (a.toInt.tmod b.toInt)
/-- ROTL: a rotated left by b mod 32. -/
def laneRotl (a b : Word) : Word := a.rotateLeft (b.toNat % 32)
/-- CLZ: leading zero bits, 32 of a zero lane. -/
def laneClz (a : Word) : Word :=
  BitVec.ofNat 32 (if a = 0 then 32 else 31 - Nat.log2 a.toNat)
/-- POPC: set bits. -/
def lanePopc (a : Word) : Word :=
  BitVec.ofNat 32 ((List.range 32).foldl (fun n i => n + b2n (a.getLsbD i)) 0)

/-! ### Field, packing and ternary forms (R283 to R286) -/

/-- EXTR: bits [POS+LEN-1 : POS], extended. -/
def laneExtr (sgn : BitVec 1) (pos len : Nat) (a : Word) : Word :=
  let x := bits a.toNat pos len
  BitVec.ofNat 32 (if sgn = 1 then wrap 32 (sval len x) else x)
/-- INS: a with a field replaced by the low bits of b. -/
def laneIns (pos len : Nat) (a b : Word) : Word :=
  let x := a.toNat
  BitVec.ofNat 32 (x - bits x pos len * 2 ^ pos + b.toNat % 2 ^ len * 2 ^ pos)
/-- LEA: (a + b·2^SH) mod 2^32. -/
def laneLea (sh : Nat) (a b : Word) : Word := BitVec.ofNat 32 (a.toNat + b.toNat * 2 ^ sh)

/-- PACKN: half the element width, saturated, left below right (R284). -/
def lanePackn (t : ITy) (a b : Word) : Word :=
  let go := fun (w : Nat) (f : Int → Nat) =>
    packElems (w / 2) ((elems w (32 / w) a.toNat ++ elems w (32 / w) b.toNat).map
      fun x => f (sval w x))
  BitVec.ofNat 32 (match t with
    | .s32 => go 32 (satS 16)
    | .u32 => go 32 (satU 16)
    | .s8 => go 16 (satS 8)
    | .u8 => go 16 (satU 8)
    | .s4 => go 8 (satS 4))
/-- UNPACKN: the low or high half of the elements at twice their width (R284). -/
def laneUnpackn (t : ITy) (half : Nat) (a : Word) : Word :=
  let go := fun (w : Nat) (sgn : Bool) =>
    let n := 16 / w
    packElems (2 * w) (((elems w (32 / w) a.toNat).drop (n * half)).take n |>.map
      fun x => if sgn then wrap (2 * w) (sval w x) else x)
  BitVec.ofNat 32 (match t with
    | .s32 => go 16 true
    | .u32 => go 16 false
    | .s8 => go 8 true
    | .u8 => go 8 false
    | .s4 => go 4 true)
/-- The 2-bit code of a trit (R285). -/
def tritCode (t : Int) : Nat := if t = 1 then 1 else if t = -1 then 2 else 0
/-- UNT5's codes of a TERN5 byte (R285). -/
def laneUnt5 (a : Word) : Word := BitVec.ofNat 32 (packElems 2 ((decT5 (a.toNat % 256)).map tritCode))
/-- Whether a TERN5 byte is illegal. -/
def unt5Illegal (a : Word) : Bool := decide (243 ≤ a.toNat % 256)
/-- The trit of a 2-bit code in ACCT (R286). -/
def acctTrit (c : Nat) : Int := if c = 1 then 1 else if c = 2 then -1 else 0
/-- ACCT: Σ a_k·t_k (R286). -/
def laneAcct (t : I8Ty) (a b : Word) : Word :=
  let w := match t with
    | .s8 => 8
    | .s4 => 4
  let n := 32 / w
  let s := (List.zipWith (fun x c => sval w x * acctTrit c) (elems w n a.toNat)
    (elems 2 n b.toNat)).foldl (· + ·) 0
  BitVec.ofInt 32 s
/-- DOTP: Σ a_k·b_k mod 2^32 (R286). -/
def laneDotp (t : ITy) (a b : Word) : Word :=
  let go := fun (w : Nat) (sgn : Bool) =>
    let v := fun (x : Nat) => if sgn then sval w x else (x : Int)
    (List.zipWith (fun x y => v x * v y) (elems w (32 / w) a.toNat)
      (elems w (32 / w) b.toNat)).foldl (· + ·) 0
  BitVec.ofInt 32 (match t with
    | .s32 => go 16 true
    | .u32 => go 16 false
    | .s8 => go 8 true
    | .u8 => go 8 false
    | .s4 => go 4 true)

/-! ### Floating-point forms (R287 to R294) -/

/-- A floating form of two operands, element by element. -/
def fltOp2 (t : FTy) (f : FForm → Nat → Nat → Nat) (a b : Word) : Word :=
  BitVec.ofNat 32 (mapElems2 (ftyWidth t) (f (ftyForm t)) a.toNat b.toNat)
/-- A floating form of one operand. -/
def fltOp1 (t : FTy) (f : FForm → Nat → Nat) (a : Word) : Word :=
  BitVec.ofNat 32 (mapElems1 (ftyWidth t) (f (ftyForm t)) a.toNat)
/-- FADD. -/
def laneFadd (t : FTy) (rm : Rm) : Word → Word → Word := fltOp2 t fun F => F.add rm
/-- FSUB. -/
def laneFsub (t : FTy) (rm : Rm) : Word → Word → Word := fltOp2 t fun F => F.sub rm
/-- FMUL. -/
def laneFmul (t : FTy) (rm : Rm) : Word → Word → Word := fltOp2 t fun F => F.mul rm
/-- FDIV. -/
def laneFdiv (t : FTy) (rm : Rm) : Word → Word → Word := fltOp2 t fun F => F.div rm
/-- FSQRT. -/
def laneFsqrt (t : FTy) (rm : Rm) : Word → Word := fltOp1 t fun F => F.sqrt rm
/-- FMA: a·b + c rounded once. -/
def laneFma (t : FTy) (rm : Rm) (a b c : Word) : Word :=
  BitVec.ofNat 32 (mapElems3 (ftyWidth t) ((ftyForm t).fma rm) a.toNat b.toNat c.toNat)
/-- FMIN or FMAX. -/
def laneFminmax (greater : Bool) (t : FTy) : Word → Word → Word := fltOp2 t fun F => F.minMax greater
/-- FSGN: the magnitude of a with a chosen sign. -/
def laneFsgn (t : FTy) (m : FsgnMode) : Word → Word → Word := fltOp2 t fun F x y =>
  let k := F.eb + F.mb
  let s := match m with
    | .copy => bit y k
    | .neg => !bit y k
    | .xor => bit x k != bit y k
  x % 2 ^ k + F.signBit s
/-- FCLASS: element 0's mask at [9:0], element 1's at [25:16]. -/
def laneFclass (t : FTy) : Word → Word := fltOp1 t FForm.classify
/-- FRINT. -/
def laneFrint (t : FTy) (rm : Rm) : Word → Word := fltOp1 t fun F => F.rint rm
/-- FEXPI. -/
def laneFexpi (t : FTy) (rm : Rm) : Word → Word → Word := fltOp2 t fun F x n =>
  F.expi rm x (sval (ftyWidth t) n)
/-- FGETX. -/
def laneFgetx (t : FTy) : Word → Word := fltOp1 t fun F => F.getx (ftyWidth t)

/-- One element converted by FCVT (R290). -/
def cvtElem (rm : Rm) (src dst : Fmt) (x : Nat) : Nat :=
  match fmtFloat src, fmtFloat dst with
  | some F, some G => G.encode rm (F.decode x)
  | some F, none => cvtIntV rm (fmtBits dst) (dst != .uint8) (F.decode x)
  | none, some G => G.encode rm (FV.ofInt false (intElem src x) 0)
  | none, none => if dst = .uint8 then satU 8 (intElem src x) else satS (fmtBits dst) (intElem src x)
/-- FCVT on a lane, with GROUP (R290). -/
def laneFcvt (group : Nat) (rm : Rm) (src dst : Fmt) (a : Word) : Word :=
  let ps := 32 / fmtBits src
  let pd := 32 / fmtBits dst
  let xs := elems (fmtBits src) ps a.toNat
  let ys := (if pd < ps then (xs.drop (group * pd)).take pd else xs).map (cvtElem rm src dst)
  let sh := if ps < pd then group * ps * fmtBits dst else 0
  BitVec.ofNat 32 (packElems (fmtBits dst) ys * 2 ^ sh)

/-- Whether one of two values is zero and the other infinite. -/
def zeroInf (x y : FV) : Bool :=
  match x, y with
  | .fin _ m _, .inf _ => m == 0
  | .inf _, .fin _ m _ => m == 0
  | _, _ => false
/-- FRCPS: one Newton step of a reciprocal (R294). -/
def laneFrcps (x y : Word) : Word :=
  let a := x.toNat
  let b := y.toNat
  BitVec.ofNat 32 (match firstNaN [fp32.decode a, fp32.decode b] with
    | some v => fp32.encode .rne v
    | none =>
      if zeroInf (fp32.decode a) (fp32.decode b) then b
      else mulF32 b (fmaF32 (negF32 a) b 0x40000000))
/-- FRSQS: one Newton step of a reciprocal square root (R294). -/
def laneFrsqs (x y : Word) : Word :=
  let u := x.toNat
  let b := y.toNat
  BitVec.ofNat 32 (match firstNaN [fp32.decode u, fp32.decode b] with
    | some v => fp32.encode .rne v
    | none =>
      let a := mulF32 u b
      if zeroInf (fp32.decode u) (fp32.decode b) || zeroInf (fp32.decode a) (fp32.decode b) then b
      else mulF32 b (fmaF32 (mulF32 0xBF000000 a) b 0x3FC00000))

/-! ### Vector runs (R297) -/

/-- The operation of VRED and VSCAN on two lanes. -/
def laneVOp (o : VOp) (a b : Word) : Word :=
  match o with
  | .addS32 => a + b
  | .minS32 => if b.toInt < a.toInt then b else a
  | .maxS32 => if a.toInt < b.toInt then b else a
  | .addF32 => BitVec.ofNat 32 (addF32 a.toNat b.toNat)
  | .minF32 => BitVec.ofNat 32 (fp32.minMax false a.toNat b.toNat)
  | .maxF32 => BitVec.ofNat 32 (fp32.minMax true a.toNat b.toNat)

/-- One level of the canonical tree over a window. -/
def vredLevel (o : VOp) : List Word → List Word
  | a :: b :: r => laneVOp o a b :: vredLevel o r
  | l => l

/-- VRED's value: the canonical tree over a window of 32 lanes (R297). -/
def vredTree (o : VOp) (l : List Word) : Word :=
  (vredLevel o (vredLevel o (vredLevel o (vredLevel o (vredLevel o l))))).headD 0

/-- VSCAN's lanes behind the running value `s`. -/
def vscanFrom (o : VOp) (s : Word) : List Word → List Word
  | [] => []
  | x :: r => laneVOp o s x :: vscanFrom o (laneVOp o s x) r

/-- VSCAN's lanes: the inclusive left fold (R297). -/
def vscanLanes (o : VOp) : List Word → List Word
  | [] => []
  | x :: r => x :: vscanFrom o x r

end Sys2Proof.Machine
end

