-- ==== Sys2Proof/Machine/Flags.lean ====
section
/-! DEFINITION. The predicates that instructions compute: the machine's flags are predicate lanes
(R93), and it keeps no sticky flags (R213). -/

namespace Sys2Proof.Machine

open Sys2Proof

/-- The condition of CMP on two lanes (R281). -/
def cmpHolds (c : CondTy) (a b : Word) : Bool :=
  match c with
  | .eq => a == b
  | .ne => a != b
  | .lt => decide (a.toInt < b.toInt)
  | .ge => decide (b.toInt ≤ a.toInt)
  | .ltu => decide (a.toNat < b.toNat)
  | .geu => decide (b.toNat ≤ a.toNat)

/-- The condition of TST (R281). -/
def tstHolds (a b : Word) : Bool := (a &&& b) != 0

/-- The condition of FCMP on one pair of elements (R289). -/
def fcmpElem (F : FForm) (c : FcmpCond) (a b : Nat) : Bool :=
  match c with
  | .eq => F.eq a b
  | .lt => F.lt a b
  | .le => F.le a b
  | .gt => F.lt b a
  | .ge => F.le b a
  | .un => F.isNaN a || F.isNaN b

/-- The condition of FCMP on a lane: of every element (R289). -/
def fcmpHolds (t : FTy) (c : FcmpCond) (a b : Word) : Bool :=
  (List.zipWith (fcmpElem (ftyForm t) c) (elems (ftyWidth t) (32 / ftyWidth t) a.toNat)
    (elems (ftyWidth t) (32 / ftyWidth t) b.toNat)).all id

/-- A predicate as a lane's bits. -/
def predWord (b : Bool) : Word := if b then 1 else 0

end Sys2Proof.Machine
end

