-- ==== Sys2Proof/WellFormed.lean ====
section
/-! DEFINITION. Which instructions are well formed: the checks of R248 that a word and its
extension word decide by themselves. -/

namespace Sys2Proof

/-- R232 on one target field: a target with position 0 is none and its slot bits are zero; a port
slot uses position 1. -/
def targetOk (t : BitVec 9) : Bool :=
  let slot := t.toNat / 4
  let pos := t.toNat % 4
  (pos != 0 || slot == 0) && (slot < 120 || pos == 1)

/-- R232 on both target fields: T1 is none whenever T0 is none. -/
def OpWord.targetsOk (h : OpWord) : Bool :=
  targetOk h.t0 && targetOk h.t1 && (h.t0 != 0 || h.t1 == 0)

/-- A word without targets. -/
def OpWord.noTargets (h : OpWord) : Bool := h.t0 == 0 && h.t1 == 0

/-- The arities that the opcode map lists for an instruction (R239 to R246, R334); a three-operand
form also admits 1, its partner word (R236). -/
def Instr.arities : Instr → List Nat
  | .bra _ _ => [0, 1]
  | .bri _ => [1]
  | .callb _ _ _ => [0, 1]
  | .retb _ => [0, 1]
  | .spawn _ _ => [1]
  | .sret _ => [1]
  | .tagenter _ _ => [1]
  | .tagleave _ => [1]
  | .read _ _ => [0, 1]
  | .write _ _ => [1]
  | .phase _ => [0, 1]
  | .join _ => [2]
  | .rep _ _ _ => [0]
  | .shadv _ => [0, 1]
  | .bobinit _ _ _ => [1]
  | .bobwait _ _ _ => [0, 1]
  | .bobrel _ _ _ => [1]
  | .syscall _ _ => [1]
  | .brk _ _ => [0, 1]
  | .trapif _ => [2]
  | .eret _ => [1]
  | .endl _ => [0, 1]
  | .mfsr _ _ => [0, 1]
  | .mtsr _ _ => [1]
  | .const _ _ => [0]
  | .mov _ => [1]
  | .add _ _ => [2, 3]
  | .sub _ _ => [2, 3]
  | .mul _ _ => [2, 3]
  | .mulh _ _ => [2, 3]
  | .mad _ _ => [1, 2, 3]
  | .div _ _ => [2, 3]
  | .rem _ _ => [2, 3]
  | .and _ => [2, 3]
  | .or _ => [2, 3]
  | .xor _ => [2, 3]
  | .andn _ => [2, 3]
  | .shl _ _ => [2, 3]
  | .shr _ _ => [2, 3]
  | .sra _ _ => [2, 3]
  | .rotl _ => [2, 3]
  | .clz _ => [1]
  | .popc _ => [1]
  | .min _ _ => [2, 3]
  | .max _ _ => [2, 3]
  | .abs _ _ => [1]
  | .neg _ _ => [1]
  | .addsat _ _ => [2, 3]
  | .subsat _ _ => [2, 3]
  | .cmp _ _ => [2]
  | .sel _ => [3]
  | .tst _ => [2]
  | .extr _ _ _ _ => [1]
  | .ins _ _ _ => [2]
  | .lea _ _ => [2]
  | .packn _ _ => [2]
  | .unpackn _ _ _ => [1]
  | .unt5 _ _ => [1]
  | .acct _ _ => [2, 3]
  | .dotp _ _ => [2, 3]
  | .fadd _ _ => [2, 3]
  | .faddRounding _ _ _ => [2, 3]
  | .fsub _ _ => [2, 3]
  | .fsubRounding _ _ _ => [2, 3]
  | .fmul _ _ => [2, 3]
  | .fmulRounding _ _ _ => [2, 3]
  | .fma _ _ => [1, 2, 3]
  | .fmaRounding _ _ _ => [1, 2, 3]
  | .fmin _ _ => [2, 3]
  | .fmax _ _ => [2, 3]
  | .fsgn _ _ _ => [2]
  | .fcmp _ _ _ => [2]
  | .fclass _ _ => [1]
  | .fcvt _ _ _ _ _ => [1]
  | .frint _ _ _ => [1]
  | .fexpi _ _ => [2]
  | .fexpiRounding _ _ _ => [2]
  | .fgetx _ _ => [1]
  | .fdiv _ _ => [2, 3]
  | .fdivRounding _ _ _ => [2, 3]
  | .fsqrt _ _ => [1]
  | .fsqrtRounding _ _ _ => [1]
  | .frcp _ => [1]
  | .frsq _ => [1]
  | .frcps _ => [2]
  | .frsqs _ => [2]
  | .fexp2f _ => [1]
  | .flog2f _ => [1]
  | .vrun _ _ _ => [0, 1]
  | .vred _ _ => [1]
  | .vscan _ _ => [1]
  | .vbcast _ _ => [1]
  | .vlane _ _ _ => [1]
  | .vshuf _ => [2]
  | .viota _ _ => [0]
  | .ld _ _ => [1, 2, 3]
  | .st _ _ => [2, 3]
  | .ldv _ _ _ => [1, 2, 3]
  | .stv _ _ => [2, 3]
  | .atom _ _ _ _ _ _ => [2, 3]
  | .cas _ _ _ _ _ => [1, 2]
  | .ldlk _ => [1]
  | .stul _ => [2]
  | .fence _ _ _ => [0, 1]
  | .pref _ => [1]
  | .tstateFill _ => [1]
  | .tstatePublish _ => [1]
  | .tstateDrain _ => [1]
  | .tstateRelease _ => [1]
  | .twait _ => [1]
  | .sopen _ _ => [1]
  | .sclose _ _ => [0, 1]
  | .grows _ _ _ _ => [1, 2]
  | .scat _ _ _ _ => [1, 2]
  | .cwalk _ _ _ => [1]
  | .stld _ _ => [0, 1]
  | .sisect _ _ _ _ => [0, 1]
  | .sunion _ _ _ _ => [0, 1]
  | .sdiff _ _ _ _ => [0, 1]
  | .smadd _ _ _ _ _ => [0, 1]
  | .snext _ _ _ => [0, 1]
  | .stst _ _ => [0, 1]
  | .cred _ _ _ _ _ => [1]
  | .cbc _ _ _ => [1]
  | .cag _ _ => [1]
  | .ca2a _ _ => [1]
  | .mld _ _ _ _ _ _ _ _ _ => [1, 3]
  | .mst _ _ _ _ _ _ _ _ _ => [1, 3]
  | .mzero _ _ _ _ => [0, 1, 3]
  | .mma _ _ _ _ _ => [1, 3]
  | .mmsp _ _ _ _ _ _ _ => [1, 3]
  | .mcomp _ _ _ _ _ _ _ => [1, 3]
  | .mqnt _ _ _ _ _ _ => [1, 3]
  | .mdeq _ _ _ _ _ _ => [1, 3]
  | .mtrn _ _ _ => [1, 3]
  | .maccr _ _ _ _ _ => [1, 3]
  | .mcor _ _ _ _ _ _ _ _ => [1, 3]
  | .mtri _ _ _ _ _ => [1, 3]
  | .mwy _ _ _ _ _ _ _ => [1, 3]
  | .mstep _ _ _ => [1, 3]
  | .mgrd _ _ => [1, 3]
  | .ptset _ _ _ => [1, 3]
  | .ptop _ _ _ _ _ => [1, 3]
  | .ply _ _ _ _ _ _ _ => [1, 3]
  | .plyc _ _ _ => [1, 3]
  | .plyf _ _ => [1, 3]
  | .warp _ => [1, 3]
  | .reel _ _ => [1, 3]
  | .camld _ _ => [1]
  | .camst _ _ => [1]
  | .camcomp _ _ _ => [1]
  | .pgath _ _ _ _ _ => [2]
  | .pmarch _ _ _ _ _ => [1]
  | .pscat _ _ _ _ => [2]
  | .pstep _ _ => [0, 1]
  | .pstat _ _ _ _ => [0, 1]
  | .skbind _ _ => [1]
  | .spin _ _ => [1]
  | .draw _ _ => [1]
  | .skupd _ _ _ => [1]
  | .skrd _ _ _ => [1]
  | .skwr _ _ _ => [1]
  | .deviceReset _ _ => []
  | .supplySagTrip _ => []
  | .stretchStepUp _ => []
  | .stretchStepDown _ => []
  | .packagePowerOverCap => []
  | .hardSagStop _ => []
  | .hardSagRestart _ => []
  | .powerCapWrite _ => []
  | .twinikFlitReceive _ _ _ _ => []
  | .twinikNakReceive _ _ => []
  | .twinikAckReceive _ _ => []
  | .undeliverableResponse _ _ _ => []
  | .portRetrain _ => []
  | .portRetrainDone _ _ => []
  | .portRetire _ => []
  | .routeTableWrite _ _ _ => []
  | .handoverTransfer _ _ => []
  | .handoverRetry _ => []
  | .firmwareLoad _ _ _ => []
  | .measurementExtend _ => []
  | .quoteBuild => []
  | .registerWrite _ _ _ => []
  | .bar4Access _ _ _ _ _ => []
  | .launchWindowWrite _ _ _ => []
  | .launchAccept _ _ _ => []
  | .spillReturn _ _ _ => []
  | .partitionEnable _ => []
  | .partitionDisable _ => []
  | .partitionResize _ _ => []
  | .waitWordPoll _ => []
  | .launchAging _ _ => []
  | .placementPass _ => []
  | .argumentCopy _ => []
  | .launchComplete _ => []
  | .launchCancel _ _ => []
  | .launchWatchdogExpiry _ => []
  | .watchdogTrapUnanswered _ => []
  | .withheldFaultRecordPost _ => []
  | .faultResponseRetry _ _ => []
  | .faultResponseFail _ _ => []
  | .coreRetire _ _ _ => []
  | .launchResume _ => []
  | .tlbInvalidate _ _ _ => []
  | .tlbInvalidateDone _ => []
  | .pageWalk _ _ => []
  | .spawnGrant _ => []
  | .colourRelease _ _ => []
  | .blockAdmission _ _ => []
  | .blockMapping _ => []
  | .tokenArrival _ _ => []
  | .instanceCommit _ => []
  | .arbourArrival _ => []
  | .barrierTimeout _ _ => []
  | .frameExhaustion _ => []
  | .queueStall _ _ => []
  | .configEccError _ _ _ _ _ => []
  | .configReload _ _ => []
  | .nodeElementRead _ _ => []
  | .shuttleEntryStart _ => []
  | .shuttleRowCopy _ _ => []
  | .shuttleCompletionPost _ => []
  | .burtexAtomic _ => []
  | .atommodeSwitch _ => []
  | .lockGrant _ => []
  | .reelPageFill _ => []
  | .scatterWriteBuffer _ _ _ => []
  | .worldStepArrival _ => []
  | .worldStepClose _ _ => []
  | .collectiveComplete => []
  | .proxyAbsenceReceive _ _ => []
  | .proxyWithdrawalReceive _ _ => []
  | .trapDelivery _ => []
  | .preemptGating _ => []
  | .quiescence _ => []
  | .drainLimitExpiry _ => []
  | .imageSave _ => []
  | .saveResume _ _ => []
  | .saveAbandon _ _ => []
  | .preemptRetry _ => []
  | .launchRestore _ => []
  | .quoteComplete => []

/-- The operation word's fields of an instruction; a device step has none. -/
def Instr.opWord? : Instr → Option OpWord
  | .bra h _ => some h
  | .bri h => some h
  | .callb h _ _ => some h
  | .retb h => some h
  | .spawn h _ => some h
  | .sret h => some h
  | .tagenter h _ => some h
  | .tagleave h => some h
  | .read h _ => some h
  | .write h _ => some h
  | .phase h => some h
  | .join h => some h
  | .rep h _ _ => some h
  | .shadv h => some h
  | .bobinit h _ _ => some h
  | .bobwait h _ _ => some h
  | .bobrel h _ _ => some h
  | .syscall h _ => some h
  | .brk h _ => some h
  | .trapif h => some h
  | .eret h => some h
  | .endl h => some h
  | .mfsr h _ => some h
  | .mtsr h _ => some h
  | .const h _ => some h
  | .mov h => some h
  | .add h _ => some h
  | .sub h _ => some h
  | .mul h _ => some h
  | .mulh h _ => some h
  | .mad h _ => some h
  | .div h _ => some h
  | .rem h _ => some h
  | .and h => some h
  | .or h => some h
  | .xor h => some h
  | .andn h => some h
  | .shl h _ => some h
  | .shr h _ => some h
  | .sra h _ => some h
  | .rotl h => some h
  | .clz h => some h
  | .popc h => some h
  | .min h _ => some h
  | .max h _ => some h
  | .abs h _ => some h
  | .neg h _ => some h
  | .addsat h _ => some h
  | .subsat h _ => some h
  | .cmp h _ => some h
  | .sel h => some h
  | .tst h => some h
  | .extr h _ _ _ => some h
  | .ins h _ _ => some h
  | .lea h _ => some h
  | .packn h _ => some h
  | .unpackn h _ _ => some h
  | .unt5 h _ => some h
  | .acct h _ => some h
  | .dotp h _ => some h
  | .fadd h _ => some h
  | .faddRounding h _ _ => some h
  | .fsub h _ => some h
  | .fsubRounding h _ _ => some h
  | .fmul h _ => some h
  | .fmulRounding h _ _ => some h
  | .fma h _ => some h
  | .fmaRounding h _ _ => some h
  | .fmin h _ => some h
  | .fmax h _ => some h
  | .fsgn h _ _ => some h
  | .fcmp h _ _ => some h
  | .fclass h _ => some h
  | .fcvt h _ _ _ _ => some h
  | .frint h _ _ => some h
  | .fexpi h _ => some h
  | .fexpiRounding h _ _ => some h
  | .fgetx h _ => some h
  | .fdiv h _ => some h
  | .fdivRounding h _ _ => some h
  | .fsqrt h _ => some h
  | .fsqrtRounding h _ _ => some h
  | .frcp h => some h
  | .frsq h => some h
  | .frcps h => some h
  | .frsqs h => some h
  | .fexp2f h => some h
  | .flog2f h => some h
  | .vrun h _ _ => some h
  | .vred h _ => some h
  | .vscan h _ => some h
  | .vbcast h _ => some h
  | .vlane h _ _ => some h
  | .vshuf h => some h
  | .viota h _ => some h
  | .ld h _ => some h
  | .st h _ => some h
  | .ldv h _ _ => some h
  | .stv h _ => some h
  | .atom h _ _ _ _ _ => some h
  | .cas h _ _ _ _ => some h
  | .ldlk h => some h
  | .stul h => some h
  | .fence h _ _ => some h
  | .pref h => some h
  | .tstateFill h => some h
  | .tstatePublish h => some h
  | .tstateDrain h => some h
  | .tstateRelease h => some h
  | .twait h => some h
  | .sopen h _ => some h
  | .sclose h _ => some h
  | .grows h _ _ _ => some h
  | .scat h _ _ _ => some h
  | .cwalk h _ _ => some h
  | .stld h _ => some h
  | .sisect h _ _ _ => some h
  | .sunion h _ _ _ => some h
  | .sdiff h _ _ _ => some h
  | .smadd h _ _ _ _ => some h
  | .snext h _ _ => some h
  | .stst h _ => some h
  | .cred h _ _ _ _ => some h
  | .cbc h _ _ => some h
  | .cag h _ => some h
  | .ca2a h _ => some h
  | .mld h _ _ _ _ _ _ _ _ => some h
  | .mst h _ _ _ _ _ _ _ _ => some h
  | .mzero h _ _ _ => some h
  | .mma h _ _ _ _ => some h
  | .mmsp h _ _ _ _ _ _ => some h
  | .mcomp h _ _ _ _ _ _ => some h
  | .mqnt h _ _ _ _ _ => some h
  | .mdeq h _ _ _ _ _ => some h
  | .mtrn h _ _ => some h
  | .maccr h _ _ _ _ => some h
  | .mcor h _ _ _ _ _ _ _ => some h
  | .mtri h _ _ _ _ => some h
  | .mwy h _ _ _ _ _ _ => some h
  | .mstep h _ _ => some h
  | .mgrd h _ => some h
  | .ptset h _ _ => some h
  | .ptop h _ _ _ _ => some h
  | .ply h _ _ _ _ _ _ => some h
  | .plyc h _ _ => some h
  | .plyf h _ => some h
  | .warp h => some h
  | .reel h _ => some h
  | .camld h _ => some h
  | .camst h _ => some h
  | .camcomp h _ _ => some h
  | .pgath h _ _ _ _ => some h
  | .pmarch h _ _ _ _ => some h
  | .pscat h _ _ _ => some h
  | .pstep h _ => some h
  | .pstat h _ _ _ => some h
  | .skbind h _ => some h
  | .spin h _ => some h
  | .draw h _ => some h
  | .skupd h _ _ => some h
  | .skrd h _ _ => some h
  | .skwr h _ _ => some h
  | .deviceReset _ _ => none
  | .supplySagTrip _ => none
  | .stretchStepUp _ => none
  | .stretchStepDown _ => none
  | .packagePowerOverCap => none
  | .hardSagStop _ => none
  | .hardSagRestart _ => none
  | .powerCapWrite _ => none
  | .twinikFlitReceive _ _ _ _ => none
  | .twinikNakReceive _ _ => none
  | .twinikAckReceive _ _ => none
  | .undeliverableResponse _ _ _ => none
  | .portRetrain _ => none
  | .portRetrainDone _ _ => none
  | .portRetire _ => none
  | .routeTableWrite _ _ _ => none
  | .handoverTransfer _ _ => none
  | .handoverRetry _ => none
  | .firmwareLoad _ _ _ => none
  | .measurementExtend _ => none
  | .quoteBuild => none
  | .registerWrite _ _ _ => none
  | .bar4Access _ _ _ _ _ => none
  | .launchWindowWrite _ _ _ => none
  | .launchAccept _ _ _ => none
  | .spillReturn _ _ _ => none
  | .partitionEnable _ => none
  | .partitionDisable _ => none
  | .partitionResize _ _ => none
  | .waitWordPoll _ => none
  | .launchAging _ _ => none
  | .placementPass _ => none
  | .argumentCopy _ => none
  | .launchComplete _ => none
  | .launchCancel _ _ => none
  | .launchWatchdogExpiry _ => none
  | .watchdogTrapUnanswered _ => none
  | .withheldFaultRecordPost _ => none
  | .faultResponseRetry _ _ => none
  | .faultResponseFail _ _ => none
  | .coreRetire _ _ _ => none
  | .launchResume _ => none
  | .tlbInvalidate _ _ _ => none
  | .tlbInvalidateDone _ => none
  | .pageWalk _ _ => none
  | .spawnGrant _ => none
  | .colourRelease _ _ => none
  | .blockAdmission _ _ => none
  | .blockMapping _ => none
  | .tokenArrival _ _ => none
  | .instanceCommit _ => none
  | .arbourArrival _ => none
  | .barrierTimeout _ _ => none
  | .frameExhaustion _ => none
  | .queueStall _ _ => none
  | .configEccError _ _ _ _ _ => none
  | .configReload _ _ => none
  | .nodeElementRead _ _ => none
  | .shuttleEntryStart _ => none
  | .shuttleRowCopy _ _ => none
  | .shuttleCompletionPost _ => none
  | .burtexAtomic _ => none
  | .atommodeSwitch _ => none
  | .lockGrant _ => none
  | .reelPageFill _ => none
  | .scatterWriteBuffer _ _ _ => none
  | .worldStepArrival _ => none
  | .worldStepClose _ _ => none
  | .collectiveComplete => none
  | .proxyAbsenceReceive _ _ => none
  | .proxyWithdrawalReceive _ _ => none
  | .trapDelivery _ => none
  | .preemptGating _ => none
  | .quiescence _ => none
  | .drainLimitExpiry _ => none
  | .imageSave _ => none
  | .saveResume _ _ => none
  | .saveAbandon _ _ => none
  | .preemptRetry _ => none
  | .launchRestore _ => none
  | .quoteComplete => none

/-- Elements per lane of a format (R209), for the formats FCVT takes. -/
def Fmt.perLane : Fmt → Nat
  | .fp32 => 1 | .int32 => 1 | .fp16 => 2 | .bf16 => 2 | .fb6 => 5 | .fb4 => 8 | .int4 => 8
  | .e4m3 => 4 | .e5m2 => 4 | .fb8 => 4 | .int8 => 4 | .uint8 => 4 | .tern5 => 4

/-- Whether a format is an integer format of FCVT (R290). -/
def Fmt.isInt : Fmt → Bool
  | .int32 => true | .int8 => true | .uint8 => true | .int4 => true
  | .fp32 => false | .fp16 => false | .bf16 => false | .e4m3 => false | .e5m2 => false
  | .fb8 => false | .fb6 => false | .fb4 => false | .tern5 => false

/-- R290: GROUP is below the ratio of the two packings, and an integer-to-integer conversion has
RM 0. -/
def fcvtOk (group : BitVec 3) (rm : Rm) (src dst : Fmt) : Bool :=
  let ps := src.perLane
  let pd := dst.perLane
  let g := if ps < pd then pd / ps else ps / pd
  group.toNat < g && (!(src.isInt && dst.isInt) || rm == .rne)

/-- R334, R335: the combinations of KIND, REG, FMT, T and MO that MLD accepts. -/
def mldOk (fmt : Fmt) (reg : BitVec 4) (t : BitVec 1) (kind : MKind) : Bool :=
  match kind with
  | .ma => fmt != .fp32 && fmt != .int32 && (t == 0 || fmt != .tern5)
  | .md => fmt == .fp32 && reg.toNat < 8
  | .acc => (fmt == .fp32 || fmt == .int32) && reg.toNat < 8

/-- R334, R335: the combinations that MST accepts. -/
def mstOk (fmt : Fmt) (reg : BitVec 4) (t mo : BitVec 1) (kind : MKind) : Bool :=
  match kind with
  | .ma => mo == 0 && (t == 0 || fmt != .tern5)
  | .md => fmt == .fp32 && reg.toNat < 8
  | .acc => t == 0 && reg.toNat < 8 &&
      (fmt == .fp32 || fmt == .fp16 || fmt == .bf16 || fmt == .int32 || fmt == .int8)

/-- The numbers that R264, R329 and R374 assign to core registers. -/
def regAssigned (n : Nat) : Bool :=
  n ≤ 0x068 || (0x100 ≤ n && n ≤ 0x20F) || (0x210 ≤ n && n ≤ 0x21F) || (0x220 ≤ n && n ≤ 0x22F) ||
    (0x230 ≤ n && n ≤ 0x23F) || (0x240 ≤ n && n ≤ 0x247) || (0x300 ≤ n && n ≤ 0x308)

/-- What R254 and the instruction's own entry ask of the extension fields, the targets and TG. -/
def Instr.extOk : Instr → Bool
  | .bra h _ => h.noTargets
  | .bri h => h.noTargets && h.tg == 0
  | .callb h dc _ => h.noTargets && (h.ar == 0 || dc == 0)
  | .retb h => h.noTargets && h.tg == 0
  | .sret h => h.noTargets && h.tg == 0
  | .write h _ => h.noTargets && h.tg == 0
  | .rep h _ _ => h.noTargets
  | .trapif h => h.tg == 0
  | .eret h => h.noTargets && h.tg == 0
  | .endl h => h.noTargets && h.tg == 0
  | .mfsr _ n => regAssigned n.toNat
  | .mtsr h n => h.noTargets && h.tg == 0 && regAssigned n.toNat
  | .bobrel _ c _ => c != 0
  | .extr _ _ p l => p.toNat + l.toNat + 1 ≤ 32
  | .ins _ p l => p.toNat + l.toNat + 1 ≤ 32
  | .fcvt _ g rm s d => fcvtOk g rm s d
  | .vrun _ c f => f.toNat + c.toNat + 1 ≤ 32
  | .cwalk _ f c => f.toNat + c.toNat + 1 ≤ 32
  | .sisect _ _ b a => a != b
  | .sunion _ _ b a => a != b
  | .sdiff _ _ b a => a != b
  | .smadd _ _ _ b a => a != b
  | .mad h _ => h.ar != 1 || (h.noTargets && h.tg == 0)
  | .fma h _ => h.ar != 1 || (h.noTargets && h.tg == 0)
  | .fmaRounding h _ rm => h.ar != 1 || (h.noTargets && h.tg == 0 && rm == .rne)
  | .cas h o sc g hi => h.ar != 1 ||
      (h.noTargets && h.tg == 0 && o == .relaxed && sc == 0 && g == 0 && hi == 0)
  | .mld _ fmt reg _ _ _ t _ k => mldOk fmt reg t k
  | .mst _ fmt reg _ _ _ t mo k => mstOk fmt reg t mo k
  | .mzero _ acc _ empty => empty == 0 || acc.toNat % 2 == 0
  | .mmsp _ _ _ _ mb _ _ => mb.toNat % 2 == 0
  | .mcomp _ _ _ ms _ _ _ => ms.toNat % 2 == 0
  | .mdeq _ _ sf _ _ _ => sf != .fp32 && sf != .int32
  | .mwy _ acc atri _ _ _ _ => acc != atri
  | .ply _ acc _ _ _ _ _ => acc.toNat % 2 == 0
  | .plyc _ a b => a.toNat % 2 == 0 && b.toNat % 2 == 0 && a != b
  | .plyf _ acc => acc.toNat % 2 == 0
  | .camcomp _ d s => d != s
  | .pstat _ clr which _ => clr == 0 || (which == .clipped || which == .unseen || which == .conflost)
  | .skupd _ inc _ => inc != 0
  | _ => true

/-- A well-formed instruction: its arity is in the opcode's list, its targets meet R232 and its
fields meet its entry. A device step is well formed as it stands. -/
def Instr.wellFormed (i : Instr) : Bool :=
  match i.opWord? with
  | none => true
  | some h => decide (h.ar.toNat ∈ i.arities) && h.targetsOk && i.extOk

end Sys2Proof
end

