-- ==== Sys2Proof/Machine/Ops.lean ====
section
/-! DEFINITION. The shared operations of a core: instances and tags, taking an exception (R186 to
R192) and returning from one, tokens and targets, counted outputs (R100), and the frame that every
operation runs in. -/

namespace Sys2Proof.Machine

open Sys2Proof

/-! ### Tags (R90, R91) -/

/-- The depth of a tag. -/
def Tag.depth (t : Tag) : Nat := t.fields.length

/-- The innermost field, 0 at depth 0. -/
def Tag.inner (t : Tag) : Nat := t.fields.getLastD 0

/-- A tag with its innermost field replaced; a depth-0 tag is unchanged. -/
def Tag.setInner (t : Tag) (x : Nat) : Tag :=
  if t.fields.isEmpty then t else { t with fields := t.fields.dropLast ++ [x] }

/-- The fields of a tag packed by their widths, the innermost lowest. -/
def packFields : Nat → List Nat → List Nat → Nat
  | a, f :: fs, w :: ws => packFields (a * 2 ^ w + f % 2 ^ w) fs ws
  | a, _, _ => a

/-- The 64 bits of a tag, by the colour's widths (R90). -/
def Tag.encode (t : Tag) (shape : List Nat) : Nat :=
  t.colour * 2 ^ 54 + t.depth * 2 ^ 50 + packFields 0 t.fields shape

/-- R91 on two field stacks. -/
def fieldsEarlier : List Nat → List Nat → Bool
  | [], [] => false
  | [], _ :: _ => true
  | _ :: _, [] => false
  | a :: as, b :: bs => if a = b then fieldsEarlier as bs else decide (a < b)

/-- Whether an instance comes before another of its colour: by R91, and in naming order where the
tags are equal. -/
def Instance.before (a b : Instance) : Bool :=
  a.tag.colour == b.tag.colour &&
    (fieldsEarlier a.tag.fields b.tag.fields || (a.tag == b.tag && decide (a.iid < b.iid)))

/-! ### Instances and mappings -/

/-- The instance with a number. -/
def Core.inst? (k : Core) (iid : Nat) : Option Instance := k.instances.find? fun i => i.iid == iid

/-- A core with one instance changed. -/
def Core.modInst (k : Core) (iid : Nat) (f : Instance → Instance) : Core :=
  { k with instances := modFirst (fun i => i.iid == iid) f k.instances }

/-- The mapping of a block. -/
def Core.mapping? (k : Core) (block : Nat) : Option Mapping := k.mappings.find? fun m => m.block == block

/-- The live colour with a number. -/
def Core.colour? (k : Core) (id : Nat) : Option Colour := k.colours.find? fun c => c.id == id

/-- A core with one colour changed. -/
def Core.modColour (k : Core) (id : Nat) (f : Colour → Colour) : Core :=
  { k with colours := modFirst (fun c => c.id == id) f k.colours }

/-- The widths a colour has recorded (R90). -/
def Core.shape (k : Core) (colour : Nat) : List Nat :=
  match k.colour? colour with
  | some c => c.shape
  | none => []

/-- Whether an earlier instance of the same colour has not committed. -/
def Core.hasEarlier (k : Core) (i : Instance) : Bool := k.instances.any fun j => j.before i

/-- Elements of a region (R88). -/
def regionElems (size : Nat) : Nat := if size = 0 then 16 else if size = 1 then 32 else 64

/-- The width of a region (R88). -/
def regionWidth (size : Nat) : Nat := if size = 2 then 8 else 4

/-- The element slot `k` of a mapping runs on (R88). -/
def Mapping.elem (m : Mapping) (k : Nat) : Nat :=
  let e := k % regionElems m.size
  let w := regionWidth m.size
  8 * (m.y0 + e / w) + m.x0 + e % w

/-- The operation word of a slot. -/
def Mapping.word (m : Mapping) (slot : Nat) : Nat := (m.slots.getD slot (0, 0)).1

/-- The instruction a slot holds. -/
def Mapping.instr? (m : Mapping) (slot : Nat) : Option Instr :=
  match m.slots[slot]? with
  | none => none
  | some (w, x) =>
    match decodeWords w x with
    | .ok i => some i
    | .error _ => none

/-- The arity of a slot. -/
def Mapping.ar (m : Mapping) (slot : Nat) : Nat := fieldOf (m.word slot) 23 2

/-- The places a slot's target `second` sends to: the target field's, then the further channels'
(R105). -/
def Mapping.dests (m : Mapping) (slot : Nat) (second : Bool) : List (Nat × Nat) :=
  let t := fieldOf (m.word slot) (if second then 0 else 9) 9
  if t % 4 = 0 then []
  else (t / 4, t % 4) ::
    ((m.chans.filter fun c => c.slot == slot && c.second == second).map fun c => (c.dslot, c.dpos))

/-- An instance just named (R73): pending, with nothing in it. -/
def Instance.fresh (iid : Nat) (tag : Tag) (block : Nat) (handler : Bool) : Instance where
  iid := iid
  tag := tag
  block := block
  status := .pending
  frame := none
  ops := []
  counted := 0
  outs := []
  branch := none
  branchDone := false
  effects := []
  accs := []
  portmode := false
  handler := handler
  stalled := false
  parkedSets := []

/-- An instance named: it becomes pending (R73). The second component is its number. -/
def Core.nameInstance (k : Core) (tag : Tag) (block : Nat) (handler : Bool) : Core × Nat :=
  ({ k with nextIid := k.nextIid + 1,
            instances := k.instances ++ [Instance.fresh k.nextIid tag block handler] }, k.nextIid)

/-! ### Taking an exception (R186, R188 to R192) -/

/-- The trap handler's block address (R187). -/
def CoreRegs.handlerBlock (r : CoreRegs) : Nat := r.trapvec * 64

/-- Whether an instance belongs to the handler block (R192). -/
def Core.isHandler (k : Core) (i : Instance) : Bool :=
  i.handler || (i.tag.colour == 0 && i.block == k.regs.handlerBlock)

/-- The waiting lanes of a slot moved to the frame (R186). -/
def SlotOps.spill (o : SlotOps) : SlotOps :=
  let f := fun (w : Waiting) => { w with spilled := true }
  { o with left := o.left.map f, right := o.right.map f, pred := o.pred.map f, scale := o.scale.map f }

/-- Maximal runs of rising indices, as first index and length. -/
def runsOf : List Nat → List (Nat × Nat)
  | [] => []
  | a :: r =>
    match runsOf r with
    | (b, n) :: rest => if b = a + 1 then (a, n + 1) :: rest else (a, 1) :: (b, n) :: rest
    | [] => [(a, 1)]

/-- The tokens that waiting lanes make up (R94): the contiguous runs of each token's lanes, in the order in
which the tokens came; each by its token's number, first index and length. -/
def tokenRuns (ws : List Waiting) : List (Nat × Nat × Nat) :=
  let toks := ws.foldl (fun a w => addMem a w.tok) []
  toks.flatMap fun t =>
    let is := (ws.filter fun w => w.tok == t).map fun w => w.idx
    (runsOf ((List.range 32).filter fun i => has is i)).map fun p => (t, p)

/-- The tokens that waiting lanes outside the frame make up: the entries they take in the matching store
(R94). -/
def entriesOf (ws : List Waiting) : Nat := (tokenRuns (ws.filter fun w => !w.spilled)).length

/-- The tokens of a slot that wait outside the frame. -/
def SlotOps.entries (o : SlotOps) : Nat := entriesOf o.left + entriesOf o.right + entriesOf o.pred + entriesOf o.scale

/-- The operand tokens that a matched set stands for. -/
def Firing.tokenCount (f : Firing) : Nat := b2n (!f.left.isEmpty) + b2n (!f.right.isEmpty) + b2n (!f.third.isEmpty)

/-- An instance parked: its tokens and matched sets are withdrawn into its frame and none of them
fires (R186). The set that trapped is the first that fires again. What goes to the frame counts in SPILL
(R109). -/
def Core.park (k : Core) (iid : Nat) (firing : Option Firing) : Core :=
  let mine := k.issueQ.filter fun f => f.iid == iid
  let waiting := ((k.inst? iid).map fun i => (i.ops.map SlotOps.entries).sum).getD 0
  let n := waiting + ((firing.toList ++ mine).map Firing.tokenCount).sum
  let k1 := { k with issueQ := k.issueQ.filter fun f => f.iid != iid,
                     regs := { k.regs with spill := satAdd k.regs.spill n 0xFFFF } }
  k1.modInst iid fun i =>
    { i with status := .parked, ops := i.ops.map SlotOps.spill,
             parkedSets := i.parkedSets ++ firing.toList ++ mine }

/-- A double trap (R192): admission stops and the launch ends with status ERROR, DETAIL 0xFFFF. -/
def State.doubleTrap (s : State) (c : Nat) : State :=
  (s.modCore c fun k => { k with noAdmit := true }).endLaunch (s.coreLid c) 4 0xFFFF

/-- A trap that is tied to an instance. A second fault of a parked instance is withdrawn
unperformed and no record is delivered for it (R323). -/
def State.raiseAt (s : State) (c : Nat) (t : Trap) (i : Instance) : State :=
  let k := s.core c
  if i.status == .parked then
    s.setCore c (k.modInst i.iid fun j => { j with parkedSets := j.parkedSets ++ t.firing.toList })
  else
    let s1 := s.setCore c (k.park i.iid t.firing)
    if k.isHandler i || (i.tag.colour == 0 && decide (32 ≤ k.ring.length)) then s1.doubleTrap c
    else s1.modCore c fun k => { k with traps := k.traps ++ [t] }

/-- TAKING AN EXCEPTION (R186): the trap parks its instance, if it has one, and waits for delivery
(R188). -/
def State.raise (s : State) (c : Nat) (t : Trap) : State :=
  match t.iid.bind (s.core c).inst? with
  | some i => s.raiseAt c t i
  | none => s.modCore c fun k => { k with traps := k.traps ++ [t] }

/-- A trap of an instance where it stands (R108, R205): it parks one that is not parked; one that is holds at most one
parked trap (R323), and is owed this one until that has been answered. DESIGN CHOICE: of several it is owed the first
(log 122). -/
def State.raiseBeside (s : State) (c : Nat) (i : Instance) (t : Trap) : State :=
  if i.status == .parked then
    s.modCore c fun k => k.modInst i.iid fun j => { j with owed := j.owed.or (some t) }
  else s.raise c t

/-- The mark of an element, an entry or a page that a trap withholds (R125, R130, R185); fault identifiers lie
below it. -/
def trapHeld : Nat := 65536

/-- A trap tied to no instance (R186). -/
def Trap.untied (cause addr detail aux : Nat) (src : TrapSrc) : Trap where
  cause := cause
  slot := 0xFFFF
  colour := 0
  lane := 0
  tag := 0
  block := 0
  addr := addr
  detail := detail
  aux := aux
  iid := none
  firing := none
  src := src

/-- A trap of an instance's operation (R189). -/
def Trap.ofOp (k : Core) (i : Instance) (f : Firing) (cause addr detail aux lane : Nat) : Trap where
  cause := cause
  slot := f.slot
  colour := i.tag.colour
  lane := lane
  tag := i.tag.encode (k.shape i.tag.colour)
  block := i.block
  addr := addr
  detail := detail
  aux := aux
  iid := some i.iid
  firing := some { f with ticket := { f.ticket with got := [], turn := none } }
  src := .op

/-- A trap of an instance that no operation raised. -/
def Trap.ofInst (k : Core) (i : Instance) (cause addr detail aux : Nat) (src : TrapSrc) : Trap where
  cause := cause
  slot := 0xFFFF
  colour := i.tag.colour
  lane := 0
  tag := i.tag.encode (k.shape i.tag.colour)
  block := i.block
  addr := addr
  detail := detail
  aux := aux
  iid := some i.iid
  firing := none
  src := src

/-- The bytes of a trap record (R189): the device writes 0 into the fields the handler writes. -/
def Trap.bytes (t : Trap) (seq : Nat) : List Byte :=
  toBytes 1 t.cause ++ toBytes 1 0 ++ toBytes 2 t.slot ++ toBytes 2 t.colour ++ toBytes 2 t.lane ++
    toBytes 8 t.tag ++ toBytes 8 t.block ++ toBytes 8 t.addr ++ toBytes 8 t.detail ++
    toBytes 4 0 ++ toBytes 2 0 ++ toBytes 2 seq ++ toBytes 16 t.aux

/-- The lowest free ring entry (R188). -/
def Core.freeRing (k : Core) : Option Nat :=
  (List.range 32).find? fun i => !(k.ring.any fun p => p.1 == i)

/-- The local address of a ring entry (R188). -/
def CoreRegs.ringAddr (r : CoreRegs) (i : Nat) : Nat := r.traparea * 2048 + 64 * i

/-- A waiting lane at one position of a slot. -/
def SlotOps.empty (slot : Nat) : SlotOps :=
  { slot := slot, left := [], right := [], pred := [], done := [], off := [], leftTag := none }

/-- What an instance holds at a slot. -/
def Instance.slotOps (i : Instance) (slot : Nat) : SlotOps :=
  match i.ops.find? fun o => o.slot == slot with
  | some o => o
  | none => SlotOps.empty slot

/-- An instance with what it holds at a slot changed. -/
def Instance.modSlot (i : Instance) (slot : Nat) (f : SlotOps → SlotOps) : Instance :=
  if i.ops.any fun o => o.slot == slot then
    { i with ops := modFirst (fun o => o.slot == slot) f i.ops }
  else { i with ops := i.ops ++ [f (SlotOps.empty slot)] }

/-- A token sent to an instance of this core: onto the switch network (R85). -/
def Core.sendToken (k : Core) (t : Token) : Core := { k with inflight := k.inflight ++ [t] }

/-- The trap's record delivered (R188): the lowest free ring entry takes it, SEQ advances, and the
handler block is named in colour 0 at tag 0 with the record's address as its argument. A record fills its line,
whose poison it clears (R141). -/
def State.deliverTrap (s : State) (c : Nat) (t : Trap) (entry : Nat) : State :=
  let k := s.core c
  let a := k.regs.ringAddr entry
  let s1 := s.performSeg { loc := .scratch c a, bytes := t.bytes k.regs.trapSeq, poison := false }
  s1.modCore c fun k0 =>
    let k1 := { k0 with ring := k0.ring ++ [(entry, t)],
                        regs := { k0.regs with trapSeq := (k0.regs.trapSeq + 1) % 65536, trapWaiting := false } }
    let r := k1.nameInstance { colour := 0, fields := [] } k1.regs.handlerBlock true
    r.1.sendToken { iid := r.2, src := 0, slot := 0, pos := 1,
                    run := { first := 0, lanes := [{ val := BitVec.ofNat 32 a, poison := false }] },
                    opTag := none, acq := none }

/-- RETURNING FROM AN EXCEPTION (R191, RESUME): the parked tokens are reinjected and its withdrawn
sets, the faulting one first, enter their issue queues again; an instance parked at the mapping of
its block becomes pending again. -/
def Core.unpark (k : Core) (iid : Nat) : Core :=
  match k.inst? iid with
  | none => k
  | some i =>
    let st := if i.frame.isSome then IStatus.admitted else IStatus.pending
    { k.modInst iid (fun j => { j with status := st, parkedSets := [], frameBad := false }) with
      issueQ := k.issueQ ++ i.parkedSets }

/-! ### The frame every operation runs in -/

/-- An operation's surroundings: its core, its matched set, its instance and its block. -/
structure OpIn where
  c : Nat
  f : Firing
  i : Instance
  m : Mapping
  deriving DecidableEq, Repr

/-- The surroundings of a matched set, where its instance and block are there. -/
def State.opIn (s : State) (c : Nat) (f : Firing) : Option OpIn :=
  match (s.core c).inst? f.iid with
  | none => none
  | some i =>
    match (s.core c).mapping? i.block with
    | none => none
    | some m => some { c := c, f := f, i := i, m := m }

/-- The colour an operation belongs to. -/
def OpIn.colour (o : OpIn) : Nat := o.i.tag.colour

/-- Whether an earlier instance of the operation's colour has not committed. -/
def State.earlier (s : State) (o : OpIn) : Bool := (s.core o.c).hasEarlier o.i

/-- A trap raised by an operation. -/
def State.trapOp (s : State) (o : OpIn) (cause addr detail aux lane : Nat) : State :=
  s.raise o.c (Trap.ofOp (s.core o.c) o.i o.f cause addr detail aux lane)

/-- An illegal-operand trap of a whole set (R190): ADDR the operand value, DETAIL the rule; its first lane is
the first that faults (R189). -/
def State.illegal (s : State) (o : OpIn) (value rule : Nat) : State := s.trapOp o 2 value rule 0 o.f.first

/-- The poison mask of lanes, by lane index from `first` (R190). -/
def poisonMask (first : Nat) : List Lane → Nat
  | [] => 0
  | l :: ls => b2n l.poison * 2 ^ first + poisonMask (first + 1) ls

/-- Whether a lane of a run is poisoned. -/
def anyPoison (ls : List Lane) : Bool := ls.any fun l => l.poison

/-- The first poisoned lane of a set, by lane index from `first`; its first lane where none is. -/
def firstPoison (first : Nat) (ls : List Lane) : Nat :=
  if anyPoison ls then first + ls.findIdx (fun l => l.poison) else first

/-- A data-poison trap (R194): ADDR the address if there is one, DETAIL the consumer's kind, AUX
the poison mask, LANE the first poisoned lane (R189). `kind` numbers the consumers in the order of R194. -/
def State.poisonTrap (s : State) (o : OpIn) (addr kind : Nat) (ls : List Lane) : State :=
  s.trapOp o 0x0E addr (Config.consumerKind kind).toNat (poisonMask o.f.first ls) (firstPoison o.f.first ls)

/-- Lanes each poisoned where that of either of two runs is. -/
def orPoison (a b : List Lane) : List Lane :=
  (List.range (max a.length b.length)).map fun j =>
    { val := 0, poison := (a.getD j (Lane.mk 0 false)).poison || (b.getD j (Lane.mk 0 false)).poison }

/-- A request that waits (R120): it takes its place among the waiting ones, or keeps the one it
had. -/
def State.hold (s : State) (o : OpIn) (u : HUnit) (w : Wait) : State :=
  let h : Held := { firing := { o.f with heldAt := none }, unit := u, wait := w }
  s.modCore o.c fun k =>
    match o.f.heldAt with
    | none => { k with held := k.held ++ [h] }
    | some n => { k with held := k.held.take n ++ h :: k.held.drop n }

/-- Whether a waiting request holds back later ones on its unit port (R120, R330): on the matrix
unit's and the Spindle's port every one does, on the Carder's port one that waits for a tile. -/
def Held.blocks (h : Held) : Bool :=
  match h.unit, h.wait with
  | .matrix, _ => true
  | .spindle, _ => true
  | .carder, .tile _ => true
  | .carder, .port => true
  | _, _ => false

/-- The requests of a core that wait before an operation. -/
def State.heldBefore (s : State) (o : OpIn) : List Held :=
  match o.f.heldAt with
  | none => (s.core o.c).held
  | some n => (s.core o.c).held.take n

/-- Whether a request must wait behind an earlier one on its unit port (R85, R120). -/
def State.portBusy (s : State) (o : OpIn) (u : HUnit) : Bool := (s.heldBefore o).any fun h => h.unit == u && h.blocks

/-- The lane indices of a matched set. -/
def Firing.idxs (f : Firing) : List Nat := (List.range f.n).map fun j => f.first + j

/-- Lane 0 of a position; an absent lane reads zero. -/
def lane0 (l : List Lane) : Lane := l.headD { val := 0, poison := false }

/-- The value an operation's trap record gives for its operand: lane 0 of its left run. -/
def OpIn.value (o : OpIn) : Nat := (lane0 o.f.left).val.toNat

/-- A completion token's run (R255, R300): a single lane with a value. -/
def single (first : Nat) (v : Word) : Run :=
  { first := first, lanes := [{ val := v, poison := false }] }

/-! ### Counted outputs (R100, R95, R300, R356) -/

/-- Whether a form is the instance's branch (R254). -/
def isBranchForm : Instr → Bool
  | .bra _ _ => true
  | .bri _ => true
  | .callb _ _ _ => true
  | .retb _ => true
  | .sret _ => true
  | .endl _ => true
  | _ => false

/-- Whether a form is a counted output (R100, R254, R300, R353, R331, R364, R368). -/
def isCountedForm : Instr → Bool
  | .write _ _ => true
  | .mtsr _ _ => true
  | .eret _ => true
  | .st _ _ => true
  | .stv _ _ => true
  | .scat _ _ _ _ => true
  | .atom _ _ _ _ _ _ => true
  | .cas h _ _ _ _ => h.ar != 1
  | .stul _ => true
  | .mst _ _ _ _ _ _ _ _ _ => true
  | .warp _ => true
  | .pscat _ _ _ _ => true
  | .camst _ _ => true
  | i => isBranchForm i

/-- Whether a counted form takes a run of fixed length and so counts once when it fires (R356). -/
def countsOnceForm : Instr → Bool
  | .write _ _ => true
  | .mtsr _ _ => true
  | _ => false

/-- The counted outputs of a slot: its form's own, and one for each target at n121 (R300). -/
def Mapping.weight (m : Mapping) (slot : Nat) : Nat :=
  let ports := ((m.dests slot false ++ m.dests slot true).filter fun d => d.1 == 121).length
  match m.instr? slot with
  | some i => b2n (isCountedForm i) + ports
  | none => ports

/-- Whether a slot's counted outputs count when its set fires, whatever lanes remain (R356). -/
def Mapping.once (m : Mapping) (slot : Nat) : Bool :=
  match m.instr? slot with
  | some i => countsOnceForm i
  | none => false

/-- Whether the whole window of a slot has retired (R95). -/
def windowDone (vec : Bool) (done : List Nat) : Bool :=
  if vec then (List.range 32).all fun i => has done i else !done.isEmpty

/-- Lanes of a slot retired, by firing or by a false predicate; a slot counts each time in a block without
VEC, and once, when its window has retired, in one with VEC (R95, R100, R300). -/
def Instance.retire (i : Instance) (m : Mapping) (slot : Nat) (idxs : List Nat) (fired : Bool) :
    Instance :=
  let i1 := i.modSlot slot fun o => { o with done := idxs.foldl addMem o.done }
  let full := windowDone m.vec (i1.slotOps slot).done || (fired && m.once slot)
  if full && (!m.vec || !has i1.outs slot) && decide (0 < m.weight slot) then
    { i1 with outs := i1.outs ++ [slot], counted := i1.counted + m.weight slot,
              branchDone := i1.branchDone ||
                (match m.instr? slot with
                 | some x => isBranchForm x
                 | none => false) }
  else i1

/-- Whether a counted form would pass NOUT (R100). -/
def OpIn.overCount (o : OpIn) : Bool :=
  (!o.m.vec || !has o.i.outs o.f.slot) && decide (o.m.nout < o.i.counted + o.m.weight o.f.slot)

/-- Whether an operation would pass NOUT by what it sends to n121, where each target is a counted output (R100, R300). -/
def OpIn.nodeOver (o : OpIn) : Bool :=
  ((o.m.dests o.f.slot false ++ o.m.dests o.f.slot true).any fun d => d.1 == 121) && o.overCount

/-- An operation run on the matched set being executed: one that would pass NOUT by what it sends to n121 traps before it
does anything (R100, R300). -/
def runOp (s : State) (g : OpIn → State) : Host.Outcome State Fault Refusal :=
  match s.firing with
  | none => .fault .noOperands
  | some (c, f) =>
    match s.opIn c f with
    | none => .next { s with firing := none }
    | some o => .next { (if o.nodeOver then s.illegal o o.value 100 else g o) with firing := none }

/-! ### Result tokens (R92, R93, R105) -/

/-- The base iteration of a run in an instance (R93). -/
def baseOf (vec : Bool) (t : Tag) (first : Nat) : Nat :=
  if vec then t.inner + first else t.inner

/-- The last value of a field of width w. -/
def fieldTop (w : Nat) : Nat := 2 ^ w - 1

/-- R92: the tag and base iteration of a run of `n` lanes after tag arithmetic, or none where it
overflows. At depth 0 the iterations run from 0 to 31 (R93). -/
def tagStep (shape : List Nat) (tg : Nat) (t : Tag) (base n : Nat) : Option (Tag × Nat) :=
  let w := shape.getD (t.depth - 1) 1
  let fits := fun (b w : Nat) => decide (b + n - 1 ≤ fieldTop w)
  match tg with
  | 0 => if (if t.depth = 0 then decide (base + n ≤ 32) else fits base w) then some (t, base) else none
  | 1 => if t.depth = 0 then none
         else if fits (base + 1) w then some (t.setInner (base + 1), base + 1) else none
  | 2 => if t.depth = 0 then some (t, 0)
         else if fits 0 w then some (t.setInner 0, 0) else none
  | _ =>
    if t.depth = 0 then none
    else
      let t1 : Tag := { t with fields := t.fields.dropLast }
      if t1.depth = 0 then some (t1, 0)
      else
        let w1 := shape.getD (t1.depth - 1) 1
        let x := t1.inner + 1
        if fits x w1 then some (t1.setInner x, x) else none

/-- The instance tag a run falls in, and its lane index there. -/
def windowTag (vec : Bool) (t : Tag) (base : Nat) : Tag × Nat :=
  if vec && !t.fields.isEmpty then (t.setInner (base / 32 * 32), base % 32)
  else if vec then (t, base % 32)
  else (t.setInner base, 0)

/-- A run with base iteration `base` cut at window boundaries (R93). -/
def splitRun (vec : Bool) (t : Tag) (base : Nat) (lanes : List Lane) : List (Tag × Run) :=
  let w := windowTag vec t base
  let room := 32 - w.2
  if !vec || lanes.length ≤ room then [(w.1, { first := w.2, lanes := lanes })]
  else [(w.1, { first := w.2, lanes := lanes.take room }),
        ((windowTag vec t (base + room)).1, { first := 0, lanes := lanes.drop room })]

/-- The instance that a result token at a tag goes to (R92): the producing one, another one of its
block, or a new one, which becomes pending. DESIGN CHOICE: where several uncommitted instances of the block
have the tag, a pending one comes before an admitted one (log 106). -/
def Core.instanceFor (k : Core) (o : OpIn) (t : Tag) : Core × Nat :=
  if t = o.i.tag then (k, o.i.iid)
  else
    match k.instances.find? fun j => j.block == o.i.block && j.tag == t && j.status == .pending with
    | some j => (k, j.iid)
    | none =>
      match k.instances.find? fun j => j.block == o.i.block && j.tag == t with
      | some j => (k, j.iid)
      | none => k.nameInstance t o.i.block false

/-- Whether a store node runs, which takes the data that its port holds (R124, R313). -/
def Core.storeRuns (k : Core) : Bool :=
  k.nodes.any fun p => bit (p.2.desc.getD 6 0) 15 && (p.2.state == 1 || p.2.state == 3)

/-- One run sent to one place: a port, or a slot of an instance. Data for n121 is discarded while no store
node runs (R313). DESIGN CHOICE: a token for another port, of which no chapter says which tokens it accepts
from a target, is pushed there and nothing takes it (R85, log 107). -/
def Core.sendRun (k : Core) (o : OpIn) (iid : Nat) (d : Nat × Nat) (r : Run) (ot : Option Tag) : Core :=
  if d.1 = 121 then (if k.storeRuns then { k with nodeData := k.nodeData ++ [(o.i.iid, r)] } else k)
  else if 120 ≤ d.1 then { k with ports := k.ports ++ [(d.1, r)] }
  else k.sendToken { iid := iid, src := o.f.slot, slot := d.1, pos := d.2, run := r, opTag := ot,
                     acq := none }

/-- A run at a tag sent to every place of a target; the tag's instance is named where a slot of it is among them. -/
def Core.sendPiece (k : Core) (o : OpIn) (second : Bool) (p : Tag × Run) (ot : Option Tag) : Core :=
  let ds := o.m.dests o.f.slot second
  let r := if ds.any fun d => decide (d.1 < 120) then k.instanceFor o p.1 else (k, o.i.iid)
  ds.foldl (fun k d => k.sendRun o r.2 d p.2 ot) r.1

/-- A result run sent to one target: by tag arithmetic `tg`, in its instances (R92, R93). -/
def Core.sendTo (k : Core) (o : OpIn) (tg : Nat) (second : Bool) (r : Run) : Core :=
  if r.lanes.isEmpty then k
  else if tg = 0 && (!o.m.vec || decide (r.first + r.lanes.length ≤ 32)) then k.sendPiece o second (o.i.tag, r) none
  else
    match tagStep (k.shape o.colour) tg o.i.tag (baseOf o.m.vec o.i.tag r.first) r.lanes.length with
    | none => k
    | some (t, base) =>
      (splitRun o.m.vec t base r.lanes).foldl (fun k p => k.sendPiece o second p none) k

/-- Whether a result run's tag overflows (R92). -/
def State.tagBad (s : State) (o : OpIn) (tg : Nat) (r : Run) : Bool :=
  !r.lanes.isEmpty && (tagStep ((s.core o.c).shape o.colour) tg o.i.tag (baseOf o.m.vec o.i.tag r.first)
      r.lanes.length).isNone

/-- A tag-overflow trap (R190): ADDR the tag, DETAIL the TG. -/
def State.tagTrap (s : State) (o : OpIn) (tg : Nat) : State :=
  s.trapOp o 5 (o.i.tag.encode ((s.core o.c).shape o.colour)) tg 0 o.f.first

/-- The lanes of a matched set retired after it has fired. -/
def State.retireOp (s : State) (o : OpIn) : State :=
  s.modCore o.c fun k => k.modInst o.f.iid fun i => i.retire o.m o.f.slot o.f.idxs true

/-- The repetition of an operation, one iteration further (R266): none once it has ended. -/
def Firing.nextRep (f : Firing) : Option Firing :=
  match f.rep with
  | none => none
  | some r => if r.left ≤ 1 then none else some { f with rep := some { r with left := r.left - 1 }, skip := 0,
                                                               answered := none, ticket := { f.ticket with got := [], turn := none } }

/-- The iteration a repeated operation performs (R266). -/
def Firing.iter (f : Firing) : Nat :=
  match f.rep with
  | none => 0
  | some r => r.n - r.left

/-- The step of a field in an iteration. -/
def Firing.stepBy (f : Firing) : Nat :=
  match f.rep with
  | none => 0
  | some r => (r.n - r.left) * r.stride

/-- The unit that takes a form's request, where one does (R85). -/
def unitOf (op : Nat) : Option HUnit :=
  if 0x58 ≤ op ∧ op ≤ 0x6E then some .carder
  else if (0x70 ≤ op ∧ op ≤ 0x77) ∨ op = 0x7F then some .matrix
  else if 0x78 ≤ op ∧ op ≤ 0x7B then some .carder
  else none

/-- The next iteration of a repeated set (R266): with the parked sets of an instance that has been parked
meanwhile (R186), at its unit's port, which it has not left (R330), or at the head of its element's queue. -/
def State.fireAgain (s : State) (o : OpIn) (f : Firing) : State :=
  if ((s.core o.c).inst? f.iid).any fun i => i.status == .parked then
    s.modCore o.c fun k => k.modInst f.iid fun i => { i with parkedSets := { f with heldAt := none } :: i.parkedSets }
  else
    match unitOf (fieldOf (o.m.word f.slot) 25 7) with
    | some u => s.hold { o with f := f } u .flight
    | none => s.modCore o.c fun k => { k with issueQ := { f with heldAt := none } :: k.issueQ }

/-- The end of an operation: its result runs go to T0 and T1 by TG and its lanes retire; or, where
a result tag overflows, it traps (R92, R273). Between the iterations of a repetition only data
results are sent and the set fires again (R266). -/
def State.finish (s : State) (o : OpIn) (h : OpWord) (isData : Bool) (r0 r1 : Run) : State :=
  let tg := h.tg.toNat
  if s.tagBad o tg r0 || s.tagBad o tg r1 then s.tagTrap o tg
  else
    let send := fun (s : State) => s.modCore o.c fun k => (k.sendTo o tg false r0).sendTo o tg true r1
    match o.f.nextRep with
    | none => (send s).retireOp o
    | some f => (if isData then send s else s).fireAgain o f

/-- The end of an operation that sends one completion token to both targets. -/
def State.finishC (s : State) (o : OpIn) (h : OpWord) (v : Word) : State :=
  s.finish o h false (single o.f.first v) (single o.f.first v)

/-- The end of an operation without targets. -/
def State.finishN (s : State) (o : OpIn) (h : OpWord) : State :=
  s.finish o h false { first := 0, lanes := [] } { first := 0, lanes := [] }

/-- An effect entered among those of an instance in the order in which their sets issued (R301). -/
def noteEffect (seq : Nat) (e : Effect) (es : List (Nat × Effect)) : List (Nat × Effect) :=
  (es.takeWhile fun x => decide (x.1 ≤ seq)) ++ (seq, e) :: es.dropWhile fun x => decide (x.1 ≤ seq)

/-- An effect noted for the instance's commit (R101). -/
def State.atCommit (s : State) (o : OpIn) (e : Effect) : State :=
  s.modCore o.c fun k => k.modInst o.f.iid fun i => { i with effects := noteEffect o.f.ticket.seq e i.effects }

end Sys2Proof.Machine
end

