-- ==== Sys2Proof/Machine/Link.lean ====
section
/-! DEFINITION. The Twinik transport (R19 to R24): route words, flits and their replay buffers, packets
sent or undeliverable, requests, and the order of ordered writes across a route switch. -/

namespace Sys2Proof.Machine

open Sys2Proof

/-! ### Route words and headers (R19, R20) -/

/-- The hop count of a route word. -/
def routeHops (w : Nat) : Nat := bits w 60 4

/-- Hop `i`'s port field of a route word. -/
def routePort (w i : Nat) : Nat := bits w (5 * i) 5

/-- Whether a route word's hop count is one that R20 admits. -/
def routeHopsOk (w : Nat) : Bool := decide (1 ≤ routeHops w) && decide (routeHops w ≤ 12)

/-- Whether the port that a field names can be used: it exists and is not retired. -/
def State.portOk (s : State) (p : Nat) : Bool := decide (p < 24) && !(s.port p).retired

/-- Whether the source can send by a route word (R20): its hop count and field 0. -/
def State.routeSendable (s : State) (w : Nat) : Bool := routeHopsOk w && s.portOk (routePort w 0)

/-- The entry of the route table for a module (R21). -/
def State.route (s : State) (m : Nat) : Route := aget Route.reset s.routes m

/-- The state with a route-table entry changed. -/
def State.modRoute (s : State) (m : Nat) (f : Route → Route) : State :=
  { s with routes := aset s.routes m (f (s.route m)) }

/-- A flit header from its fields (R19), CREDIT among them. -/
def flitHeader (kind cls hop seq credit : Nat) : Nat :=
  kind % 8 * 2 ^ 29 + cls % 4 * 2 ^ 27 + hop % 16 * 2 ^ 23 + seq % 256 * 2 ^ 15 + credit % 128 * 2 ^ 8

/-- KIND of a flit header. -/
def hdrKind (h : Nat) : Nat := bits h 29 3
/-- CLASS of a flit header. -/
def hdrClass (h : Nat) : Nat := bits h 27 2
/-- HOP of a flit header. -/
def hdrHop (h : Nat) : Nat := bits h 23 4
/-- SEQ of a flit header. -/
def hdrSeq (h : Nat) : Nat := bits h 15 8

/-- A payload cut into 64-byte pieces, the last filled with zeros. -/
def payloads : Nat → List Byte → List (List Byte)
  | 0, _ => []
  | n + 1, bs => (bs.take 64 ++ List.replicate (64 - bs.length) 0) :: payloads n (bs.drop 64)

/-- KIND of the `i`-th of `n` flits of a packet: single, or head, body and tail. -/
def flitKind (i n : Nat) : Nat := if n = 1 then 4 else if i = 0 then 1 else if i + 1 = n then 3 else 2

/-- The flits of a packet, numbered from a sequence number on (R19); CREDIT is put in as each one leaves. -/
def packetFlits (cls hop seq : Nat) (q : Parcel) : List Flit :=
  let n := max 1 (ceilDiv q.payload.length 64)
  (List.zipIdx (payloads n q.payload)).map fun p =>
    { header := flitHeader (flitKind p.2 n) cls hop ((seq + p.2) % 256) 0, payload := p.1, parcel := q }

/-! ### Sending (R19, R20, R23) -/

/-- A flit as it leaves: `credit` buffer credits go with it, and its check word is computed over the header
and the payload. -/
def wireFlit (port header credit : Nat) (payload : List Byte) : WireFlit :=
  let h := header + credit % 128 * 2 ^ 8
  { port := port, header := h, payload := payload, check := crc32c (toBytes 4 h ++ payload) }

/-- Flits sent on a port (R19): each takes the credits that the port owes its peer, 127 at most. -/
def State.transmit (s : State) (port : Nat) : List (Nat × List Byte) → State
  | [] => s
  | (h, bs) :: rest =>
    let c := min 127 (s.port port).owed
    let s1 := s.modPort port fun p => { p with owed := p.owed - c }
    State.transmit { s1 with sent := s1.sent ++ [wireFlit port h c bs] } port rest

/-- Flits of the replay buffer sent on a port. -/
def State.sendFlits (s : State) (port : Nat) (fs : List Flit) : State :=
  s.transmit port (fs.map fun f => (f.header, f.payload))

/-- Whether a port carries flits: it is trained and neither retraining nor retired. -/
def Port.carries (p : Port) : Bool := p.up && !p.retraining && !p.retired

/-- The flits that wait for a port go as far as it carries flits and its replay buffer of 128 has room
(R23). -/
def State.pump (s : State) (port : Nat) : State :=
  let p := s.port port
  if p.carries then
    let room := 128 - p.replay.length
    let fs := p.waiting.take room
    (s.modPort port fun p => { p with replay := p.replay ++ fs, waiting := p.waiting.drop room }).sendFlits port fs
  else s

/-- A packet sent on a port: its flits are numbered, and go as the port takes them. -/
def State.sendOn (s : State) (port cls hop : Nat) (payload : List Byte) (origin : Origin) : State :=
  let q : Parcel := { num := s.nextParcel, payload := payload, hop := hop - 1, origin := origin }
  let fs := packetFlits cls hop (s.port port).txSeq q
  let s1 := { s with nextParcel := s.nextParcel + 1 }
  (s1.modPort port fun p =>
    { p with txSeq := (p.txSeq + fs.length) % 256, waiting := p.waiting ++ fs }).pump port

/-- An undeliverable event counted in DR_TWUNDEL (R20, R24, R26). -/
def State.countUndel (s : State) : State := { s with undel := satAdd s.undel 1 0xFFFF }

/-- The bytes of a packet's payload: the route word and the body. -/
def packetPayload (w kind : Nat) (args : List Nat) (bs : List Byte) : List Byte :=
  toBytes 8 w ++ Config.packetBody kind args bs

/-- The route word in use for a module, and whether it is the alternate one; none where both have failed
(R21). -/
def Route.use (r : Route) : Option (Nat × Bool) :=
  if !r.priFail then some (r.primary, false) else if !r.altFail then some (r.alternate, true) else none

/-- A route of an entry marked failed (R21). -/
def Route.fail (r : Route) (alt : Bool) : Route := if alt then { r with altFail := true } else { r with priFail := true }

/-- The undeliverable fault at the source (R20, R21): the route that a module's packets use is marked failed
where it cannot be sent on, and counted, the alternate likewise. -/
def State.checkRoute (s : State) (m : Nat) : State :=
  let one := fun (s : State) => match (s.route m).use with
    | some (w, alt) => if s.routeSendable w then s else (s.countUndel).modRoute m fun r => r.fail alt
    | none => s
  one (one s)

/-- A type 0x07 record of a packet that cannot be delivered (R21, R55): to the queue of its launch's partition
where it is tied to one, or else to queue 16. `core` is the core of the access, `write` marks a write, and `addr` is the
faulting address; a packet that is no access has neither. -/
def State.postUndeliverable (s : State) (lid : Option Nat) (core : Nat) (write : Bool) (addr : Nat) : State :=
  match lid.bind s.launch with
  | some l => s.postRec { FRec.blank l.part l.part 7 with lnum := l.record.lnum, core := core, write := write, address := addr }
  | none => s.postRec { FRec.blank 16 0 7 with write := write, address := addr }

/-- An agent as other modules know it: its module, its launch, the rank and its number. A launch of this module goes by
the model's number of it with its launch number below, so that another module finds the latter for R405. -/
def State.outName (s : State) (a : Agent) : List Nat :=
  let launch := match a.module with
    | none => a.launch * 2 ^ 32 + ((s.launch a.launch).map fun l => l.record.lnum % 2 ^ 32).getD 0
    | some _ => a.launch
  [a.module.getD Config.moduleId.toNat, launch, a.rank, a.who]

/-- The agent that another module names. -/
def inName (module launch rank who : Nat) : Agent :=
  let m := module % 4096
  if m = Config.moduleId.toNat then { module := none, launch := launch / 2 ^ 32, rank := rank, who := who }
  else { module := some m, launch := launch, rank := rank, who := who }

/-- What an agent has acquired (R172), as its requests carry it to the module that checks them (R181). -/
def State.acqArgs (s : State) (b : Agent) : List Nat :=
  (s.acquired.filter fun p => p.1.1 == b).flatMap fun p => s.outName p.1.2 ++ [p.2]

/-- The numbers by which a packet names the access it is for the owning module's records (R168, R181), and what its agent
has acquired. -/
def State.accArgs (s : State) : Option Acc → List Nat
  | none => []
  | some a => s.outName a.agent ++ [a.core, a.step, a.epoch] ++ s.acqArgs a.agent

/-! ### Ordered writes (R22) -/

/-- Whether an ordered write goes out poisoned: its data are, or failed their hand-over to the Twinik port on both
attempts (R28). -/
def State.goesPoisoned (s : State) (o : OrderedWrite) : Bool := o.poison || has s.torn (lineOf o.addr)

/-- An ordered write sent by the route in use, where there is one. -/
def State.sendWrite (s : State) (o : OrderedWrite) : State :=
  match (s.route o.dest).use with
  | none => s
  | some (w, alt) =>
    let p := s.goesPoisoned o
    let put := fun (x : OrderedWrite) => { x with alt := alt, st := .outstanding, poison := p }
    let s1 := { s with owrites := modFirst (fun x => x.id == o.id) put s.owrites,
                       torn := s.torn.filter fun a => a != lineOf o.addr }
    s1.sendOn (routePort w 0) 2 1 (packetPayload w 0 ([o.dest, o.id, o.addr, b2n p] ++ s.accArgs o.acc) o.bytes) (.write o.id)

/-- The next ordered write to a module that may be sent (R22): none while a write is outstanding on a route
that is no longer in use; the returned ones first, in their original order, then the queued ones. DESIGN CHOICE: a
route word that software rewrites is no such switch, and the writes outstanding on the old word hold nothing back
(log 147). -/
def State.nextWrite (s : State) (m : Nat) : Option OrderedWrite :=
  let mine := s.owrites.filter fun o => o.dest == m
  match (s.route m).use with
  | none => none
  | some (_, alt) =>
    if mine.any fun o => o.st == .outstanding && o.alt != alt then none
    else
      match mine.find? fun o => o.st == .returned with
      | some o => some o
      | none => mine.find? fun o => o.st == .queued

/-- The ordered writes to a module that may be sent are sent, with `fuel` rounds. -/
def State.sendWrites (s : State) (m : Nat) : Nat → State
  | 0 => s
  | n + 1 =>
    match s.nextWrite m with
    | none => s
    | some o => (s.sendWrite o).sendWrites m n

/-! ### Requests to other modules (R134, R181) -/

/-- A request sent by the route in use, or undeliverable where there is none. -/
def State.sendAsk (s : State) (q : Ask) : State :=
  let put := fun (s : State) (st : AskSt) =>
    { s with asks := modFirst (fun x => x.id == q.id) (fun x => { x with st := st }) s.asks }
  match (s.route q.dest).use with
  | none => put s .failed
  | some (w, alt) =>
    (put s (.sent alt)).sendOn (routePort w 0) 0 1
      (packetPayload w 4 ([q.dest, q.id, q.addr, q.len, (q.release.map (· + 1)).getD 0] ++ q.atomic ++
        s.accArgs (some q.acc)) []) (.request q.id)

/-- A request made: it is numbered and sent (R20, R21). -/
def State.ask (s : State) (asker : Asker) (addr len : Nat) (atomic : List Nat) (release : Option Nat) (acc : Acc) : State :=
  let m := bits addr 35 12
  let q : Ask := { id := s.nextOw, asker := asker, dest := m, addr := addr, len := len, atomic := atomic,
                   release := release, acc := acc, st := .failed }
  let s1 := { s with asks := s.asks ++ [q], nextOw := s.nextOw + 1 }
  (s1.checkRoute m).sendAsk q

/-- The Shuttle's number as an agent (R405). -/
def shuttleAgent : Nat := 0x8000
/-- The Reel's. -/
def reelAgent : Nat := 0x8001
/-- The Spindle's. -/
def spindleAgent : Nat := 0x8002

/-- The undeliverable fault of a write under way, for the agent that made it (R21, R130): the Shuttle's entry or the
Reel's command ends with the error flag on its completion; another agent's write is a translation fault of a program's
access. DESIGN CHOICE: the instance that made it has committed, so the trap is tied to no instance and the write is not
made again (log 148). -/
def Core.lostWrite (k : Core) (who part addr : Nat) : Core :=
  if who = shuttleAgent then
    match k.shuttle[part]? with
    | some e => { k with shuttle := setAt k.shuttle part { e with err := true } }
    | none => k
  else if who = reelAgent && k.reel.any (fun m => m.id == part) then
    { k with reel := modFirst (fun m => m.id == part) (fun m => { m with lost := true }) k.reel }
  else { k with traps := k.traps ++ [Trap.untied 6 addr 0x13 0 .untied] }

/-- An ordered write that cannot be delivered: it is reported, and its agent has the undeliverable fault (R21), on the core
that has its rank in the launch, where it still runs. -/
def State.loseWrite (s : State) (o : OrderedWrite) : State :=
  match o.acc with
  | none => s.postUndeliverable none 0 true o.addr
  | some a =>
    let s1 := s.postUndeliverable (some a.agent.launch) a.core true o.addr
    match (s1.launch a.agent.launch).bind fun l => l.cores[a.agent.rank]? with
    | some c => if s1.coreLid c = a.agent.launch then s1.modCore c fun k => k.lostWrite a.agent.who o.part o.addr else s1
    | none => s1

/-- ROUTE_FAILOVER (R21, R22): with a route in use the writes that may be sent are sent; with both routes
failed the writes that have not been performed are undeliverable and are reported. -/
def State.failover (s : State) (m : Nat) : State :=
  match (s.route m).use with
  | some _ => s.sendWrites m s.owrites.length
  | none =>
    let lost := s.owrites.filter fun o => o.dest == m && o.st != .outstanding
    lost.foldl State.loseWrite { s with owrites := s.owrites.filter fun o => !(o.dest == m && o.st != .outstanding) }

/-- An ordered write of this module to another one: it is queued and sent when its turn comes. `a` is the
physical address, and `part` the Shuttle's entry or the Reel's command that it is part of. -/
def State.orderedWrite (s : State) (m a : Nat) (bytes : List Byte) (poison : Bool) (acc : Option Acc) (part : Nat) : State :=
  let o : OrderedWrite := { dest := m, id := s.nextOw, addr := a, bytes := bytes, poison := poison, acc := acc,
                            alt := false, st := .queued, part := part }
  let s1 := { s with owrites := s.owrites ++ [o], nextOw := s.nextOw + 1 }
  (s1.checkRoute m).failover m

/-- A packet of this module to another one that carries no order: by the route in use, or reported
undeliverable (R20, R21, R207). `body` is its payload behind the route word, `lid` the launch that it is tied to. -/
def State.sendBody (s : State) (m cls : Nat) (lid : Option Nat) (body : List Byte) : State :=
  let s1 := s.checkRoute m
  match (s1.route m).use with
  | none => s1.postUndeliverable lid 0 false 0
  | some (w, _) => s1.sendOn (routePort w 0) cls 1 (toBytes 8 w ++ body) (.own m cls lid)

/-- The same by its kind and what it carries. -/
def State.sendPacket (s : State) (m cls kind : Nat) (lid : Option Nat) (args : List Nat) (bs : List Byte) : State :=
  s.sendBody m cls lid (Config.packetBody kind args bs)

/-! ### Receiving packets (R20) -/

/-- Whether a packet that is to leave this module by field `hop` of its route word is undeliverable. DESIGN
CHOICE: a HOP above the hop count, of which R20 says nothing, is undeliverable as well (log 104). -/
def State.badHop (s : State) (w hop : Nat) : Bool :=
  !routeHopsOk w || decide (routeHops w < hop) || (decide (hop < routeHops w) && !s.portOk (routePort w hop))

/-- An undeliverable packet of another module (R20): it is counted and dropped, and a response that names
this module and the hop goes back to its source by the route table. -/
def State.returnPacket (s : State) (hop : Nat) (payload : List Byte) : State :=
  s.countUndel.sendPacket (Config.packetField 0 payload) 1 1 none [Config.moduleId.toNat, hop] payload

/-! ### Retirement (R24) -/

/-- A packet that a retired port held comes back as undeliverable to its source: an ordered write of this
module or a request waits to be sent again, another packet of this module goes on by the route then in use, and a packet
under way goes back to the module it came from. -/
def State.returnParcel (s : State) (q : Parcel) : State :=
  match q.origin with
  | .transit => s.returnPacket q.hop q.payload
  | .write id =>
    { s.countUndel with owrites := modFirst (fun o => o.id == id) (fun o => { o with st := .returned }) s.owrites }
  | .request id =>
    match s.asks.find? fun x => x.id == id with
    | some x => s.countUndel.sendAsk x
    | none => s.countUndel
  | .own m cls lid => s.countUndel.sendBody m cls lid (q.payload.drop 8)

/-- The packets that flits belong to, each once. -/
def parcelsOf (fs : List Flit) : List Parcel :=
  fs.foldl (fun a f => if a.any fun q => q.num == f.parcel.num then a else a ++ [f.parcel]) []

/-- The modules whose entry has a route with a port as its first hop, marked failed. -/
def State.failPort (s : State) (port : Nat) : State :=
  { s with routes := s.routes.map fun p =>
      let hit := fun (w : Nat) => routeHopsOk w && routePort w 0 == port
      (p.1, { p.2 with priFail := p.2.priFail || hit p.2.primary, altFail := p.2.altFail || hit p.2.alternate }) }

/-- PORT_RETIRE (R24): the port stops, its unacknowledged packets come back, the routes that begin with it
have failed, and the writes under way go on by R21 and R22. -/
def State.retirePort (s : State) (port : Nat) : State :=
  if (s.port port).retired || !decide (port < 24) then s
  else
    let qs := parcelsOf ((s.port port).replay ++ (s.port port).waiting)
    let s1 := s.modPort port fun p =>
      { p with retired := true, up := false, retraining := false, replay := [], waiting := [], rxPart := none }
    let s2 := qs.foldl (fun s q => s.returnParcel q) (s1.failPort port)
    s2.routes.foldl (fun s p => s.failover p.1) s2

end Sys2Proof.Machine
end

