-- ==== Sys2Proof/Machine/Operands.lean ====
section
/-! DEFINITION. The operand forms of the element instructions (R233, R272, R273): one, two or three
lanes in, a data run, a steered pair or a predicate pair out. -/

namespace Sys2Proof.Machine

open Sys2Proof

/-- The run of a matched set's lanes. -/
def Firing.run (f : Firing) (lanes : List Lane) : Run := { first := f.first, lanes := lanes }

/-- A function of one operand on each lane, with its poison (R193). -/
def lanes1 (g : Word → Word) (l : List Lane) : List Lane :=
  l.map fun a => { val := g a.val, poison := a.poison }

/-- A function of two operands on each pair of lanes; a result is poisoned if either operand
was. -/
def lanes2 (g : Word → Word → Word) (l r : List Lane) : List Lane :=
  List.zipWith (fun a b => { val := g a.val b.val, poison := a.poison || b.poison }) l r

/-- A function of three operands. -/
def lanes3 (g : Word → Word → Word → Word) (l r t : List Lane) : List Lane :=
  List.zipWith (fun (a : Lane) (p : Lane × Lane) =>
    { val := g a.val p.1.val p.2.val, poison := a.poison || p.1.poison || p.2.poison }) l (List.zip r t)

/-- The lanes of a predicate over two operands. -/
def lanesPred (g : Word → Word → Bool) (l r : List Lane) : List Lane :=
  List.zipWith (fun a b => { val := predWord (g a.val b.val), poison := a.poison || b.poison }) l r

/-- A form that sends one data run to both targets. -/
def sendData (h : OpWord) (s : State) (lanes : OpIn → List Lane) :
    Host.Outcome State Fault Refusal :=
  runOp s fun o => s.finish o h true (o.f.run (lanes o)) (o.f.run (lanes o))

/-- A form of one operand. -/
def elem1 (h : OpWord) (g : Word → Word) (s : State) : Host.Outcome State Fault Refusal :=
  sendData h s fun o => lanes1 g o.f.left

/-- A form of two operands. -/
def elem2 (h : OpWord) (g : Word → Word → Word) (s : State) : Host.Outcome State Fault Refusal :=
  sendData h s fun o => lanes2 g o.f.left o.f.right

/-- A three-operand form (R236). Its partner word never fires by itself. -/
def elem3 (h : OpWord) (g : Word → Word → Word → Word) (s : State) :
    Host.Outcome State Fault Refusal :=
  if h.ar = 1 then runOp s fun _ => s
  else sendData h s fun o => lanes3 g o.f.left o.f.right o.f.third

/-- A form that sends a predicate to T0 and its complement to T1 (R281, R289). -/
def elemPred (h : OpWord) (g : Word → Word → Bool) (s : State) : Host.Outcome State Fault Refusal :=
  runOp s fun o => s.finish o h true (o.f.run (lanesPred g o.f.left o.f.right))
    (o.f.run (lanesPred (fun a b => !g a b) o.f.left o.f.right))

/-- The window of a set (R295): its 32 lanes, or lane 0 alone in a block without VEC. -/
def windowLane (l : List Lane) (i : Nat) : Lane := l.getD i { val := 0, poison := false }

end Sys2Proof.Machine
end

