-- ==== Sys2Proof/Machine/Race.lean ====
section
/-! DEFINITION. Accesses to memory: the race detector (R161 to R168, R405), ordering arcs within an
instance (R175), scopes, releases and acquires (R169 to R172), and how an operation's access
succeeds or fails (R57, R112, R113, R166). -/

namespace Sys2Proof.Machine

open Sys2Proof

/-! ### Agents and epochs -/

/-- An agent of a core (R161). -/
def State.agent (s : State) (c who : Nat) : Agent :=
  { module := none, launch := s.coreLid c, rank := s.coreRank c, who := who }

/-- The release epoch E[a] (R165). -/
def State.epoch (s : State) (a : Agent) : Nat :=
  match s.epochs.find? fun p => p.1 == a with
  | some p => p.2
  | none => 0

/-- acq[b][a] (R165, R172). -/
def State.acqOf (s : State) (b a : Agent) : Nat :=
  match s.acquired.find? fun p => p.1 == (b, a) with
  | some p => p.2
  | none => 0

/-- The number of Arbour steps of a core's launch closed (R179). -/
def State.stepOf (s : State) (c : Nat) : Nat :=
  match s.coreLaunch c with
  | some l => l.steps
  | none => 0

/-- An access by an agent of a core as it is performed now. -/
def State.accNow (s : State) (c who : Nat) (write atomic : Bool) : Acc :=
  let a := s.agent c who
  { agent := a, core := c, step := s.stepOf c, epoch := s.epoch a, write := write, atomic := atomic }

/-- Whether a launch has completed (R165): it is in the list of launches no more. -/
def State.launchComplete (s : State) (lid : Nat) : Bool := (s.launch lid).isNone

/-- Whether two agents belong to one launch of one module. -/
def Agent.sameLaunch (a b : Agent) : Bool := a.module == b.module && a.launch == b.launch

/-- R165's `ordered`. Which launches of another module have completed is not known here. -/
def State.orderedBefore (s : State) (w x : Acc) : Bool :=
  if w.agent = x.agent then true
  else if !w.agent.sameLaunch x.agent then
    (w.agent.module.isNone && s.launchComplete w.agent.launch) || decide (w.epoch < s.acqOf x.agent w.agent)
  else if w.step < x.step then true
  else decide (w.epoch < s.acqOf x.agent w.agent)

/-- Whether a collective lies between two accesses of its participants (R182): it counts like an Arbour step
among them, so what the first did before it arrived is of an earlier step to the second once it has
completed. -/
def State.collBefore (s : State) (w x : Acc) : Bool :=
  match s.collAcq.find? fun p => p.1 == (x.agent, w.agent) with
  | some p => decide (w.epoch < p.2)
  | none => false

/-- Whether two accesses are of one step of one launch, as their agents count steps (R165, R179, R182). -/
def State.sameStep (s : State) (w x : Acc) : Bool :=
  w.agent.sameLaunch x.agent && w.step == x.step && !s.collBefore w x

/-- R165's `races`. -/
def State.racesWith (s : State) (w x : Acc) : Bool :=
  if w.atomic && x.atomic then false
  else if w.atomic != x.atomic && w.agent != x.agent && s.sameStep w x then true
  else !s.orderedBefore w x

/-- A line with no record. -/
def LineRec.empty : LineRec := { lastWrite := none, reads := .none, release := none }

/-- The record of the line of a place (R167). -/
def State.lineRec (s : State) (l : Loc) : LineRec :=
  match l with
  | .scratch c a => aget LineRec.empty (s.core c).scratchRecs (lineOf a)
  | .phys a => aget LineRec.empty s.memRecs (lineOf a)

/-- The record of a line replaced. -/
def State.setRec (s : State) (l : Loc) (r : LineRec) : State :=
  match l with
  | .scratch c a => s.modCore c fun k => { k with scratchRecs := aset k.scratchRecs (lineOf a) r }
  | .phys a => { s with memRecs := aset s.memRecs (lineOf a) r }

/-- The first access of the racing pair that an access would make (R165, R405), or none. -/
def State.raceOn (s : State) (l : Loc) (x : Acc) : Option Acc :=
  let r := s.lineRec l
  match r.lastWrite.filter fun w => s.racesWith w x with
  | some w => some w
  | none =>
    if x.write then
      match r.reads with
      | .none => none
      | .one a => if s.racesWith { a with atomic := false } x then some a else none
      | .many rs => (rs.filter fun a => s.sameStep a x).getLast?
    else none

/-- R165's add_read: the reads of the latest step that has reads; a collective counts like a step among its participants
(R182). -/
def State.addRead (s : State) (rs : Reads) (x : Acc) : Reads :=
  match rs with
  | .none => .one x
  | .one a => if s.sameStep a x then (if a.agent == x.agent then .one x else .many [a, x]) else .one x
  | .many l => if l.any fun a => s.sameStep a x then .many ((l.filter fun a => a.agent != x.agent) ++ [x]) else .one x

/-- An access entered in its line's record (R165). A write is no release unless it is made one. -/
def State.recordAcc (s : State) (l : Loc) (x : Acc) : State :=
  let r := s.lineRec l
  if x.write then s.setRec l { lastWrite := some x, reads := .none, release := none }
  else if x.atomic then s
  else s.setRec l { r with reads := s.addRead r.reads x }

/-- A host, peer or device write marks its line as written before every running launch (R168). -/
def State.clearRecs (s : State) (ls : List (Loc × Nat)) : State :=
  ls.foldl (fun s q => match q.1 with
    | .phys a => { s with memRecs := s.memRecs.filter fun r => r.1 != lineOf a }
    | .scratch _ _ => s) s

/-- DETAIL of a race record (R405). -/
def raceDetail (a : Acc) : Nat :=
  a.agent.module.getD Config.moduleId.toNat * 2 ^ 32 + a.core * 2 ^ 16 + a.agent.who

/-- AUX of a race record (R405). Another module names its launch with the launch number in the low 32 bits. -/
def State.raceAux (s : State) (a : Acc) : Nat :=
  let lnum := match a.agent.module, s.launch a.agent.launch with
    | some _, _ => a.agent.launch
    | none, some l => l.record.lnum
    | none, none => 0
  a.epoch % 2 ^ 32 + a.step % 2 ^ 32 * 2 ^ 32 + lnum % 2 ^ 32 * 2 ^ 64 + b2n a.write * 2 ^ 96 +
    b2n a.atomic * 2 ^ 97

/-- The address that a race trap gives for a line: the local or physical address (R190). -/
def Loc.addr : Loc → Nat
  | .scratch _ a => a
  | .phys a => a

/-! ### Scopes (R169 to R172) -/

/-- Column, row and die of a core (R9). -/
def coreXYD (c : Nat) : Nat × Nat × Nat := (c % 16, c / 16 % 8, c / 128)

/-- |a - b|. -/
def absDiff (a b : Nat) : Nat := if a ≤ b then b - a else a - b

/-- The distance between two agents of this module by their cores (R169). -/
def coreDist (same : Bool) (a b : Nat) : Nat :=
  let p := coreXYD a
  let q := coreXYD b
  if same then 0
  else if a = b then 16
  else if p.2.2 = q.2.2 then 16 + absDiff p.1 q.1 + absDiff p.2.1 q.2.1
  else 64 + 16 * (absDiff (p.2.2 % 4) (q.2.2 % 4) + absDiff (p.2.2 / 4) (q.2.2 / 4))

/-- The hops of the route in use to a module (R20, R169). -/
def State.hopsTo (s : State) (m : Nat) : Nat :=
  match (s.route m).use with
  | some (w, _) => routeHops w
  | none => 0

/-- The distance between two agents on given cores (R169). The hops between two other modules, which this one
does not hold, are open. -/
def State.dist (s : State) (a b : Agent) (ca cb : Nat) : Nat :=
  if a.module = b.module then coreDist (a == b) ca cb
  else
    match a.module, b.module with
    | some m, none => 1024 + 64 * s.hopsTo m
    | none, some m => 1024 + 64 * s.hopsTo m
    | some m, some n => 1024 + 64 * Config.hopsBetween m n
    | none, none => 0

/-- The radius of a scope (R170). -/
def State.radius (s : State) (n : Nat) : Nat := s.scopes.getD n 0

/-- E[A] raised by a release (R171 step 2); the new epoch is the second component. -/
def State.raiseEpoch (s : State) (a : Agent) : State × Nat :=
  let e := s.epoch a + 1
  ({ s with epochs := (s.epochs.filter fun p => p.1 != a) ++ [(a, e)] }, e)

/-- acq[B][A] raised to an epoch (R172). -/
def State.raiseAcq (s : State) (b a : Agent) (e : Nat) : State :=
  if s.acqOf b a < e then
    { s with acquired := (s.acquired.filter fun p => p.1 != (b, a)) ++ [((b, a), e)] }
  else s

/-- The same by the completion of a collective (R182), which counts like an Arbour step between the two. -/
def State.raiseColl (s : State) (b a : Agent) (e : Nat) : State :=
  let s1 := s.raiseAcq b a e
  { s1 with collAcq := (s1.collAcq.filter fun p => p.1 != (b, a)) ++ [((b, a), e)] }

/-- The releasing write entered in a line's record (R171 step 3). -/
def State.markRelease (s : State) (l : Loc) (r : Release) : State :=
  s.setRec l { s.lineRec l with release := some r }

/-- An acquire of agent `b` on core `c` at a radius, from the latest write of a line (R172). -/
def State.acquireFrom (s : State) (l : Loc) (b : Agent) (c radius : Nat) : State :=
  match (s.lineRec l).release with
  | none => s
  | some r =>
    let d := s.dist r.agent b r.core c
    if d ≤ r.radius ∧ d ≤ radius then s.raiseAcq b r.agent r.epoch else s

/-- A release from one agent and an acquire by another that the spec pairs directly (R177, R184):
the releaser's epoch rises and the acquirer takes it. -/
def State.handOver (s : State) (a b : Agent) : State :=
  let r := s.raiseEpoch a
  r.1.raiseAcq b a r.2

/-- Whether the writes of an agent to other modules have all been performed there (R22, R163). -/
def State.writesDone (s : State) (a : Agent) : Bool := !(s.owrites.any fun w => w.acc.any fun x => x.agent == a)

/-- The writes to other modules that an entry or a command of an engine of a core has made and that have not been
performed there (R130, R133). -/
def State.partWrites (s : State) (c who : Nat) : List OrderedWrite :=
  s.owrites.filter fun w => w.acc.any fun x => x.agent == s.agent c who

/-- Whether one entry's or command's have all been performed. -/
def State.partDone (s : State) (c who part : Nat) : Bool := !((s.partWrites c who).any fun w => w.part == part)

/-- What a release waits for (R171): every earlier instance of its colour has committed, and their writes have
been performed. -/
def State.releaseWaits (s : State) (o : OpIn) : Bool := s.earlier o || !s.writesDone (s.agent o.c o.colour)

/-! ### Arcs within an instance (R175) -/

/-- The slot that a token sent to slot `d` feeds: the three-operand form, for its partner slot. -/
def Mapping.feeds (m : Mapping) (d : Nat) : Nat :=
  let op := fieldOf (m.word d) 25 7
  if (op = 0x16 ∨ op = 0x3B ∨ op = 0x5D) ∧ m.ar d = 1 ∧ regionElems m.size ≤ d then
    d - regionElems m.size
  else d

/-- The slots a slot's tokens feed within their instance. DEDUCED: a token with tag arithmetic goes to another
tag, and is no edge of a path within one instance (R175; log 105). -/
def Mapping.succs (m : Mapping) (slot : Nat) : List Nat :=
  if fieldOf (m.word slot) 21 2 != 0 then []
  else ((m.dests slot false ++ m.dests slot true).filter fun d => decide (d.1 < 120)).map fun d => m.feeds d.1

/-- The slots reached from a set of slots, with `fuel` rounds. -/
def Mapping.reach (m : Mapping) : Nat → List Nat → List Nat
  | 0, seen => seen
  | n + 1, seen => m.reach n (seen.foldl (fun a k => (m.succs k).foldl addMem a) seen)

/-- Whether a path of token edges leads from one slot to another (R175). -/
def Mapping.arc (m : Mapping) (x y : Nat) : Bool :=
  has (m.reach m.nslot ((m.succs x).foldl addMem [])) y

/-- The earlier access of another operation of the instance that a new one conflicts with and that no
arc orders before it (R162, R175), or none. -/
def OpIn.selfRace (o : OpIn) (line : Loc) (write atomic : Bool) : Option Acc :=
  (o.i.accs.find? fun a =>
    a.line == line && a.slot != o.f.slot && (a.acc.write || write) && !(a.acc.atomic && atomic) &&
      !o.m.arc a.slot o.f.slot).map fun a => a.acc

/-! ### An operation's accesses -/

/-- Why an access does not complete: last, it waits for the answers of another module to requests, some of which
are still to be made, with the agent that asks, the numbers of an atomic or a check, the radius of a release, and the
places by address and length (R181), or was answered there by a race trap (R166). -/
inductive AccErr where
  | translation (va : Nat)
  | protection (va : Nat)
  | race (line : Loc) (first : Acc)
  | remote (who : Nat) (atomic : List Nat) (release : Option Nat) (pieces : List (Nat × Nat))
  | farRace (pa detail aux : Nat)
  deriving DecidableEq, Repr

/-- Whether accesses of a page are checked at all: not a load of a read-only page, nor host memory (R168). -/
def Target.watched (t : Target) (use : Use) : Bool :=
  !t.host && (t.checked || use != .read)

/-- Whether accesses of a page are checked and recorded here: another module's memory is at that module
(R168). -/
def Target.records (t : Target) (use : Use) : Bool := !t.t3 && t.watched use

/-- The pieces of an access that lie in another module's memory (R111), by physical address and length. -/
def farPieces (ts : List (Target × Nat)) : List (Nat × Nat) :=
  ts.filterMap fun t => match t.1.loc with
    | .phys a => if 0x800000000000 ≤ a then some (a, t.2) else none
    | .scratch _ _ => none

/-- The physical address of a place of another module, or none (R111). -/
def Target.far (t : Target) : Option Nat :=
  match t.loc with
  | .phys a => if 0x800000000000 ≤ a then some a else none
  | .scratch _ _ => none

/-- Who asks another module for an operation's access. -/
def OpIn.asker (o : OpIn) : Asker := .op o.c o.f.iid o.f.slot o.f.first

/-- The numbers by which the check of a write is asked for (R166): another module enters a write that does not race in
its records, and the data follow as an ordered write. -/
def checkAsk : List Nat := [32]

/-- The number under which an operation keeps an answer: its address, or, of a check, that above every address. -/
def askKey (atomic : List Nat) (addr : Nat) : Nat := if atomic = checkAsk then addr + 2 ^ 48 else addr

/-- What another module's memory makes an operation's read or write at checked places wait for, or end with
(R21, R166, R181); nothing where each piece is answered, or there is none. `n` is `checkAsk` for a write. -/
def OpIn.farErr (o : OpIn) (n : List Nat) (va : Nat) (ts : List (Target × Nat)) : Option AccErr :=
  let ps := farPieces ts
  let ans := fun (p : Nat × Nat) => o.f.ticket.got.find? fun q => q.1 == askKey n p.1
  match ps.findSome? fun p => match ans p with
      | some (_, .raced _ d x) => some (AccErr.farRace p.1 d x)
      | some (_, .failed) => some (.translation va)
      | _ => none with
  | some e => some e
  | none =>
    let open_ := ps.filter fun p => (ans p).isNone
    if open_.isEmpty then none else some (.remote o.colour n none open_)

/-- The check of one piece of an access by an operation (R165, R175). A store is checked against
the line's record at its commit (R166). -/
def State.checkPiece (s : State) (o : OpIn) (use : Use) (t : Target) : Option AccErr :=
  let line := t.loc.line
  let x := s.accNow o.c o.colour (use != .read) (use == .atomic)
  if !t.watched use then none
  else
    match o.selfRace line (use != .read) (use == .atomic) with
    | some a => some (.race line a)
    | none => if use == .write || !t.records use then none else (s.raceOn line x).map fun a => .race line a

/-- Where an operation's access of `n` bytes goes, or why it does not complete. -/
def State.access (s : State) (o : OpIn) (use : Use) (va n : Nat) :
    Except AccErr (List (Target × Nat)) :=
  match s.resolveRange o.c use va n with
  | .error (.translation, a) => .error (.translation a)
  | .error (.protection, a) => .error (.protection a)
  | .ok ts =>
    match ts.findSome? fun t => s.checkPiece o use t.1 with
    | some e => .error e
    | none =>
      match if use == .read then o.farErr [] va ts else none with
      | some e => .error e
      | none => .ok ts

/-- The translations that an access used, cached (R114). -/
def State.cachePage (s : State) (c va : Nat) : State :=
  match windowOf (s.setSize c) va with
  | .mapped =>
    match (s.core c).tlbFind va with
    | some _ => s
    | none =>
      match s.walk (s.corePart c) va with
      | .page e => s.cacheTlb c e
      | _ => s
  | _ => s

/-- An access that an operation has made: its page is cached, a read is recorded, and the instance
keeps it for R175 and R176. -/
def State.noteAccess (s : State) (o : OpIn) (use : Use) (va : Nat) (ts : List (Target × Nat)) : State :=
  let x := s.accNow o.c o.colour (use != .read) (use == .atomic)
  let s1 := s.cachePage o.c va
  ts.foldl (fun s t =>
    if t.1.watched use then
      let s2 := if use == .write || !t.1.records use then s else s.recordAcc t.1.loc.line x
      s2.modCore o.c fun k => k.modInst o.f.iid fun i =>
        { i with accs := i.accs ++
            [InstAcc.mk o.f.slot t.1.loc.line x none] }
    else s) s1

/-- The instance's own stored bytes laid over bytes read at a place: a load sees them along arcs
(R175). -/
def overlay (l : Loc) (bs : List Byte) (g : Seg) : List Byte :=
  match l, g.loc with
  | .scratch c a, .scratch c' b => if c = c' then lay a b else bs
  | .phys a, .phys b => lay a b
  | _, _ => bs
where
  lay (a b : Nat) : List Byte :=
    (List.range bs.length).map fun j =>
      if b ≤ a + j ∧ a + j < b + g.bytes.length then g.bytes.getD (a + j - b) 0 else bs.getD j 0

/-- The store effects of an instance, in order. -/
def Instance.stores (i : Instance) : List Seg :=
  i.effects.flatMap fun e => match e.2 with
    | .store _ gs => gs
    | .nodeData _ gs => gs
    | _ => []

/-- A byte with its poison, as a line's poison bit gives it (R141). -/
abbrev PByte := Byte × Bool

/-- The bytes an operation reads at checked places, each with the poison of its line, with its own instance's
stores forwarded (R141, R175). -/
def State.readTargets (s : State) (o : OpIn) (ts : List (Target × Nat)) : List PByte :=
  let own := match (s.core o.c).inst? o.f.iid with
    | some i => i.stores
    | none => []
  ts.flatMap fun t =>
    let bs := own.foldl (fun b g => overlay t.1.loc b g) (s.readLoc t.1.loc t.2)
    let p := own.foldl (fun p g => if g.loc.line == t.1.loc.line then g.poison || p else p) (s.poisoned t.1.loc)
    bs.map fun b => (b, p)

/-- The pieces of a store: bytes laid along its targets. -/
def segsOf : List (Target × Nat) → List Byte → Bool → List Seg
  | [], _, _ => []
  | (t, n) :: r, bs, p => { loc := t.loc, bytes := bs.take n, poison := p } :: segsOf r (bs.drop n) p

/-- The pieces of a write of bytes each with its poison: a piece is poisoned where a byte of it is. -/
def segsP : List (Target × Nat) → List PByte → List Seg
  | [], _ => []
  | (t, n) :: r, bs =>
    { loc := t.loc, bytes := (bs.take n).map fun b => b.1, poison := (bs.take n).any fun b => b.2 } :: segsP r (bs.drop n)

/-- The record of a fault on an operation's access (R55, NODE 0x13). -/
def State.opRec (s : State) (o : OpIn) (type va lane : Nat) (write : Bool) : FRec :=
  { s.coreRec o.c type with
    write := write, node := 0x13, address := va,
    count0 := o.f.elem + o.f.slot * 256 + lane * 65536, count1 := o.colour }

/-- A faulting address of which the route table cannot send the access (R20, R21): its routes are tested, those
that cannot be sent on have failed, and each is counted. -/
def State.noteFar (s : State) (c va : Nat) : State :=
  match windowOf (s.setSize c) va with
  | .mapped =>
    match s.translation c va with
    | .page e =>
      let pa := e.pa + (va - e.va)
      if 0x800000000000 ≤ pa then s.checkRoute (bits pa 35 12) else s
    | _ => s
  | _ => s

/-- The type 0x06 record of a poisoned entry that the walk of an address meets (R112). -/
def State.notePoisoned (s : State) (c va : Nat) : State :=
  match windowOf (s.setSize c) va with
  | .mapped =>
    match s.translation c va with
    | .poisoned pa => s.postPoisonedWalk c pa
    | _ => s
  | _ => s

/-- A request made (R181). A releasing atomic's carries the epoch that the release has (R171): E[A] is raised as it
leaves. -/
def State.askOne (s : State) (asker : Asker) (acc : Acc) (atomic : List Nat) (release : Option Nat) (p : Nat × Nat) : State :=
  match release with
  | none => s.ask asker p.1 p.2 atomic none acc
  | some r =>
    let e := s.raiseEpoch acc.agent
    e.1.ask asker p.1 p.2 atomic (some r) { acc with epoch := e.2 }

/-- The requests to another module that an access still needs, made (R181). -/
def State.askFor (s : State) (asker : Asker) (acc : Acc) (atomic : List Nat) (release : Option Nat)
    (ps : List (Nat × Nat)) : State :=
  ps.foldl (fun s p =>
    if s.asks.any fun q => q.asker == asker && q.addr == p.1 && q.atomic == atomic then s
    else s.askOne asker acc atomic release p) s

/-- Whether an engine or a commit asks: it looks its answers up, where an operation's set carries them. -/
def Ask.ofEngine (q : Ask) : Bool :=
  match q.asker with
  | .engine _ _ => true
  | .commit _ _ => true
  | .op _ _ _ _ => decide (0x8000 ≤ q.acc.agent.who)

/-- An operation without the answers it has had: what is tried again asks again. -/
def OpIn.unanswered (o : OpIn) : OpIn := { o with f := { o.f with ticket := { o.f.ticket with got := [] } } }

/-- An operation held until other modules have answered; a request that turned out undeliverable is an answer
too (R21). -/
def State.holdFar (s : State) (o : OpIn) (u : HUnit) : State :=
  let lost := fun (q : Ask) => q.asker == o.asker && q.st == AskSt.failed && !q.ofEngine
  let t := { o.f.ticket with
    got := o.f.ticket.got ++ (s.asks.filter lost).map fun (q : Ask) => (askKey q.atomic q.addr, AskSt.failed) }
  { s with asks := s.asks.filter fun q => !lost q }.hold { o with f := { o.f with ticket := t } } u .remote

/-- An operation's access that does not complete: a translation fault is serviced by the host or
trapped (R57), a protection fault is posted and trapped (R113), a race is trapped (R166). -/
def State.accFail (s : State) (o : OpIn) (u : HUnit) (write : Bool) (lane : Nat) (e : AccErr) : State :=
  match e with
  | .translation va =>
    let r := s.opRec o 1 va lane write
    let s1 := s.noteFar o.c va
    if s.fsvc o.c then s1.trapOp o 6 va 0x13 (r.count0 + r.count1 * 2 ^ 32) lane
    else
      let p := s1.serviceFault r (.held o.c lane)
      p.1.hold o.unanswered u (.fault p.2)
  | .protection va =>
    let s1 := s.notePoisoned o.c va
    (s1.postRec (s1.opRec o 2 va lane write)).trapOp o 7 va 0x13 0 lane
  | .race line a => s.trapOp o 8 line.addr (raceDetail a) (s.raceAux a) lane
  | .remote who n r ps => (s.askFor o.asker (s.accNow o.c who (!n.isEmpty) (!n.isEmpty && n != checkAsk)) n r ps).holdFar o u
  | .farRace pa d x => s.trapOp o 8 (lineOf pa) d x lane

/-- The same for an access of the call stack, whose translation faults always go to the supervisor
(R57, R259), and for SPAWN's read of a header (R260). -/
def State.accTrap (s : State) (o : OpIn) (write : Bool) (e : AccErr) : State :=
  match e with
  | .translation va =>
    let r := s.opRec o 1 va o.f.first write
    (s.noteFar o.c va).trapOp o 6 va 0x13 (r.count0 + r.count1 * 2 ^ 32) o.f.first
  | e => s.accFail o .sequencer write o.f.first e

/-- A read of `n` bytes by an operation: the bytes, each with its line's poison, and the state after the read;
or why it does not complete. -/
def State.loadP (s : State) (o : OpIn) (va n : Nat) : Except AccErr (List PByte × State) :=
  match s.access o .read va n with
  | .error e => .error e
  | .ok ts => .ok (s.readTargets o ts, s.noteAccess o .read va ts)

/-- The same as one value: the bytes, and whether one of them is poisoned. -/
def State.load (s : State) (o : OpIn) (va n : Nat) : Except AccErr (List Byte × Bool × State) :=
  match s.loadP o va n with
  | .error e => .error e
  | .ok (bs, t) => .ok (bs.map fun b => b.1, bs.any fun b => b.2, t)

end Sys2Proof.Machine
end

