-- ==== Sys2Proof/Machine/Regs.lean ====
section
/-! DEFINITION. The core's units by number, and the core control registers as MFSR and MTSR reach
them (R263, R264, R329, R374). -/

namespace Sys2Proof.Machine

open Sys2Proof

/-! ### Units as they stand at placement (R71) -/

/-- A tile entry of zeros. -/
def Tile.zero : Tile :=
  { state := 0, poison := false, valid := false, count := 0, base := 0, len := 0, users := [], rels := [] }

/-- A bobbin of zeros. -/
def Bobbin.zero : Bobbin :=
  { wp := 0, rp := 0, slots := 0, err := false, poison := false, infl := 0, filled := [], freed := [] }

/-- An empty queue without a spill area. -/
def Queue.zero : Queue :=
  { entries := [], spillHead := 0, spillCount := 0, spilled := [], size := 0, base := 0, spfault := false, full := 0 }

/-- A closed node. -/
def Node.zero : Node :=
  { state := 0, desc := [], i0 := 0, i1 := 0, i2 := 0, i3 := 0, opener := 0, ahead := 0, fault := none,
    badElem := none }

/-- A stream register with FLAGS zero. -/
def Stream.zero : Stream := { base := 0, len := 0, pos := 0, lastkey := 0, flags := 0 }

/-- An ma register that nothing has written. -/
def MaReg.zero : MaReg := { data := [], scale := [], fmt := 0, orient := false, written := false, prow := 0 }

/-- An accumulator that nothing has written. -/
def AccReg.zero : AccReg :=
  { bank0 := [], bank1 := [], active := false, int := false, written := false, psum := false, prow := 0,
    pcol := 0 }

/-- An md register that nothing has written. -/
def MdReg.zero : MdReg := { data := [], written := false, prow := 0 }

/-- A step register of zeros. -/
def SsReg.zero : SsReg := { mode := 0, value := 0 }

/-- A guard register of zeros. -/
def GdReg.zero : GdReg := { emax := 0, smax := 0, nf := false, sen := false, een := false }

/-- An unloaded camera register. -/
def Camera.zero : Camera := { loaded := false, bytes := [] }

/-- An unbound binding. -/
def Binding.zero : Binding :=
  { bound := false, skein := 0, prog := [], ks := [], temp := 0, vocab := 0, maskptr := 0, cands := [],
    poisoned := false, nonfin := false }

/-- Tile `i` of a core. -/
def Core.tile (k : Core) (i : Nat) : Tile := aget Tile.zero k.tiles i

/-- A core with a tile changed. -/
def Core.modTile (k : Core) (i : Nat) (f : Tile → Tile) : Core :=
  { k with tiles := aset k.tiles i (f (k.tile i)) }

/-- Bobbin `i` of a core. -/
def Core.bob (k : Core) (i : Nat) : Bobbin := aget Bobbin.zero k.bobbins i

/-- A core with a bobbin changed. -/
def Core.modBob (k : Core) (i : Nat) (f : Bobbin → Bobbin) : Core :=
  { k with bobbins := aset k.bobbins i (f (k.bob i)) }

/-- Queue `i` of a core. -/
def Core.queue (k : Core) (i : Nat) : Queue := aget Queue.zero k.queues i

/-- A core with a queue changed. -/
def Core.modQueue (k : Core) (i : Nat) (f : Queue → Queue) : Core :=
  { k with queues := aset k.queues i (f (k.queue i)) }

/-- Node `i` of a core. -/
def Core.node (k : Core) (i : Nat) : Node := aget Node.zero k.nodes i

/-- A core with a node changed. -/
def Core.modNode (k : Core) (i : Nat) (f : Node → Node) : Core :=
  { k with nodes := aset k.nodes i (f (k.node i)) }

/-- Register ma`i`. -/
def Core.ma (k : Core) (i : Nat) : MaReg := aget MaReg.zero k.mas i

/-- Register acc`i`. -/
def Core.acc (k : Core) (i : Nat) : AccReg := aget AccReg.zero k.accs i

/-- Register md`i`. -/
def Core.md (k : Core) (i : Nat) : MdReg := aget MdReg.zero k.mds i

/-- Register ss`i`. -/
def Core.ss (k : Core) (i : Nat) : SsReg := aget SsReg.zero k.sss i

/-- Register gd`i`. -/
def Core.gd (k : Core) (i : Nat) : GdReg := aget GdReg.zero k.gds i

/-- Register pt`i`. -/
def Core.pt (k : Core) (i : Nat) : Nat := aget 0 k.pts i

/-- Camera register bv`i`. -/
def Core.cam (k : Core) (i : Nat) : Camera := aget Camera.zero k.cams i

/-- Binding `i` of the Spindle. -/
def Core.bind (k : Core) (i : Nat) : Binding := aget Binding.zero k.binds i

/-- Stream register st`i`. -/
def Core.stream (k : Core) (i : Nat) : Stream := aget Stream.zero k.streams i

/-- CR_ALLOT at reset (R328). -/
def allotReset : Nat := 0x00FFFFFFFFFFFFFF

/-! ### Register numbers -/

/-- Whether a register is 64 bits wide (R264, R329, R374). -/
def srWide (n : Nat) : Bool :=
  has [0x001, 0x006, 0x007, 0x008, 0x009, 0x00B, 0x00C, 0x012] n ||
    (decide (0x014 ≤ n) && decide (n < 0x020)) || (decide (0x028 ≤ n) && decide (n < 0x038)) ||
    (decide (0x048 ≤ n) && decide (n < 0x068)) || (decide (0x100 ≤ n) && decide (n < 0x210)) ||
    (decide (0x220 ≤ n) && decide (n < 0x228)) || (decide (0x230 ≤ n) && decide (n < 0x240)) ||
    (decide (0x300 ≤ n) && decide (n < 0x308))

/-- The lanes a register's value has (R263). -/
def srLanes (n : Nat) : Nat := if srWide n then 2 else 1

/-- The registers that only colour 0 writes (R264, R329). -/
def srColour0 (n : Nat) : Bool :=
  has [0x001, 0x002, 0x003, 0x004, 0x005, 0x006, 0x00A, 0x00C, 0x00D, 0x00F, 0x010, 0x011, 0x068] n ||
    (decide (0x220 ≤ n) && decide (n < 0x228))

/-! ### Reading (R263) -/

/-- CR_TILETAB (R118). -/
def Tile.reg (t : Tile) : Nat :=
  t.state * 2 ^ 62 + b2n t.poison * 2 ^ 61 + b2n t.valid * 2 ^ 60 + t.count % 65536 * 2 ^ 32 +
    t.base * 2 ^ 17 + t.len

/-- CR_BOB (R132). -/
def Bobbin.reg (b : Bobbin) : Nat :=
  b.wp % 65536 * 2 ^ 48 + b.rp % 65536 * 2 ^ 32 + b.slots * 2 ^ 16 + b2n b.err * 2 ^ 15 +
    b2n b.poison * 2 ^ 14 + b.infl % 1024 * 16

/-- Word `i` of a node's descriptor. -/
def Node.word (n : Node) (i : Nat) : Nat := n.desc.getD i 0

/-- KIND of a node (R122). -/
def Node.kind (n : Node) : Nat := bits (n.word 0) 60 4

/-- DEST of a node (R122). -/
def Node.dest (n : Node) : Nat := bits (n.word 0) 56 4

/-- CR_NODE (R126). -/
def Node.posReg (n : Node) : Nat := n.i3 * 2 ^ 48 + n.i2 * 2 ^ 32 + n.i1 * 2 ^ 16 + n.i0

/-- CR_NODEST (R126). DESIGN CHOICE: 64 elements in the operand path, which 6 bits do not hold, show as 0 in AHEAD
(log 115). -/
def Node.stReg (n : Node) : Nat :=
  n.state * 2 ^ 30 + n.kind * 2 ^ 24 + n.dest * 2 ^ 20 + n.ahead % 64

/-- CR_QSPILL (R127). -/
def Queue.spillReg (q : Queue) : Nat := q.size * 2 ^ 56 + q.base * 2 ^ 12

/-- CR_QSTAT (R128). -/
def Queue.statReg (q : Queue) : Nat := b2n q.spfault * 2 ^ 31 + q.full

/-- CR_ACCST (R325). -/
def AccReg.stReg (a : AccReg) : Nat :=
  b2n a.psum * 8 + b2n a.active * 4 + b2n a.int * 2 + b2n a.written

/-- CR_MAST (R324). -/
def MaReg.stReg (a : MaReg) : Nat := b2n a.orient * 32 + b2n a.written * 16 + a.fmt

/-- CR_GDHI (R327). -/
def GdReg.hiReg (g : GdReg) : Nat := b2n g.nf * 4 + b2n g.sen * 2 + b2n g.een

/-- CR_SPBIND (R374). -/
def Binding.reg (b : Binding) : Nat :=
  if b.bound then 2 ^ 63 + b.prog.length * 2 ^ 56 + b.skein else 0

/-- The widths of CR_TAGSHAPE: entry j at bits [5j + 4 : 5j] (R90). -/
def shapeBits : List Nat → Nat
  | [] => 0
  | w :: ws => (w - 1) % 32 + 32 * shapeBits ws

/-- Set bits among the first `n`. -/
def countBits (x n : Nat) : Nat := ((List.range n).filter fun i => bit x i).length

/-- CR_FABSTAT (R109). -/
def CoreRegs.fabstat (r : CoreRegs) : Nat :=
  r.discard * 2 ^ 48 + r.spill * 2 ^ 32 + r.cfgce * 2 ^ 24 + r.reload * 2 ^ 16 + r.resdeny * 2 ^ 8 +
    countBits r.elret 64

/-- CR_TRAPSTAT (R187). -/
def Core.trapstat (k : Core) : Nat :=
  k.regs.trapSeq * 2 ^ 16 + b2n k.regs.trapWaiting * 2 ^ 7 + k.ring.length

/-- CR_SHADV, CR_SPCNT and the other registers below 0x014, with the per-colour ones as colour
`col` and an instance at depth `d` read them. -/
def Core.readLow (k : Core) (col : Colour) (d n : Nat) : Nat :=
  let r := k.regs
  match n with
  | 0x000 => b2n r.portmode
  | 0x001 => col.allot
  | 0x002 => max 2 k.colours.length * 2 ^ 16 + r.colLimit
  | 0x003 => r.admitAge
  | 0x004 => r.stallwd
  | 0x005 => r.poolCount * 2 ^ 26 + r.poolBase * 2 ^ 12
  | 0x006 => r.dramBase * 2 ^ 16 + r.dramCount
  | 0x007 => d * 2 ^ 60 + shapeBits col.shape
  | 0x008 => r.fabstat
  | 0x009 => r.elret
  | 0x00A => b2n r.atomLock
  | 0x00B => r.memCe * 2 ^ 48 + r.memTrans * 2 ^ 32 + r.memUe * 2 ^ 16
  | 0x00C => r.trapvec * 64
  | 0x00D => r.traparea * 2048
  | 0x00E => k.trapstat
  | 0x00F => r.spsave
  | 0x010 => r.arbto
  | 0x011 => r.drainmax
  | 0x012 => col.depth * 2 ^ 56 + col.top
  | 0x013 => r.shadv
  | _ => 0

/-- The matrix unit's registers (R329). -/
def Core.readMatrix (k : Core) (n : Nat) : Nat :=
  if n < 0x018 then (k.ss (n - 0x014)).mode * 2 ^ 62 + (k.ss (n - 0x014)).value.toNat
  else if n < 0x020 then
    let g := k.gd ((n - 0x018) / 2)
    if n % 2 = 0 then g.smax.toNat * 2 ^ 32 + g.emax.toNat else g.hiReg
  else if n < 0x028 then (k.acc (n - 0x020)).stReg
  else if n < 0x030 then (k.acc (n - 0x028)).prow
  else if n < 0x038 then (k.acc (n - 0x030)).pcol
  else if n < 0x048 then (k.ma (n - 0x038)).stReg
  else if n < 0x058 then (k.ma (n - 0x048)).prow
  else if n < 0x068 then k.pt (n - 0x058)
  else k.regs.allotSel

/-- A colour with nothing in it, for a colour that is not in use. -/
def Colour.blank (id prio : Nat) : Colour where
  id := id
  prio := prio
  regs := List.replicate 32 { val := 0, poison := false }
  shape := []
  depth := 0
  top := 0
  allot := allotReset
  sret := false

/-- Register number `n` as an instance of colour `c` at depth `d` reads it (R264). `scope` is the
device's scope table (R170). -/
def Core.readSr (k : Core) (scope : List Nat) (c d n : Nat) : Nat :=
  let col := (k.colour? c).getD (Colour.blank c 0)
  if n < 0x014 then k.readLow col d n
  else if n < 0x069 then k.readMatrix n
  else if n < 0x200 then (k.tile (n - 0x100)).reg
  else if n < 0x210 then (k.node (n - 0x200)).posReg
  else if n < 0x220 then (k.node (n - 0x210)).stReg
  else if n < 0x228 then (k.queue (n - 0x220)).spillReg
  else if n < 0x230 then (k.queue (n - 0x228)).statReg
  else if n < 0x240 then (k.bob (n - 0x230)).reg
  else if n < 0x248 then scope.getD (n - 0x240) 0
  else if n < 0x308 then (k.bind (n - 0x300)).reg
  else k.regs.spFails * 2 ^ 16 + k.regs.spDraws

/-! ### Writing (R263) -/

/-- The largest COUNT of a frame pool at a base that stays within the scratchpad (R97). -/
def poolCountTaken (count base : Nat) : Nat :=
  min (min count 56) ((0x200000 - base * 4096) / 0x9000)

/-- The guard on an MTSR (R97, R118, R127, R187): the rule it breaks, or none. -/
def Core.srGuard (k : Core) (n v : Nat) : Option Nat :=
  if n = 0x005 then
    (if k.instances.any fun i => match i.frame with
        | some (.pool _) => true
        | _ => false then some 97 else none)
  else if n = 0x00D then (if k.ring.isEmpty then none else some 187)
  else if 0x100 ≤ n ∧ n < 0x200 then
    (if (k.tile (n - 0x100)).state ≠ 0 ∨ bits v 0 16 = 0 ∨
        0x200000 < (bits v 17 15 + bits v 0 16) * 64 then some 118 else none)
  else if 0x220 ≤ n ∧ n < 0x228 then
    (if (k.queue (n - 0x220)).spillCount = 0 then none else some 127)
  else none

/-- A write of a register below 0x014 by colour `c`. -/
def Core.writeLow (k : Core) (c n v : Nat) : Core :=
  let r := k.regs
  match n with
  | 0x000 => { k with regs := { r with portmode := bit v 0 } }
  | 0x001 => k.modColour r.allotSel fun x => { x with allot := bits v 0 56 }
  | 0x002 => { k with regs := { r with colLimit := min (bits v 0 11) 1022 } }
  | 0x003 => { k with regs := { r with admitAge := bits v 0 16 } }
  | 0x004 => { k with regs := { r with stallwd := bits v 0 32 } }
  | 0x005 => { k with regs := { r with poolBase := bits v 12 9,
                                       poolCount := poolCountTaken (bits v 26 6) (bits v 12 9) } }
  | 0x006 => { k with regs := { r with dramBase := bits v 16 40, dramCount := bits v 0 16 } }
  | 0x00A => { k with regs := { r with atomPending := some (bit v 0) } }
  | 0x00C => { k with regs := { r with trapvec := bits v 6 50 } }
  | 0x00D => { k with regs := { r with traparea := bits v 11 10 } }
  | 0x00F => { k with regs := { r with spsave := min (bits v 0 6) 32 } }
  | 0x010 => { k with regs := { r with arbto := bits v 0 32 } }
  | 0x011 => { k with regs := { r with drainmax := max (bits v 0 20) 256 } }
  | 0x012 => k.modColour c fun x => { x with depth := bits v 56 8, top := bits v 3 53 * 8 }
  | _ => k

/-- A write of register `n` by colour `c`, field by field (R5, R263). -/
def Core.writeSr (k : Core) (c n v : Nat) : Core :=
  if n < 0x014 then k.writeLow c n v
  else if 0x020 ≤ n ∧ n < 0x028 then
    let a := k.acc (n - 0x020)
    { k with accs := aset k.accs (n - 0x020) { a with psum := a.psum && !bit v 3 } }
  else if 0x058 ≤ n ∧ n < 0x068 then { k with pts := aset k.pts (n - 0x058) (bits v 0 64) }
  else if n = 0x068 then { k with regs := { k.regs with allotSel := bits v 0 10 } }
  else if 0x100 ≤ n ∧ n < 0x200 then
    k.modTile (n - 0x100) fun t => { t with valid := bit v 60, base := bits v 17 15, len := bits v 0 16 }
  else if 0x220 ≤ n ∧ n < 0x228 then
    k.modQueue (n - 0x220) fun q => { q with size := bits v 56 8, base := bits v 12 44 }
  else if 0x230 ≤ n ∧ n < 0x240 then
    k.modBob (n - 0x230) fun b => { b with err := b.err && !bit v 15, poison := b.poison && !bit v 14 }
  else k

end Sys2Proof.Machine
end

