-- ==== Sys2Proof/Machine/World.lean ====
section
/-! DEFINITION. The Conservatory and the Belvedere File (R143 to R160): store descriptors, bricks
and cells, camera registers and their derived state, projection, the buffering of scatter writes
and the close of a world step. -/

namespace Sys2Proof.Machine

open Sys2Proof

/-! ### Store descriptors (R143 to R145) -/

/-- The physical address of a store's descriptor (R143). -/
def State.descPlace (s : State) (p id : Nat) : Nat := (s.part p).storeBase * 128 + 128 * id

/-- A 32-bit word of a descriptor or a camera register. -/
def w32 (bs : List Byte) (o : Nat) : Nat := leAt bs o 4

/-- A 64-bit word of a descriptor. -/
def w64 (bs : List Byte) (o : Nat) : Nat := leAt bs o 8

/-- FMT is FB8 × 128 (R144). -/
def descFB8 (d : List Byte) : Bool := bit (w32 d 24) 30

/-- POLICY (R144). -/
def descPolicy (d : List Byte) : Nat := bits (w32 d 24) 28 2

/-- KEEPNEAR (R144). -/
def descKeepNear (d : List Byte) : Bool := bit (w32 d 24) 27

/-- QGAP (R144). -/
def descQgap (d : List Byte) : Nat := bits (w32 d 24) 24 3

/-- STEP (R144). -/
def descStep (d : List Byte) : Nat := w32 d 28

/-- TABLOG2 (R144). -/
def descLog2 (d : List Byte) : Nat := bits (w64 d 32) 58 6

/-- The brick table's address. -/
def descTab (d : List Byte) : Nat := bits (w64 d 32) 12 36 * 4096

/-- The brick pool's address. -/
def descPool (d : List Byte) : Nat := bits (w64 d 40) 12 36 * 4096

/-- The prior vector's address. -/
def descPrior (d : List Byte) : Nat := bits (w64 d 56) 0 48

/-- B: cells per axis (R144). -/
def descBounds (d : List Byte) : List Nat :=
  [bits (w64 d 16) 0 21, bits (w64 d 16) 21 21, bits (w64 d 16) 42 21]

/-- CELL (R144). -/
def descCell (d : List Byte) : Nat := w32 d 12

/-- Positive, normal and finite, as FP32. -/
def posNormal (x : Nat) : Bool := decide (0x00800000 ≤ x) && decide (x < 0x7F800000)

/-- The descriptor checks of R149. -/
def descOk (d : List Byte) : Bool :=
  bit (w32 d 24) 31 && descPolicy d != 3 && bits (w32 d 24) 0 24 == 0 &&
    decide (10 ≤ descLog2 d) && decide (descLog2 d ≤ 26) && (descBounds d).all (fun b => b != 0) &&
    posNormal (descCell d) && bits (w64 d 16) 63 1 == 0 && bits (w64 d 32) 48 10 == 0 &&
    bits (w64 d 32) 0 12 == 0 && bits (w64 d 40) 48 16 == 0 && bits (w64 d 40) 0 12 == 0 &&
    bits (w64 d 48) 0 16 == 0 && bits (w64 d 56) 48 16 == 0 && descPrior d % 64 == 0 &&
    bits (w64 d 72) 1 31 == 0 && (slice d 80 48).all (fun b => b == 0)

/-- The bound store with an id of a partition. -/
def State.store? (s : State) (p id : Nat) : Option Store := s.stores.find? fun t => t.part == p && t.id == id

/-- A bound store changed. -/
def State.modStore (s : State) (p id : Nat) (f : Store → Store) : State :=
  { s with stores := modFirst (fun t => t.part == p && t.id == id) f s.stores }

/-- The descriptor as a launch sees it: its own binding's copy, or the bytes in memory (R145). -/
def State.descOf (s : State) (p id : Nat) : List Byte :=
  match s.store? p id with
  | some t => t.desc
  | none => memRead s.mem (s.descPlace p id) 128

/-- Whether a store is bound to another launch than that of a core (R145). -/
def State.boundElsewhere (s : State) (c id : Nat) : Bool :=
  match s.store? (s.corePart c) id with
  | some t => t.lid != s.coreLid c
  | none => false

/-- A store bound to a core's launch, if it is not bound yet (R145): the device reads the descriptor
and writes BINDING. -/
def State.bindStore (s : State) (c id : Nat) : State :=
  let p := s.corePart c
  match s.store? p id with
  | some _ => s
  | none =>
    let a := s.descPlace p id
    let d := memRead s.mem a 128
    let bind := toBytes 8 (s.coreLnum c * 2 ^ 32 + 1)
    let new : Store := { part := p, id := id, lid := s.coreLid c, desc := patch d 72 bind,
                         step := descStep d, lostbrick := w32 d 64, blendovf := w32 d 68, arrived := [],
                         pending := [], buffer := [] }
    { s with stores := s.stores ++ [new], mem := memWrite s.mem (a + 72) bind }

/-- A store unbound (R145): BOUND is cleared. -/
def State.unbindStore (s : State) (t : Store) : State :=
  let a := s.descPlace t.part t.id + 72
  let b := memByte s.mem a
  { s with mem := memSet s.mem a (BitVec.ofNat 8 (b.toNat - b.toNat % 2)),
           stores := s.stores.filter fun x => !(x.part == t.part && x.id == t.id) }

/-! ### Bricks and cells (R146, R147) -/

/-- A brick's key. -/
def brickKey (cell : List Nat) : Nat :=
  cell.getD 2 0 / 4 * 2 ^ 42 + cell.getD 1 0 / 4 * 2 ^ 21 + cell.getD 0 0 / 4

/-- The hashed start of a brick's probe. -/
def brickStart (cell : List Nat) (log2 : Nat) : Nat :=
  let m := fun (i k : Nat) => cell.getD i 0 / 4 * k % 2 ^ 32
  Nat.xor (Nat.xor (m 0 0x9E3779B1) (m 1 0x85EBCA77)) (m 2 0xC2B2AE3D) / 2 ^ (32 - log2)

/-- What a probe of the brick table finds. -/
inductive Probe where
  | absent (e : Nat)
  | found (e : Nat)
  | full
  deriving DecidableEq, Repr

/-- The probe of R146 from step `16 - fuel` on. -/
def probeFrom (mem : List Host.Cell) (tab log2 key : Nat) : Nat → Nat → Probe
  | 0, _ => .full
  | n + 1, e =>
    let x := ofBytes (memRead mem (tab + 8 * (e % 2 ^ log2)) 8)
    if !bit x 63 then .absent (e % 2 ^ log2)
    else if bits x 0 63 = key then .found (e % 2 ^ log2)
    else probeFrom mem tab log2 key n (e + 1)

/-- The probe for a cell's brick. -/
def probe (mem : List Host.Cell) (d : List Byte) (cell : List Nat) : Probe :=
  probeFrom mem (descTab d) (descLog2 d) (brickKey cell) 16 (brickStart cell (descLog2 d))

/-- A cell's bytes, and the cells of a granule (R147). -/
def cellBytes (fb8 : Bool) : Nat := if fb8 then 152 else 272

/-- Cells in a 4 KiB granule. -/
def cellsPerGranule (fb8 : Bool) : Nat := if fb8 then 26 else 15

/-- The in-brick index of a cell (R146). -/
def cellIndex (cell : List Nat) : Nat :=
  16 * (cell.getD 2 0 % 4) + 4 * (cell.getD 1 0 % 4) + cell.getD 0 0 % 4

/-- The physical address of cell `i` of the brick in slot `e` (R147). -/
def cellAddr (d : List Byte) (e i : Nat) : Nat :=
  let fb8 := descFB8 d
  descPool d + e * brickBytes fb8 + i / cellsPerGranule fb8 * 4096 +
    i % cellsPerGranule fb8 * cellBytes fb8

/-- The bytes of a stored feature (R144, R147). -/
def featureBytes (fb8 : Bool) : Nat := if fb8 then 136 else 256

/-- Whether the cell at an address is seen (R147). -/
def cellSeen (mem : List Host.Cell) (a : Nat) : Bool := bit (ofBytes (memRead mem (a + 6) 2)) 15

/-- The address of a cell that is placed and seen, or none (R146, R152). -/
def seenCell (mem : List Host.Cell) (d : List Byte) (cell : List Nat) : Option Nat :=
  match probe mem d cell with
  | .found e =>
    let a := cellAddr d e (cellIndex cell)
    if cellSeen mem a then some a else none
  | _ => none

/-- The address of a cell that is placed, whose metadata a gather reads there. -/
def cellRead (mem : List Host.Cell) (d : List Byte) (cell : List Nat) : List Nat :=
  match probe mem d cell with
  | .found e => [cellAddr d e (cellIndex cell)]
  | _ => []

/-- The stack of a physical address (R10). -/
def stackOf (pa : Nat) : Nat := Nat.xor (bits pa 12 4) (bits pa 16 4)

/-! ### Camera registers (R148, R149) -/

/-- m[a][b] of a camera. -/
def camM (b : List Byte) (r c : Nat) : Nat := w32 b (16 * r + 4 * c)

/-- W. -/
def camW (b : List Byte) : Nat := leAt b 64 2
/-- H. -/
def camH (b : List Byte) : Nat := leAt b 66 2
/-- PITCH. -/
def camPitch (b : List Byte) : Nat := leAt b 68 2
/-- STORE. -/
def camStore (b : List Byte) : Nat := leAt b 70 1
/-- DSRC: depth is marched. -/
def camMarched (b : List Byte) : Bool := bit (leAt b 71 1) 7
/-- STRICT. -/
def camStrict (b : List Byte) : Bool := bit (leAt b 71 1) 6
/-- PRIO. -/
def camPrio (b : List Byte) : Nat := leAt b 71 1 % 16
/-- NEAR. -/
def camNear (b : List Byte) : Nat := w32 b 72
/-- FAR. -/
def camFar (b : List Byte) : Nat := w32 b 76
/-- MAXSTEP. -/
def camMaxstep (b : List Byte) : Nat := leAt b 80 2
/-- OCCTH. -/
def camOccth (b : List Byte) : Nat := leAt b 82 2

/-- A matrix of FP32 words by rows. -/
abbrev Mat := List (List Nat)

/-- The entry of a matrix. -/
def matAt (m : Mat) (i j : Nat) : Nat := (m.getD i []).getD j 0

/-- The matrix with two rows exchanged. -/
def swapRows (m : Mat) (i j : Nat) : Mat := (m.set i (m.getD j [])).set j (m.getD i [])

/-- 1.0 as FP32. -/
def one32 : Nat := 0x3F800000

/-- The pivot's row in column `c` (R149): the largest magnitude, the lowest row on ties. -/
def pivotRow (a : Mat) (c : Nat) : Nat :=
  ((List.range 3).filter fun p => decide (c ≤ p)).foldl
    (fun best p => if fp32.lt (absF32 (matAt a best c)) (absF32 (matAt a p c)) then p else best) c

/-- A row less a multiple of another, each entry fused. -/
def elimRow (f : Nat) (pivot row : List Nat) : List Nat :=
  List.zipWith (fun p r => fmaF32 (negF32 f) p r) pivot row

/-- One column of the elimination of R149, or none where it fails. -/
def invertCol (c : Nat) (m : Mat × Mat) : Option (Mat × Mat) :=
  let p := pivotRow m.1 c
  if absF32 (matAt m.1 p c) = 0 then none
  else
    let a := swapRows m.1 p c
    let k := swapRows m.2 p c
    let sc := divF32 one32 (matAt a c c)
    let ac := (a.getD c []).map fun x => mulF32 x sc
    let kc := (k.getD c []).map fun x => mulF32 x sc
    let a1 := a.set c ac
    let k1 := k.set c kc
    some ((List.range 3).foldl (fun (m : Mat × Mat) i =>
      if i = c then m
      else
        let f := matAt m.1 i c
        (m.1.set i (elimRow f ac (m.1.getD i [])), m.2.set i (elimRow f kc (m.2.getD i []))))
      (a1, k1))

/-- The derived state of a camera (R149): Ki and O. -/
structure Derived where
  ki : Mat
  o : List Nat
  deriving DecidableEq, Repr

/-- The derived state, or none where the inversion fails (R149). -/
def camDerive (b : List Byte) : Option Derived :=
  let k : Mat := [0, 1, 3].map fun r => (List.range 3).map fun c => camM b r c
  let id : Mat := [[one32, 0, 0], [0, one32, 0], [0, 0, one32]]
  match ((invertCol 0 (k, id)).bind (invertCol 1)).bind (invertCol 2) with
  | none => none
  | some m =>
    let ki := m.2
    if ki.all fun r => r.all fp32.isFin then
      some { ki := ki,
             o := (List.range 3).map fun a =>
               fmaF32 (matAt ki a 2) (negF32 (camM b 3 3))
                 (fmaF32 (matAt ki a 1) (negF32 (camM b 1 3)) (mulF32 (matAt ki a 0) (negF32 (camM b 0 3)))) }
    else none

/-- The checks of R149 on a camera's own fields. -/
def camFieldsOk (b : List Byte) : Bool :=
  let inR := fun (x lo hi : Nat) => decide (lo ≤ x) && decide (x ≤ hi)
  inR (camW b) 1 4096 && inR (camH b) 1 4096 && inR (camPitch b) (camW b) 65535 &&
    inR (camMaxstep b) 1 256 && bits (leAt b 71 1) 4 2 == 0 && decide (camStore b < 64) &&
    (slice b 96 32).all (fun x => x == 0) &&
    fp32.lt 0 (camNear b) && fp32.lt (camNear b) (camFar b) && fp32.isFin (camFar b) &&
    fp16.isFin (camOccth b) && fp16.le 0 (camOccth b) &&
    (List.range 16).all (fun i => fp32.isFin (w32 b (4 * i)))

/-- Why a camera write is not made. -/
inductive CamRefusal where
  | bound
  | refused
  deriving DecidableEq, Repr

/-- A camera write (R149, R145, R363): the register takes the bytes and its store is bound. -/
def State.writeCamera (s : State) (c bv : Nat) (b : List Byte) : Except CamRefusal State :=
  let id := camStore b
  if !camFieldsOk b || !decide (id < (s.part (s.corePart c)).storeCount) then .error .refused
  else if s.boundElsewhere c id then .error .bound
  else if !descOk (s.descOf (s.corePart c) id) || (camDerive b).isNone then .error .refused
  else
    let s1 := s.bindStore c id
    .ok (s1.modCore c fun k => { k with cams := aset k.cams bv { loaded := true, bytes := b } })

/-- A counter of a camera register, which saturates (R148, R160): 0 CLIPPED, 1 UNSEEN,
2 CONFLOST. -/
def Camera.count (m : Camera) (which : Nat) : Nat := w32 m.bytes (84 + 4 * which)

/-- A counter of a camera register raised. -/
def Camera.bump (m : Camera) (which n : Nat) : Camera :=
  { m with bytes := patch m.bytes (84 + 4 * which) (toBytes 4 (satAdd (m.count which) n 0xFFFFFFFF)) }

/-- A counter of a camera register of a core raised. -/
def State.bumpCamera (s : State) (c bv which n : Nat) : State :=
  if n = 0 then s
  else s.modCore c fun k => { k with cams := aset k.cams bv ((k.cam bv).bump which n) }

/-! ### Projection (R151 to R153) -/

/-- A token's ray: D for each axis, or none where the token lies outside the image (R151). -/
def rayOf (b : List Byte) (dv : Derived) (t : Nat) : Option (List Nat) :=
  let i := t % camPitch b
  let j := t / camPitch b
  if camW b ≤ i ∨ camH b ≤ j then none
  else
    let two := 0x40000000
    let half := 0x3F000000
    let xn := addF32 (divF32 (mulF32 two (addF32 (floatF32 i) half)) (floatF32 (camW b))) 0xBF800000
    let yn := addF32 one32 (negF32 (divF32 (mulF32 two (addF32 (floatF32 j) half)) (floatF32 (camH b))))
    some ((List.range 3).map fun a =>
      addF32 (fmaF32 (matAt dv.ki a 1) yn (mulF32 (matAt dv.ki a 0) xn)) (matAt dv.ki a 2))

/-- gcoord(point(d)) of R151. -/
def gcoord (desc : List Byte) (dv : Derived) (ray : List Nat) (d : Nat) : List Nat :=
  (List.range 3).map fun a =>
    divF32 (addF32 (fmaF32 d (ray.getD a 0) (dv.o.getD a 0)) (negF32 (w32 desc (4 * a)))) (descCell desc)

/-- Whether cell coordinates lie within the bounds (R151). -/
def cellInside (desc : List Byte) (c : List Int) : Bool :=
  (List.range 3).all fun a =>
    decide (0 ≤ c.getD a 0) && decide (c.getD a 0 < ((descBounds desc).getD a 0 : Int))

/-- The cell of coordinates g, where it is inside (R151). -/
def cellOf (desc : List Byte) (g : List Nat) : Option (List Nat) :=
  let c := g.map floorF32
  if g.all fp32.isFin && cellInside desc c then some (c.map Int.toNat) else none

/-- A gather's case (R152, R153): the cell's address and the depth on a hit. -/
inductive GCase where
  | hit (addr depth : Nat)
  | unseen
  | outside
  deriving DecidableEq, Repr

/-- Whether a supplied depth is one that R152 lets through. -/
def depthOk (b : List Byte) (d : Nat) : Bool :=
  fp32.isFin d && fp32.lt 0 d && fp32.le (camNear b) d && fp32.le d (camFar b)

/-- The cell a token lands on at a supplied depth, or none where it is outside (R152, R154). -/
def landing (b desc : List Byte) (dv : Derived) (t d : Nat) : Option (List Nat) :=
  match rayOf b dv t with
  | none => none
  | some ray => if depthOk b d then cellOf desc (gcoord desc dv ray d) else none

/-- A gather with a supplied depth (R152), and the cells whose metadata it reads. -/
def gatherAt (mem : List Host.Cell) (b desc : List Byte) (dv : Derived) (t d : Nat) : GCase × List Nat :=
  match landing b desc dv t d with
  | none => (.outside, [])
  | some c =>
    (match seenCell mem desc c with
     | some a => .hit a d
     | none => .unseen, cellRead mem desc c)

/-- Where a march stands: the cell, nxt of each axis, dent and whether it has been inside. -/
structure March where
  c : List Int
  nxt : List Nat
  dent : Nat
  entered : Bool
  deriving DecidableEq, Repr

/-- The steps of a march (R153), with the cells whose metadata it reads. -/
def marchSteps (mem : List Host.Cell) (b desc : List Byte) (sgn : List Int) (dlt : List Nat) :
    Nat → March → List Nat → GCase × List Nat
  | 0, m, read => (if m.entered then .unseen else .outside, read)
  | n + 1, m, read =>
    if fp32.lt (camFar b) m.dent then (if m.entered then .unseen else .outside, read)
    else
      let ins := cellInside desc m.c
      let hit := if ins then
          (seenCell mem desc (m.c.map Int.toNat)).filter fun a =>
            fp16.le (camOccth b) (ofBytes (memRead mem (a + 4) 2))
        else none
      let seen := if ins then read ++ cellRead mem desc (m.c.map Int.toNat) else read
      match hit with
      | some a => (.hit a m.dent, seen)
      | none =>
        let x := m.nxt.getD 0 0
        let y := m.nxt.getD 1 0
        let z := m.nxt.getD 2 0
        let ax := if fp32.lt y x then (if fp32.lt z y then 2 else 1) else (if fp32.lt z x then 2 else 0)
        let nx := addF32 (m.nxt.getD ax 0) (dlt.getD ax 0)
        if fp32.isNaN nx then (.outside, seen)
        else marchSteps mem b desc sgn dlt n
          { c := m.c.set ax (m.c.getD ax 0 + sgn.getD ax 0), nxt := m.nxt.set ax nx,
            dent := m.nxt.getD ax 0, entered := m.entered || ins } seen

/-- A march along a token's ray (R153). -/
def gatherMarch (mem : List Host.Cell) (b desc : List Byte) (dv : Derived) (t : Nat) : GCase × List Nat :=
  match rayOf b dv t with
  | none => (.outside, [])
  | some ray =>
    let g := gcoord desc dv ray (camNear b)
    let c := g.map floorF32
    let rate := ray.map fun d => divF32 d (descCell desc)
    let pos := fun (a : Nat) => fp32.lt 0 (rate.getD a 0)
    let neg := fun (a : Nat) => fp32.lt (rate.getD a 0) 0
    let nxt := (List.range 3).map fun a =>
      let go := fun (k : Int) => addF32 (camNear b)
        (divF32 (addF32 (floatF32 k) (negF32 (g.getD a 0))) (rate.getD a 0))
      if pos a then go (c.getD a 0 + 1) else if neg a then go (c.getD a 0) else 0x7F800000
    let dlt := rate.map fun r => divF32 one32 (absF32 r)
    let sgn := (List.range 3).map fun a => if pos a then (1 : Int) else if neg a then -1 else 0
    if !(g.all fp32.isFin) || nxt.any fp32.isNaN then (.outside, [])
    else marchSteps mem b desc sgn dlt (camMaxstep b)
      { c := c, nxt := nxt, dent := camNear b, entered := false } []

/-- The row a gather writes: the feature or the prior vector in 256 bytes, and whether a line it was
read from is poisoned (R366). -/
def State.gatherRow (s : State) (desc : List Byte) (g : GCase) : List Byte × Bool :=
  let n := featureBytes (descFB8 desc)
  let pad := fun (bs : List Byte) => bs ++ List.replicate (256 - n) 0
  match g with
  | .hit a _ =>
    let p := (List.range (cellBytes (descFB8 desc) / 64 + 2)).any fun i =>
      decide (lineOf a + 64 * i < a + 16 + n) && has s.memPoison (lineOf a + 64 * i)
    (pad (memRead s.mem (a + 16) n), p)
  | _ =>
    let a := descPrior desc
    if a = 0 then (List.replicate 256 0, false)
    else (pad (memRead s.mem a n),
      (List.range 5).any fun i => decide (a + 64 * i < a + n) && has s.memPoison (a + 64 * i))

/-! ### Scatter writes (R154, R155) -/

/-- The stack whose Burtex die holds a cell, found or to be claimed; none where the table is full. -/
def cellStack (mem : List Host.Cell) (d : List Byte) (cell : List Nat) : Option Nat :=
  match probe mem d cell with
  | .found e => some (stackOf (cellAddr d e (cellIndex cell)))
  | .absent e => some (stackOf (cellAddr d e (cellIndex cell)))
  | .full => none

/-- The 4 KiB granules of a range that map to a stack (R10). -/
def granulesOn (base n stack : Nat) : Nat :=
  ((List.range (n / 4096)).filter fun i => stackOf (base + 4096 * i) == stack).length

/-- The writes of a store that a die buffers, on chip or in the store's step area. -/
def State.bufferedOn (s : State) (t : Store) (stack : Nat) (spilled : Bool) : Nat :=
  ((t.pending ++ t.buffer).filter fun w =>
    w.spilled == spilled && cellStack s.mem t.desc w.cell == some stack).length

/-- Where a die buffers one more write of a store (R155): on chip, where it holds 8192 writes of all the stores
it serves, or in the part of the store's own step area that maps to its stack (true); none where both are
full. DESIGN CHOICE: the 320-byte record of a write in a step area has no layout, and the area's bytes stay as they are
(log 158). -/
def State.bufferPlace (s : State) (t : Store) (stack : Nat) : Option Bool :=
  let area := w64 t.desc 48
  if s.stores.foldl (fun a x => a + s.bufferedOn x stack false) 0 < 8192 then some false
  else if s.bufferedOn t stack true < 12 * granulesOn (bits area 16 32 * 65536) (bits area 48 16 * 65536) stack then
    some true
  else none

/-- The store that a scatter write reaches after its brick is found or claimed (R154, R147): a newly
placed brick has every cell unseen; a full table loses the write. -/
def State.bufferWrite (s : State) (t : Store) (w : SWrite) : State :=
  match probe s.mem t.desc w.cell with
  | .full => s.modStore t.part t.id fun x => { x with lostbrick := satAdd x.lostbrick 1 0xFFFFFFFF }
  | .found _ => s.modStore t.part t.id fun x => { x with buffer := x.buffer ++ [w] }
  | .absent e =>
    let m1 := memWrite s.mem (descTab t.desc + 8 * e) (toBytes 8 (2 ^ 63 + brickKey w.cell))
    let m2 := (List.range 64).foldl
      (fun m i => memWrite m (cellAddr t.desc e i) (List.replicate 16 0)) m1
    ({ s with mem := m2 }).modStore t.part t.id fun x => { x with buffer := x.buffer ++ [w] }

/-! ### The close of a world step (R156, R159, R160) -/

/-- The order of ordering keys (R154): core, colour, tag, slot, t. -/
def keyBefore (a b : SWrite) : Bool :=
  if a.core ≠ b.core then decide (a.core < b.core)
  else if a.tag.colour ≠ b.tag.colour then decide (a.tag.colour < b.tag.colour)
  else if a.tag.fields ≠ b.tag.fields then fieldsEarlier a.tag.fields b.tag.fields
  else if a.slot ≠ b.slot then decide (a.slot < b.slot)
  else decide (a.t < b.t)

/-- Whether a write beats another under NEAREST (R159). -/
def nearer (a b : SWrite) : Bool :=
  if a.d ≠ b.d then fp32.lt a.d.toNat b.d.toNat
  else if a.prio ≠ b.prio then decide (b.prio < a.prio)
  else if a.core ≠ b.core then decide (a.core < b.core)
  else if a.cam ≠ b.cam then decide (a.cam < b.cam)
  else if a.t ≠ b.t then decide (a.t < b.t)
  else keyBefore a b

/-- The best write of a list by an order. DESIGN CHOICE: of two that the order ties, lanes of one set with the same
t, it is the one that reached its buffer first (log 112). -/
def bestBy (lt : SWrite → SWrite → Bool) (w : SWrite) (ws : List SWrite) : SWrite :=
  ws.foldl (fun b x => if lt x b then x else b) w

/-- The 128 channels of a feature as exact values: BF16, or FB8 under its scale pairs. -/
def featureVals (fb8 : Bool) (bs : List Byte) : List FV :=
  if fb8 then
    (List.range 128).map fun i =>
      decFB .fb8 (leAt bs (8 + i) 1) (leAt bs (2 * (i / 32)) 1) (leAt bs (2 * (i / 32) + 1) 1)
  else (List.range 128).map fun i => bf16.decode (leAt bs (2 * i) 2)

/-- The bytes of a BF16 feature as a store keeps it (R159): FB8 stores quantise it block by block. -/
def featureStore (d : List Byte) (ch : List Nat) : List Byte :=
  if descFB8 d then
    let qs := (List.range 4).map fun b =>
      quantFB .fb8 (descQgap d) (((ch.drop (32 * b)).take 32).map bf16.decode)
    (qs.flatMap fun q => toBytes 1 q.1 ++ toBytes 1 q.2.1) ++
      qs.flatMap fun q => q.2.2.flatMap fun x => toBytes 1 x
  else ch.flatMap fun x => toBytes 2 x

/-- A cell's bytes: metadata and feature (R147). -/
def cellImage (depth conf prio cam core step : Nat) (feature : List Byte) : List Byte :=
  toBytes 4 depth ++ toBytes 2 conf ++ toBytes 2 (2 ^ 15 + prio * 2 ^ 11 + cam * 2 ^ 8) ++
    toBytes 2 core ++ toBytes 2 0 ++ toBytes 4 step ++ feature

/-- Saturation to the 48-bit signed range (R159). -/
def sat48 (x : Int) : Int :=
  if (2 ^ 47 : Nat) - 1 < x then ((2 ^ 47 : Nat) : Int) - 1
  else if x < -((2 ^ 47 : Nat) : Int) then -((2 ^ 47 : Nat) : Int) else x

/-- A value rounded to nearest even to a multiple of 2^-24 and saturated, in those units; none for a
NaN (R159). -/
def fix24 (v : Option FV) : Option Int :=
  match v with
  | some (.fin neg m e) =>
    let x : Int := roundQ .rne neg m 1 (e + 24) 0
    some (sat48 (if neg then -x else x))
  | some (.inf neg) => some (sat48 (if neg then -(2 ^ 48 : Nat) else (2 ^ 48 : Nat)))
  | _ => none

/-- The sum of a list of rounded values, or none where one is a NaN. -/
def sumFix (l : List (Option Int)) : Option Int :=
  l.foldl (fun a x => match a, x with
    | some a, some x => some (a + x)
    | _, _ => none) (some 0)

/-- A contribution to a blend: its weight and values, and the fields that break ties. -/
structure Contrib where
  w : FV
  d : FV
  ch : List FV
  weight : Nat
  depth : Nat
  prio : Nat
  core : Nat
  cam : Nat
  write : Option SWrite
  deriving DecidableEq, Repr

/-- A write's contribution. -/
def SWrite.contrib (x : SWrite) : Contrib where
  w := fp16.decode x.w
  d := fp32.decode x.d.toNat
  ch := x.feature.map bf16.decode
  weight := x.w
  depth := x.d.toNat
  prio := x.prio
  core := x.core
  cam := x.cam
  write := some x

/-- The stored cell's contribution. -/
def cellContrib (fb8 : Bool) (bs : List Byte) : Contrib where
  w := fp16.decode (leAt bs 4 2)
  d := fp32.decode (leAt bs 0 4)
  ch := featureVals fb8 (bs.drop 16)
  weight := leAt bs 4 2
  depth := leAt bs 0 4
  prio := bits (leAt bs 6 2) 11 4
  core := leAt bs 8 2 % 1024
  cam := bits (leAt bs 6 2) 8 3
  write := none

/-- Whether a contribution's writer fields are chosen before another's (R159): the greatest w, then
as under NEAREST; the stored cell ranks before a write still tied. -/
def Contrib.ahead (a b : Contrib) : Bool :=
  if a.weight ≠ b.weight then fp16.lt b.weight a.weight
  else if a.depth ≠ b.depth then fp32.lt a.depth b.depth
  else if a.prio ≠ b.prio then decide (b.prio < a.prio)
  else if a.core ≠ b.core then decide (a.core < b.core)
  else if a.cam ≠ b.cam then decide (a.cam < b.cam)
  else
    match a.write, b.write with
    | none, _ => true
    | _, none => false
    | some x, some y => nearer x y

/-- S/Σw rounded once to a format. -/
def quotient (F : FForm) (num den : Int) : Nat :=
  F.round .rne (decide (num < 0)) num.natAbs den.natAbs 0

/-- The blended cell of a list of contributions, or none where Σw is 0 (R159). -/
def blendCell (d : List Byte) (step : Nat) (c : Contrib) (cs : List Contrib) : Option (List Byte) :=
  let all := c :: cs
  let sw := (all.map fun x => (fix24 (some x.w)).getD 0).foldl (fun a b => a + b) 0
  if sw = 0 then none
  else
    let chan := fun (i : Nat) =>
      if all.any fun x => (x.ch.getD i (.fin false 0 0)).isNaN then 0x7FC0
      else
        match sumFix (all.map fun x => fix24 (FV.mulV x.w (x.ch.getD i (.fin false 0 0)))) with
        | none => 0x7FC0
        | some n => quotient bf16 (sat48 n) sw
    let depth := match sumFix (all.map fun x => fix24 (FV.mulV x.w x.d)) with
      | none => fp32.defNaN
      | some n => quotient fp32 (sat48 n) sw
    let cap : Int := (65504 * 2 ^ 24 : Nat)
    let conf := fp16.round .rne false (if cap < sw then cap else sw).natAbs 1 (-24)
    let win := cs.foldl (fun b x => if x.ahead b then x else b) c
    some (cellImage depth conf win.prio win.cam win.core step
      (featureStore d ((List.range 128).map chan)))

/-- The resolution of one cell (R159): its new bytes, if it changes, and the losing writes. -/
def resolveCell (d : List Byte) (step : Nat) (old : List Byte) (w : SWrite) (ws : List SWrite) :
    Option (List Byte) × List SWrite :=
  let seen := bit (leAt old 6 2) 15
  let win := fun (x : SWrite) =>
    cellImage x.d.toNat x.w x.prio x.cam x.core step (featureStore d x.feature)
  match descPolicy d with
  | 0 =>
    let b := bestBy nearer w ws
    let rest := (w :: ws).erase b
    if descKeepNear d && seen && fp32.lt (leAt old 0 4) b.d.toNat then (none, w :: ws)
    else (some (win b), rest)
  | 2 =>
    let b := bestBy (fun x y => keyBefore y x) w ws
    (some (win b), (w :: ws).erase b)
  | _ =>
    let st := if seen then [cellContrib (descFB8 d) old] else []
    (blendCell d step w.contrib (ws.map SWrite.contrib ++ st), [])

/-- The writes of a step grouped by cell, in order of first arrival. -/
def groupCells : Nat → List SWrite → List (List SWrite)
  | 0, _ => []
  | _, [] => []
  | n + 1, w :: ws =>
    (w :: ws.filter fun x => x.cell == w.cell) :: groupCells n (ws.filter fun x => x.cell != w.cell)

/-- The core on which a write's camera register is now: its rank's, which a resumption may have put elsewhere
(R66). -/
def State.writerCore (s : State) (t : Store) (w : SWrite) : Nat :=
  ((s.launch t.lid).bind fun l => l.cores[w.rank]?).getD w.core

/-- One cell's writes resolved and the cell written (R159, R160). The limit of 65535 writes is BLEND's. -/
def State.closeCell (s : State) (t : Store) (g : List SWrite) : State :=
  match g with
  | [] => s
  | w :: ws =>
    if descPolicy t.desc = 1 ∧ 65535 < g.length then
      s.modStore t.part t.id fun x => { x with blendovf := satAdd x.blendovf 1 0xFFFFFFFF }
    else
      match probe s.mem t.desc w.cell with
      | .found e =>
        let a := cellAddr t.desc e (cellIndex w.cell)
        let r := resolveCell t.desc t.step (memRead s.mem a (cellBytes (descFB8 t.desc))) w ws
        let s1 := match r.1 with
          | some bs => { s with mem := memWrite s.mem a bs }
          | none => s
        r.2.foldl (fun s x => s.bumpCamera (s.writerCore t x) x.cam 2 1) s1
      | _ => s

/-- The bytes of a store's descriptor that the device writes back at a close (R145). -/
def State.writeBack (s : State) (p id : Nat) : State :=
  match s.store? p id with
  | none => s
  | some t =>
    let a := s.descPlace p id
    let m := memWrite s.mem (a + 28) (toBytes 4 t.step)
    let m1 := memWrite (memWrite m (a + 64) (toBytes 4 t.lostbrick)) (a + 68) (toBytes 4 t.blendovf)
    ({ s with mem := m1 }).modStore p id fun x =>
      { x with desc := patch (patch (patch x.desc 28 (toBytes 4 x.step)) 64 (toBytes 4 x.lostbrick)) 68
                 (toBytes 4 x.blendovf) }

/-- The cells of an open step resolved and written, STEP advanced and written back; writes made after
their core's arrival stay for the next step (R156, R159). -/
def State.closeStep (s : State) (t : Store) : State :=
  let mine := t.buffer.filter fun w => !w.late
  let s1 := (groupCells mine.length mine).foldl (fun s g => s.closeCell t g) s
  let keep := fun (l : List SWrite) => (l.filter fun w => w.late).map fun w => { w with late := false }
  (s1.modStore t.part t.id fun x =>
    { x with step := (x.step + 1) % 2 ^ 32, arrived := [], buffer := keep x.buffer,
             pending := keep x.pending }).writeBack t.part t.id

end Sys2Proof.Machine
end

