-- ==== Sys2Proof/Machine/Tiles.lean ====
section
/-! DEFINITION. Tiles and counted lines (R118 to R121), writes as they are performed, and the frame
of the operations that issue to the Carder's port. -/

namespace Sys2Proof.Machine

open Sys2Proof

/-! ### Tiles (R118, R119) -/

/-- Whether a local line lies inside a tile. -/
def Tile.holds (t : Tile) (addr : Nat) : Bool :=
  decide (t.base * 64 ≤ lineOf addr) && decide (lineOf addr < t.base * 64 + t.len * 64)

/-- The releases of a list of agents: each one's epoch rises (R171, R177). -/
def State.releaseAll (s : State) : List Agent → State × List (Agent × Nat)
  | [] => (s, [])
  | a :: as =>
    let r := s.raiseEpoch a
    let q := r.1.releaseAll as
    (q.1, (a, r.2) :: q.2)

/-- The acquires of a list of releases by an agent. -/
def State.acquireAll (s : State) (b : Agent) (rels : List (Agent × Nat)) : State :=
  rels.foldl (fun s p => s.raiseAcq b p.1 p.2) s

/-- A tile whose count of a fill or drain has been reached changes state, and gives the releases of
the accesses counted (R119, R177). -/
def State.tileDone (s : State) (c i : Nat) : State :=
  let t := (s.core c).tile i
  if (t.state = 1 ∨ t.state = 3) ∧ t.len ≤ t.count then
    let r := s.releaseAll t.users
    r.1.modCore c fun k => k.modTile i fun t =>
      { t with state := if t.state = 1 then 2 else 0, users := [], rels := r.2 }
  else s

/-- A counted access of a local line by an agent (R119): a write counts in each filling tile that
holds the line, a read in each draining one. -/
def State.countLine (s : State) (c : Nat) (a : Agent) (addr : Nat) (write : Bool) : State :=
  let want := if write then 1 else 3
  let hit := (s.core c).tiles.filter fun p => p.2.valid && p.2.state == want && p.2.holds addr
  hit.foldl (fun s p =>
    (s.modCore c fun k => k.modTile p.1 fun t =>
      { t with count := t.count + 1, users := if t.users.any (fun b => b == a) then t.users else t.users ++ [a] }).tileDone
      c p.1) s

/-- Before a counted writer's write, the reads counted in the last drain of the tile are acquired
(R177). -/
def State.tileAcquire (s : State) (c : Nat) (a : Agent) (addr : Nat) : State :=
  ((s.core c).tiles.filter fun p => p.2.valid && p.2.state == 1 && p.2.holds addr).foldl
    (fun s p => s.acquireAll a p.2.rels) s

/-- The POISON summary of the tiles that hold a poisoned line (R118). -/
def Core.poisonTiles (k : Core) (addr : Nat) : Core :=
  { k with tiles := k.tiles.map fun p =>
      if p.2.valid && p.2.holds addr then (p.1, { p.2 with poison := true }) else p }

/-! ### Writes as they are performed -/

/-- An ordered write to another module's memory as the transport carries it (R22), for the access it is and the entry or
command of an engine that it is part of. -/
def State.transport (s : State) (acc : Option Acc) (g : Seg) (part : Nat) : State :=
  match g.loc with
  | .phys a => if a < 0x800000000000 then s else s.orderedWrite (bits a 35 12) a g.bytes g.poison acc part
  | .scratch _ _ => s

/-- A piece of a write performed, with what follows from it: the poison of the tiles it enters
(R118) and the packet that carries it to another module (R22). `acc` is the access, where an agent makes it, and `part`
the Shuttle's entry or the Reel's command. -/
def State.performWrite (s : State) (acc : Option Acc) (g : Seg) (part : Nat := 0) : State :=
  let s1 := (s.performSeg g).transport acc g part
  match g.loc with
  | .scratch c a => if g.poison then s1.modCore c fun k => k.poisonTiles a else s1
  | .phys _ => s1

/-- The check of a plain write that performs at once (R165, R175). -/
def State.checkWrite (s : State) (o : OpIn) (t : Target) : Option AccErr :=
  let line := t.loc.line
  if !t.watched .write then none
  else
    match o.selfRace line true false with
    | some a => some (.race line a)
    | none =>
      if t.records .write then (s.raceOn line (s.accNow o.c o.colour true false)).map fun a => .race line a else none

/-- Before a counted writer's write at some places, the acquires of R177. -/
def State.acquireTargets (s : State) (c : Nat) (a : Agent) (ts : List (Target × Nat)) : State :=
  ts.foldl (fun s t => match t.1.loc with
    | .scratch c' l => if c' = c then s.tileAcquire c a l else s
    | .phys _ => s) s

/-- Where a plain write that performs at once goes, or why it does not complete. A counted writer has the
acquires of R177 before the check. -/
def State.writeAccess (s : State) (o : OpIn) (counted : Bool) (va n : Nat) :
    Except AccErr (List (Target × Nat)) :=
  match s.resolveRange o.c .write va n with
  | .error (.translation, a) => .error (.translation a)
  | .error (.protection, a) => .error (.protection a)
  | .ok ts =>
    let s1 := if counted then s.acquireTargets o.c (s.agent o.c o.colour) ts else s
    match ts.findSome? fun t => s1.checkWrite o t.1 with
    | some e => .error e
    | none =>
      match o.farErr checkAsk va ts with
      | some e => .error e
      | none => .ok ts

/-- A plain write of an operation performed at once at checked places: recorded, and, for a counted writer
(R119), counted in the tiles of its core. -/
def State.writeNow (s : State) (o : OpIn) (counted : Bool) (va : Nat) (ts : List (Target × Nat)) (bs : List PByte) :
    State :=
  let a := s.agent o.c o.colour
  let s0 := if counted then s.acquireTargets o.c a ts else s
  let x := s0.accNow o.c o.colour true false
  let s1 := s0.cachePage o.c va
  let s2 := (segsP ts bs).foldl (fun s g => s.performWrite (some x) g) s1
  ts.foldl (fun s t =>
    let line := t.1.loc.line
    let s3 := if t.1.records .write then s.recordAcc line x else s
    let s4 := if t.1.watched .write then
        s3.modCore o.c fun k => k.modInst o.f.iid fun i => { i with accs := i.accs ++ [InstAcc.mk o.f.slot line x none] }
      else s3
    match line with
    | .scratch c' l => if counted && c' == o.c then s4.countLine o.c a l true else s4
    | .phys _ => s4) s2

/-! ### Operations that issue to the Carder's port (R85, R120, R179) -/

/-- Whether a core has arrived at the open Arbour step (R76, R179). -/
def State.hasArrived (s : State) (c : Nat) : Bool :=
  match s.coreLaunch c with
  | some l => has l.arrived (s.coreRank c)
  | none => false

/-- A form of the Carder's port: it waits behind an earlier request that holds the port (R120), and,
where it accesses memory, while its core has arrived at the open step (R179). -/
def carderOp (s : State) (accesses : Bool) (g : OpIn → State) : Host.Outcome State Fault Refusal :=
  runOp s fun o =>
    if s.portBusy o .carder then s.hold o .carder .port
    else if accesses && s.hasArrived o.c then s.hold o .carder .step
    else g o

/-- An illegal-operand trap at a lane. -/
def State.illegalAt (s : State) (o : OpIn) (value rule lane : Nat) : State := s.trapOp o 2 value rule 0 lane

/-- The completion token of a memory form (R300): the lanes of the matched set, each with a value. -/
def State.finishM (s : State) (o : OpIn) (h : OpWord) (v : Word) : State :=
  let r := o.f.run ((List.range o.f.n).map fun _ => { val := v, poison := false })
  s.finish o h false r r

/-- A completion token whose lane 0 holds a value (R342, R355); its other lanes hold zero. -/
def State.finishL (s : State) (o : OpIn) (h : OpWord) (v : Word) : State :=
  let r := o.f.run ((List.range o.f.n).map fun j => { val := if j = 0 then v else 0, poison := false })
  s.finish o h false r r

/-- Whether the result tag of a memory form's token would overflow (R92). -/
def State.tagBadM (s : State) (o : OpIn) (h : OpWord) : Bool :=
  s.tagBad o h.tg.toNat (o.f.run ((List.range o.f.n).map fun _ => { val := 0, poison := false }))

end Sys2Proof.Machine
end

