-- ==== Sys2Proof/Machine/Carder.lean ====
section
/-! DEFINITION. Memory instructions (R299 to R315): loads and stores, atomics, locks, fences, tile
states, streams' opening and closing, row gathers and scatters, coordinate walks. -/

namespace Sys2Proof.Machine

open Sys2Proof

/-! ### Loads and stores (R302, R303) -/

/-- The bytes of a load. -/
def ldBytes : LdTy → Nat
  | .u8 => 1 | .s8 => 1 | .u16 => 2 | .s16 => 2 | .w32 => 4

/-- The 32-bit word of a load's bytes (R302). -/
def ldExtend (t : LdTy) (bs : List Byte) : Word :=
  match t with
  | .s8 => BitVec.ofInt 32 (sval 8 (ofBytes bs))
  | .s16 => BitVec.ofInt 32 (sval 16 (ofBytes bs))
  | _ => BitVec.ofNat 32 (ofBytes bs)

/-- The bytes of a store. -/
def stBytes : StTy → Nat
  | .w8 => 1 | .w16 => 2 | .w32 => 4

/-- The index of the first element that meets a test. -/
def firstIdx {α : Type} (p : α → Bool) (l : List α) : Option (Nat × α) := findIdx? p l 0

/-- The loads of a set's lanes in ascending order (R301): the lanes, and the state after them; or
the state in which the first access that fails has been dealt with. -/
def State.loadLanes (s0 : State) (o : OpIn) (n : Nat) (ext : List Byte → Word) :
    Nat → List Nat → State → Except State (List Lane × State)
  | _, [], s => .ok ([], s)
  | j, va :: rest, s =>
    match s.load o va n with
    | .error e => .error (s0.accFail o .carder false j e)
    | .ok (bs, p, s1) =>
      match s0.loadLanes o n ext (j + 1) rest s1 with
      | .error t => .error t
      | .ok (ls, s2) => .ok ({ val := ext bs, poison := p } :: ls, s2)

/-- The address of the first poisoned lane of a set. -/
def poisonAddr (ls : List Lane) (addrs : List Nat) : Nat := addrs.getD (firstPoison 0 ls) 0

/-- A load form: its addresses have been formed from `addrLanes`. -/
def State.loadForm (s : State) (o : OpIn) (h : OpWord) (n : Nat) (ext : List Byte → Word)
    (addrLanes : List Lane) (addrs : List Nat) : State :=
  if anyPoison addrLanes then s.poisonTrap o (poisonAddr addrLanes addrs) 1 addrLanes
  else
    match firstIdx (fun a => a % n != 0) addrs with
    | some (j, a) => s.illegalAt o a 299 (o.f.first + j)
    | none =>
      match s.loadLanes o n ext o.f.first addrs s with
      | .error t => t
      | .ok (ls, s1) =>
        if s1.tagBad o h.tg.toNat (o.f.run ls) then s.tagTrap o h.tg.toNat
        else s1.finish o h true (o.f.run ls) (o.f.run ls)

/-- LD (R302): an address in the left lane, or a pair with its high part in the right lane. -/
def execLd (h : OpWord) (ty : LdTy) (s : State) : Host.Outcome State Fault Refusal :=
  carderOp s true fun o =>
    if h.ar = 1 then
      s.loadForm o h (ldBytes ty) (ldExtend ty) o.f.left (o.f.left.map fun l => l.val.toNat)
    else
      match firstIdx (fun (l : Lane) => !l.poison && l.val.toNat / 2 ^ 24 != 0) o.f.right with
      | some (j, l) => s.illegalAt o l.val.toNat 299 (o.f.first + j)
      | none =>
        s.loadForm o h (ldBytes ty) (ldExtend ty) (orPoison o.f.left o.f.right)
          (List.zipWith (fun l r => bits r.val.toNat 0 24 * 2 ^ 32 + l.val.toNat) o.f.left o.f.right)

/-- LDV (R303). -/
def execLdv (h : OpWord) (sh : BitVec 3) (high : BitVec 24) (s : State) :
    Host.Outcome State Fault Refusal :=
  carderOp s true fun o =>
    let low := fun (l r : Nat) => high.toNat * 2 ^ 32 + (l + r * 2 ^ sh.toNat) % 2 ^ 32
    if h.ar = 1 then
      s.loadForm o h 4 (ldExtend .w32) o.f.left (o.f.left.map fun l => low l.val.toNat 0)
    else
      s.loadForm o h 4 (ldExtend .w32) (orPoison o.f.left o.f.right)
        (List.zipWith (fun l r => low l.val.toNat r.val.toNat) o.f.left o.f.right)

/-- The checked places of a set's stores in ascending order; or the state in which the first access
that fails has been dealt with. -/
def State.storeLanes (s : State) (o : OpIn) (n : Nat) :
    Nat → List Nat → Except State (List (Nat × List (Target × Nat)))
  | _, [] => .ok []
  | j, va :: rest =>
    match s.access o .write va n with
    | .error e => .error (s.accFail o .carder true j e)
    | .ok ts =>
      match s.storeLanes o n (j + 1) rest with
      | .error t => .error t
      | .ok r => .ok ((va, ts) :: r)

/-- The places of stores noted in the instance, for R175 and R176. -/
def State.noteStores (s : State) (o : OpIn) (l : List (Nat × List (Target × Nat))) : State :=
  l.foldl (fun s p => s.noteAccess o .write p.1 p.2) s

/-- A store form (R302): the access is translated, checked and entered for the commit, and the
completion token follows. A poisoned address lane traps, and so does poisoned data for T3 (R194). -/
def State.storeForm (s : State) (o : OpIn) (h : OpWord) (n : Nat) (addrs : List Nat) : State :=
  if o.overCount then s.illegal o o.value 100
  else if anyPoison o.f.left then s.poisonTrap o (poisonAddr o.f.left addrs) 1 o.f.left
  else
    match firstIdx (fun a => a % n != 0) addrs with
    | some (j, a) => s.illegalAt o a 299 (o.f.first + j)
    | none =>
      match s.storeLanes o n o.f.first addrs with
      | .error t => t
      | .ok l =>
        let out := List.zipWith (fun (d : Lane) (p : Nat × List (Target × Nat)) =>
          { d with poison := d.poison && p.2.any fun t => t.1.t3 }) o.f.right l
        if anyPoison out then s.poisonTrap o (poisonAddr out addrs) 8 out
        else if s.tagBadM o h then s.tagTrap o h.tg.toNat
        else
          let segs := (List.zipWith (fun (d : Lane) (p : Nat × List (Target × Nat)) =>
            segsOf p.2 (toBytes n d.val.toNat) d.poison) o.f.right l).flatten
          ((s.noteStores o l).atCommit o (.store o.f.slot segs)).finishM o h 0

/-- ST (R302). -/
def execSt (h : OpWord) (ty : StTy) (s : State) : Host.Outcome State Fault Refusal :=
  carderOp s true fun o => s.storeForm o h (stBytes ty) (o.f.left.map fun l => l.val.toNat)

/-- STV (R303). -/
def execStv (h : OpWord) (high : BitVec 24) (s : State) : Host.Outcome State Fault Refusal :=
  carderOp s true fun o =>
    s.storeForm o h 4 (o.f.left.map fun l => high.toNat * 2 ^ 32 + l.val.toNat)

/-! ### Atomics (R304 to R306, R134, R135) -/

/-- The new value of an atomic's word, from the old one and the operand (R304). -/
def atomValue (opc : AtomOp) (m v : Word) : Word :=
  match opc with
  | .add => m + v
  | .and => m &&& v
  | .or => m ||| v
  | .xor => m ^^^ v
  | .mins => if m.sle v then m else v
  | .maxs => if v.sle m then m else v
  | .minu => if m.toNat ≤ v.toNat then m else v
  | .maxu => if v.toNat ≤ m.toNat then m else v
  | .swap => v
  | .fadd => BitVec.ofNat 32 (addF32 m.toNat v.toNat)

/-- An atomic's number (R304). -/
def atomCode : AtomOp → Nat
  | .add => 0 | .and => 1 | .or => 2 | .xor => 3 | .mins => 4 | .maxs => 5 | .minu => 6 | .maxu => 7 | .swap => 8
  | .fadd => 9

/-- Whether an ordering acquires. -/
def ordAcquires : MemOrd → Bool
  | .acquire => true | .acqRel => true | .relaxed => false | .release => false

/-- Whether an ordering releases. -/
def ordReleases : MemOrd → Bool
  | .release => true | .acqRel => true | .relaxed => false | .acquire => false

/-- The radii of the release and full fences of a block that an arc orders before a slot (R174). -/
def State.fenceRadii (s : State) (m : Mapping) (slot : Nat) : List Nat :=
  (List.range m.nslot).filterMap fun k =>
    match m.instr? k with
    | some (.fence _ kind sc) => if kind != .acquire && m.arc k slot then some (s.radius sc.toNat) else none
    | _ => none

/-- The greatest radius at which an atomic releases: its own scope, or that of a release or full
fence of its instance that an arc orders before it (R174); none where it is no release. -/
def State.releaseRadius (s : State) (o : OpIn) (ord : MemOrd) (scope : Nat) : Option Nat :=
  ((if ordReleases ord then [s.radius scope] else []) ++ s.fenceRadii o.m o.f.slot).max?

/-- The bit of a bank that locks a local line, and its bank (R136). -/
def lockBit (a : Nat) : Nat := bits a 6 5 * 64 + Nat.xor (bits a 11 6) (bits a 17 4)

/-- Whether the lock bit of a place is set. -/
def State.lockSet (s : State) (l : Loc) : Bool :=
  match l with
  | .scratch c a => has (s.core c).locks (lockBit a)
  | .phys _ => false

/-- The lock bit that a request waits for: its core, and the bit with its bank (R136). -/
def Wait.lockBit? : Wait → Option (Nat × Nat)
  | .lock c a => some (c, lockBit a)
  | _ => none

/-- Whether a waiter of any core waits for a lock bit since before an operation's arrival (R136). -/
def State.lockQueued (s : State) (o : OpIn) (l : Loc) : Bool :=
  match l with
  | .scratch c a =>
    s.cores.any fun p => p.2.held.any fun h => h.wait.lockBit? == some (c, lockBit a) &&
      (match o.f.ticket.turn, h.firing.ticket.turn with
       | some t, some u => decide (u < t)
       | _, _ => true)
  | .phys _ => false

/-- The wait for the lock bit of a place. -/
def Loc.lockWait : Loc → Wait
  | .scratch c a => .lock c a
  | .phys a => .lock 0 a

/-- An atomic or a lock form at its port: it takes its number there, where it has none (R135, R136). -/
def State.reachPort (s : State) (o : OpIn) : State × OpIn :=
  match o.f.ticket.turn with
  | some _ => (s, o)
  | none => ({ s with nextTurn := s.nextTurn + 1 },
             { o with f := { o.f with ticket := { o.f.ticket with turn := some s.nextTurn } } })

/-- Whether an earlier atomic of the core that waits at its port holds a line (R134). -/
def State.portHeld (s : State) (o : OpIn) (lines : List Loc) : Bool :=
  (s.heldBefore o).any fun h => match h.wait with
    | .atomic ls => ls.any fun l => lines.any fun x => x == l
    | _ => false

/-- How an atomic orders: the radius at which it releases and at which it acquires, where it does, and whether
a fence may still make it an acquire (R174). -/
structure Order where
  release : Option Nat
  acquire : Option Nat
  relaxed : Bool

/-- What an atomic leaves beside the word it writes (R134, R165, R171, R172): the releasing write enters the
line's record with the new epoch, the acquire takes the release that the line's latest write was before, and
the instance keeps the access. A line of another module is recorded there (R168), with the epoch that the request
brought. -/
def State.noteAtomic (s : State) (o : OpIn) (t : Target) (d : Order) : State :=
  let line := t.loc.line
  let a := s.agent o.c o.colour
  let prev := (s.lineRec line).release
  let s1 := if d.release.isSome && t.far.isNone then (s.raiseEpoch a).1 else s
  let s2 := if t.records .atomic then s1.recordAcc line (s1.accNow o.c o.colour true true) else s1
  let s3 := match d.release with
    | some r =>
      if t.records .atomic then s2.markRelease line { agent := a, core := o.c, epoch := s2.epoch a, radius := r } else s2
    | none => s2
  let s4 := match d.acquire, prev with
    | some r, some p =>
      let n := s.dist p.agent a p.core o.c
      if n ≤ p.radius ∧ n ≤ r then s3.raiseAcq a p.agent p.epoch else s3
    | _, _ => s3
  let x := s4.accNow o.c o.colour true true
  if t.watched .atomic then
    s4.modCore o.c fun k => k.modInst o.f.iid fun i =>
      { i with accs := i.accs ++ [InstAcc.mk o.f.slot line x (if d.relaxed then prev else none)] }
  else s4

/-- One atomic performed at its port on an old word (R134): the word with its poison, and the state after. -/
def State.rmw (s : State) (o : OpIn) (t : Target) (d : Order) (old : Lane) (upd : Word → Word) : Lane × State :=
  (old, (s.noteAtomic o t d).writeLoc t.loc (toBytes 4 (upd old.val).toNat))

/-- The word at a place, with its line's poison. -/
def State.wordAt (s : State) (l : Loc) : Lane :=
  { val := BitVec.ofNat 32 (ofBytes (s.readLoc l 4)), poison := s.poisoned l }

/-- How far a set of atomics got: the old words performed, and why it stopped, if it did. -/
structure AtomRun where
  olds : List Lane
  st : State
  stop : Option (Nat × AccErr)

/-- What another module has answered to a set's atomics (R134, R181): the old words of the lanes performed, and
the race that ended them, if one did. -/
structure FarRun where
  olds : List Lane
  race : Option (Nat × Nat)

/-- The answer that a set of atomics has. -/
def OpIn.farRun (o : OpIn) : FarRun :=
  match o.f.ticket.got with
  | (_, .answered olds) :: _ => { olds := olds, race := none }
  | (_, .raced olds d x) :: _ => { olds := olds, race := some (d, x) }
  | _ => { olds := [], race := none }

/-- An atomic's request to another module: what it asks for beside the address and the number of lanes, of which the
release has its own place (`Order.release`). -/
structure AtomAsk where
  opc : Nat
  operands : List Nat

/-- The numbers by which `n` lanes from lane `j` are asked for. -/
def AtomAsk.numbers (a : AtomAsk) (j n : Nat) : List Nat := a.opc :: (a.operands.drop j).take n

/-- The lanes of a set performed one after another at their ports (R301), from lane `j`: those on another
module's memory as it has answered. -/
def State.atomLanes (o : OpIn) (d : Order) (upd : Nat → Word → Word) (ask : AtomAsk) :
    Nat → List Target → FarRun → State → AtomRun
  | _, [], _, s => { olds := [], st := s, stop := none }
  | j, t :: rest, far, s =>
    let go := fun (old : Lane) (far : FarRun) =>
      let r := s.rmw o t d old (upd j)
      let q := State.atomLanes o d upd ask (j + 1) rest far r.2
      { q with olds := r.1 :: q.olds }
    match s.checkPiece o .atomic t, t.far with
    | some e, _ => { olds := [], st := s, stop := some (j, e) }
    | none, none => go (s.wordAt t.loc) far
    | none, some pa =>
      match far.olds, far.race with
      | old :: olds, _ => go old { far with olds := olds }
      | [], some (x, y) => { olds := [], st := s, stop := some (j, .farRace pa x y) }
      | [], none =>
        let n := ((t :: rest).takeWhile fun t => t.far.isSome).length
        { olds := [], st := s, stop := some (j, .remote o.colour (ask.numbers j n) d.release [(pa, 4 * n)]) }

/-- The places of a set's atomics; or the state in which the first that fails has been dealt
with. -/
def State.atomPlaces (s : State) (o : OpIn) : Nat → List Nat → Except State (List Target)
  | _, [] => .ok []
  | j, va :: rest =>
    match s.resolveRange o.c .atomic va 4 with
    | .error (.translation, a) => .error (s.accFail o .carder true j (.translation a))
    | .error (.protection, a) => .error (s.accFail o .carder true j (.protection a))
    | .ok ts =>
      match ts, s.atomPlaces o (j + 1) rest with
      | _, .error t => .error t
      | [], .ok r => .ok r
      | t :: _, .ok r => .ok (t.1 :: r)

/-- The result runs of an atomic form, for the lanes performed from `skip` on. -/
abbrev AtomResult := Nat → List Lane → Run × Run

/-- The lanes of an atomic form performed, from the first that has not been (R134): where a lane does not
complete, those before it send their results and count as performed. -/
def State.atomPerform (s : State) (o : OpIn) (h : OpWord) (d : Order) (ts : List Target) (upd : Nat → Word → Word)
    (res : AtomResult) (ask : AtomAsk) : State :=
  let r := State.atomLanes o d upd ask o.f.skip (ts.drop o.f.skip) o.farRun s
  let runs := res o.f.skip r.olds
  match r.stop with
  | none => r.st.finish o h true runs.1 runs.2
  | some (j, e) =>
    let s1 := r.st.modCore o.c fun k => (k.sendTo o h.tg.toNat false runs.1).sendTo o h.tg.toNat true runs.2
    s1.accFail (OpIn.unanswered { o with f := { o.f with skip := j } }) .carder true (o.f.first + j) e

/-- An atomic form: checks, waits, and then the performance of its lanes (R134, R304 to R306). While a
write of CR_ATOMMODE waits to take effect, an atomic that has not reached its port waits (R135). -/
def State.atomForm (s : State) (o : OpIn) (h : OpWord) (ord : MemOrd) (scope : Nat) (addrs : List Nat)
    (operands : List Lane) (upd : Nat → Word → Word) (res : AtomResult) (ask : AtomAsk) : State :=
  if o.overCount then s.illegal o o.value 100
  else if scope = 7 then s.illegal o 7 170
  else if anyPoison o.f.left then s.poisonTrap o (poisonAddr o.f.left addrs) 1 o.f.left
  else if anyPoison operands then s.poisonTrap o (poisonAddr operands addrs) 7 operands
  else
    match firstIdx (fun a => a % 4 != 0) addrs with
    | some (j, a) => s.illegalAt o a 299 (o.f.first + j)
    | none =>
      match s.atomPlaces o o.f.first addrs with
      | .error t => t
      | .ok ts =>
        let lines := ts.map fun t => t.loc.line
        let locked := (s.core o.c).regs.atomLock
        if s.tagBadM o h then s.tagTrap o h.tg.toNat
        else if o.f.ticket.got.any fun g => g.2 == .failed then
          s.accFail o .carder true (o.f.first + o.f.skip) (.translation (addrs.getD o.f.skip 0))
        else if (s.core o.c).regs.atomPending.isSome && o.f.ticket.turn.isNone then s.hold o .carder .register
        else if ordReleases ord && s.releaseWaits o then s.hold o .carder .earlier
        else
          let p := s.reachPort o
          if s.portHeld o lines then p.1.hold p.2 .carder (.atomic lines)
          else
            match ts.find? fun t => locked && (s.lockSet t.loc || s.lockQueued o t.loc) with
            | some t => p.1.hold p.2 .carder t.loc.lockWait
            | none =>
              let s0 := addrs.foldl (fun s a => s.cachePage o.c a) p.1
              let d : Order := { release := s.releaseRadius o ord scope,
                                 acquire := if ordAcquires ord then some (s.radius scope) else none,
                                 relaxed := ord == .relaxed }
              s0.atomPerform p.2 h d ts upd res ask

/-- The address of an atomic's lane (R299). -/
def atomAddr (g : BitVec 1) (hi : BitVec 16) (l : Lane) : Nat :=
  (if g = 1 then 0x00F0000000000000 else 0) + hi.toNat * 2 ^ 32 + l.val.toNat

/-- ATOM (R304): the old values are its result. -/
def execAtom (h : OpWord) (opc : AtomOp) (ord : MemOrd) (scope : BitVec 3) (g : BitVec 1) (hi : BitVec 16)
    (s : State) : Host.Outcome State Fault Refusal :=
  carderOp s true fun o =>
    let r : AtomResult := fun k olds =>
      ({ first := o.f.first + k, lanes := olds }, { first := o.f.first + k, lanes := olds })
    s.atomForm o h ord scope.toNat (o.f.left.map (atomAddr g hi)) o.f.right
      (fun j m => atomValue opc m (o.f.right.getD j { val := 0, poison := false }).val) r
      { opc := atomCode opc, operands := o.f.right.map fun l => l.val.toNat }

/-- CAS (R305): the old values, and whether each was the expected one. -/
def execCas (h : OpWord) (ord : MemOrd) (scope : BitVec 3) (g : BitVec 1) (hi : BitVec 16) (s : State) :
    Host.Outcome State Fault Refusal :=
  if h.ar = 1 then runOp s fun _ => s
  else
    carderOp s true fun o =>
      let want := fun (j : Nat) => (o.f.right.getD j { val := 0, poison := false }).val
      let r : AtomResult := fun k olds =>
        ({ first := o.f.first + k, lanes := olds },
         { first := o.f.first + k,
           lanes := (List.zipIdx olds k).map fun p =>
             { val := predWord (p.1.val == want p.2), poison := p.1.poison } })
      s.atomForm o h ord scope.toNat (o.f.left.map (atomAddr g hi)) (orPoison o.f.right o.f.third)
        (fun j m => if m = want j then (o.f.third.getD j { val := 0, poison := false }).val else m) r
        { opc := 16,
          operands := List.zipWith (fun e n => e.val.toNat + 2 ^ 32 * n.val.toNat) o.f.right o.f.third }

/-! ### Locks (R307, R136) -/

/-- Whether a local-window address of a lock form is bad (R299, R307). -/
def lockAddrBad (a : Nat) : Bool := a % 4 != 0 || decide (0x200000 ≤ a)

/-- The lanes of an LDLK from lane `j` on: each waits for its bit, sets it and reads its word, as a relaxed atomic that a
release fence before it makes a release (R174, R307). -/
def State.lockLanes (o : OpIn) : Nat → List Target → State → AtomRun × Option Nat
  | _, [], s => ({ olds := [], st := s, stop := none }, none)
  | j, t :: rest, s =>
    if s.lockSet t.loc || s.lockQueued o t.loc then
      ({ olds := [], st := s, stop := none }, some t.loc.addr)
    else
      match s.checkPiece o .atomic t with
      | some e => ({ olds := [], st := s, stop := some (j, e) }, none)
      | none =>
        let s1 := s.modCore o.c fun k => { k with locks := addMem k.locks (lockBit t.loc.addr) }
        let r := s1.rmw o t { release := (s.fenceRadii o.m o.f.slot).max?, acquire := none, relaxed := false } (s.wordAt t.loc) id
        let q := State.lockLanes o (j + 1) rest r.2
        ({ q.1 with olds := r.1 :: q.1.olds }, q.2)

/-- LDLK's performance (R307): the words of the lanes whose bits it takes; a lane whose bit is set
waits, with the lanes before it performed. -/
def State.lockForm (s : State) (o : OpIn) (h : OpWord) : State :=
  let addrs := o.f.left.map fun l => l.val.toNat
  if anyPoison o.f.left then s.poisonTrap o (poisonAddr o.f.left addrs) 1 o.f.left
  else
    match firstIdx lockAddrBad addrs with
    | some (j, a) => s.illegalAt o a 307 (o.f.first + j)
    | none =>
      match s.atomPlaces o o.f.first addrs with
      | .error t => t
      | .ok ts =>
        if s.tagBadM o h then s.tagTrap o h.tg.toNat
        else
          let r := State.lockLanes o o.f.skip (ts.drop o.f.skip) s
          let run : Run := { first := o.f.first + o.f.skip, lanes := r.1.olds }
          let n := r.1.olds.length
          let next := { o with f := { o.f with
            skip := o.f.skip + n, ticket := if n = 0 then o.f.ticket else { o.f.ticket with turn := none } } }
          let sent := r.1.st.modCore o.c fun k =>
            (k.sendTo o h.tg.toNat false run).sendTo o h.tg.toNat true run
          match r.1.stop, r.2 with
          | some (j, e), _ => sent.accFail next .carder true (o.f.first + j) e
          | none, some a =>
            let p := sent.reachPort next
            p.1.hold p.2 .carder (.lock o.c a)
          | none, none => r.1.st.finish o h true run run

/-- LDLK (R307). -/
def execLdlk (h : OpWord) (s : State) : Host.Outcome State Fault Refusal :=
  carderOp s true fun o => s.lockForm o h

/-- The checked places of an STUL's lanes: relaxed atomics for the race detector (R307). -/
def State.unlockLanes (s : State) (o : OpIn) : Nat → List Nat → Except State (List (Nat × List (Target × Nat)))
  | _, [] => .ok []
  | j, va :: rest =>
    match s.resolveRange o.c .write va 4 with
    | .error (.translation, a) => .error (s.accFail o .carder true j (.translation a))
    | .error (.protection, a) => .error (s.accFail o .carder true j (.protection a))
    | .ok ts =>
      match ts.findSome? fun t => (o.selfRace t.1.loc.line true true).map fun a => (t.1.loc.line, a) with
      | some (l, a) => .error (s.accFail o .carder true j (.race l a))
      | none =>
        match s.unlockLanes o (j + 1) rest with
        | .error t => .error t
        | .ok r => .ok ((va, ts) :: r)

/-- STUL (R307): the word is written and the lock bit cleared at commit. -/
def execStul (h : OpWord) (s : State) : Host.Outcome State Fault Refusal :=
  carderOp s true fun o =>
    let addrs := o.f.left.map fun l => l.val.toNat
    if o.overCount then s.illegal o o.value 100
    else if anyPoison o.f.left then s.poisonTrap o (poisonAddr o.f.left addrs) 1 o.f.left
    else
      match firstIdx lockAddrBad addrs with
      | some (j, a) => s.illegalAt o a 307 (o.f.first + j)
      | none =>
        match s.unlockLanes o o.f.first addrs with
        | .error t => t
        | .ok l =>
          if s.tagBadM o h then s.tagTrap o h.tg.toNat
          else
            let segs := (List.zipWith (fun (d : Lane) (p : Nat × List (Target × Nat)) =>
              segsOf p.2 (toBytes 4 d.val.toNat) d.poison) o.f.right l).flatten
            let s1 := (l.flatMap fun p => p.2).foldl (fun s t => s.modCore o.c fun k =>
              k.modInst o.f.iid fun i =>
                { i with accs := i.accs ++
                    [InstAcc.mk o.f.slot t.1.loc.line (s.accNow o.c o.colour true true) none] }) s
            let s2 := s1.atCommit o (.store o.f.slot segs)
            (addrs.foldl (fun s a => s.atCommit o (.lockClear o.c a)) s2).finishM o h 0

/-! ### Fences and prefetch (R308, R309, R174) -/

/-- FENCE (R308): it completes once every earlier instance of its colour has committed, a releasing one once
their writes have been performed too (R171); an acquire fence makes acquires of the relaxed ATOM and CAS lanes
of its instance that an arc leads from. -/
def execFence (h : OpWord) (kind : FenceKind) (scope : BitVec 3) (s : State) :
    Host.Outcome State Fault Refusal :=
  carderOp s false fun o =>
    if scope = 7 then s.illegal o 7 170
    else if (if kind == .acquire then s.earlier o else s.releaseWaits o) then s.hold o .carder .earlier
    else if s.tagBadM o h then s.tagTrap o h.tg.toNat
    else
      let b := s.agent o.c o.colour
      let s1 := if kind = .release ∨ h.ar = 0 then s
        else o.i.accs.foldl (fun s a =>
          match a.seen with
          | some r =>
            let d := s.dist r.agent b r.core o.c
            if o.m.arc a.slot o.f.slot && decide (d ≤ r.radius) &&
                decide (d ≤ s.radius scope.toNat) then s.raiseAcq b r.agent r.epoch
            else s
          | none => s) s
      s1.finishM o h 0

/-- PREF (R309): a hint; the translation of each lane's page is cached. -/
def execPref (h : OpWord) (s : State) : Host.Outcome State Fault Refusal :=
  carderOp s false fun o =>
    (o.f.left.foldl (fun s l => s.cachePage o.c l.val.toNat) s).finishM o h 0

/-! ### Tile states (R310, R311) -/

/-- A TSTATE's change (R310, R119): the new state of the tile, or none where R119 does not list
it. -/
def tileEvent (ev state : Nat) : Option Nat :=
  match ev, state with
  | 0, 0 => some 1
  | 1, 1 => some 2
  | 2, 2 => some 3
  | 3, 3 => some 0
  | 3, 2 => some 0
  | _, _ => none

/-- A TSTATE form (R310), which waits for every earlier instance of its colour and for their writes: fill 0, publish
1, drain 2, release 3. -/
def tstateOp (h : OpWord) (ev : Nat) (s : State) : Host.Outcome State Fault Refusal :=
  carderOp s false fun o =>
    let n := o.value
    let t := (s.core o.c).tile n
    if s.releaseWaits o then s.hold o .carder .earlier
    else if 256 ≤ n ∨ t.valid = false then s.illegal o n 310
    else
      match tileEvent ev t.state with
      | none => s.illegal o n 119
      | some st =>
        if s.tagBadM o h then s.tagTrap o h.tg.toNat
        else
          let r := if ev = 1 ∨ ev = 3 then s.releaseAll (addAgent (s.agent o.c o.colour) t.users)
            else (s, t.rels)
          let s1 := r.1.modCore o.c fun k => k.modTile n fun t =>
            { t with state := st, users := [], rels := r.2,
                     count := if ev = 0 ∨ ev = 2 then 0 else t.count,
                     poison := if ev = 0 then false else t.poison }
          s1.finishM o h (BitVec.ofNat 32 st)
where
  addAgent (a : Agent) (l : List Agent) : List Agent := if l.any (fun b => b == a) then l else l ++ [a]

/-- TSTATE fill (R310). -/
def execTstateFill (h : OpWord) (s : State) : Host.Outcome State Fault Refusal := tstateOp h 0 s

/-- TSTATE publish (R310). -/
def execTstatePublish (h : OpWord) (s : State) : Host.Outcome State Fault Refusal := tstateOp h 1 s

/-- TSTATE drain (R310). -/
def execTstateDrain (h : OpWord) (s : State) : Host.Outcome State Fault Refusal := tstateOp h 2 s

/-- TSTATE release (R310). -/
def execTstateRelease (h : OpWord) (s : State) : Host.Outcome State Fault Refusal := tstateOp h 3 s

/-- TWAIT (R311): it holds nothing while it waits; a wait for ready acquires the fill. -/
def execTwait (h : OpWord) (s : State) : Host.Outcome State Fault Refusal :=
  runOp s fun o =>
    let v := o.value
    let n := v % 256
    let t := (s.core o.c).tile n
    if s.portBusy o .carder then s.hold o .carder .port
    else if 1024 ≤ v ∨ t.valid = false then s.illegal o v 311
    else if t.state ≠ bits v 8 2 then s.hold o .carder (.twait n)
    else
      let s1 := if t.state = 2 then s.acquireAll (s.agent o.c o.colour) t.rels else s
      s1.finishM o h (BitVec.ofNat 32 (t.count % 65536 + b2n t.poison * 65536))

/-! ### Streams (R312, R313) -/

/-- Counts of a descriptor: CNT0 to CNT3 (R122). -/
def descCnt (d : List Nat) (i : Nat) : Nat := bits (d.getD 1 0) (16 * i) 16

/-- EWORDS. -/
def descEwords (d : List Nat) : Nat := bits (d.getD 6 0) 0 7

/-- DIR: a store node. -/
def descStore (d : List Nat) : Bool := bit (d.getD 6 0) 15

/-- The checks of R371 on a projection node's descriptor. -/
def State.projOk (s : State) (c : Nat) (d : List Nat) : Bool :=
  let base := bits (d.getD 0 0) 0 56
  let m := (s.core c).cam (base % 8)
  let ib := bits (d.getD 5 0) 0 56
  decide (base < 8) && m.loaded && !descFB8 (s.descOf (s.corePart c) (camStore m.bytes)) &&
    decide (descCnt d 0 ≤ camW m.bytes) && decide (descCnt d 1 ≤ camH m.bytes) &&
    descCnt d 2 == 1 && descCnt d 3 == 1 && descEwords d == 32 &&
    (if camMarched m.bytes then ib == 0 else ib % 4 == 0)

/-- The checks of R122 on a stream descriptor. -/
def State.streamOk (s : State) (c : Nat) (d : List Nat) : Bool :=
  let kind := bits (d.getD 0 0) 60 4
  let dest := bits (d.getD 0 0) 56 4
  let w6 := d.getD 6 0
  decide (kind ≤ 5) && decide (dest ≤ 8) && ((kind == 3) == (dest == 8)) &&
    ((List.range 4).all fun i => descCnt d i != 0) &&
    decide (1 ≤ descEwords d) && decide (descEwords d ≤ 32) &&
    decide (bits (d.getD 5 0) 60 4 ≤ 2) && bits (d.getD 5 0) 56 4 == 0 &&
    bits w6 16 48 == 0 && bits w6 7 8 == 0 && bits (d.getD 7 0) 56 8 == 0 &&
    (kind != 1 || decide (bits (d.getD 4 0) 0 32 < bits (d.getD 4 0) 32 32)) &&
    (kind != 4 || (descCnt d 1 == 1 && descCnt d 2 == 1 && descCnt d 3 == 1)) &&
    (kind != 5 || s.projOk c d)

/-- The words of a byte string. -/
def words64 (bs : List Byte) : List Nat := (List.range (bs.length / 8)).map fun i => leAt bs (8 * i) 8

/-- Whether a node runs or withholds a fault. -/
def Node.busy (x : Node) : Bool := x.state == 1 || x.state == 3

/-- Whether opening a node now is illegal (R312): it is busy; a store node is; another busy node has the same
queue DEST; or another node that is not closed has DEST 8, as it has. -/
def Core.openBad (k : Core) (n : Nat) (d : List Nat) : Bool :=
  let dest := bits (d.getD 0 0) 56 4
  (k.node n).busy ||
    k.nodes.any fun p => p.1 != n &&
      ((p.2.busy && descStore d && descStore p.2.desc) || (p.2.busy && p.2.dest == dest) ||
        (dest == 8 && p.2.state != 0 && p.2.dest == 8))

/-- A descriptor or parameter block of a unit form read as a plain load of the colour (R316, R184),
or the state in which the read has been dealt with. -/
def State.readBlock (s : State) (o : OpIn) (u : HUnit) (va n : Nat) : Except State (List Byte × State) :=
  match s.load o va n with
  | .error e => .error (s.accFail o u false o.f.first e)
  | .ok (bs, p, s1) => if p then .error (s.poisonTrap o va 5 o.f.left) else .ok (bs, s1)

/-- SOPEN (R312): the node runs from the descriptor at the left lane's local address. -/
def execSopen (h : OpWord) (node : BitVec 4) (s : State) : Host.Outcome State Fault Refusal :=
  carderOp s true fun o =>
    let a := o.value
    if s.earlier o then s.hold o .carder .earlier
    else if (lane0 o.f.left).poison then s.poisonTrap o a 1 o.f.left
    else if a % 64 ≠ 0 ∨ 0x200000 ≤ a then s.illegal o a 299
    else
      match s.readBlock o .carder a 64 with
      | .error t => t
      | .ok (bs, s1) =>
        let d := words64 bs
        if !s.streamOk o.c d then s.illegal o a 122
        else if (s.core o.c).openBad node.toNat d then s.illegal o node.toNat 312
        else if s.tagBadM o h then s.tagTrap o h.tg.toNat
        else
          let s2 := s1.modCore o.c fun k => k.modNode node.toNat fun _ =>
            { Node.zero with state := 1, desc := d, opener := o.colour }
          s2.finishM o h 0

/-- The number of a node's next element in its order (R123). -/
def Node.index (n : Node) : Nat :=
  let c := fun i => descCnt n.desc i
  ((n.i3 * c 2 + n.i2) * c 1 + n.i1) * c 0 + n.i0

/-- All the elements of a node. -/
def Node.total (n : Node) : Nat :=
  descCnt n.desc 0 * descCnt n.desc 1 * descCnt n.desc 2 * descCnt n.desc 3

/-- Elements a node has read or written since SOPEN. -/
def Node.visited (n : Node) : Nat := if n.state = 2 then n.total else n.index

/-- SCLOSE (R313): the node's fault is withdrawn, what it has not delivered is dropped, and the
number of elements delivered or written is the completion token's value. -/
def execSclose (h : OpWord) (node : BitVec 4) (s : State) : Host.Outcome State Fault Refusal :=
  carderOp s false fun o =>
    let k := s.core o.c
    let n := k.node node.toNat
    if s.earlier o then s.hold o .carder .earlier
    else if s.tagBadM o h then s.tagTrap o h.tg.toNat
    else if n.state = 0 then s.finishM o h 0
    else
      let rows := (k.matPath.filter fun p => p.1 == node.toNat).length
      let s1 := match n.fault with
        | some id => s.withdrawFault id
        | none => s
      let s2 := s1.modCore o.c fun k =>
        { k with nodes := aset k.nodes node.toNat Node.zero,
                 matPath := k.matPath.filter fun p => p.1 != node.toNat }
      s2.finishM o h (BitVec.ofNat 32 (n.visited - rows))

/-! ### Row gathers and scatters, coordinate walks (R314, R315) -/

/-- The descriptor of a row form: BASE, ROWBYTES and PITCH, or none where a field is bad (R314). -/
def rowDesc (bs : List Byte) : Option (Nat × Nat × Nat) :=
  let w0 := leAt bs 0 8
  let w1 := leAt bs 8 8
  let rb := bits w1 32 16
  if bits w0 56 8 = 0 ∧ bits w1 48 16 = 0 ∧ rb % 64 = 0 ∧ 64 ≤ rb ∧ rb ≤ 4096 then
    some (bits w0 0 56, rb, bits w1 0 32)
  else none

/-- The memory address of a row form's lane (R314). -/
def rowAddr (ar base pitch : Nat) (l r : Lane) : Nat :=
  (base + l.val.toNat * pitch + (if ar = 2 then r.val.toNat else 0)) % 2 ^ 56

/-- The lane index of a row (R295): 0 in a block without VEC. -/
def OpIn.rowIdx (o : OpIn) (j : Nat) : Nat := if o.m.vec then o.f.first + j else 0

/-- The rows of a row form: for each lane its memory address and its local address in the tile. -/
def OpIn.rows (o : OpIn) (ar base rb pitch rowoff tbase : Nat) : List (Nat × Nat) :=
  (List.range o.f.n).map fun j =>
    (rowAddr ar base pitch (o.f.left.getD j { val := 0, poison := false })
        (o.f.right.getD j { val := 0, poison := false }),
      tbase * 64 + (rowoff + o.rowIdx j) * rb)

/-- A lane of a row form that is bad: its row passes the tile, or its address is misaligned. -/
def OpIn.rowBad (o : OpIn) (rb rowoff len : Nat) (rows : List (Nat × Nat)) : Option (Nat × Nat) :=
  (List.zipIdx rows).findSome? fun p =>
    if len * 64 < (rowoff + o.rowIdx p.2 + 1) * rb ∨ p.1.1 % 4 ≠ 0 then some (p.2, p.1.1) else none

/-- The common part of GROWS and SCAT: the tile is looked at, the descriptor read and the rows
checked; `go` moves them. `state` is the tile state waited for. -/
def State.rowForm (s : State) (o : OpIn) (h : OpWord) (tile desc rowoff state : Nat)
    (go : State → Nat → List (Nat × Nat) → State) : State :=
  let t := (s.core o.c).tile tile
  if t.valid = false then s.illegal o tile 120
  else if anyPoison o.f.left || (h.ar == 2 && anyPoison o.f.right) then
    s.poisonTrap o 0 1 (if h.ar = 2 then orPoison o.f.left o.f.right else o.f.left)
  else if t.state ≠ state then s.hold o .carder (.tile tile)
  else
    match s.readBlock o .carder (desc * 64) 16 with
    | .error t => t
    | .ok (bs, s1) =>
      match rowDesc bs with
      | none => s.illegal o (desc * 64) 314
      | some (base, rb, pitch) =>
        let rows := o.rows h.ar.toNat base rb pitch rowoff t.base
        match o.rowBad rb rowoff t.len rows with
        | some (j, a) => s.illegalAt o a 314 (o.f.first + j)
        | none => if s.tagBadM o h then s.tagTrap o h.tg.toNat else go s1 rb rows

/-- The reads of a row form, lane by lane: each row's bytes with their poison. -/
def State.readRows (s0 : State) (o : OpIn) (rb : Nat) :
    Nat → List Nat → State → Except State (List (List PByte) × State)
  | _, [], s => .ok ([], s)
  | j, va :: rest, s =>
    match s.loadP o va rb with
    | .error e => .error (s0.accFail o .carder false j e)
    | .ok (bs, s1) =>
      match s0.readRows o rb (j + 1) rest s1 with
      | .error t => .error t
      | .ok (r, s2) => .ok (bs :: r, s2)

/-- Rows written at once into a tile by an operation that is a counted writer, each checked first (R314,
R366). -/
def State.writeRows (s0 : State) (o : OpIn) : Nat → List (Nat × List PByte) → State → Except State State
  | _, [], s => .ok s
  | j, (va, bs) :: rest, s =>
    match s.writeAccess o true va bs.length with
    | .error e => .error (s0.accFail o .carder true j e)
    | .ok ts => s0.writeRows o (j + 1) rest (s.writeNow o true va ts bs)

/-- GROWS (R314): rows copied into a filling tile before the completion token. -/
def execGrows (h : OpWord) (tile : BitVec 8) (desc rowoff : BitVec 12) (s : State) :
    Host.Outcome State Fault Refusal :=
  carderOp s true fun o =>
    s.rowForm o h tile.toNat desc.toNat rowoff.toNat 1 fun s1 rb rows =>
      match s.readRows o rb o.f.first (rows.map fun p => p.1) s1 with
      | .error t => t
      | .ok (data, s2) =>
        match s.writeRows o o.f.first (List.zipWith (fun (p : Nat × Nat) d => (p.2, d)) rows data) s2 with
        | .error t => t
        | .ok s3 => s3.finishM o h 0

/-- Rows to be stored, as pieces at their places. -/
def rowSegs (data : List (List PByte)) (l : List (Nat × List (Target × Nat))) : List (List (Target × Seg)) :=
  List.zipWith (fun d (p : Nat × List (Target × Nat)) => List.zip (p.2.map fun t => t.1) (segsP p.2 d)) data l

/-- SCAT (R314): rows of a ready tile, stored at the instance's commit. -/
def execScat (h : OpWord) (tile : BitVec 8) (desc rowoff : BitVec 12) (s : State) :
    Host.Outcome State Fault Refusal :=
  carderOp s true fun o =>
    if o.overCount then s.illegal o o.value 100
    else s.rowForm o h tile.toNat desc.toNat rowoff.toNat 2 fun s1 rb rows =>
      let s2 := s1.acquireAll (s1.agent o.c o.colour) ((s1.core o.c).tile tile.toNat).rels
      match s.readRows o rb o.f.first (rows.map fun p => p.2) s2 with
      | .error t => t
      | .ok (data, s3) =>
        match s.storeLanes o rb o.f.first (rows.map fun p => p.1) with
        | .error t => t
        | .ok l =>
          let gs := rowSegs data l
          let out := gs.map fun r => ({ val := 0, poison := r.any fun g => g.1.t3 && g.2.poison } : Lane)
          if anyPoison out then s.poisonTrap o (poisonAddr out (l.map fun p => p.1)) 8 out
          else
            let segs := gs.flatten.map fun g => g.2
            ((s3.noteStores o l).atCommit o (.store o.f.slot segs)).finishM o h 0

/-- CWALK (R315): coordinate pairs; T0 takes the rows and T1 the columns. -/
def execCwalk (h : OpWord) (first cnt : BitVec 5) (s : State) : Host.Outcome State Fault Refusal :=
  carderOp s true fun o =>
    let a := o.value
    let n := cnt.toNat + 1
    if (lane0 o.f.left).poison then s.poisonTrap o a 1 o.f.left
    else if !o.m.vec && (first != 0 || n != 1) then s.illegal o n 315
    else if a % 4 ≠ 0 ∨ 0x200000 < a + 4 * n then s.illegal o a 315
    else
      match s.loadLanes o 4 (ldExtend .w32) o.f.first ((List.range n).map fun j => a + 4 * j) s with
      | .error t => t
      | .ok (ls, s1) =>
        let run := fun (g : Nat → Nat) => ({ first := first.toNat,
                                             lanes := lanes1 (fun x => BitVec.ofNat 32 (g x.toNat)) ls } : Run)
        let r0 := run fun x => x % 65536
        let r1 := run fun x => x / 65536
        if s1.tagBad o h.tg.toNat r0 then s.tagTrap o h.tg.toNat else s1.finish o h true r0 r1

end Sys2Proof.Machine
end

