-- ==== Sys2Proof/Machine/Seq.lean ====
section
/-! DEFINITION. Sequencer instructions (R254 to R271): branches and calls, colours, tags, registers
and queue ports, Arbour arrival, Shuttle stages and bobbins, the supervisor, and the core control
registers. -/

namespace Sys2Proof.Machine

open Sys2Proof

/-! ### Branches and their tags (R256 to R259) -/

/-- The block that a displacement of `w` bits names from a block (R256). -/
def blockDisp (pc w d : Nat) : Nat := wrap 56 ((pc : Int) + 64 * sval w d)

/-- The block that a token value names (R256). -/
def blkaddr (pc v : Nat) : Nat := (pc / 2 ^ 38 * 2 ^ 38 + v * 64) % 2 ^ 56

/-- A tag as it identifies an instance of a block (R93). -/
def normTag (vec : Bool) (t : Tag) : Tag := if vec then t.setInner (t.inner / 32 * 32) else t

/-- The tag of an operation's firing operand (R257): the one a TAGENTER or TAGLEAVE gave it, or the
instance's at the run's base iteration. -/
def OpIn.operandTag (o : OpIn) : Tag :=
  match o.f.opTag with
  | some t => t
  | none => o.i.tag.setInner (baseOf o.m.vec o.i.tag o.f.first)

/-- A successor named (R257): it becomes pending. A colour-0 branch to the handler block names none
(R361), nor does a colour whose SRET has committed (R261). -/
def Core.nameSuccessor (k : Core) (colour block : Nat) (t : Tag) : Core :=
  let ended := match k.colour? colour with
    | some c => c.sret
    | none => true
  if ended || (colour == 0 && block == k.regs.handlerBlock) then k
  else
    let t1 := match k.mapping? block with
      | some m => normTag m.vec t
      | none => t
    (k.nameInstance t1 block false).1

/-- The instance's one branch (R100): the first matched set of its slot acts, by naming the
successor and by what `act` does; the other sets of its window in a block with VEC only retire (R95); a second
branch, of this slot or another, is illegal. -/
def State.asBranch (s : State) (o : OpIn) (h : OpWord) (next : Option Nat) (act : State → State) :
    State :=
  match o.i.branch with
  | some (slot, _) => if slot = o.f.slot && o.m.vec then s.finishN o h else s.illegal o o.value 100
  | none =>
    if o.overCount then s.illegal o o.value 100
    else
      let t := o.operandTag
      match tagStep ((s.core o.c).shape o.colour) h.tg.toNat t t.inner 1 with
      | none => s.tagTrap o h.tg.toNat
      | some (t1, _) =>
        let s1 := (act s).modCore o.c fun k =>
          let k1 := match next with
            | some b => k.nameSuccessor o.colour b t1
            | none => k
          k1.modInst o.f.iid fun i => { i with branch := some (o.f.slot, t) }
        s1.finishN o h

/-- BRA (R258). -/
def execBra (h : OpWord) (d : BitVec 32) (s : State) : Host.Outcome State Fault Refusal :=
  runOp s fun o =>
    if h.ar = 0 then s.asBranch o h (some (blockDisp o.i.block 32 d.toNat)) id
    else if (lane0 o.f.left).poison then s.poisonTrap o 0 2 o.f.left
    else
      let x := if (lane0 o.f.left).val ≠ 0 then bits d.toNat 16 16 else bits d.toNat 0 16
      s.asBranch o h (some (blockDisp o.i.block 16 x)) id

/-- BRI (R258). -/
def execBri (h : OpWord) (s : State) : Host.Outcome State Fault Refusal :=
  runOp s fun o =>
    if (lane0 o.f.left).poison then s.poisonTrap o 0 2 o.f.left
    else s.asBranch o h (some (blkaddr o.i.block o.value)) id

/-- The issuing colour's record. -/
def State.colourOf (s : State) (o : OpIn) : Colour :=
  ((s.core o.c).colour? o.colour).getD (Colour.blank o.colour 0)

/-- A plain 8-byte access of a call stack (R259). -/
def State.stackAccess (s : State) (o : OpIn) (use : Use) (va : Nat) :
    Except AccErr (List (Target × Nat)) := s.access o use va 8

/-- CALLB (R259): the return address is stored and CR_CSTACK moves at commit. -/
def execCallb (h : OpWord) (dc dr : BitVec 16) (s : State) : Host.Outcome State Fault Refusal :=
  runOp s fun o =>
    if h.ar = 1 && (lane0 o.f.left).poison then s.poisonTrap o 0 2 o.f.left
    else
      let callee := if h.ar = 0 then blockDisp o.i.block 16 dc.toNat else blkaddr o.i.block o.value
      let col := s.colourOf o
      if col.top = 0 ∨ col.depth = 255 then s.illegal o (col.depth * 2 ^ 56 + col.top) 259
      else if s.hasArrived o.c then s.hold o .sequencer .step
      else
        match s.stackAccess o .write col.top with
        | .error e => s.accTrap o true e
        | .ok ts =>
          let ret := blockDisp o.i.block 16 dr.toNat
          let loc := match ts with
            | t :: _ => t.1.loc
            | [] => .phys 0
          s.asBranch o h (some callee) fun s =>
            (s.noteAccess o .write col.top ts).atCommit o (.push o.f.slot col.top loc ret)

/-- RETB (R259): the return address is read when RETB fires, after every earlier instance of the
colour has committed. -/
def execRetb (h : OpWord) (s : State) : Host.Outcome State Fault Refusal :=
  runOp s fun o =>
    if s.earlier o then s.hold o .sequencer .earlier
    else if s.hasArrived o.c then s.hold o .sequencer .step
    else
      let col := s.colourOf o
      if col.depth = 0 then s.illegal o (col.depth * 2 ^ 56 + col.top) 259
      else
        let va := wrap 56 ((col.top : Int) - 8)
        match s.load o va 8 with
        | .error e => s.accTrap o false e
        | .ok (bs, poison, s1) =>
          if poison then s.poisonTrap o va 2 [{ val := 0, poison := true }]
          else s1.asBranch o h (some (ofBytes bs % 2 ^ 56)) fun s => s.atCommit o .pop

/-! ### Colours (R260, R261, R69, R70) -/

/-- Header word 0 of a block meets the checks of R87 that it alone decides. -/
def headerOk (w : Nat) : Bool :=
  bits w 30 2 != 3 && decide (1 ≤ bits w 20 7) && decide (bits w 20 7 ≤ 120) &&
    decide (bits w 20 7 ≤ bits w 12 8) && decide (bits w 12 8 ≤ 128) &&
    decide (1 ≤ bits w 4 8) && decide (bits w 4 8 ≤ 128) && decide (bits w 0 4 ≤ 8) &&
    (bits w 0 4 == 0 || bit w 27)

/-- The four bytes of a block's header word 0 as the sequencer fetches them, or why it cannot. -/
def State.fetchHeader (s : State) (o : OpIn) (block : Nat) : Except AccErr Nat :=
  match s.resolveRange o.c .fetch block 4 with
  | .error (.translation, a) => .error (.translation a)
  | .error (.protection, a) => .error (.protection a)
  | .ok ts => .ok (ofBytes (ts.flatMap fun t => s.readLoc t.1.loc t.2))

/-- SPAWN (R260): the request for a grant, once every earlier instance of the colour has
committed. SPAWN_GRANT grants it. -/
def execSpawn (h : OpWord) (ds : BitVec 16) (s : State) : Host.Outcome State Fault Refusal :=
  runOp s fun o =>
    let block := blockDisp o.i.block 16 ds.toNat
    if s.earlier o then s.hold o .sequencer .earlier
    else
      match s.fetchHeader o block with
      | .error e => s.accTrap o false e
      | .ok w =>
        if !headerOk w || !bit w 27 then s.illegal o block 260
        else if o.f.n ≠ max (bits w 0 4) 1 then s.illegal o o.f.n 260
        else if s.tagBad o h.tg.toNat (single o.f.first 0) then s.tagTrap o h.tg.toNat
        else s.hold o .sequencer (.grant (bits w 0 4))

/-- The run of a spawned colour's arguments: lane `i` goes to slot `i`, left position. -/
def argTokens (iid : Nat) : Nat → List Lane → List Token
  | _, [] => []
  | i, l :: ls =>
    { iid := iid, src := 0, slot := i, pos := 1, run := { first := 0, lanes := [l] }, opTag := none,
      acq := none } :: argTokens iid (i + 1) ls

/-- The lowest-numbered free colour that a grant takes, or none where the pool is empty (R70). -/
def Core.freeColour (k : Core) : Option Nat :=
  if k.regs.colLimit + 2 ≤ k.colours.length then none
  else (List.range 1022).map (fun i => i + 2) |>.find? fun c => (k.colour? c).isNone

/-- The operation word of the slot an operation fires from. -/
def OpIn.head (o : OpIn) : OpWord := opWord (o.m.word o.f.slot)

/-- A SPAWN request granted, or sent the fail tokens where the pool is empty (R70, R260). A granted
SPAWN stays outstanding until its return token. -/
def State.grantSpawn (s : State) (o : OpIn) (h : OpWord) (ds : BitVec 16) (narg : Nat) : State :=
  match (s.core o.c).freeColour with
  | none => s.finish o h false (single o.f.first 1) (single o.f.first 0)
  | some c =>
    let col := s.colourOf o
    let new := { Colour.blank c col.prio with allot := col.allot }
    let block := blockDisp o.i.block 16 ds.toNat
    let s1 := s.modCore o.c fun k =>
      let r := { k with colours := k.colours ++ [new] }.nameInstance { colour := c, fields := [] } block false
      let k1 := (argTokens r.2 0 (o.f.left.take narg)).foldl Core.sendToken r.1
      k1.sendTo o h.tg.toNat false (single o.f.first 0)
    (s1.handOver (s1.agent o.c o.colour) (s1.agent o.c c)).hold o .sequencer (.spawned c)

/-- The first waiting request of a core that meets a test, with its place. -/
def Core.heldWhere (k : Core) (p : Held → Bool) : Option (Nat × Held) := findIdx? p k.held 0

/-- The state with a waiting request taken out, ready to be performed. -/
def State.takeHeld (s : State) (c n : Nat) : State := s.modCore c fun k => { k with held := delAt k.held n }

/-- What ends the wait of a waiting request (R190): it completes with a value at once; that of a parked instance is
delivered with the tokens that ERET reinjects. `fin` is the end of its operation. -/
def State.completeAt (s : State) (c n : Nat) (hd : Held) (v : Word) (fin : State → OpIn → State) : State :=
  let s1 := s.takeHeld c n
  match s1.opIn c hd.firing with
  | none => s1
  | some o =>
    if o.i.status == .parked then
      s1.modCore c fun k => k.modInst o.f.iid fun i =>
        { i with parkedSets := i.parkedSets ++ [{ hd.firing with answered := some v, heldAt := none }] }
    else if o.nodeOver then s1.illegal o o.value 100
    else fin s1 o

/-- SPAWN_GRANT (R70): the sequencer answers the first SPAWN request that waits for a grant. -/
def execSpawnGrant (core : Nat) (s : State) : Host.Outcome State Fault Refusal :=
  match (s.core core).heldWhere fun h => match h.wait with
    | .grant _ => true
    | _ => false with
  | none => .next s
  | some (n, hd) =>
    match hd.wait, s.opIn core hd.firing with
    | .grant narg, some o =>
      match o.m.instr? o.f.slot with
      | some (.spawn h ds) =>
        .next ((s.takeHeld core n).grantSpawn { o with f := { o.f with heldAt := some n } } h ds narg)
      | _ => .next s
    | _, _ => .next s

/-- SRET (R261): the return token and the release of the colour follow at commit. -/
def execSret (h : OpWord) (s : State) : Host.Outcome State Fault Refusal :=
  runOp s fun o =>
    if o.colour < 2 then s.illegal o o.colour 261
    else s.asBranch o h none fun s => s.atCommit o (.sret (o.f.run o.f.left))

/-- COLOUR_RELEASE (R70, R261): a colour marked by SRET becomes free once none of its instances is
admitted or parked and none of its tokens remains; its pending instances are discarded. -/
def execColourRelease (core colour : Nat) (s : State) : Host.Outcome State Fault Refusal :=
  let k := s.core core
  let mine := fun (iid : Nat) => match k.inst? iid with
    | some i => i.tag.colour == colour
    | none => false
  let marked := match k.colour? colour with
    | some c => c.sret
    | none => false
  if marked && !(k.instances.any fun i => i.tag.colour == colour && i.status != .pending) &&
      !(k.inflight.any fun t => mine t.iid) && !(k.held.any fun h => mine h.firing.iid) then
    .next (s.setCore core { k with
      colours := k.colours.filter fun c => c.id != colour,
      instances := k.instances.filter fun i => i.tag.colour != colour })
  else .next s

/-! ### Tags (R262, R90) -/

/-- The lanes of a TAGENTER or TAGLEAVE sent at their new tag: within a block without RES the token
stays in the producing instance and keeps the tag for its branch (R257); in a resident block it
goes to the instance of that tag (R92). -/
def State.sendTagged (s : State) (o : OpIn) (t : Tag) (base : Nat) : State :=
  let r := o.f.run o.f.left
  let s1 := s.modCore o.c fun k =>
    if o.m.res then
      (splitRun o.m.vec t base r.lanes).foldl
        (fun k p => (k.sendPiece o false p none).sendPiece o true p none) k
    else (k.sendPiece o false (o.i.tag, r) (some t)).sendPiece o true (o.i.tag, r) (some t)
  s1.retireOp o

/-- A tag-overflow trap of a TAGENTER or TAGLEAVE: DETAIL the width or the TG (R190). -/
def State.overflowTrap (s : State) (o : OpIn) (detail : Nat) : State :=
  s.trapOp o 5 (o.operandTag.encode ((s.core o.c).shape o.colour)) detail 0 o.f.first

/-- The widths of a colour with one level's recorded (R90). -/
def recordWidth (shape : List Nat) (level w : Nat) : List Nat :=
  shape.take level ++ w :: shape.drop (level + 1)

/-- The tags that tokens of an instance keep for its branch (R257): waiting, or in a withdrawn set. -/
def Instance.keptTags (i : Instance) : List Tag :=
  i.ops.filterMap (fun o => o.leftTag) ++ i.parkedSets.filterMap fun f => f.opTag

/-- Whether a token or an uncommitted instance of a colour stands deeper than `d` (R90). -/
def Core.depthInUse (k : Core) (colour d : Nat) : Bool :=
  let mine := fun (iid : Nat) => (k.inst? iid).any fun i => i.tag.colour == colour
  let deep := fun (t : Tag) => decide (d < t.depth)
  (k.instances.any fun i => i.tag.colour == colour && (deep i.tag || i.keptTags.any deep)) ||
    (k.inflight.any fun t => mine t.iid && t.opTag.any deep) ||
    (k.issueQ.any fun f => mine f.iid && f.opTag.any deep) ||
    k.held.any fun h => mine h.firing.iid && h.firing.opTag.any deep

/-- TAGENTER (R262). -/
def execTagenter (h : OpWord) (width : BitVec 5) (s : State) : Host.Outcome State Fault Refusal :=
  runOp s fun o =>
    let k := s.core o.c
    let shape := k.shape o.colour
    let w := width.toNat + 1
    let t := o.operandTag
    let d := t.depth
    if 12 ≤ d ∨ 50 < (shape.take d).foldl (fun a b => a + b) 0 + w ∨
        (0 < d ∧ fieldTop (shape.getD (d - 1) 1) < t.inner + 1) ∨ fieldTop w < o.f.n - 1 then
      s.overflowTrap o w
    else
      let inUse := k.depthInUse o.colour d
      match shape[d]? with
      | some w' =>
        if w' ≠ w ∧ inUse then s.illegal o w 90 else go s o shape w t
      | none => go s o shape w t
where
  go (s : State) (o : OpIn) (shape : List Nat) (w : Nat) (t : Tag) : State :=
    let d := t.depth
    let shape1 := recordWidth shape d w
    let t1 : Tag := { t.setInner (t.inner + 1) with fields := (t.setInner (t.inner + 1)).fields ++ [0] }
    match tagStep shape1 h.tg.toNat t1 0 o.f.n with
    | none => s.overflowTrap o h.tg.toNat
    | some (t2, base) =>
      (s.modCore o.c fun k => k.modColour o.colour fun c => { c with shape := shape1 }).sendTagged o t2 base

/-- TAGLEAVE (R262). -/
def execTagleave (h : OpWord) (s : State) : Host.Outcome State Fault Refusal :=
  runOp s fun o =>
    let shape := (s.core o.c).shape o.colour
    let t := o.operandTag
    match tagStep shape 3 t t.inner o.f.n with
    | none => s.overflowTrap o 3
    | some (t1, base) =>
      match tagStep shape h.tg.toNat t1 base o.f.n with
      | none => s.overflowTrap o h.tg.toNat
      | some (t2, base2) => s.sendTagged o t2 base2

/-! ### Registers and queues (R102, R103, R263) -/

/-- Whether a READ of a register number must wait (R102): an earlier uncommitted instance of the
colour may still write it. -/
def Core.regBusy (k : Core) (i : Instance) (reg : Nat) : Bool :=
  k.instances.any fun j => j.before i &&
    (match k.mapping? j.block with
     | some m => bit m.wmask reg
     | none => true)

/-- The queue a register number names for an instance (R103). -/
def Instance.queuePort (i : Instance) (reg : Nat) : Option Nat :=
  if i.portmode && decide (24 ≤ reg) then some (reg - 24) else none

/-- The bytes of a queue entry in its spill area or an image (R127). -/
def QEntry.bytes (e : QEntry) : List Byte :=
  let mask := fun (ps : List Bool) =>
    ((List.range ps.length).map fun j => b2n (ps.getD j false) * 2 ^ j).foldl (fun a b => a + b) 0
  (e.lanes.flatMap fun l => toBytes 4 l.val.toNat) ++ List.replicate (128 - 4 * e.lanes.length) 0 ++
    toBytes 4 (mask (e.lanes.map fun l => l.poison)) ++ toBytes 4 (mask e.preds) ++
    toBytes 4 e.lanes.length ++ List.replicate 116 0

/-- The queue entry that 256 bytes hold (R127). -/
def QEntry.ofBytes (bs : List Byte) : QEntry :=
  let n := min (leAt bs 136 4) 32
  { lanes := (List.range n).map fun j =>
      { val := BitVec.ofNat 32 (leAt bs (4 * j) 4), poison := bit (leAt bs 128 4) j },
    preds := (List.range n).map fun j => bit (leAt bs 132 4) j,
    rel := none, src := none }

/-- The entries a spill area has room for (R127). -/
def Queue.spillRoom (q : Queue) : Nat := q.size * 256

/-- The virtual address of a spilled entry. -/
def Queue.spillAddr (q : Queue) (i : Nat) : Nat :=
  wrapVa (q.base * 4096 + 256 * (i % q.spillRoom))

/-- Where the device's own access of 256 spill bytes goes. -/
def State.spillPlace (s : State) (c : Nat) (use : Use) (va : Nat) : Except (XFault × Nat) (List (Target × Nat)) :=
  s.resolveRange c use va 256

/-- A spilled entry read at its place (R127): a lane is poisoned where its line is, and every lane where the line
of the masks and the length is (R141). -/
def State.readSpilled (s : State) (ts : List (Target × Nat)) (tag : Option (Agent × Nat) × Option Nat) : QEntry :=
  let bs := ts.flatMap fun t => (s.readLoc t.1.loc t.2).map fun b => (b, s.poisoned t.1.loc)
  let bad := fun (i : Nat) => (bs.getD i (0, false)).2
  let e := QEntry.ofBytes (bs.map fun b => b.1)
  { e with lanes := (List.zipIdx e.lanes).map fun p =>
             { p.1 with poison := p.1.poison || bad (4 * p.2) || bad 128 },
           rel := tag.1, src := tag.2 }

/-- The oldest spilled entry brought into the on-chip buffer where it has room (R127). A read that
faults leaves the entry where it is, and is the second component. -/
def State.unspill (s : State) (c q : Nat) : State × Option (XFault × Nat) :=
  let qu := (s.core c).queue q
  if qu.spillCount = 0 ∨ 32 ≤ qu.entries.length then (s, none)
  else
    match s.spillPlace c .read (qu.spillAddr qu.spillHead) with
    | .error e => (s, some e)
    | .ok ts =>
      let e := s.readSpilled ts (qu.spilled.headD (none, none))
      (s.modCore c fun k => k.modQueue q fun x =>
        { x with entries := x.entries ++ [e], spillHead := (x.spillHead + 1) % x.spillRoom,
                 spillCount := x.spillCount - 1, spilled := x.spilled.drop 1 }, none)

/-- Whether a queue takes a push: on chip, or in its spill area (R127, R128). -/
def Queue.hasRoom (q : Queue) : Bool :=
  !q.spfault && ((q.spillCount == 0 && decide (q.entries.length < 32)) ||
    decide (q.spillCount < q.spillRoom))

/-- An entry pushed to a queue that has room; or the fault of a spill write, with its address
(R127, R128). -/
def State.pushQueue (s : State) (c q : Nat) (e : QEntry) : Except (XFault × Nat) State :=
  let qu := (s.core c).queue q
  if qu.spillCount = 0 ∧ qu.entries.length < 32 then
    .ok (s.modCore c fun k => k.modQueue q fun x => { x with entries := x.entries ++ [e] })
  else
    match s.spillPlace c .write (qu.spillAddr (qu.spillHead + qu.spillCount)) with
    | .error x => .error x
    | .ok ts =>
      let s1 := (segsOf ts e.bytes false).foldl (fun s g => s.performWrite none g) s
      .ok (s1.modCore c fun k => k.modQueue q fun x =>
        { x with spillCount := x.spillCount + 1, spilled := x.spilled ++ [(e.rel, e.src)] })

/-- The node of a core whose next element, bad, is what a queue's consumer asks for (R125). -/
def Core.badNode (k : Core) (q : Nat) : Option (Nat × Trap) :=
  k.nodes.findSome? fun p =>
    if p.2.dest == q || (p.2.kind == 4 && (p.2.dest + 1) % 8 == q) then p.2.badElem.map fun t => (p.1, t)
    else none

/-- An element taken from its node by a consumer: AHEAD falls (R126). -/
def Core.taken (k : Core) (n : Option Nat) : Core :=
  match n with
  | some i => k.modNode i fun x => { x with ahead := x.ahead - 1 }
  | none => k

/-- The trap of an element that faulted, taken by the instance that asks for it (R125, R185): the node withholds
the element until the trap is answered; a protection fault posts its record. -/
def State.takeBad (s : State) (o : OpIn) (n : Nat) (t : Trap) : State :=
  let s1 := s.modCore o.c fun k => k.modNode n fun x => { x with badElem := none, state := 3, fault := some trapHeld }
  let s2 := if t.cause = 7 then
      s1.postRec { s1.coreRec o.c 2 with
        node := n, address := t.addr, count0 := t.aux % 2 ^ 32, count1 := t.aux / 2 ^ 32 % 2 ^ 32 }
    else s1
  s2.raise o.c { Trap.ofOp (s2.core o.c) o.i o.f t.cause t.addr t.detail (if t.cause = 7 then 0 else t.aux)
    o.f.first with src := .node n }

/-- Whether an operation that fired earlier waits for an entry of a queue: pops come in the order of firing
(R103). -/
def State.queueBehind (s : State) (o : OpIn) (q : Nat) : Bool :=
  (s.heldBefore o).any fun h => h.wait == .queue q

/-- The fault of a spilled entry's read as the error of an access. -/
def spillErr : XFault × Nat → AccErr
  | (.translation, a) => .translation a
  | (.protection, a) => .protection a

/-- A queue popped by an operation (R103): the entry's lanes are its result. An empty queue waits; or, where a
node's next element there faulted, the operation takes the trap (R125, R185), as it does that of the read of a
spilled entry. -/
def State.popQueue (s : State) (o : OpIn) (h : OpWord) (q : Nat) : State :=
  if s.queueBehind o q then s.hold o .sequencer (.queue q)
  else
    let u := if ((s.core o.c).queue q).entries.isEmpty then s.unspill o.c q else (s, none)
    match ((u.1.core o.c).queue q).entries, u.2 with
    | [], some e => s.accTrap o false (spillErr e)
    | [], none =>
      match (s.core o.c).badNode q with
      | some (n, t) => s.takeBad o n t
      | none => s.hold o .sequencer (.queue q)
    | e :: rest, _ =>
      let run := o.f.run e.lanes
      if u.1.tagBad o h.tg.toNat run then s.tagTrap o h.tg.toNat
      else
        let s1 := u.1.modCore o.c fun k => (k.modQueue q fun x => { x with entries := rest }).taken e.src
        let s2 := match e.rel with
          | some (a, n) => s1.raiseAcq (s1.agent o.c o.colour) a n
          | none => s1
        (s2.unspill o.c q).1.finish o h true run run

/-- READ (R263): a scalar register as the instances before have left it, or the head of a queue. -/
def execRead (h : OpWord) (reg : BitVec 5) (s : State) : Host.Outcome State Fault Refusal :=
  runOp s fun o =>
    let k := s.core o.c
    if k.regBusy o.i reg.toNat then s.hold o .sequencer .register
    else
      match o.i.queuePort reg.toNat with
      | some q => s.popQueue o h q
      | none =>
        let l := (s.colourOf o).regs.getD reg.toNat { val := 0, poison := false }
        s.finish o h true { first := o.f.first, lanes := [l] } { first := o.f.first, lanes := [l] }

/-- WRITE (R263): the register or queue changes at commit. -/
def execWrite (h : OpWord) (reg : BitVec 5) (s : State) : Host.Outcome State Fault Refusal :=
  runOp s fun o =>
    if o.f.n ≠ 1 then s.illegal o o.f.n 263
    else if !bit o.m.wmask reg.toNat then s.illegal o reg.toNat 100
    else if o.overCount then s.illegal o o.value 100
    else
      let e := match o.i.queuePort reg.toNat with
        | some q => .pushQueue o.f.slot q (lane0 o.f.left)
        | none => .writeReg reg.toNat (lane0 o.f.left)
      (s.atCommit o e).finishN o h

/-- The lanes of a register's value (R263). -/
def srRun (n v : Nat) : List Lane :=
  (List.range (srLanes n)).map fun j => { val := BitVec.ofNat 32 (bits v (32 * j) 32), poison := false }

/-- MFSR (R263), after every earlier instance of the colour has committed. -/
def execMfsr (h : OpWord) (num : BitVec 16) (s : State) : Host.Outcome State Fault Refusal :=
  runOp s fun o =>
    if s.earlier o then s.hold o .sequencer .earlier
    else
      let v := (s.core o.c).readSr s.scopes o.colour o.i.tag.depth num.toNat
      let r := o.f.run (srRun num.toNat v)
      s.finish o h true r r

/-- MTSR (R263, R264): the register changes at commit. -/
def execMtsr (h : OpWord) (num : BitVec 16) (s : State) : Host.Outcome State Fault Refusal :=
  runOp s fun o =>
    if o.f.n ≠ srLanes num.toNat then s.illegal o o.f.n 263
    else if anyPoison o.f.left then s.poisonTrap o 0 4 o.f.left
    else if o.colour ≠ 0 && srColour0 num.toNat then s.trapOp o 7 num.toNat 0x13 0 o.f.first
    else if o.overCount then s.illegal o o.value 100
    else
      let v := o.value + (o.f.left.getD 1 { val := 0, poison := false }).val.toNat * 2 ^ 32
      (s.atCommit o (.mtsr o.f.slot num.toNat v)).finishN o h

/-! ### Steps, joins and repetition (R265, R266) -/

/-- PHASE (R265): the request to arrive at the Arbour. ARBOUR_ARRIVAL performs the arrival. A close that came
while its instance was parked completes it (R190). -/
def execPhase (h : OpWord) (s : State) : Host.Outcome State Fault Refusal :=
  runOp s fun o =>
    match o.f.answered with
    | some v => s.finishC o h v
    | none =>
      if s.tagBad o h.tg.toNat (single o.f.first 0) then s.tagTrap o h.tg.toNat
      else s.hold o .sequencer .phase

/-- JOIN (R265): the left lanes, poisoned by either operand. -/
def execJoin (h : OpWord) (s : State) : Host.Outcome State Fault Refusal :=
  elem2 h (fun a _ => a) s

/-- REP (R266, R237): the prefix of the next slot, whose matched sets carry the repetition; by
itself it only retires. -/
def execRep (h : OpWord) (_n : BitVec 8) (_stride : BitVec 4) (s : State) :
    Host.Outcome State Fault Refusal :=
  runOp s fun o => s.finishN o h

/-! ### Shuttle stages and bobbins (R267, R268, R133) -/

/-- SHADV (R267). -/
def execShadv (h : OpWord) (s : State) : Host.Outcome State Fault Refusal :=
  runOp s fun o =>
    if s.releaseWaits o then s.hold o .sequencer .earlier
    else if s.tagBad o h.tg.toNat (single o.f.first 0) then s.tagTrap o h.tg.toNat
    else
      let n := ((s.core o.c).regs.shadv + 1) % 2 ^ 32
      let s1 := s.modCore o.c fun k => { k with regs := { k.regs with shadv := n } }
      (s1.handOver (s1.agent o.c o.colour) (s1.agent o.c shuttleAgent)).finishC o h (BitVec.ofNat 32 n)

/-- Filled slots of a bobbin not yet released: WP - RP, modulo 2^16 (R132). -/
def Bobbin.avail (b : Bobbin) : Nat := (b.wp + 65536 - b.rp % 65536) % 65536

/-- BOBINIT (R268). -/
def execBobinit (h : OpWord) (slots : BitVec 8) (bob : BitVec 4) (s : State) :
    Host.Outcome State Fault Refusal :=
  runOp s fun o =>
    if 0 < ((s.core o.c).bob bob.toNat).infl then s.illegal o bob.toNat 268
    else if s.tagBad o h.tg.toNat (single o.f.first 0) then s.tagTrap o h.tg.toNat
    else
      let s1 := s.modCore o.c fun k => k.modBob bob.toNat fun _ => { Bobbin.zero with slots := slots.toNat }
      s1.finishC o h 0

/-- BOBWAIT (R268, R133): an acquire of the completions counted (R177). -/
def execBobwait (h : OpWord) (n : BitVec 8) (bob : BitVec 4) (s : State) :
    Host.Outcome State Fault Refusal :=
  runOp s fun o =>
    let b := (s.core o.c).bob bob.toNat
    if b.avail ≤ n.toNat then s.hold o .sequencer (.bobbin bob.toNat)
    else
      let s1 := b.filled.foldl (fun s p => s.raiseAcq (s.agent o.c o.colour) p.1 p.2) s
      s1.finishC o h (BitVec.ofNat 32 (b.avail + b2n b.poison * 2 ^ 16 + b2n b.err * 2 ^ 17))

/-- BOBREL (R268, R133): a release towards the bobbin's producer (R177). -/
def execBobrel (h : OpWord) (count : BitVec 8) (bob : BitVec 4) (s : State) :
    Host.Outcome State Fault Refusal :=
  runOp s fun o =>
    if s.releaseWaits o then s.hold o .sequencer .earlier
    else
      let b := (s.core o.c).bob bob.toNat
      if b.avail < count.toNat then s.illegal o count.toNat 268
      else if s.tagBad o h.tg.toNat (single o.f.first 0) then s.tagTrap o h.tg.toNat
      else
        let a := s.agent o.c o.colour
        let r := s.raiseEpoch a
        let rp := (b.rp + count.toNat) % 65536
        let s1 := r.1.modCore o.c fun k => k.modBob bob.toNat fun x =>
          { x with rp := rp, freed := x.freed ++ [(rp, a, r.2)] }
        s1.finishC o h 0

/-! ### The supervisor (R269 to R271) -/

/-- SYSCALL (R269): it traps; a RESUME answers it with RESULT. -/
def execSyscall (h : OpWord) (code : BitVec 16) (s : State) : Host.Outcome State Fault Refusal :=
  runOp s fun o =>
    match o.f.answered with
    | some v => s.finish o h true (single o.f.first v) (single o.f.first v)
    | none => s.trapOp o 0x10 0 (code.toNat * 2 ^ 32 + o.value) 0 o.f.first

/-- BREAK (R269): it traps; a RESUME completes it. -/
def execBrk (h : OpWord) (code : BitVec 16) (s : State) : Host.Outcome State Fault Refusal :=
  runOp s fun o =>
    match o.f.answered with
    | some _ => s.finishC o h 0
    | none =>
      let v := if h.ar = 0 then 0 else o.value
      s.trapOp o 0x11 0 0 (code.toNat + v * 2 ^ 32) o.f.first

/-- TRAPIF (R269): it traps where lane 0 of the right run is not zero, and otherwise passes its
left run. -/
def execTrapif (h : OpWord) (s : State) : Host.Outcome State Fault Refusal :=
  runOp s fun o =>
    let r := o.f.run o.f.left
    if o.f.answered.isSome then s.finish o h true r r
    else if (lane0 o.f.right).poison then s.poisonTrap o 0 2 o.f.right
    else if (lane0 o.f.right).val ≠ 0 then s.trapOp o 0x11 0 1 (o.value * 2 ^ 32) o.f.first
    else s.finish o h true r r

/-- ERET (R270): its action follows at commit. -/
def execEret (h : OpWord) (s : State) : Host.Outcome State Fault Refusal :=
  runOp s fun o =>
    if o.colour ≠ 0 then s.trapOp o 7 o.value 0x13 0 o.f.first
    else if (lane0 o.f.left).poison then s.poisonTrap o o.value 1 o.f.left
    else if o.overCount then s.illegal o o.value 100
    else (s.atCommit o (.eret o.f.slot o.value)).finishN o h

/-- ENDL (R271): the end of the launch's work on the core follows at commit. -/
def execEndl (h : OpWord) (s : State) : Host.Outcome State Fault Refusal :=
  runOp s fun o =>
    if o.colour ≠ 1 then s.illegal o o.colour 271
    else s.asBranch o h none fun s => s.atCommit o .endl

end Sys2Proof.Machine
end

