-- ==== Sys2Proof/Machine/Streams.lean ====
section
/-! DEFINITION. Stream-register instructions (R316, R317). -/

namespace Sys2Proof.Machine

open Sys2Proof

/-- VALID of a stream register (R316). -/
def Stream.valid (t : Stream) : Bool := bit t.flags 0

/-- The key that marks an end (R316). -/
def endKey : Nat := 0xFFFFFFFF

/-- Whether a register's head is END without a read (R316). -/
def Stream.atEnd (t : Stream) : Bool := !t.valid || decide (t.len ≤ t.pos)

/-- A pair as it was read. -/
structure Pair where
  key : Nat
  val : Word
  poison : Bool
  deriving DecidableEq, Repr

/-- The head of a register (R316): none at END; a pair read poisoned sets POISON; reading a pair checks its key,
and a bad one sets ERR, moves POS to LEN and is not used. -/
def State.head (s : State) (o : OpIn) (t : Stream) : Except AccErr (Option Pair × Stream × State) :=
  if t.atEnd then .ok (none, t, s)
  else
    match s.load o (wrapVa (t.base + 8 * t.pos)) 8 with
    | .error e => .error e
    | .ok (bs, p, s1) =>
      let key := leAt bs 0 4
      let t1 : Stream := if p then { t with flags := setBit t.flags 2 } else t
      if (bit t.flags 3 && decide (key ≤ t.lastkey)) || key == endKey then
        .ok (none, { t1 with flags := setBit t1.flags 1, pos := t.len }, s1)
      else .ok (some { key := key, val := BitVec.ofNat 32 (leAt bs 4 4), poison := p }, t1, s1)

/-- A register moved past a pair (R316): LASTKEY takes its key and BEGUN is set. -/
def Stream.advance (t : Stream) (p : Pair) : Stream :=
  { t with pos := t.pos + 1, lastkey := p.key, flags := setBit t.flags 3 }

/-- The forms that merge two streams. -/
inductive MergeKind where
  | sisect | sunion | sdiff
  | smadd (fp : Bool)
  deriving DecidableEq, Repr

/-- The pair a form emits where only A has the key, if it emits one (R317). -/
def MergeKind.onlyA (m : MergeKind) (a : Pair) : List Pair :=
  match m with
  | .sisect => []
  | _ => [a]

/-- The pair a form emits where only B has the key. -/
def MergeKind.onlyB (m : MergeKind) (b : Pair) : List Pair :=
  match m with
  | .sunion => [b]
  | .smadd _ => [b]
  | _ => []

/-- The pair a form emits where both have the key. -/
def MergeKind.both (m : MergeKind) (a b : Pair) : List Pair :=
  match m with
  | .sisect => [a]
  | .sunion => [a]
  | .sdiff => []
  | .smadd fp =>
    [{ a with val := if fp then BitVec.ofNat 32 (addF32 a.val.toNat b.val.toNat) else a.val + b.val }]

/-- Whether a form stops once A is at END (R317). -/
def MergeKind.needsA : MergeKind → Bool
  | .sisect => true | .sdiff => true | .sunion => false | .smadd _ => false

/-- Why a stream form does not complete: an access fails, or a key compared is poisoned. -/
inductive StreamErr where
  | access (e : AccErr)
  | poison (va : Nat)

/-- Where a merge stands. -/
structure Merge where
  a : Stream
  b : Stream
  out : List Pair
  st : State

/-- The merge of R317, with fuel for every pair of the two registers. -/
def merge (o : OpIn) (m : MergeKind) (n : Nat) : Nat → Merge → Except StreamErr Merge
  | 0, r => .ok r
  | fuel + 1, r =>
    if n ≤ r.out.length then .ok r
    else
      match r.st.head o r.a with
      | .error e => .error (.access e)
      | .ok (ha, ta, s1) =>
        if ha.isNone && m.needsA then .ok { r with a := ta, st := s1 }
        else
          match s1.head o r.b with
          | .error e => .error (.access e)
          | .ok (hb, tb, s2) =>
            let r1 : Merge := { a := ta, b := tb, out := r.out, st := s2 }
            match ha, hb with
            | none, none => .ok r1
            | some pa, none =>
              if pa.poison then .error (.poison (ta.base + 8 * ta.pos))
              else merge o m n fuel { r1 with a := ta.advance pa, out := r.out ++ m.onlyA pa }
            | none, some pb =>
              if pb.poison then .error (.poison (tb.base + 8 * tb.pos))
              else merge o m n fuel { r1 with b := tb.advance pb, out := r.out ++ m.onlyB pb }
            | some pa, some pb =>
              if pa.poison then .error (.poison (ta.base + 8 * ta.pos))
              else if pb.poison then .error (.poison (tb.base + 8 * tb.pos))
              else if pa.key = pb.key then
                merge o m n fuel { r1 with a := ta.advance pa, b := tb.advance pb, out := r.out ++ m.both pa pb }
              else if pa.key < pb.key then
                merge o m n fuel { r1 with a := ta.advance pa, out := r.out ++ m.onlyA pa }
              else merge o m n fuel { r1 with b := tb.advance pb, out := r.out ++ m.onlyB pb }

/-- Pairs in a register not yet passed. -/
def Stream.left (t : Stream) : Nat := t.len - t.pos

/-- The lanes of a stream form's results: the pairs, then (END, 0) up to N lanes. -/
def pairLanes (n : Nat) (ps : List Pair) (f : Pair → Word) (pad : Word) : List Lane :=
  (ps.map fun p => { val := f p, poison := p.poison }) ++
    List.replicate (n - ps.length) { val := pad, poison := false }

/-- A stream form's result pairs sent: keys to T0 and values to T1 (R317). -/
def State.sendPairs (s : State) (o : OpIn) (h : OpWord) (n : Nat) (ps : List Pair) : State :=
  s.finish o h true
    { first := 0, lanes := pairLanes n ps (fun p => BitVec.ofNat 32 p.key) (BitVec.ofNat 32 endKey) }
    { first := 0, lanes := pairLanes n ps (fun p => p.val) 0 }

/-- What an error of a stream form leads to: the registers stay unchanged. -/
def State.streamFail (s : State) (o : OpIn) (e : StreamErr) : State :=
  match e with
  | .access e => s.accFail o .carder false o.f.first e
  | .poison va => s.poisonTrap o va 1 [{ val := 0, poison := true }]

/-- Whether a result of `n` lanes from lane 0 overflows its tag. -/
def State.pairsBad (s : State) (o : OpIn) (h : OpWord) (n : Nat) : Bool :=
  s.tagBad o h.tg.toNat { first := 0, lanes := List.replicate n { val := 0, poison := false } }

/-- Whether a set of a core is one of a stream-register form (R317). -/
def State.isStreamSet (s : State) (c : Nat) (f : Firing) : Bool :=
  match s.opIn c f with
  | some o =>
    let op := fieldOf (o.m.word f.slot) 25 7
    decide (0x68 ≤ op) && decide (op ≤ 0x6E)
  | none => false

/-- A stream-register form: the stream unit carries out one at a time, in arrival order (R317). -/
def streamOp (s : State) (accesses : Bool) (g : OpIn → State) : Host.Outcome State Fault Refusal :=
  carderOp s accesses fun o =>
    if (s.heldBefore o).any fun h => s.isStreamSet o.c h.firing then s.hold o .carder .stream else g o

/-- A merging form (R317). -/
def mergeOp (h : OpWord) (m : MergeKind) (n : BitVec 5) (b a : BitVec 3) (s : State) :
    Host.Outcome State Fault Refusal :=
  streamOp s true fun o =>
    let k := s.core o.c
    let c := n.toNat + 1
    if !o.m.vec && c != 1 then s.illegal o c 317
    else if s.pairsBad o h c then s.tagTrap o h.tg.toNat
    else
      let r0 : Merge := { a := k.stream a.toNat, b := k.stream b.toNat, out := [], st := s }
      match merge o m c (r0.a.left + r0.b.left + 1) r0 with
      | .error e => s.streamFail o e
      | .ok r =>
        let s1 := r.st.modCore o.c fun k =>
          { k with streams := aset (aset k.streams a.toNat r.a) b.toNat r.b }
        s1.sendPairs o h c r.out

/-- SISECT (R317). -/
def execSisect (h : OpWord) (n : BitVec 5) (b a : BitVec 3) (s : State) : Host.Outcome State Fault Refusal :=
  mergeOp h .sisect n b a s

/-- SUNION (R317). -/
def execSunion (h : OpWord) (n : BitVec 5) (b a : BitVec 3) (s : State) : Host.Outcome State Fault Refusal :=
  mergeOp h .sunion n b a s

/-- SDIFF (R317). -/
def execSdiff (h : OpWord) (n : BitVec 5) (b a : BitVec 3) (s : State) : Host.Outcome State Fault Refusal :=
  mergeOp h .sdiff n b a s

/-- SMADD (R317). -/
def execSmadd (h : OpWord) (fp : BitVec 1) (n : BitVec 5) (b a : BitVec 3) (s : State) :
    Host.Outcome State Fault Refusal :=
  mergeOp h (.smadd (fp == 1)) n b a s

/-- The next pairs of a register, at most `n`. -/
def nextPairs (o : OpIn) : Nat → Merge → Except StreamErr Merge
  | 0, r => .ok r
  | n + 1, r =>
    match r.st.head o r.a with
    | .error e => .error (.access e)
    | .ok (none, t, s1) => .ok { r with a := t, st := s1 }
    | .ok (some p, t, s1) => nextPairs o n { r with a := t.advance p, out := r.out ++ [p], st := s1 }

/-- SNEXT (R317): the next N pairs. -/
def execSnext (h : OpWord) (n : BitVec 5) (a : BitVec 3) (s : State) : Host.Outcome State Fault Refusal :=
  streamOp s true fun o =>
    let c := n.toNat + 1
    if !o.m.vec && c != 1 then s.illegal o c 317
    else if s.pairsBad o h c then s.tagTrap o h.tg.toNat
    else
      match nextPairs o c { a := (s.core o.c).stream a.toNat, b := Stream.zero, out := [], st := s } with
      | .error e => s.streamFail o e
      | .ok r =>
        (r.st.modCore o.c fun k => { k with streams := aset k.streams a.toNat r.a }).sendPairs o h c r.out

/-- STLD (R317): AR 1 loads a register from a descriptor, AR 0 invalidates it; the completion token goes to T0
alone. -/
def execStld (h : OpWord) (a : BitVec 3) (s : State) : Host.Outcome State Fault Refusal :=
  streamOp s true fun o =>
    let va := o.value
    let set := fun (s : State) (t : Stream) =>
      (s.modCore o.c fun k => { k with streams := aset k.streams a.toNat t }).finish o h false
        (o.f.run ((List.range o.f.n).map fun _ => { val := 0, poison := false })) { first := 0, lanes := [] }
    if s.tagBadM o h then s.tagTrap o h.tg.toNat
    else if h.ar = 0 then set s { (s.core o.c).stream a.toNat with flags := 0 }
    else if (lane0 o.f.left).poison then s.poisonTrap o va 1 o.f.left
    else if va % 16 ≠ 0 ∨ 0x200000 ≤ va then s.illegal o va 299
    else
      match s.readBlock o .carder va 16 with
      | .error t => t
      | .ok (bs, s1) =>
        set s1 { base := leAt bs 0 7, len := leAt bs 8 4, pos := 0, lastkey := 0, flags := 1 }

/-- STST (R317): the pairs left, and whether the head is END. -/
def execStst (h : OpWord) (a : BitVec 3) (s : State) : Host.Outcome State Fault Refusal :=
  streamOp s false fun o =>
    let t := (s.core o.c).stream a.toNat
    s.finish o h true (single 0 (if t.valid then BitVec.ofNat 32 t.left else 0))
      (single 0 (predWord t.atEnd))

end Sys2Proof.Machine
end

