-- ==== Sys2Proof/Machine/Collective.lean ====
section
/-! DEFINITION. Collectives (R318 to R320, R182, R227 to R229): arrival with its checks, and the
completion of all participants together. -/

namespace Sys2Proof.Machine

open Sys2Proof

/-- A form's own parameters (R318): the form (CRED 0, CBC 1, CAG 2, CA2A 3), OP, FMT, MODE and
ROOT. -/
structure CollForm where
  form : Nat
  op : Nat
  fmt : Nat
  mode : Nat
  root : Nat
  deriving DecidableEq, Repr

/-- The bytes of `n` packed elements of a format (R210, R217, R222). FB6 packs 32 elements in 28
bytes. -/
def elemBytes (f : Fmt) (n : Nat) : Nat :=
  match f with
  | .fb6 => n / 32 * 28 + ceilDiv (n % 32) 5 * 4
  | _ => ceilDiv (n * fmtBits f) 8

/-- The bytes a participant reads at SRC. -/
def CollForm.srcBytes (m : CollForm) (count p : Nat) : Nat :=
  match m.form with
  | 0 =>
    match fmtOf m.fmt with
    | none => 0
    | some f => elemBytes f count + (if fmtFB f then 2 * ceilDiv count 32 else 0)
  | 3 => p * count
  | _ => count

/-- The bytes a participant writes at DST. -/
def CollForm.dstBytes (m : CollForm) (count p : Nat) : Nat :=
  match m.form with
  | 0 =>
    match fmtOf m.fmt with
    | none => 0
    | some f => if fmtFB f then 4 * count else elemBytes f count
  | 1 => count
  | _ => p * count

/-- A group-table entry's bits (R318). -/
def groupEntry (module part rank lnum : Nat) : Nat :=
  module * 2 ^ 48 + part * 2 ^ 44 + rank * 2 ^ 32 + lnum

/-- The entry of a core of this module. -/
def State.ownEntry (s : State) (c : Nat) : Nat :=
  groupEntry Config.moduleId.toNat (s.corePart c) (s.coreRank c) (s.coreLnum c)

/-- The core set of a core's launch as a group table (R318, GROUP 0). -/
def State.setGroup (s : State) (c : Nat) : List Nat :=
  (List.range (s.setSize c)).map fun r =>
    groupEntry Config.moduleId.toNat (s.corePart c) r (s.coreLnum c)

/-- The core that an entry of this module names, where its launch is placed. -/
def State.entryCore (s : State) (e : Nat) : Option Nat :=
  match s.launches.find? fun l => l.part == bits e 44 4 && l.record.lnum == bits e 0 32 && l.phase == .running with
  | some l => l.cores[bits e 32 12]?
  | none => none

/-- The distance from a core to a participant (R169); a participant of this module that is switched
out counts as on the furthest die. -/
def State.entryDist (s : State) (c e : Nat) : Nat :=
  let m := bits e 48 12
  if e = s.ownEntry c then 0
  else if m ≠ Config.moduleId.toNat then 1024 + 64 * s.hopsTo m
  else
    match s.entryCore e with
    | some c' => coreDist false c c'
    | none => 128

/-- Reserved bits of a group-table entry that must be zero. -/
def entryOk (e : Nat) : Bool := bits e 60 4 == 0

/-- Whether two ranges of `n` and `m` bytes overlap. -/
def overlaps (a n b m : Nat) : Bool := decide (a < b + m) && decide (b < a + n)

/-- The checks of R320 on a descriptor and its group. -/
def State.collOk (s : State) (c : Nat) (m : CollForm) (d group : List Nat) (radius : Nat) : Bool :=
  let src := d.getD 0 0
  let dst := d.getD 1 0
  let count := bits (d.getD 2 0) 0 32
  let p := group.length
  let n := m.srcBytes count p
  let k := m.dstBytes count p
  decide (src < 2 ^ 56) && decide (dst < 2 ^ 56) && decide (d.getD 3 0 < 2 ^ 56) &&
    (d.drop 4).all (fun x => x == 0) && src % 64 == 0 && dst % 64 == 0 &&
    (m.form == 0 || count % 64 == 0) &&
    decide (src + n ≤ 0x200000) && decide (dst + k ≤ 0x200000) &&
    (!overlaps src n dst k || (m.form == 0 && src == dst)) &&
    decide (1 ≤ p) && decide (p ≤ 4096) && group.all entryOk &&
    (group.filter fun e => e == s.ownEntry c).length == 1 &&
    group.all fun e => decide (s.entryDist c e ≤ radius)

/-- The group table of a descriptor, read as a plain load; or the state in which the read has been
dealt with. A bad word 0 gives an empty group. -/
def State.readGroup (s : State) (o : OpIn) (va : Nat) : Except State (List Nat × State) :=
  if va = 0 then .ok (s.setGroup o.c, s)
  else
    match s.readBlock o .collective va 8 with
    | .error t => .error t
    | .ok (bs, s1) =>
      let w := leAt bs 0 8
      if w = 0 ∨ 4096 < w then .ok ([], s1)
      else
        match s1.readBlock o .collective va (8 + 8 * w) with
        | .error t => .error t
        | .ok (bs, s2) => .ok ((words64 bs).drop 1, s2)

/-- The open collective that an arrival joins (R320). -/
def Coll.joins (k : Coll) (gid seq own : Nat) (group : List Nat) : Bool :=
  k.gid == gid && k.seq == seq && has k.group own &&
    k.arrived.all fun p => has group (k.group.getD p.idx 0)

/-- A participant entered in its collective, which it opens where it is the first; one that arrives again takes its own
place. -/
def State.joinColl (s : State) (gid seq own : Nat) (group : List Nat) (p : CollPart) : State :=
  let here := fun (k : Coll) => k.joins gid seq own group
  let add := fun (k : Coll) => { k with arrived := (k.arrived.filter fun q => q.idx != p.idx) ++ [p] }
  if s.colls.any here then { s with colls := modFirst here add s.colls }
  else { s with colls := s.colls ++ [(Coll.mk gid seq group [p])] }

/-- The collectives without those of their participants that meet a test; one that nobody has arrived at is gone. -/
def State.leaveColls (s : State) (p : Coll → CollPart → Bool) : State :=
  let left := s.colls.map fun (x : Coll) => { x with arrived := x.arrived.filter fun a => !(p x a) }
  { s with colls := left.filter fun x => !x.arrived.isEmpty }

/-- Whether a participant is one of a launch of this module. -/
def CollPart.ofLaunch (lid : Nat) (p : CollPart) : Bool := p.agent.module.isNone && p.agent.launch == lid

/-- The other modules that take part in a group (R318). -/
def otherModules (group : List Nat) : List Nat :=
  ((group.map fun e => bits e 48 12).filter fun m => m != Config.moduleId.toNat).foldl addMem []

/-- A participant's arrival as the other participating modules hear of it: a CLASS 3 packet with the bytes of its SRC.
DESIGN CHOICE: the spec gives no such packet; each module completes its own participants once it knows of every
arrival (log 149). -/
def State.tellArrival (s : State) (gid seq : Nat) (group : List Nat) (p : CollPart) (src : List PByte) : State :=
  let acc : Acc := { agent := p.agent, core := p.core, step := s.stepOf p.core, epoch := p.epoch, write := false, atomic := false }
  let args := fun (m : Nat) => [m, gid, seq, p.idx, p.radius, group.length] ++ group ++ p.params ++
    (src.map fun b => b2n b.2) ++ s.accArgs (some acc)
  (otherModules group).foldl (fun s m => s.sendPacket m 3 7 (some p.agent.launch) (args m) (src.map fun b => b.1)) s

/-- The collective that a core has issued on a GID and that has not completed (R320), where it has one. -/
def Core.collOf (k : Core) (gid : Nat) : Option CollIssue := k.collOpen.find? fun x => x.gid == gid

/-- Whether an issue is that of an operation. -/
def CollIssue.isOf (x : CollIssue) (o : OpIn) : Bool := x.iid == o.f.iid && x.slot == o.f.slot && x.first == o.f.first

/-- Whether a collective on a GID waits for the one before it (R320): another that has not completed, or one that
waits already. -/
def State.collBusy (s : State) (o : OpIn) (gid : Nat) : Bool :=
  let k := s.core o.c
  (match k.collOf gid with
   | some x => !x.isOf o && (k.inst? x.iid).isSome
   | none => false) ||
    (s.heldBefore o).any fun h => h.wait == .collTurn gid

/-- The number of a collective on its GID (R320): the one it has been issued with, or the next. -/
def Core.collNumber (k : Core) (o : OpIn) (gid : Nat) : Nat :=
  match k.collOf gid with
  | some x => if x.isOf o then x.seq else aget 0 k.collSeq gid
  | none => aget 0 k.collSeq gid

/-- A collective issued on a GID with its number. -/
def Core.openColl (k : Core) (o : OpIn) (gid seq : Nat) : Core :=
  { k with collSeq := aset k.collSeq gid (max (aget 0 k.collSeq gid) (seq + 1)),
           collOpen := (k.collOpen.filter fun x => x.gid != gid) ++
             [{ gid := gid, seq := seq, iid := o.f.iid, slot := o.f.slot, first := o.f.first }] }

/-- The collective that an operation has issued, complete or retired. -/
def Core.closeColl (k : Core) (o : OpIn) : Core := { k with collOpen := k.collOpen.filter fun x => !x.isOf o }

/-- `n` bytes of a participant's block read line by line, each with its poison. -/
def State.collLoad (s : State) (o : OpIn) : Nat → Nat → Nat → Except AccErr (List PByte × State)
  | 0, _, _ => .ok ([], s)
  | fuel + 1, va, n =>
    if n = 0 then .ok ([], s)
    else
      let k := min n 64
      match s.loadP o va k with
      | .error e => .error e
      | .ok (bs, s1) =>
        match s1.collLoad o fuel (va + k) (n - k) with
        | .error e => .error e
        | .ok (r, s2) => .ok (bs ++ r, s2)

/-- The block of a participant that its arrival carries to the other participating modules; none where it has none. -/
def State.arrivalBlock (s : State) (o : OpIn) (m : CollForm) (group : List Nat) (count src : Nat) :
    Except AccErr (List PByte × State) :=
  let n := m.srcBytes count group.length
  if (otherModules group).isEmpty then .ok ([], s) else s.collLoad o (n / 64 + 1) src n

/-- A participant's arrival, a release at its scope (R182): it joins its collective here, and the other participating
modules hear of it. -/
def State.arriveColl (s : State) (o : OpIn) (gid seq own : Nat) (group : List Nat) (p : CollPart) (src : List PByte) : State :=
  (((s.modCore o.c fun k => k.openColl o gid seq).joinColl gid seq own group p).tellArrival gid seq group p src).hold o
    .collective (.collective gid)

/-- A collective form (R318 to R320): its checks and its arrival, a release at its scope (R182).
COLLECTIVE_COMPLETE performs it. -/
def collOp (h : OpWord) (m : CollForm) (scope : Nat) (s : State) : Host.Outcome State Fault Refusal :=
  runOp s fun o =>
    let a := o.value
    if o.f.answered.isSome then s.finishM o h (o.f.answered.getD 0)
    else if s.hasArrived o.c then s.hold o .collective .step
    else if s.releaseWaits o then s.hold o .collective .earlier
    else if (lane0 o.f.left).poison then s.poisonTrap o a 1 o.f.left
    else if scope = 7 then s.illegal o 7 170
    else if a % 64 ≠ 0 ∨ 0x200000 ≤ a then s.illegal o a 318
    else
      match s.readBlock o .collective a 64 with
      | .error t => t
      | .ok (bs, s1) =>
        let d := words64 bs
        match s1.readGroup o (bits (d.getD 3 0) 0 56) with
        | .error t => t
        | .ok (group, s2) =>
          let gid := bits (d.getD 2 0) 32 32
          if !s.collOk o.c m d group (s.radius scope) then s.illegal o a 320
          else if s.tagBadM o h then s.tagTrap o h.tg.toNat
          else if s.collBusy o gid then s.hold o .collective (.collTurn gid)
          else
            match s2.arrivalBlock o m group (bits (d.getD 2 0) 0 32) (d.getD 0 0) with
            | .error e => s.accFail o .collective false o.f.first e
            | .ok (src, s3) =>
              let r := s3.raiseEpoch (s3.agent o.c o.colour)
              let own := s.ownEntry o.c
              let part : CollPart :=
                { idx := group.findIdx (fun e => e == own), core := o.c, iid := o.i.iid, slot := o.f.slot,
                  agent := s.agent o.c o.colour, epoch := r.2, radius := s.radius scope,
                  params := [m.form, m.op, m.fmt, m.mode, m.root, bits (d.getD 2 0) 0 32, group.length],
                  src := d.getD 0 0, dst := d.getD 1 0, first := o.f.first }
              r.1.arriveColl o gid ((s.core o.c).collNumber o gid) own group part src

/-- CRED (R319). -/
def execCred (h : OpWord) (op : CredOp) (fmt : Fmt) (mode : BitVec 1) (scope : BitVec 3) (s : State) :
    Host.Outcome State Fault Refusal :=
  let k := match op with
    | .add => 0
    | .min => 1
    | .max => 2
  collOp h { form := 0, op := k, fmt := fmtCode fmt, mode := mode.toNat, root := 0 } scope.toNat s

/-- CBC (R319). -/
def execCbc (h : OpWord) (scope : BitVec 3) (root : BitVec 12) (s : State) :
    Host.Outcome State Fault Refusal :=
  collOp h { form := 1, op := 0, fmt := 0, mode := 0, root := root.toNat } scope.toNat s

/-- CAG (R319). -/
def execCag (h : OpWord) (scope : BitVec 3) (s : State) : Host.Outcome State Fault Refusal :=
  collOp h { form := 2, op := 0, fmt := 0, mode := 0, root := 0 } scope.toNat s

/-- CA2A (R319). -/
def execCa2a (h : OpWord) (scope : BitVec 3) (s : State) : Host.Outcome State Fault Refusal :=
  collOp h { form := 3, op := 0, fmt := 0, mode := 0, root := 0 } scope.toNat s

/-! ### The values (R227 to R229, R319) -/

/-- The number of `n` bits from bit `o` of a string of bytes. -/
def bitsAt (bs : List Byte) (o n : Nat) : Nat := bits (leAt bs (o / 8) (n / 8 + 2)) (o % 8) n

/-- Where element `e` starts, in bits (R210, R217). -/
def elemBit (f : Fmt) (e : Nat) : Nat :=
  match f with
  | .fb6 => e / 32 * 224 + e % 32 / 5 * 32 + e % 32 % 5 * 6
  | _ => e * fmtBits f

/-- Element `e` of a block of bytes. -/
def elemAt (f : Fmt) (bs : List Byte) (e : Nat) : Nat := bitsAt bs (elemBit f e) (fmtBits f)

/-- The exact value of a participant's contribution to element `e` (R229). -/
def contribution (f : Fmt) (count : Nat) (bs : List Byte) (e : Nat) : FV :=
  let x := elemAt f bs e
  match fmtFloat f with
  | some F => F.decode x
  | none =>
    let sc := elemBytes f count + 2 * (e / 32)
    decFB f x (leAt bs sc 1) (leAt bs (sc + 1) 1)

/-- The destination format of a float reduction. -/
def destForm (f : Fmt) : FForm := (fmtFloat f).getD fp32

/-- One element of CRED, from the participants' blocks in index order. -/
def credElem (f : Fmt) (op mode count : Nat) (blocks : List (List Byte)) (e : Nat) : Nat :=
  if fmtInt f then
    let xs := blocks.map fun b => intElem f (elemAt f b e)
    let sat := fun (x : Int) => if f = .uint8 then satU 8 x else satS (fmtBits f) x
    match op with
    | 0 => sat (xs.foldl (fun a b => a + b) 0)
    | 1 => sat (xs.tail.foldl (fun a b => if b < a then b else a) (xs.headD 0))
    | _ => sat (xs.tail.foldl (fun a b => if a < b then b else a) (xs.headD 0))
  else
    let F := destForm f
    let vs := blocks.map fun b => contribution f count b e
    match op with
    | 0 =>
      if mode = 1 then exactSum F vs
      else F.encode .rne (fp32.decode (treeFold addF32 16 (vs.map (fp32.encode .rne))))
    | k =>
      let xs := vs.map (F.encode .rne)
      xs.tail.foldl (F.minMax (k == 2)) (xs.headD 0)

/-- The poison of the bytes that hold bits [o, o + n). -/
def poisonAt (bs : List PByte) (o n : Nat) : Bool :=
  ((bs.drop (o / 8)).take ((o + n + 7) / 8 - o / 8)).any fun b => b.2

/-- Packed elements as bytes, with the poison of each element on its bytes. -/
def packBytes (f : Fmt) (n : Nat) (v : Nat → Nat) (p : Nat → Bool) : List PByte :=
  let w := fmtBits f
  (List.range (ceilDiv (n * w) 8)).map fun b =>
    let first := 8 * b / w
    let es := (List.range (8 / w + 1)).map (fun j => first + j) |>.filter fun e =>
      decide (e < n) && decide (w * e < 8 * b + 8)
    let x := es.foldl (fun a e => a +
      (if w * e ≤ 8 * b then v e / 2 ^ (8 * b - w * e) else v e * 2 ^ (w * e - 8 * b)) % 256) 0
    (BitVec.ofNat 8 x, es.any p)

/-- What CRED writes at every participant. -/
def credResult (f : Fmt) (op mode count : Nat) (blocks : List (List PByte)) : List PByte :=
  let raw := blocks.map fun b => b.map fun x => x.1
  let out := if fmtFB f then Fmt.fp32 else f
  packBytes out count (credElem f op mode count raw) fun e =>
    blocks.any fun b => poisonAt b (elemBit f e) (fmtBits f) ||
      (fmtFB f && poisonAt b (8 * (elemBytes f count + 2 * (e / 32))) 16)

/-- What participant `k` writes (R319). `free` fills what a ROOT that names no participant leaves
open. -/
def CollForm.result (m : CollForm) (count : Nat) (blocks : List (List PByte)) (free : Nat → Nat) (k : Nat) :
    List PByte :=
  match m.form with
  | 0 =>
    match fmtOf m.fmt with
    | some f => credResult f m.op m.mode count blocks
    | none => []
  | 1 =>
    match blocks[m.root]? with
    | some b => b
    | none => (List.range count).map fun j => (BitVec.ofNat 8 (free j), false)
  | 2 => blocks.flatten
  | _ => blocks.flatMap fun b => (b.drop (k * count)).take count

/-! ### Completion (R319, R320) -/

/-- The held request of a participant of this module. -/
def State.collHeld (s : State) (gid : Nat) (p : CollPart) : Option (Nat × Held) :=
  if p.far.isSome then none
  else (s.core p.core).heldWhere fun h => h.firing.iid == p.iid && h.firing.slot == p.slot && h.firing.first == p.first &&
    h.wait == .collective gid

/-- A participant taken out of its collective with its request, ready to trap or to wait anew. -/
def State.leaveColl (s : State) (k : Coll) (p : CollPart) (n : Nat) : State :=
  let s1 := s.takeHeld p.core n
  let drop := fun (x : Coll) => { x with arrived := x.arrived.filter fun q => q != p }
  { s1 with colls := modFirst (fun x => x == k) drop s1.colls }

/-- The collective without its participants: none waits any more. -/
def State.endColl (s : State) (k : Coll) : State :=
  { s with colls := delFirst (fun x => x.gid == k.gid && x.seq == k.seq && x.group == k.group) s.colls }

/-- Bytes written line by line at a participant's DST: a collective is no counted writer (R119). -/
def State.collStore (s : State) (o : OpIn) : Nat → Nat → List PByte → Except AccErr State
  | 0, _, _ => .ok s
  | fuel + 1, va, bs =>
    if bs.isEmpty then .ok s
    else
      let l := bs.take 64
      match s.writeAccess o false va l.length with
      | .error e => .error e
      | .ok ts => (s.writeNow o false va ts l).collStore o fuel (va + 64) (bs.drop 64)

/-- The participants of this module in index order with their requests, where each is there. -/
def State.collParts (s : State) (k : Coll) : List (CollPart × OpIn) :=
  ((List.range k.group.length).filterMap fun i => k.arrived.find? fun p => p.idx == i).filterMap fun p =>
    match s.collHeld k.gid p with
    | none => none
    | some (_, h) => (s.opIn p.core h.firing).map fun o => (p, o)

/-- The form of a participant from its parameters. -/
def CollPart.form (p : CollPart) : CollForm where
  form := p.params.getD 0 0
  op := p.params.getD 1 0
  fmt := p.params.getD 2 0
  mode := p.params.getD 3 0
  root := p.params.getD 4 0

/-- COUNT of a participant. -/
def CollPart.count (p : CollPart) : Nat := p.params.getD 5 0

/-- A participant whose access does not complete leaves the collective, and its fault or trap is
taken at its instance; the others wait on. -/
def State.collFail (s : State) (k : Coll) (p : CollPart) (o : OpIn) (write : Bool) (e : AccErr) : State :=
  match s.collHeld k.gid p with
  | none => s
  | some (n, _) => (s.leaveColl k p n).accFail { o with f := { o.f with heldAt := some n } } .collective write o.f.first e

/-- The block of every participant of this module read. -/
def State.collReads (s0 : State) (k : Coll) :
    List (CollPart × OpIn) → State → Except State (List (List PByte) × State)
  | [], s => .ok ([], s)
  | (p, o) :: r, s =>
    let n := p.form.srcBytes p.count k.group.length
    match s.collLoad o (n / 64 + 1) p.src n with
    | .error e => .error (s0.collFail k p o false e)
    | .ok (b, s1) =>
      match s0.collReads k r s1 with
      | .error t => .error t
      | .ok (bs, s2) => .ok (b :: bs, s2)

/-- Every participant's block in index order: those of this module as they have been read, the others as they came. -/
def Coll.blocks (k : Coll) (here : List (List PByte)) : List (List PByte) :=
  (((List.range k.group.length).filterMap fun i => k.arrived.find? fun p => p.idx == i).foldl
    (fun (q : List (List PByte) × List (List PByte)) p => match p.far with
      | some b => (q.1 ++ [b], q.2)
      | none => (q.1 ++ q.2.take 1, q.2.drop 1)) ([], here)).1

/-- The result of every participant of this module written. -/
def State.collWrites (s0 : State) (k : Coll) (blocks : List (List PByte)) (free : Nat → Nat) :
    List (CollPart × OpIn) → State → Except State State
  | [], s => .ok s
  | (p, o) :: r, s =>
    let bs := p.form.result p.count blocks free p.idx
    match s.collStore o (bs.length / 64 + 1) p.dst bs with
    | .error e => .error (s0.collFail k p o true e)
    | .ok s1 => s0.collWrites k blocks free r s1

/-- A participant's completion (R182, R319): an acquire from every participant, itself among them, for whom what it did
before it arrived is of an earlier step too; and its completion token. -/
def State.collDone (s : State) (k : Coll) (p : CollPart) : State :=
  match s.collHeld k.gid p with
  | none => s
  | some (n, hd) =>
    match s.opIn p.core hd.firing with
    | none => s
    | some o =>
      let s1 := k.arrived.foldl (fun s q => s.raiseColl p.agent q.agent q.epoch) s
      let v := BitVec.ofNat 32 p.idx
      (s1.modCore p.core fun c => c.closeColl o).completeAt p.core n hd v fun s o => s.finishM o o.head v

/-- A participant's format-mismatch trap (R320). -/
def State.collMismatch (s : State) (k : Coll) (p : CollPart) : State :=
  match s.collHeld k.gid p with
  | none => s
  | some (n, hd) =>
    match s.opIn p.core hd.firing with
    | none => s
    | some o =>
      let first := (k.arrived.head?.map fun q => q.form.fmt).getD 0
      (s.takeHeld p.core n).trapOp o 4 0 (Config.formatDetail first p.form.fmt).toNat 0 o.f.first

/-- An open collective whose every participant has arrived, none is absent and none is being saved (R320, R207). -/
def State.collReady (s : State) (k : Coll) : Bool :=
  let here := k.arrived.filter fun p => p.far.isNone
  k.arrived.length == k.group.length && (s.collParts k).length == here.length &&
    here.all (fun p => (s.core p.core).saving.isNone) &&
    !(s.absent.any fun p => p.2 == k.gid && k.group.any fun e => bits e 48 12 == p.1)

/-- COLLECTIVE_COMPLETE (R319, R320): the first open collective whose every participant has arrived
is performed; or, where their parameters differ, each of them takes a format-mismatch trap. -/
def execCollectiveComplete (s : State) : Host.Outcome State Fault Refusal :=
  match s.colls.find? s.collReady with
  | none => .next s
  | some k =>
    let ps := s.collParts k
    let same := k.arrived.all fun p => p.params == ((k.arrived.head?.map fun q => q.params).getD [])
    if !same then .next (k.arrived.foldl (fun s p => s.collMismatch k p) (s.endColl k))
    else
      match s.collReads k ps s with
      | .error t => .next t
      | .ok (blocks, s1) =>
        let d := s1.drawFree
        match s.collWrites k (k.blocks blocks) (fun j => Config.freeNat (d.1 + j)) ps d.2 with
        | .error t => .next t
        | .ok s2 => .next (k.arrived.foldl (fun s p => s.collDone k p) (s2.endColl k))

end Sys2Proof.Machine
end

