-- ==== Sys2Proof/Machine/Far.lean ====
section
/-! DEFINITION. Packets delivered to this module (R20, R22, R134, R168, R181): another module's reads, atomics and
ordered writes of this module's exported window, performed and recorded here, and the responses to this module's own
requests. -/

namespace Sys2Proof.Machine

open Sys2Proof

/-! ### Another module's accesses (R181) -/

/-- Where an access of this module's exported window starts (R111). -/
def exportPlace (off : Nat) : Nat := (Config.exportBase + off % 2 ^ 35) % dramEnd

/-- The access that a packet of another module is (R168, R181). -/
def farAcc (q : List Byte) (write atomic : Bool) : Acc :=
  let f := fun (i : Nat) => Config.packetField i q
  { agent := inName (f 0) (f 9) (f 10) (f 11), core := f 12, step := f 13, epoch := f 14, write := write, atomic := atomic }

/-- What the agent of another module's access has acquired, by five numbers to an entry, entered here (R172, R181). -/
def State.learnAcq (s : State) (b : Agent) : List Nat → State
  | m :: l :: r :: w :: e :: rest => (s.raiseAcq b (inName m l r w) e).learnAcq b rest
  | _ => s

/-- The state in which a packet's access is served: what its agent has acquired is known. -/
def State.learn (s : State) (q : List Byte) : State := s.learnAcq (farAcc q false false).agent (Config.packetList 0 q)

/-- The pieces of an access of the exported window, by address and length. -/
def exportPieces (off n : Nat) : List (Nat × Nat) := pieces (n / 64 + 2) (exportPlace off) n

/-- The earlier access that an access of the exported window races with, where it is checked (R165, R168). -/
def State.farCheck (s : State) (checked : Bool) (x : Acc) (ps : List (Nat × Nat)) : Option Acc :=
  if checked then ps.findSome? fun p => s.raceOn (Loc.phys p.1).line x else none

/-- An access of the exported window entered in the records of its lines. -/
def State.farNote (s : State) (checked : Bool) (x : Acc) (ps : List (Nat × Nat)) : State :=
  if checked then ps.foldl (fun s p => s.recordAcc (Loc.phys p.1).line x) s else s

/-- Bytes laid along pieces of physical memory. -/
def farSegs : List (Nat × Nat) → List Byte → Bool → List Seg
  | [], _, _ => []
  | (a, n) :: r, bs, p => { loc := .phys a, bytes := bs.take n, poison := p } :: farSegs r (bs.drop n) p

/-- A packet sent back to the module that a packet came from. -/
def State.answerFar (s : State) (q : List Byte) (kind : Nat) (args : List Nat) (bs : List Byte) : State :=
  s.sendPacket (Config.packetField 0 q % 4096) 1 kind none ([Config.moduleId.toNat, Config.packetField 1 q] ++ args) bs

/-- An ordered write performed at its destination and acknowledged end to end (R22, R181). A checked one has been
entered in the records as its check was answered (R166); an unchecked one, a device's or the host's, clears the records
of its lines (R168). -/
def State.takeWrite (s : State) (q : List Byte) : State :=
  let bs := Config.packetData q
  let ps := exportPieces (Config.packetField 2 q) bs.length
  let s1 := (farSegs ps bs (Config.packetField 15 q != 0)).foldl State.performSeg s
  let s2 := if Config.packetField 8 q = 0 then s1.clearRecs (ps.map fun p => (Loc.phys p.1, p.2)) else s1
  s2.answerFar q 6 [] []

/-- The check of a write that is to follow (R166, R181): with no race the write enters the records now. -/
def State.serveCheck (s : State) (q : List Byte) : State :=
  let ps := exportPieces (Config.packetField 2 q) (Config.packetField 3 q)
  let x := farAcc q true false
  match s.farCheck true x ps with
  | some a => s.answerFar q 5 [1, raceDetail a, s.raceAux a] []
  | none => (s.farNote true x ps).answerFar q 5 [0] []

/-- The value that an atomic of another module leaves in place of an old one (R304, R305): the operation by its
number, and one number more for a compare and swap. -/
def farUpd (op a b old : Nat) : Nat :=
  let w := fun (x : Nat) => BitVec.ofNat 32 x
  let do_ := fun (o : AtomOp) => (atomValue o (w old) (w a)).toNat
  match op with
  | 0 => do_ .add | 1 => do_ .and | 2 => do_ .or | 3 => do_ .xor | 4 => do_ .mins | 5 => do_ .maxs | 6 => do_ .minu
  | 7 => do_ .maxu | 8 => a | 9 => do_ .fadd
  | 10 => if old = a then b else old
  | _ => old

/-- The numbers by which a response names the release that was a line's latest write (R172). -/
def State.releaseArgs (s : State) : Option Release → List Nat
  | none => [0]
  | some r => [r.radius + 1] ++ s.outName r.agent ++ [r.core, r.epoch]

/-- A read of the exported window: its bytes, or the race that it meets, as the response. -/
def State.serveRead (s : State) (q : List Byte) : State :=
  let ps := exportPieces (Config.packetField 2 q) (Config.packetField 3 q)
  let x := farAcc q false false
  let checked := Config.packetField 8 q != 0
  match s.farCheck checked x ps with
  | some a => s.answerFar q 5 [1, raceDetail a, s.raceAux a] []
  | none =>
    let bs := ps.flatMap fun p => s.readLoc (.phys p.1) p.2
    let bad := ps.any fun p => s.poisoned (.phys p.1)
    (s.farNote checked x ps).answerFar q 5 [0, b2n bad] bs

/-- An atomic on the exported window (R134, R171): performed here, the old value as the response. A release is
entered in the line's record. -/
def State.serveAtomic (s : State) (q : List Byte) : State :=
  let f := fun (i : Nat) => Config.packetField i q
  let n := if f 7 = 8 then 8 else 4
  let a := exportPlace (f 2)
  let x := farAcc q true true
  let checked := f 8 != 0
  let line := (Loc.phys a).line
  match s.farCheck checked x [(a, n)] with
  | some w => s.answerFar q 5 [1, raceDetail w, s.raceAux w] []
  | none =>
    let old := ofBytes (s.readLoc (.phys a) n)
    let prev := (s.lineRec line).release
    let s1 := (s.farNote checked x [(a, n)]).writeLoc (.phys a) (toBytes n (farUpd (f 4 - 1) (f 5) (f 6) old))
    let s2 := if f 20 = 0 then s1 else s1.markRelease line { agent := x.agent, core := x.core, epoch := x.epoch, radius := f 20 - 1 }
    s2.answerFar q 5 ([0, b2n (s.poisoned (.phys a))] ++ s.releaseArgs prev) (toBytes n old)

/-! ### Responses to this module's requests (R181) -/

/-- The release that a response names, entered as the latest write of the line as this module knows it, for the
acquire that follows (R172). -/
def State.noteFarRelease (s : State) (pa : Nat) (q : List Byte) : State :=
  let f := fun (i : Nat) => Config.packetField i q
  let line := (Loc.phys pa).line
  let r : Option Release := if f 20 = 0 then none else some
    { agent := inName (f 21) (f 22) (f 23) (f 24), core := f 25, epoch := f 26, radius := f 20 - 1 }
  s.setRec line { s.lineRec line with release := r }

/-- What a response makes of a request: the bytes of a read stand where the access will read them; an atomic's old
words, with their poison; a check that is passed; or a race. -/
def State.takeAnswer (s : State) (a : Ask) (q : List Byte) : State × AskSt :=
  let bs := (Config.packetData q).take a.len
  let bad := Config.packetField 15 q != 0
  let olds := if a.atomic.isEmpty then [] else
    (List.range (bs.length / 4)).map fun j => { val := BitVec.ofNat 32 (leAt bs (4 * j) 4), poison := bad : Lane }
  if Config.packetField 17 q != 0 then (s, .raced olds (Config.packetField 18 q) (Config.packetField 19 q))
  else if a.atomic = checkAsk then (s, .answered [])
  else if a.atomic.isEmpty then
    ((farSegs (pieces (a.len / 64 + 2) a.addr a.len) bs bad).foldl
      (fun (s : State) g => (s.performSeg g).setPoison g.loc bad) s, .answered [])
  else (s.noteFarRelease a.addr q, .answered olds)

/-- Whether a held request is that of an operation that asks. -/
def Held.asks (iid slot first : Nat) (h : Held) : Bool :=
  h.wait == .remote && h.firing.iid == iid && h.firing.slot == slot && h.firing.first == first

/-- A request that has ended: an operation's set takes the answer along, in its core and in its core's image where one
is taken; an engine looks it up. -/
def State.settleAsk (s : State) (a : Ask) (st : AskSt) : State :=
  if a.ofEngine then
    { s with asks := modFirst (fun x => x.id == a.id) (fun x => { x with st := st }) s.asks }
  else
    let s1 := { s with asks := s.asks.filter fun x => x.id != a.id }
    match a.asker with
    | .engine _ _ => s1
    | .commit _ _ => s1
    | .op c iid slot first =>
      let take := fun (h : Held) =>
        let t := { h.firing.ticket with got := h.firing.ticket.got ++ [(askKey a.atomic a.addr, st)] }
        { h with firing := { h.firing with ticket := t } }
      let put := fun (k : Core) => { k with held := modFirst (Held.asks iid slot first) take k.held }
      let g := a.acc.agent
      let s2 := if s1.coreLid c = g.launch then s1.modCore c put else s1
      { s2 with images := s2.images.map fun x =>
          if x.lid == g.launch && x.rank == g.rank then { x with kept := put x.kept } else x }

/-- A response to a request of this module that is on its way. -/
def State.takeResponse (s : State) (q : List Byte) : State :=
  match s.asks.find? fun a => a.id + 1 == Config.packetField 16 q with
  | some a =>
    match a.st with
    | .sent _ =>
      let r := s.takeAnswer a q
      r.1.settleAsk a r.2
    | _ => s
  | none => s

/-! ### Delivery (R20) -/

/-- A participant of a collective on another module arrives (R182, R319): with its block, as a release. -/
def State.takeArrival (s : State) (q : List Byte) : State :=
  let f := fun (i : Nat) => Config.packetField i q
  let group := Config.packetList 2 q
  let x := farAcc q false false
  let p : CollPart := { idx := f 30, core := x.core, iid := 0, slot := 0, agent := x.agent, epoch := x.epoch, radius := f 31,
                        params := Config.packetList 3 q, src := 0, dst := 0,
                        far := some (List.zip (Config.packetData q) ((Config.packetList 1 q).map fun b => b != 0)) }
  s.joinColl (f 28) (f 29) (group.getD (f 30) 0) group p

/-- A request of another module served, by its kind. -/
def State.serve (s0 : State) (q : List Byte) : State :=
  let s := s0.learn q
  match Config.packetField 4 q with
  | 0 => s.serveRead q
  | 33 => s.serveCheck q
  | _ => s.serveAtomic q

/-- A packet delivered here: a request is served, a response answers its request, an ordered write is performed, and a
management packet may be an arrival at a collective. What an acknowledgement, an undeliverable response or another
management packet does is the device step of that name. -/
def State.deliverPacket (s : State) (port header : Nat) (payload : List Byte) : State :=
  let s1 := { s with delivered := s.delivered ++ [{ port := port, header := header, payload := payload }] }
  match hdrClass header with
  | 0 => s1.serve payload
  | 1 => s1.takeResponse payload
  | 2 => s1.takeWrite payload
  | _ => if Config.packetField 27 payload = 1 then (s1.learn payload).takeArrival payload else s1

/-- A packet received on a port (R20): forwarded by the field that HOP names, delivered where HOP is the hop count,
or undeliverable. -/
def State.forward (s : State) (port header : Nat) (payload : List Byte) : State :=
  let w := leAt payload 0 8
  let hop := hdrHop header
  if s.badHop w hop then s.returnPacket hop payload
  else if hop < routeHops w then s.sendOn (routePort w hop) (hdrClass header) (hop + 1) payload .transit
  else s.deliverPacket port header payload

end Sys2Proof.Machine
end

