-- ==== Sys2Proof/Machine/Twinik.lean ====
section
/-! DEFINITION. The Twinik device steps (R19 to R26): flits, naks and acknowledgements that arrive,
undeliverable responses, retraining, and the route table. -/

namespace Sys2Proof.Machine

open Sys2Proof

/-- The payload of an ack or a nak. -/
def controlPayload (kind seq : Nat) : List Byte := (List.range 64).map (Config.controlByte kind seq)

/-- A flit that belongs to no packet: an ack or a nak (R19, R23). -/
def State.sendControl (s : State) (port kind seq : Nat) : State :=
  s.transmit port [(flitHeader kind 0 0 seq 0, controlPayload kind seq)]

/-- A port set to retrain after a lasting fault (R23): it is counted. -/
def Port.lastingFault (p : Port) : Port :=
  { p with lasting := satAdd p.lasting 1 0xFF, up := false, retraining := true }

/-- The replay buffer's flits from one with a sequence number on, or all where it is not there. -/
def fromSeq (seq : Nat) : List Flit → List Flit
  | [] => []
  | f :: fs => if hdrSeq f.header = seq then f :: fs else fromSeq seq fs

/-- The replay buffer without the flits up to one with a sequence number (an ack frees them). -/
def afterSeq (seq : Nat) (fs : List Flit) : List Flit :=
  if fs.any fun f => hdrSeq f.header == seq then (fromSeq seq fs).drop 1 else fs

/-- How far the retry of a flit has gone, where one is under way. -/
def stageOf (seq : Nat) (l : List (Nat × RetryStage)) : Option RetryStage := (l.find? fun x => x.1 == seq).map fun x => x.2

/-- A nak for a flit (R23): the sender replays from it; the second nak for that flit is a lasting fault, which is
counted and leads to retraining; one after that retires the port. -/
def State.nak (s : State) (port seq : Nat) : State :=
  let p := s.port port
  let fs := fromSeq seq p.replay
  if p.retired || fs.isEmpty then s
  else
    match stageOf seq p.failing with
    | some .replayed => s.modPort port fun p => { p.lastingFault with failing := aset p.failing seq .retrained }
    | some .retrained => s.retirePort port
    | none => (s.modPort port fun p => { p with failing := aset p.failing seq .replayed }).sendFlits port fs

/-- An ack of the link (R19): the flits up to it leave the replay buffer, the retries of those have passed, and flits
that waited for room may go. DESIGN CHOICE: an ack is cumulative; the spec gives its KIND and not what its SEQ covers
(log 151). -/
def State.linkAck (s : State) (port seq : Nat) : State :=
  (s.modPort port fun p =>
    let left := afterSeq seq p.replay
    { p with replay := left, failing := p.failing.filter fun x => left.any fun f => hdrSeq f.header == x.1 }).pump port

/-- A failed check at the receiver (R23): it is answered by a nak with the flit's SEQ; a replay of that flit that
fails as well is a lasting fault, and one that fails after retraining retires the port. -/
def State.checkFailed (s : State) (port seq : Nat) : State :=
  match stageOf seq (s.port port).rxFailing with
  | some .replayed =>
    (s.sendControl port 6 seq).modPort port fun p => { p.lastingFault with rxFailing := aset p.rxFailing seq .retrained }
  | some .retrained => s.retirePort port
  | none => (s.modPort port fun p => { p with rxFailing := aset p.rxFailing seq .replayed }).sendControl port 6 seq

/-- The retries still under way at the receiver once a flit has been taken in order: those of flits after it. -/
def laterFailing (seq : Nat) (l : List (Nat × RetryStage)) : List (Nat × RetryStage) :=
  l.filter fun x => decide (1 ≤ (x.1 + 256 - seq) % 256) && decide ((x.1 + 256 - seq) % 256 < 128)

/-- A flit of a packet taken in order (R23): it is acknowledged, its buffer goes back to the peer as a credit
(R19), and an error that the replay mended was transient and is counted on this port (R28). -/
def State.acceptFlit (s : State) (port header : Nat) (payload : List Byte) : State :=
  let s1 := (s.modPort port fun p =>
    { p with rxSeq := (p.rxSeq + 1) % 256, rxFailing := laterFailing (hdrSeq header) p.rxFailing, owed := p.owed + 1,
             trans := if stageOf (hdrSeq header) p.rxFailing == some .replayed then satAdd p.trans 1 0xFFFF
               else p.trans }).sendControl port 5 (hdrSeq header)
  match hdrKind header, (s1.port port).rxPart with
  | 4, _ => s1.forward port header payload
  | 1, _ => s1.modPort port fun p => { p with rxPart := some (header, payload) }
  | 2, some (h, bs) => s1.modPort port fun p => { p with rxPart := some (h, bs ++ payload) }
  | 3, some (h, bs) => (s1.modPort port fun p => { p with rxPart := none }).forward port h (bs ++ payload)
  | _, _ => s1

/-- TWINIK_FLIT_RECEIVE (R19, R23): the check word is verified; a flit with KIND 7 counts as a failure; an ack
or a nak acts on the replay buffer; a flit out of sequence is a duplicate and is discarded. -/
def execTwinikFlitReceive (port : Nat) (header : Word) (payload : List Byte) (check : Word) (s : State) :
    Host.Outcome State Fault Refusal :=
  let h := header.toNat
  let p := s.port port
  if !p.carries then .next s
  else if crc32c (toBytes 4 h ++ payload) != check || hdrKind h = 7 then .next (s.checkFailed port (hdrSeq h))
  else
    match hdrKind h with
    | 0 => .next s
    | 5 => .next (s.linkAck port (hdrSeq h))
    | 6 => .next (s.nak port (hdrSeq h))
    | _ => .next (if hdrSeq h = p.rxSeq then s.acceptFlit port h payload else s)

/-- TWINIK_NAK_RECEIVE (R23). -/
def execTwinikNakReceive (port seq : Nat) (s : State) : Host.Outcome State Fault Refusal :=
  .next (s.nak port (seq % 256))

/-- TWINIK_ACK_RECEIVE (R22): an ordered write is acknowledged end to end; writes that waited for it across a
route switch may go. -/
def execTwinikAckReceive (module id : Nat) (s : State) : Host.Outcome State Fault Refusal :=
  let s1 := { s with owrites := s.owrites.filter fun o => !(o.dest == module && o.id == id && o.st == OwState.outstanding) }
  .next (s1.failover module)

/-- UNDELIVERABLE_RESPONSE (R21, R22): the route that the packet took is marked failed; an ordered write that
came back is sent again on the other route, before any newer one; a request is sent again likewise, and where both
routes have failed its requester has the undeliverable fault. -/
def execUndeliverableResponse (module : Nat) (alternate : Bool) (packet : Option Nat) (s : State) :
    Host.Outcome State Fault Refusal :=
  let s1 := s.modRoute module fun r => r.fail alternate
  let s2 := match packet with
    | some id => { s1 with owrites := modFirst (fun o => o.id == id && o.dest == module && o.st == OwState.outstanding)
                                        (fun o => { o with st := .returned }) s1.owrites }
    | none => s1
  let s3 := match packet.bind fun id => s2.asks.find? fun a => a.id == id && a.dest == module && a.st == .sent alternate with
    | some a => (s2.checkRoute module).sendAsk a
    | none => s2
  .next (s3.failover module)

/-- PORT_RETRAIN (R25): a port that is not retired retrains. -/
def execPortRetrain (port : Nat) (s : State) : Host.Outcome State Fault Refusal :=
  if (s.port port).retired || !decide (port < 24) then .next s
  else .next (s.modPort port fun p => { p with retraining := true, up := false })

/-- PORT_RETRAIN_DONE (R23): the port carries flits again and replays, or is retired. DESIGN CHOICE: it replays its whole
buffer, and not from the failing flit on (log 151). -/
def execPortRetrainDone (port : Nat) (ok : Bool) (s : State) : Host.Outcome State Fault Refusal :=
  let p := s.port port
  if !p.retraining then .next s
  else if !ok then .next (s.retirePort port)
  else .next (((s.modPort port fun p => { p with retraining := false, up := true }).sendFlits port p.replay).pump port)

/-- PORT_RETIRE (R24). -/
def execPortRetire (port : Nat) (s : State) : Host.Outcome State Fault Refusal := .next (s.retirePort port)

/-- A measurement register extended with a digest (R30). -/
def State.extend (s : State) (i : Nat) (x : List Byte) : State :=
  { s with attest := { s.attest with meas := setAt s.attest.meas i (sm3 (s.attest.meas.getD i [] ++ x)) } }

/-- A write of a route-table word (R26): a new route word clears its failure bit, which is set at once where
the hop count is bad; the other words are read-only; every write extends DR_MEAS3. -/
def State.writeRoute (s : State) (m word v : Nat) : State :=
  let s1 := match word with
    | 0 => s.modRoute m fun r => { r with primary := v % 2 ^ 64, priFail := !routeHopsOk v }
    | 1 => s.modRoute m fun r => { r with alternate := v % 2 ^ 64, altFail := !routeHopsOk v }
    | _ => s
  let r := s1.route m
  (s1.extend 3 (toBytes 32 (Config.routeDigest [m, word, r.primary, r.alternate]).toNat)).failover m

/-- ROUTE_TABLE_WRITE (R26). -/
def execRouteTableWrite (module word value : Nat) (s : State) : Host.Outcome State Fault Refusal :=
  .next (if module < 4096 then s.writeRoute module (word % 4) value else s)

end Sys2Proof.Machine
end

