-- ==== Sys2Proof/Machine/Boot.lean ====
section
/-! DEFINITION. Boot, firmware and attestation (R29 to R32): DEVICE_RESET, FIRMWARE_LOAD,
MEASUREMENT_EXTEND, QUOTE_BUILD and QUOTE_COMPLETE. -/

namespace Sys2Proof.Machine

open Sys2Proof

/-- The step of R29 that an image fails, 0 where it passes (R32 FAIL). -/
def imageFail (image : List Byte) : Nat :=
  if !Config.imageReadable image then 1
  else if !Config.imageSigned image then 2
  else if Config.imageVersion image < Config.minVersion then 3
  else 0

/-- A core's parts found retired at boot, the rest as after reset (R106, R109): `elems` are its retired elements as a
mask, `links` its retired switch links by element and heading. -/
def Core.found (k : Core) (elems : Nat) (links : List (Nat × Nat)) : Core :=
  { k with regs := { k.regs with elret := elems % 2 ^ 64 }, deadLinks := links }

/-- The cores with retired parts, found at boot (R60, R106, R109). -/
def bootCores (f : FabricFaults) : List (Nat × Core) :=
  let mask := fun (c : Nat) => ((f.elems.find? fun p => p.1 == c).map fun p => p.2).getD 0
  let dead := fun (c : Nat) => (f.links.filter fun p => p.1 == c).map fun p => p.2
  (f.elems.map fun p => p.1).foldl addMem ((f.links.map fun p => p.1).foldl addMem []) |>.foldl
    (fun ks c => aset ks c (Core.reset.found (mask c) (dead c))) []

/-- The device right after a reset, before the boot ROM's checks: every register at its reset value, with the retired
cores, elements and switch links that are found at boot; memory, the firmware image and what the outside has been sent
stay. -/
def State.afterReset (s : State) (cores : List Nat) (elems : FabricFaults) : State :=
  { State.reset with
    mem := s.mem, memPoison := s.memPoison, sent := s.sent, delivered := s.delivered, hostOut := s.hostOut,
    fw := { Firmware.reset with image := s.fw.image, recovery := s.fw.recovery },
    retired := cores.foldl addMem [], cores := bootCores elems, agenda := s.agenda, freeCtr := s.freeCtr,
    absent := s.absent }

/-- The boot ROM (R29, R30): an image that passes runs and is measured; another sends the device into
recovery. -/
def State.boot (s : State) : State :=
  match imageFail s.fw.image with
  | 0 =>
    let s1 := { s with fw := { s.fw with state := 1, secver := (Config.imageVersion s.fw.image).toNat } }
    (s1.extend 0 (sm3 s.fw.image)).extend 1 (toBytes 32 Config.identityDigest.toNat)
  | n => { s with fw := { s.fw with state := 2, fail := n } }

/-- DEVICE_RESET (R29): `cores` and `elems` are the retired cores and the retired elements and switch links found at boot. -/
def execDeviceReset (cores : List Nat) (elems : FabricFaults) (s : State) : Host.Outcome State Fault Refusal :=
  .next (s.afterReset cores elems).boot

/-- The image in the recovery window (R32): LEN units of 4 KiB. -/
def Firmware.window (f : Firmware) : List Byte := memRead f.recovery 0 (4096 * f.len)

/-- A LOAD (R32): the image in the recovery window is checked, and stored where it passes, with which the device
is reset; a failed check leaves the device in recovery. -/
def State.loadFirmware (s : State) (cores : List Nat) (elems : FabricFaults) : State :=
  let s1 := { s with fw := { s.fw with state := 2 } }
  if s.fw.len = 0 ∨ 12288 < s.fw.len then { s1 with fw := { s1.fw with fail := 4, secver := 0 } }
  else
    match imageFail s.fw.window with
    | 0 => (({ s1 with fw := { s1.fw with image := s.fw.window } }).afterReset cores elems).boot
    | n => { s1 with fw := { s1.fw with fail := n, secver := 0 } }

/-- Whether a LOAD is taken (R32): in recovery, or while running with no partition enabled. DESIGN CHOICE: in recovery it
is taken whatever EN is, though R32 ignores a LOAD while a partition has EN set (log 150). -/
def State.loadTaken (s : State) : Bool :=
  s.fw.state == 2 || (s.fw.state == 1 && !(s.parts.any fun p => p.2.en))

/-- FIRMWARE_LOAD (R32): a write of DR_FWCTL with LOAD set and LEN; `cores` and `elems` are what the
reset finds. -/
def execFirmwareLoad (len : Nat) (cores : List Nat) (elems : FabricFaults) (s : State) :
    Host.Outcome State Fault Refusal :=
  let s1 := { s with fw := { s.fw with len := len % 65536 } }
  .next (if s1.loadTaken then s1.loadFirmware cores elems else s1)

/-- MEASUREMENT_EXTEND (R30, R32): a write of DR_MEASCTL with GO set and REG. -/
def execMeasurementExtend (reg : Nat) (s : State) : Host.Outcome State Fault Refusal :=
  let r := reg % 8
  let s1 := { s with attest := { s.attest with measReg := r } }
  .next (if r < 4 then s1 else s1.extend r s1.attest.dig)

/-- QUOTE_BUILD (R31, R32): a write of DR_QCTL with GO set. -/
def execQuoteBuild (s : State) : Host.Outcome State Fault Refusal :=
  .next { s with attest := { s.attest with qBusy := true, qDone := false } }

/-- The bytes of a quote that the signature covers (R31). -/
def State.quoteBody (s : State) : List Byte :=
  toBytes 4 1 ++ toBytes 4 Config.moduleId.toNat ++ s.attest.nonce ++ s.attest.meas.flatten ++ toBytes 4 s.fw.secver ++
    toBytes 4 0

/-- QUOTE_COMPLETE (R31, R32): the quote under way is finished over the latest nonce. DESIGN CHOICE: it holds the
measurements as they are at its completion (log 118). -/
def execQuoteComplete (s : State) : Host.Outcome State Fault Refusal :=
  if !s.attest.qBusy then .next s
  else
    let b := s.quoteBody
    .next { s with attest := { s.attest with
      quote := b ++ toBytes 64 (Config.quoteSignature b).toNat, qBusy := false, qDone := true } }

end Sys2Proof.Machine
end

