-- ==== Sys2Proof/Machine/MatReg.lean ====
section
/-! DEFINITION. The matrix unit's registers (R324 to R328): the elements of ma and acc registers,
allotments, the operands of R117 in the scratchpad, and the frame of the forms issued to n122
(R330). -/

namespace Sys2Proof.Machine

open Sys2Proof

/-! ### ma registers (R324) -/

/-- The bytes of a register row that hold elements (R324). -/
def maRowBytes (f : Fmt) : Nat :=
  match f with
  | .tern5 => 13
  | f => elemBytes f 64

/-- Row `r` of a register, 128 bytes. -/
def MaReg.row (m : MaReg) (r : Nat) : List Byte := slice m.data (128 * r) 128

/-- The codes of row `r`'s 64 elements. -/
def MaReg.codes (m : MaReg) (f : Fmt) (r : Nat) : List Nat :=
  let bs := m.row r
  (List.range 64).map fun c => elemAt f bs c

/-- The packed bits of a row's codes. -/
def rowBits (f : Fmt) (es : List Nat) : Nat :=
  (List.zipIdx es).foldl (fun a p => a + p.1 % 2 ^ fmtBits f * 2 ^ elemBit f p.2) 0

/-- A row of codes as bytes (R210, R324). -/
def packRow (f : Fmt) (es : List Nat) : List Byte := toBytes 128 (rowBits f es)

/-- The scale pair of element (r, c) (R222). -/
def MaReg.pair (m : MaReg) (r c : Nat) : Nat × Nat :=
  let o := if m.orient then 2 * (2 * c + r / 32) else 2 * (2 * r + c / 32)
  (leAt m.scale o 1, leAt m.scale (o + 1) 1)

/-- Trit `c` of a row of TERN5 bytes (R324). -/
def tritAt (bs : List Byte) (c : Nat) : Int := (decT5 (leAt bs (c / 5) 1)).getD (c % 5) 0

/-- The integers of row `r` of a register held in an integer format. -/
def MaReg.ints (m : MaReg) (f : Fmt) (r : Nat) : List Int :=
  let bs := m.row r
  match f with
  | .tern5 => (List.range 64).map (tritAt bs)
  | f => (List.range 64).map fun c => intElem f (elemAt f bs c)

/-- The exact values of row `r` (R218, R224). A register never written reads as zero. -/
def MaReg.vals (m : MaReg) (r : Nat) : List FV :=
  match fmtOf m.fmt with
  | none => List.replicate 64 (.fin false 0 0)
  | some f =>
    if !m.written then List.replicate 64 (.fin false 0 0)
    else
      let bs := m.row r
      match fmtFloat f with
      | some F => (List.range 64).map fun c => F.decode (elemAt f bs c)
      | none =>
        if fmtFB f then
          (List.range 64).map fun c =>
            let p := m.pair r c
            decFB f (elemAt f bs c) p.1 p.2
        else (m.ints f r).map fun x => FV.ofInt false x 0

/-- Whether a register is held in a format, and, for FB, with ORIENT 0 (R338). -/
def MaReg.heldIn (m : MaReg) (f : Fmt) : Bool :=
  m.fmt == fmtCode f && !(fmtFB f && m.orient) && (m.written || m.fmt == 0)

/-- A register written with rows of codes. -/
def maMake (f : Fmt) (orient : Bool) (prow : Nat) (rows : List (List Nat)) (scale : List Byte) : MaReg where
  data := rows.flatMap (packRow f)
  scale := scale
  fmt := fmtCode f
  orient := orient
  written := true
  prow := prow

/-- A mask of 64 rows from a test. -/
def mask64 (p : Nat → Bool) : Nat :=
  (List.range 64).foldl (fun a r => if p r then a + 2 ^ r else a) 0

/-- Every row. -/
def allRows : Nat := 2 ^ 64 - 1

/-- The default NaN as a value. -/
def fvNaN : FV := fp32.decode fp32.defNaN

/-- Rows of a register as FP32 words (R346): a marked row is the default NaN throughout (R332). -/
def MaReg.f32Row (m : MaReg) (r : Nat) : List Nat :=
  if bit m.prow r then List.replicate 64 fp32.defNaN else (m.vals r).map (fp32.encode .rne)

/-- Rows of a register as values, a marked row as the default NaN. -/
def MaReg.nanVals (m : MaReg) (r : Nat) : List FV :=
  if bit m.prow r then List.replicate 64 fvNaN else m.vals r

/-- A core with a register ma`i` replaced. -/
def Core.setMa (k : Core) (i : Nat) (m : MaReg) : Core := { k with mas := aset k.mas i m }

/-! ### Accumulators (R325) -/

/-- The active bank. -/
def AccReg.cur (a : AccReg) : List Word := if a.active then a.bank1 else a.bank0

/-- Element (i, j) of the active bank. -/
def AccReg.at (a : AccReg) (i j : Nat) : Nat := (a.cur.getD (64 * i + j) 0).toNat

/-- Row i of the active bank. -/
def AccReg.row (a : AccReg) (i : Nat) : List Nat := (List.range 64).map fun j => a.at i j

/-- All rows of the active bank. -/
def AccReg.rows (a : AccReg) : List (List Nat) := (List.range 64).map a.row

/-- The accumulator with its active bank replaced. -/
def AccReg.setCur (a : AccReg) (l : List Word) : AccReg :=
  if a.active then { a with bank1 := l } else { a with bank0 := l }

/-- Rows as the words of a bank. -/
def bankOf (rows : List (List Nat)) : List Word := rows.flatMap fun r => r.map (BitVec.ofNat 32)

/-- The accumulator with its active bank replaced by rows, and written. -/
def AccReg.put (a : AccReg) (rows : List (List Nat)) : AccReg :=
  { a.setCur (bankOf rows) with written := true }

/-- The accumulator with rows in its shadow bank, which becomes active (R346). -/
def AccReg.flip (a : AccReg) (rows : List (List Nat)) : AccReg :=
  { { a with active := !a.active }.setCur (bankOf rows) with written := true }

/-- Whether an accumulator's elements are INT32. -/
def AccReg.isInt (a : AccReg) : Bool := a.int && a.written

/-- The poison of element (i, j) of an INT32 accumulator (R325). -/
def AccReg.elemPoison (a : AccReg) (i j : Nat) : Bool := a.isInt && (bit a.prow i || bit a.pcol j)

/-- The accumulator as FP32 with no INT32 poison. -/
def AccReg.asFloat (a : AccReg) : AccReg := { a with int := false, prow := 0, pcol := 0 }

/-- A core with a register acc`i` replaced. -/
def Core.setAcc (k : Core) (i : Nat) (a : AccReg) : Core := { k with accs := aset k.accs i a }

/-! ### Allotments (R328) -/

/-- A register of the unit that a form names. -/
inductive MReg where
  | ma (n : Nat) | acc (n : Nat) | md (n : Nat) | pt (n : Nat) | ss (n : Nat) | gd (n : Nat)
  deriving DecidableEq, Repr

/-- A register's number. -/
def MReg.num : MReg → Nat
  | .ma n => n | .acc n => n | .md n => n | .pt n => n | .ss n => n | .gd n => n

/-- Whether an allotment holds a register, which lies in its file. -/
def MReg.allowed (allot : Nat) : MReg → Bool
  | .ma n => decide (n < 16) && bit allot n
  | .acc n => decide (n < 8) && bit allot (16 + n)
  | .md n => decide (n < 8) && bit allot (24 + n)
  | .pt n => decide (n < 16) && bit allot (32 + n)
  | .ss n => decide (n < 4) && bit allot (48 + n)
  | .gd n => decide (n < 4) && bit allot (52 + n)

/-- What a form of the matrix unit names (R266, R328, R334): its registers with a step added to the
stepped ones, a field that the step may not pass, and whether it accesses memory. -/
structure MNames where
  regs : Nat → List MReg
  field : Nat
  top : Nat
  mem : Bool

/-- A form of the matrix port (R85, R330): it waits behind an earlier request there; the registers of
this iteration, and of the last before the first, lie in its colour's allotment (R266, R328), and its
token's tag does not overflow. The allotment is the one that the request issued with (R328). `g` performs it with
the step of this iteration. -/
def matOp (names : MNames) (s : State) (g : OpIn → Nat → State) : Host.Outcome State Fault Refusal :=
  runOp s fun o =>
    let d := o.f.stepBy
    let last := match o.f.rep with
      | some r => if r.left = r.n then (r.n - 1) * r.stride else d
      | none => d
    let allot := o.f.ticket.allot.getD (s.colourOf o).allot
    if s.portBusy o .matrix then s.hold o .matrix .port
    else if names.mem && s.hasArrived o.c then s.hold o .matrix .step
    else if s.tagBadM o o.head then s.tagTrap o o.head.tg.toNat
    else if names.top < names.field + last then s.illegal o (names.field + last) 266
    else
      match (names.regs last ++ names.regs d).find? fun r => !r.allowed allot with
      | some r => s.illegal o r.num 328
      | none => g o d

/-- The names of a form without a stepped field that accesses no memory. -/
def namesOf (regs : Nat → List MReg) : MNames := { regs := regs, field := 0, top := 2 ^ 32, mem := false }

/-- The names of a form without a stepped field that reads memory. -/
def memNames (regs : Nat → List MReg) : MNames := { namesOf regs with mem := true }

/-- A format-mismatch trap (R190): the expected and the found format. -/
def State.formatTrap (s : State) (o : OpIn) (want got : Nat) : State :=
  s.trapOp o 4 0 (Config.formatDetail want got).toNat 0 o.f.first

/-- A local block of `n` bytes at the address in left lane 0, aligned to `al` (R332); or the state in
which the read has been dealt with. -/
def State.paramBlock (s : State) (o : OpIn) (n al rule : Nat) : Except State (List Byte × State) :=
  let a := o.value
  if (lane0 o.f.left).poison then .error (s.poisonTrap o a 1 o.f.left)
  else if a % al ≠ 0 ∨ 0x200000 < a + n then .error (s.illegal o a rule)
  else s.readBlock o .matrix a n

/-! ### Operands in the scratchpad (R117) -/

/-- An operand: the address of row 0, the bytes between rows and the bank rotation. -/
structure Operand where
  base : Nat
  pitch : Nat
  rot : Nat
  deriving DecidableEq, Repr

/-- The operand that words A and B name, TILEPITCH taken `it` times, or none where a field is bad. -/
def operandOf (a b it : Nat) : Option Operand :=
  if bits a 0 4 = 0 ∧ bits b 4 12 = 0 ∧ bits a 4 13 ≠ 0 then
    some { base := bits a 17 15 * 64 + it * (bits b 16 16 * 64), pitch := bits a 4 13 * 16, rot := bits b 0 4 }
  else none

/-- The address after bank rotation, for row `i`. -/
def Operand.rotate (d : Operand) (i a : Nat) : Nat :=
  a - bits a 6 5 * 64 + (bits a 6 5 + i * d.rot) % 32 * 64

/-- The pieces of row `i`, `n` bytes long, each within one line, at the addresses accessed. -/
def Operand.pieces (d : Operand) (i n : Nat) : List (Nat × Nat) :=
  (Sys2Proof.Machine.pieces (n / 64 + 2) (d.base + i * d.pitch) n).map fun p => (d.rotate i p.1, p.2)

/-- Whether `m` rows of `n` bytes lie within the scratchpad. -/
def Operand.fits (d : Operand) (m n : Nat) : Bool := decide (d.base + (m - 1) * d.pitch + n ≤ 0x200000)

/-- Pieces read as plain loads, each byte with its line's poison. -/
def State.loadPieces (s : State) (o : OpIn) : List (Nat × Nat) → Except AccErr (List PByte × State)
  | [] => .ok ([], s)
  | (a, n) :: r =>
    match s.loadP o a n with
    | .error e => .error e
    | .ok (bs, s1) =>
      match s1.loadPieces o r with
      | .error e => .error e
      | .ok (l, s2) => .ok (bs ++ l, s2)

/-- Rows of an operand read. -/
def State.loadRows (s : State) (o : OpIn) (d : Operand) (n : Nat) :
    List Nat → Except AccErr (List (List PByte) × State)
  | [] => .ok ([], s)
  | i :: r =>
    match s.loadPieces o (d.pieces i n) with
    | .error e => .error e
    | .ok (l, s1) =>
      match s1.loadRows o d n r with
      | .error e => .error e
      | .ok (ls, s2) => .ok (l :: ls, s2)

/-- The checked pieces of a row to be stored at the commit, with its bytes and their poison. -/
def State.storePieces (s : State) (o : OpIn) :
    List (Nat × Nat) → List PByte → Except AccErr (List (Nat × List (Target × Nat)) × List Seg)
  | [], _ => .ok ([], [])
  | (a, n) :: r, bs =>
    match s.access o .write a n with
    | .error e => .error e
    | .ok ts =>
      match s.storePieces o r (bs.drop n) with
      | .error e => .error e
      | .ok (l, g) => .ok ((a, ts) :: l, segsP ts (bs.take n) ++ g)

/-- Rows of an operand to be stored at the commit. -/
def State.storeRows (s : State) (o : OpIn) (d : Operand) :
    List (Nat × List PByte) → Except AccErr (List (Nat × List (Target × Nat)) × List Seg)
  | [] => .ok ([], [])
  | (i, bs) :: r =>
    match s.storePieces o (d.pieces i bs.length) bs with
    | .error e => .error e
    | .ok (l, g) =>
      match s.storeRows o d r with
      | .error e => .error e
      | .ok (l2, g2) => .ok (l ++ l2, g ++ g2)

/-- The 8-byte operand descriptor of MLD and MST at left lane 0 (R335). -/
def State.readOperand (s : State) (o : OpIn) : Except State (Operand × State) :=
  match s.paramBlock o 8 8 335 with
  | .error t => .error t
  | .ok (bs, s1) =>
    match operandOf (leAt bs 0 4) (leAt bs 4 4) o.f.iter with
    | none => .error (s.illegal o (leAt bs 0 4) 117)
    | some d => .ok (d, s1)

/-- An operation that waited for a tile to be ready reads it after the writes counted in the fill,
those of its own instance included (R120, R177). DEDUCED (log 42). -/
def OpIn.afterFill (o : OpIn) (t : Tile) : OpIn :=
  { o with i := { o.i with accs := o.i.accs.filter fun a => !(a.acc.write && t.holds a.line.addr) } }

end Sys2Proof.Machine
end

