-- ==== Sys2Proof/Machine/Matrix.lean ====
section
/-! DEFINITION. Matrix instructions (R335 to R344, R350): loads and stores of the unit's registers,
products, compression, conversions, accumulator rows and tile predicates. -/

namespace Sys2Proof.Machine

open Sys2Proof

/-! ### MLD (R335, R336) -/

/-- The register that a KIND names. -/
def kindReg (k : MKind) (n : Nat) : MReg :=
  match k with
  | .ma => .ma n
  | .md => .md n
  | .acc => .acc n

/-- What MLD and MST name. -/
def loadNames (kind : MKind) (reg tile pten pt : Nat) : MNames where
  regs := fun d => kindReg kind (reg + d) :: (if pten = 1 then [.pt pt] else [])
  field := tile
  top := 255
  mem := true

/-- Whether an MLD of a KIND takes its rows from the matrix operand path, by its left lanes (R335, R336). -/
def fromPath (kind : MKind) (left : List Lane) : Bool := kind == .ma && (lane0 left).val == 0xFFFFFFFF

/-- The left lanes of the matched set that is being executed. -/
def State.firedLeft (s : State) : List Lane :=
  match s.firing with
  | some (_, f) => f.left
  | none => []

/-- What MLD names: from the matrix operand path its register alone, as TILE and PTEN are ignored there (R336). -/
def mldNames (path : Bool) (kind : MKind) (reg tile pten pt : Nat) : MNames :=
  if path then namesOf fun d => [.ma (reg + d)] else loadNames kind reg tile pten pt

/-- An ma register's rows from the memory rows of an operand: with T the elements are transposed. The bits of an
FB6 row that hold no element are zero (R210, R217). -/
def maLoad (f : Fmt) (t mo : Bool) (rows : List (List PByte)) (plane : List PByte) : MaReg :=
  let raw := rows.map fun r => r.map fun b => b.1
  let orient := mo != t
  let elemP := fun (r : Nat) =>
    if t then rows.any fun m => poisonAt m (elemBit f r) (fmtBits f)
    else (rows.getD r []).any fun b => b.2
  let planeP := fun (r : Nat) =>
    if orient then plane.any fun b => b.2 else ((plane.drop (4 * r)).take 4).any fun b => b.2
  let data := if t then
      (List.range 64).flatMap fun r => packRow f (raw.map fun m => elemAt f m r)
    else if f = .fb6 then raw.flatMap fun m => packRow f ((List.range 64).map fun c => elemAt f m c)
    else raw.flatMap fun r => slice r 0 128
  { data := data, scale := plane.map fun b => b.1, fmt := fmtCode f, orient := orient, written := true,
    prow := mask64 fun r => elemP r || planeP r }

/-- MLD's effect on an ma register. -/
def State.mldMa (s : State) (o : OpIn) (f : Fmt) (reg : Nat) (t mo : Bool) (d : Operand) :
    Except State State :=
  let n := maRowBytes f
  if !d.fits (if fmtFB f then 65 else 64) (if fmtFB f then 256 else n) || !d.fits 64 n then
    .error (s.illegal o (d.base + 63 * d.pitch) 117)
  else
    match s.loadRows o d n (List.range 64) with
    | .error e => .error (s.accFail o .matrix false o.f.first e)
    | .ok (rows, s1) =>
      match s1.loadRows o d 256 (if fmtFB f then [64] else []) with
      | .error e => .error (s.accFail o .matrix false o.f.first e)
      | .ok (pl, s2) =>
        .ok (s2.modCore o.c fun k => k.setMa reg (maLoad f t mo rows pl.flatten))

/-- MLD's effect on an md register. -/
def State.mldMd (s : State) (o : OpIn) (reg : Nat) (d : Operand) : Except State State :=
  if !d.fits 8 128 then .error (s.illegal o (d.base + 7 * d.pitch) 117)
  else
    match s.loadRows o d 128 (List.range 8) with
    | .error e => .error (s.accFail o .matrix false o.f.first e)
    | .ok (rows, s1) =>
      let bs := rows.flatten
      let m : MdReg :=
        { data := bs.map fun b => b.1, written := true,
          prow := mask64 fun i => ((bs.drop (16 * i)).take 16).any fun b => b.2 }
      .ok (s1.modCore o.c fun k => { k with mds := aset k.mds reg m })

/-- MLD's effect on an accumulator (R332, R335). -/
def State.mldAcc (s : State) (o : OpIn) (int : Bool) (reg : Nat) (d : Operand) : Except State State :=
  if !d.fits 64 256 then .error (s.illegal o (d.base + 63 * d.pitch) 117)
  else
    match s.loadRows o d 256 (List.range 64) with
    | .error e => .error (s.accFail o .matrix false o.f.first e)
    | .ok (rows, s1) =>
      let elem := fun (r : List PByte) (j : Nat) =>
        let p := poisonAt r (32 * j) 32
        if p && !int then fp32.defNaN else leAt (r.map fun b => b.1) (4 * j) 4
      let bad := rows.any fun r => r.any fun b => b.2
      .ok (s1.modCore o.c fun k =>
        let a := (k.acc reg).put (rows.map fun r => (List.range 64).map (elem r))
        k.setAcc reg { a with
          int := int, pcol := 0, psum := a.psum || bad,
          prow := if int then mask64 fun i => (rows.getD i []).any fun b => b.2 else 0 })

/-- The node that feeds the matrix operand path (R336), with its EWORDS. -/
def Core.pathNode (k : Core) : Option (Nat × Node) :=
  k.nodes.find? fun p => p.2.dest == 8 && p.2.kind == 3 && p.2.state != 0

/-- MLD from the matrix operand path (R336). -/
def State.mldPath (s : State) (o : OpIn) (h : OpWord) (f : Fmt) (reg : Nat) : State :=
  let k := s.core o.c
  let n := maRowBytes f
  if fmtFB f || f == Fmt.tern5 then s.formatTrap o (fmtCode f) (fmtCode f)
  else
    let words := match k.matPath with
      | (i, _) :: _ => descEwords (k.node i).desc
      | [] =>
        match k.pathNode with
        | some (_, x) => descEwords x.desc
        | none => n / 4
    if words ≠ n / 4 then s.illegal o words 336
    else if k.matPath.length < 64 then
      (match k.badNode 8 with
       | some (i, t) => s.takeBad o i t
       | none => s.hold o .matrix .path)
    else
      let rows := k.matPath.take 64
      let row := fun (l : List Lane) => slice (l.flatMap fun x => toBytes 4 x.val.toNat) 0 128
      let m : MaReg :=
        { data := rows.flatMap fun p => row p.2, scale := [], fmt := fmtCode f, orient := false,
          written := true, prow := mask64 fun r => anyPoison ((rows.getD r (0, [])).2) }
      (s.modCore o.c fun k =>
        let k1 := rows.foldl (fun k p => k.taken (some p.1)) k
        { k1.setMa reg m with matPath := k.matPath.drop 64 }).finishM o h 0

/-- Whether a tile predicate lets a request go on (R121). -/
def State.tilePred (s : State) (c pten pt tile : Nat) : Bool :=
  pten == 0 || bit ((s.core c).pt pt) (tile % 64)

/-- MLD (R335). -/
def execMld (h : OpWord) (fmt : Fmt) (reg : BitVec 4) (tile : BitVec 8) (pten : BitVec 1) (pt : BitVec 4)
    (t mo : BitVec 1) (kind : MKind) (s : State) : Host.Outcome State Fault Refusal :=
  matOp (mldNames (fromPath kind s.firedLeft) kind reg.toNat tile.toNat pten.toNat pt.toNat) s fun o d =>
    let n := tile.toNat + d
    let r := reg.toNat + d
    let tl := (s.core o.c).tile n
    let path := fromPath kind o.f.left
    if !path && !s.tilePred o.c pten.toNat pt.toNat n then s.finishM o h 0
    else if (lane0 o.f.left).poison then s.poisonTrap o o.value 1 o.f.left
    else if path then s.mldPath o h fmt r
    else if tl.valid = false then s.illegal o n 120
    else if tl.state ≠ 2 then s.hold o .matrix (.tile n)
    else
      let o1 := o.afterFill tl
      let s1 := s.acquireAll (s.agent o.c o.colour) tl.rels
      match s1.readOperand o1 with
      | .error t => t
      | .ok (d, s2) =>
        let r := match kind with
          | .ma => s2.mldMa o1 fmt r (t == 1) (mo == 1) d
          | .md => s2.mldMd o1 r d
          | .acc => s2.mldAcc o1 (fmt == Fmt.int32) r d
        match r with
        | .error t => t
        | .ok s3 => s3.finishM o h 0

/-! ### MST (R335) -/

/-- The rows an ma register stores, with their memory row numbers: data rows, then the scale plane of
an FB register. -/
def maStore (m : MaReg) (f : Fmt) (t : Bool) : List (Nat × List PByte) :=
  let n := maRowBytes f
  let rows := (List.range 64).map fun i =>
    if t then
      let es := (List.range 64).map fun c => elemAt f (m.row c) i
      let bs := (packRow f es).take n
      (i, (List.zipIdx bs).map fun b => (b.1,
        (List.range 64).any fun c => bit m.prow c && decide (elemBit f c / 8 ≤ b.2) &&
          decide (b.2 ≤ (elemBit f c + fmtBits f - 1) / 8)))
    else (i, ((m.row i).take n).map fun b => (b, bit m.prow i))
  let plane := (List.range 256).map fun j =>
    (BitVec.ofNat 8 (leAt m.scale j 1), if m.orient then m.prow != 0 else bit m.prow (j / 4))
  rows ++ (if fmtFB f then [(64, plane)] else [])

/-- The rows an md register stores. -/
def mdStore (m : MdReg) : List (Nat × List PByte) :=
  (List.range 8).map fun u =>
    (u, (List.range 128).map fun j =>
      (BitVec.ofNat 8 (leAt m.data (128 * u + j) 1), bit m.prow ((128 * u + j) / 16)))

/-- Whether an accumulator of a type stores in a format (R335). -/
def accStores (int : Bool) (f : Fmt) : Bool :=
  if int then f == .int32 || f == .int8 else f == .fp32 || f == .fp16 || f == .bf16 || f == .int32

/-- An accumulator's element in a format. -/
def accElem (int : Bool) (f : Fmt) (x : Nat) : Nat :=
  if int then (if f = .int8 then satS 8 (sval 32 x) else x)
  else
    match f with
    | .int32 => cvtIntV .rne 32 true (fp32.decode x)
    | .fp32 => x
    | f => (destForm f).encode .rne (fp32.decode x)

/-- The rows an accumulator stores. An FP32 element's poison stays its default NaN (R325). -/
def accStore (a : AccReg) (int : Bool) (f : Fmt) : List (Nat × List PByte) :=
  (List.range 64).map fun i =>
    (i, (List.range 64).flatMap fun j =>
      (toBytes (fmtBits f / 8) (accElem int f (a.at i j))).map fun b => (b, a.elemPoison i j))

/-- MST (R335): a counted output whose lines are written at the commit. -/
def execMst (h : OpWord) (fmt : Fmt) (reg : BitVec 4) (tile : BitVec 8) (pten : BitVec 1) (pt : BitVec 4)
    (t _mo : BitVec 1) (kind : MKind) (s : State) : Host.Outcome State Fault Refusal :=
  matOp (loadNames kind reg.toNat tile.toNat pten.toNat pt.toNat) s fun o d =>
    let n := tile.toNat + d
    let r := reg.toNat + d
    let k := s.core o.c
    let tl := k.tile n
    if o.overCount then s.illegal o o.value 100
    else if !s.tilePred o.c pten.toNat pt.toNat n then s.finishM o h 0
    else if (lane0 o.f.left).poison then s.poisonTrap o o.value 1 o.f.left
    else if tl.valid = false then s.illegal o n 120
    else if tl.state ≠ 1 then s.hold o .matrix (.tile n)
    else
      match s.readOperand o with
      | .error t => t
      | .ok (d, s1) =>
        let m := k.ma r
        let a := k.acc r
        let int := if a.written then a.int else fmt == Fmt.int32 || fmt == Fmt.int8
        let bad := match kind with
          | .ma => if m.fmt = fmtCode fmt then none else some m.fmt
          | .acc => if accStores int fmt then none else some (if int then 8 else 0)
          | .md => none
        match bad with
        | some got => s.formatTrap o (fmtCode fmt) got
        | none =>
          let rows := match kind with
            | .ma => maStore m fmt (t == 1)
            | .md => mdStore (k.md r)
            | .acc => accStore a int fmt
          match rows.find? fun p => !d.fits (p.1 + 1) p.2.length with
          | some p => s.illegal o (d.base + p.1 * d.pitch) 117
          | none =>
            match s1.storeRows o d rows with
            | .error e => s.accFail o .matrix true o.f.first e
            | .ok (l, segs) => ((s1.noteStores o l).atCommit o (.store o.f.slot segs)).finishM o h 0

/-! ### Clearing and products (R337 to R340) -/

/-- 64 rows of zeros. -/
def zeroRows : List (List Nat) := List.replicate 64 (List.replicate 64 0)

/-- An accumulator cleared (R337). -/
def AccReg.cleared (a : AccReg) (int : Bool) : AccReg :=
  { a.put zeroRows with int := int, prow := 0, pcol := 0, psum := false }

/-- -Inf as FP32. -/
def negInf32 : Nat := 0xFF800000

/-- MZERO (R337). -/
def execMzero (h : OpWord) (acc : BitVec 3) (int empty : BitVec 1) (s : State) :
    Host.Outcome State Fault Refusal :=
  let names : MNames := namesOf fun d =>
    .acc (acc.toNat + d) :: (if empty = 1 then [.acc (acc.toNat + d + 1)] else [])
  matOp names s fun o d =>
    let i := acc.toNat + d
    (s.modCore o.c fun k =>
      let k1 := k.setAcc i ((k.acc i).cleared (empty == 0 && int == 1))
      if empty = 1 then
        k1.setAcc (i + 1)
          (((k1.acc (i + 1)).cleared false).put (List.replicate 64 (negInf32 :: List.replicate 63 0)))
      else k1).finishM o h 0

/-- The rows of a float product added to an accumulator (R225). -/
def floatProduct (old : List (List Nat)) (pairs : Nat → Nat → List (List (FV × FV))) : List (List Nat) :=
  (List.zipIdx old).map fun r => (List.zipIdx r.1).map fun x => reduceFloat x.1 (pairs r.2 x.2)

/-- The rows of an integer product added to an accumulator (R226). -/
def intProduct (old : List (List Nat)) (pairs : Nat → Nat → List (List (Int × Int))) : List (List Nat) :=
  (List.zipIdx old).map fun r => (List.zipIdx r.1).map fun x => reduceInt x.1 (pairs r.2 x.2)

/-- An accumulator after a product's rows, with the poison of the rows of A and of B (R332). -/
def AccReg.product (a : AccReg) (int : Bool) (rows : List (List Nat)) (pa pb : Nat) : AccReg :=
  let rows1 := if int then rows else
    (List.zipIdx rows).map fun r => (List.zipIdx r.1).map fun x =>
      if bit pa r.2 || bit pb x.2 then fp32.defNaN else x.1
  { a.put rows1 with
    int := int, psum := a.psum || pa != 0 || pb != 0,
    prow := if int then a.prow ||| pa else a.prow, pcol := if int then a.pcol ||| pb else a.pcol }

/-- The format an accumulator holds, for a mismatch. -/
def AccReg.fmtCode (a : AccReg) : Nat := if a.int then 8 else 0

/-- Why a product's operands or accumulator do not fit its format (R338): the expected and the found
format. -/
def Core.productBad (k : Core) (f : Fmt) (mas : List Nat) (acc : Nat) : Option (Nat × Nat) :=
  match mas.find? fun i => !(k.ma i).heldIn f with
  | some i => some (Sys2Proof.Machine.fmtCode f, (k.ma i).fmt)
  | none =>
    let a := k.acc acc
    if a.written && a.int != fmtInt f then some (if fmtInt f then 8 else 0, a.fmtCode) else none

/-- Pairs of two rows in blocks of 32. -/
def rowPairs {α : Type} (x y : List α) : List (List (α × α)) := chunks 32 (List.zip x y).length (List.zip x y)

/-- MMA (R338). -/
def execMma (h : OpWord) (fmt : Fmt) (acc : BitVec 3) (ma mb : BitVec 4) (s : State) :
    Host.Outcome State Fault Refusal :=
  let names : MNames := namesOf fun d =>
    [.acc acc.toNat, .ma (ma.toNat + d), .ma (mb.toNat + d)]
  matOp names s fun o d =>
    let k := s.core o.c
    match k.productBad fmt [ma.toNat + d, mb.toNat + d] acc.toNat with
    | some (w, g) => s.formatTrap o w g
    | none =>
      let a := k.ma (ma.toNat + d)
      let b := k.ma (mb.toNat + d)
      let old := (k.acc acc.toNat).rows
      let rows := if fmtInt fmt then
          let x := (List.range 64).map (a.ints fmt)
          let y := (List.range 64).map (b.ints fmt)
          intProduct old fun i j => rowPairs (x.getD i []) (y.getD j [])
        else
          let x := (List.range 64).map a.vals
          let y := (List.range 64).map b.vals
          floatProduct old fun i j => rowPairs (x.getD i []) (y.getD j [])
      (s.modCore o.c fun k =>
        k.setAcc acc.toNat ((k.acc acc.toNat).product (fmtInt fmt) rows a.prow b.prow)).finishM o h 0

/-- G and N of a sparsity pattern (R326, R339). -/
def patShape (pat : Nat) : Nat × Nat := if pat = 1 then (8, 4) else (4, 2)

/-- The mask of group `g` of row `i`. -/
def MdReg.mask (m : MdReg) (pat i g : Nat) : Nat :=
  bits (leAt m.data (16 * i) 16) ((patShape pat).1 * g) (patShape pat).1

/-- The kept dense positions of row `i`, ascending; position `n` of the list is compressed
column `n` of legal masks. -/
def MdReg.kept (m : MdReg) (pat i : Nat) : List Nat :=
  (List.range 128).filter fun p => bit (m.mask pat i (p / (patShape pat).1)) (p % (patShape pat).1)

/-- The first group, in ascending rows, whose mask is not legal and is used: its row and number. -/
def MdReg.badMask (m : MdReg) (pat : Nat) : Option (Nat × Nat) :=
  (List.range 64).findSome? fun i =>
    if bit m.prow i then none
    else (List.range (128 / (patShape pat).1)).findSome? fun g =>
      if countBits (m.mask pat i g) (patShape pat).1 = (patShape pat).2 then none else some (i, g)

/-- The pairs of a sparse row and a dense row of 128, in dense blocks of 32 (R339). -/
def sparsePairs {α : Type} (kept : List Nat) (x y : List α) : List (List (α × α)) :=
  (List.range 4).map fun b =>
    (List.zipIdx kept).filterMap fun p =>
      if p.1 / 32 = b then
        match x[p.2]?, y[p.1]? with
        | some u, some v => some (u, v)
        | _, _ => none
      else none

/-- MMSP (R339). -/
def execMmsp (h : OpWord) (fmt : Fmt) (acc : BitVec 3) (ma mb : BitVec 4) (md : BitVec 3) (pat : BitVec 1)
    (s : State) : Host.Outcome State Fault Refusal :=
  let names : MNames := namesOf fun d =>
    [.acc acc.toNat, .ma (ma.toNat + d), .ma (mb.toNat + d), .ma (mb.toNat + d + 1), .md (md.toNat + d)]
  matOp names s fun o d =>
    let k := s.core o.c
    let ib := mb.toNat + d
    match k.productBad fmt [ma.toNat + d, ib, ib + 1] acc.toNat with
    | some (w, g) => s.formatTrap o w g
    | none =>
      let m := k.md (md.toNat + d)
      match m.badMask pat.toNat with
      | some (i, g) => s.trapOp o 2 (m.mask pat.toNat i g) (i + g * 256) 0 o.f.first
      | none =>
        let a := k.ma (ma.toNat + d)
        let b := k.ma ib
        let b1 := k.ma (ib + 1)
        let kept := (List.range 64).map fun i => if bit m.prow i then [] else m.kept pat.toNat i
        let old := (k.acc acc.toNat).rows
        let rows := if fmtInt fmt then
            let x := (List.range 64).map (a.ints fmt)
            let y := (List.range 64).map fun j => b.ints fmt j ++ b1.ints fmt j
            intProduct old fun i j => sparsePairs (kept.getD i []) (x.getD i []) (y.getD j [])
          else
            let x := (List.range 64).map a.vals
            let y := (List.range 64).map fun j => b.vals j ++ b1.vals j
            floatProduct old fun i j => sparsePairs (kept.getD i []) (x.getD i []) (y.getD j [])
        (s.modCore o.c fun k => k.setAcc acc.toNat
          ((k.acc acc.toNat).product (fmtInt fmt) rows (a.prow ||| m.prow) (b.prow ||| b1.prow))).finishM o h 0

/-- Whether a magnitude is larger than another in MCOMP's order (R340): NaN is largest. -/
def magLarger (a b : FV) : Bool :=
  match a, b with
  | .nan _ _, .nan _ _ => false
  | .nan _ _, _ => true
  | _, .nan _ _ => false
  | .inf _, .inf _ => false
  | .inf _, _ => true
  | _, .inf _ => false
  | .fin _ m e, .fin _ n f => decide (0 < FV.cmpV (.fin false m e) (.fin false n f))

/-- The places kept in a group, ascending: those with fewer than `n` larger elements or equal ones
before them. -/
def keepGroup (n : Nat) (xs : List FV) : List Nat :=
  (List.range xs.length).filter fun i =>
    let x := xs.getD i (.fin false 0 0)
    decide (((List.range xs.length).filter fun j =>
      let y := xs.getD j (.fin false 0 0)
      magLarger y x || (decide (j < i) && !magLarger x y)).length < n)

/-- One row of MCOMP: the kept dense positions and the metadata of the row (R326, R340). -/
def compRow (pat : Nat) (xs : List FV) : List Nat × Nat :=
  let g := (patShape pat).1
  let groups := (List.range (128 / g)).map fun i => keepGroup (patShape pat).2 ((xs.drop (g * i)).take g)
  let kept := (List.zipIdx groups).flatMap fun p => p.1.map fun x => g * p.2 + x
  (kept, kept.foldl (fun a p => a + 2 ^ p) 0)

/-- The kept elements of an FB row re-formed by quant_fb: the scale pairs and the codes. -/
def requantRow (f : Fmt) (gap : Nat) (xs : List FV) : List (Nat × Nat) × List Nat :=
  let q0 := quantFB f gap (xs.take 32)
  let q1 := quantFB f gap (xs.drop 32)
  ([(q0.1, q0.2.1), (q1.1, q1.2.1)], q0.2.2 ++ q1.2.2)

/-- Scale pairs as bytes. -/
def pairBytes (l : List (Nat × Nat)) : List Byte := l.flatMap fun p => toBytes 1 p.1 ++ toBytes 1 p.2

/-- MCOMP (R340). -/
def execMcomp (h : OpWord) (fmt : Fmt) (ma ms : BitVec 4) (md : BitVec 3) (pat : BitVec 1) (gap : BitVec 3)
    (s : State) : Host.Outcome State Fault Refusal :=
  let names : MNames := namesOf fun d =>
    [.ma (ma.toNat + d), .ma (ms.toNat + d), .ma (ms.toNat + d + 1), .md (md.toNat + d)]
  matOp names s fun o d =>
    let k := s.core o.c
    let a := k.ma (ms.toNat + d)
    let b := k.ma (ms.toNat + d + 1)
    match [a, b].find? fun m => !m.heldIn fmt with
    | some m => s.formatTrap o (fmtCode fmt) m.fmt
    | none =>
      let rows := (List.range 64).map fun r =>
        let vs := a.vals r ++ b.vals r
        let cs := a.codes fmt r ++ b.codes fmt r
        let c := compRow pat.toNat vs
        let q := requantRow fmt gap.toNat (c.1.map fun p => vs.getD p (.fin false 0 0))
        if fmtFB fmt then (q.2, q.1, c.2) else (c.1.map fun p => cs.getD p 0, [], c.2)
      let m := maMake fmt false (a.prow ||| b.prow) (rows.map fun r => r.1) (pairBytes (rows.flatMap fun r => r.2.1))
      let sel : MdReg := { data := rows.flatMap fun r => toBytes 16 r.2.2, written := true, prow := 0 }
      (s.modCore o.c fun k =>
        { k.setMa (ma.toNat + d) m with mds := aset k.mds (md.toNat + d) sel }).finishM o h 0

/-! ### Conversions and moves (R341 to R344) -/

/-- The exact value of an accumulator's element. -/
def AccReg.val (a : AccReg) (i j : Nat) : FV :=
  if a.isInt then FV.ofInt false (sval 32 (a.at i j)) 0 else fp32.decode (a.at i j)

/-- The blocks of an accumulator quantised (R341): for each index a and half h, its scale pair and
codes. -/
def quantBlocks (f : Fmt) (gap : Nat) (orient : Bool) (a : AccReg) : List (Nat × Nat × List Nat) :=
  (List.range 128).map fun x =>
    quantFB f gap ((List.range 32).map fun n =>
      if orient then a.val (32 * (x % 2) + n) (x / 2) else a.val (x / 2) (32 * (x % 2) + n))

/-- MQNT's register (R341). -/
def quantAcc (f : Fmt) (gap : Nat) (orient : Bool) (a : AccReg) : MaReg :=
  let prow := if a.isInt then (if a.pcol = 0 then a.prow else allRows) else 0
  if fmtFB f then
    let q := quantBlocks f gap orient a
    let code := fun (r c : Nat) =>
      let x := if orient then 2 * c + r / 32 else 2 * r + c / 32
      (q.getD x (0, 0, [])).2.2.getD (if orient then r % 32 else c % 32) 0
    maMake f orient prow ((List.range 64).map fun r => (List.range 64).map (code r))
      (pairBytes (q.map fun x => (x.1, x.2.1)))
  else
    let conv := fun (i j : Nat) =>
      match fmtFloat f with
      | some F => F.encode .rne (a.val i j)
      | none =>
        if a.isInt then satS (fmtBits f) (sval 32 (a.at i j))
        else cvtIntV .rne (fmtBits f) true (fp32.decode (a.at i j))
    maMake f orient prow ((List.range 64).map fun i => (List.range 64).map (conv i)) []

/-- MQNT (R341). -/
def execMqnt (h : OpWord) (fmt : Fmt) (acc : BitVec 3) (ma : BitVec 4) (gap : BitVec 3) (orient : BitVec 1)
    (s : State) : Host.Outcome State Fault Refusal :=
  let names : MNames := namesOf fun d => [.acc (acc.toNat + d), .ma (ma.toNat + d)]
  matOp names s fun o d =>
    (s.modCore o.c fun k => k.setMa (ma.toNat + d)
      (quantAcc fmt gap.toNat (orient == 1) (k.acc (acc.toNat + d)))).finishM o h 0

/-- The illegal TERN5 bytes of a register, as row and byte index, in ascending order. -/
def MaReg.badBytes (m : MaReg) : List (Nat × Nat) :=
  (List.range 64).flatMap fun r =>
    (List.range 13).filterMap fun b => if 243 ≤ leAt (m.row r) b 1 then some (r, b) else none

/-- One element converted by MDEQ (R342). -/
def deqElem (df sf : Fmt) (x : Int) (v : FV) : Nat :=
  match fmtFloat df with
  | some F => F.encode .rne v
  | none => if fmtInt sf then satS 8 x else cvtIntV .rne 8 true v

/-- MDEQ (R342). -/
def execMdeq (h : OpWord) (df sf : Fmt) (ma ms : BitVec 4) (strict : BitVec 1) (s : State) :
    Host.Outcome State Fault Refusal :=
  let names : MNames := namesOf fun d => [.ma (ma.toNat + d), .ma (ms.toNat + d)]
  matOp names s fun o d =>
    let m := (s.core o.c).ma (ms.toNat + d)
    let bad := if sf = .tern5 then m.badBytes else []
    if m.fmt ≠ fmtCode sf then s.formatTrap o (fmtCode sf) m.fmt
    else
      match strict == 1, bad with
      | true, (r, b) :: _ => s.trapOp o 2 (leAt (m.row r) b 1) (Config.rowByteDetail r b).toNat 0 o.f.first
      | _, _ =>
        let rows := (List.range 64).map fun r =>
          List.zipWith (deqElem df sf) (m.ints sf r) (m.vals r)
        (s.modCore o.c fun k => k.setMa (ma.toNat + d) (maMake df false m.prow rows [])).finishL o h
          (BitVec.ofNat 32 bad.length)

/-- A byte of five trits (R224). -/
def encT5 (ts : List Int) : Nat :=
  (List.zipIdx ts).foldl (fun a p => a + (if p.1 = 1 then 1 else if p.1 = -1 then 2 else 0) * 3 ^ p.2) 0

/-- A row of 64 trits as its 13 bytes in 128. -/
def packTrits (ts : List Int) : List Byte :=
  slice ((chunks 5 13 ts).flatMap fun g => toBytes 1 (encT5 g)) 0 128

/-- MTRN's register (R343). -/
def MaReg.transpose (m : MaReg) : MaReg :=
  let data := match fmtOf m.fmt with
    | none => []
    | some .tern5 =>
      let rows := (List.range 64).map (m.ints .tern5)
      (List.range 64).flatMap fun r => packTrits (rows.map fun x => x.getD r 0)
    | some f =>
      if m.written then
        let rows := (List.range 64).map (m.codes f)
        (List.range 64).flatMap fun r => packRow f (rows.map fun x => x.getD r 0)
      else []
  { m with data := data, orient := !m.orient, written := true, prow := if m.prow = 0 then 0 else allRows }

/-- MTRN (R343). -/
def execMtrn (h : OpWord) (ma ms : BitVec 4) (s : State) : Host.Outcome State Fault Refusal :=
  let names : MNames := namesOf fun d => [.ma (ma.toNat + d), .ma (ms.toNat + d)]
  matOp names s fun o d =>
    (s.modCore o.c fun k => k.setMa (ma.toNat + d) (k.ma (ms.toNat + d)).transpose).finishM o h 0

/-- A half row of an accumulator written from 32 lanes (R344). -/
def AccReg.writeHalf (a : AccReg) (row half : Nat) (ls : List Lane) : AccReg :=
  let bad := anyPoison ls
  let vals := ls.map fun l => if l.poison && !a.isInt then BitVec.ofNat 32 fp32.defNaN else l.val
  let cur := bankOf a.rows
  let o := 64 * row + 32 * half
  { a.setCur (cur.take o ++ vals ++ cur.drop (o + 32)) with
    int := a.isInt, written := true, psum := a.psum || bad,
    prow := if bad && a.isInt && !bit a.prow row then a.prow + 2 ^ row else a.prow }

/-- MACCR (R344). -/
def execMaccr (h : OpWord) (acc : BitVec 3) (row : BitVec 6) (half w : BitVec 1) (s : State) :
    Host.Outcome State Fault Refusal :=
  let names : MNames := { regs := fun _ => [.acc acc.toNat], field := row.toNat, top := 63, mem := false }
  matOp names s fun o d =>
    let r := row.toNat + d
    let a := (s.core o.c).acc acc.toNat
    if o.f.n ≠ 32 then s.illegal o o.f.n 344
    else if w = 0 then
      let ls := (List.range 32).map fun c =>
        let j := 32 * half.toNat + c
        ({ val := BitVec.ofNat 32 (a.at r j), poison := a.elemPoison r j } : Lane)
      s.finish o h true { first := 0, lanes := ls } { first := 0, lanes := ls }
    else
      (s.modCore o.c fun k => k.setAcc acc.toNat (a.writeHalf r half.toNat o.f.left)).finishM o h 0

/-! ### Tile predicates (R350) -/

/-- PTSET (R350). -/
def execPtset (h : OpWord) (pt : BitVec 4) (half : BitVec 1) (s : State) : Host.Outcome State Fault Refusal :=
  matOp (namesOf fun _ => [.pt pt.toNat]) s fun o _ =>
    if (lane0 o.f.left).poison then s.poisonTrap o 0 4 o.f.left
    else
      let old := (s.core o.c).pt pt.toNat
      let new := if half = 0 then old / 2 ^ 32 * 2 ^ 32 + o.value else old % 2 ^ 32 + o.value * 2 ^ 32
      (s.modCore o.c fun k => { k with pts := aset k.pts pt.toNat new }).finishM o h 0

/-- PTOP's function (R350). -/
def ptFun (op : PtOp) (a b : Nat) : Nat :=
  match op with
  | .and => a &&& b
  | .or => a ||| b
  | .xor => a ^^^ b
  | .andn => a &&& (b ^^^ allRows)

/-- PTOP (R350). -/
def execPtop (h : OpWord) (pd pa pb : BitVec 4) (op : PtOp) (s : State) : Host.Outcome State Fault Refusal :=
  matOp (namesOf fun _ => [.pt pd.toNat, .pt pa.toNat, .pt pb.toNat]) s fun o _ =>
    (s.modCore o.c fun k =>
      { k with pts := aset k.pts pd.toNat (ptFun op (k.pt pa.toNat) (k.pt pb.toNat)) }).finishM o h 0

end Sys2Proof.Machine
end

