-- ==== Sys2Proof/Machine/Correct.lean ====
section
/-! DEFINITION. Correcting mode and the Ply (R345 to R349, R351, R352): step sizes and guards, the
delta rule in its sequential and chunked forms, and online soft-maximum attention. -/

namespace Sys2Proof.Machine

open Sys2Proof

/-! ### Step sizes and guards (R345) -/

/-- MSTEP (R345). -/
def execMstep (h : OpWord) (ss : BitVec 2) (mode : BitVec 1) (s : State) :
    Host.Outcome State Fault Refusal :=
  matOp (namesOf fun _ => [.ss ss.toNat]) s fun o _ =>
    let v := o.value
    if (lane0 o.f.left).poison then s.poisonTrap o 0 4 o.f.left
    else if mode = 1 ∧ (v % 4 ≠ 0 ∨ 0x200000 < v + 256) then s.illegal o v 345
    else
      let r : SsReg := { mode := mode.toNat, value := BitVec.ofNat 32 v }
      (s.modCore o.c fun k => { k with sss := aset k.sss ss.toNat r }).finishM o h 0

/-- Whether a bound is negative or a NaN (R345). -/
def badBound (x : Nat) : Bool := fp32.isNaN x || fp32.lt x 0

/-- MGRD (R345). -/
def execMgrd (h : OpWord) (gd : BitVec 2) (s : State) : Host.Outcome State Fault Refusal :=
  matOp (memNames fun _ => [.gd gd.toNat]) s fun o _ =>
    match s.paramBlock o 16 8 345 with
    | .error t => t
    | .ok (bs, s1) =>
      let hi := leAt bs 8 8
      if hi / 8 ≠ 0 ∨ badBound (leAt bs 0 4) = true ∨ badBound (leAt bs 4 4) = true then s.illegal o o.value 345
      else
        let g : GdReg := { emax := BitVec.ofNat 32 (leAt bs 0 4), smax := BitVec.ofNat 32 (leAt bs 4 4),
                           nf := bit hi 2, sen := bit hi 1, een := bit hi 0 }
        (s1.modCore o.c fun k => { k with gds := aset k.gds gd.toNat g }).finishM o h 0

/-- β of rows, read when the request is taken (R345): the words, whether one was poisoned, and the
state after the reads. -/
def State.betas (s : State) (o : OpIn) (r : SsReg) : List Nat → Except AccErr (List Nat × Bool × State)
  | [] => .ok ([], false, s)
  | i :: is =>
    if r.mode = 0 then
      match s.betas o r is with
      | .error e => .error e
      | .ok (bs, p, s1) => .ok (r.value.toNat :: bs, p, s1)
    else
      match s.load o (r.value.toNat + 4 * i) 4 with
      | .error e => .error e
      | .ok (bs, p, s1) =>
        match s1.betas o r is with
        | .error e => .error e
        | .ok (l, q, s2) => .ok ((if p then fp32.defNaN else ofBytes bs) :: l, p || q, s2)

/-- Whether a value violates a bound (R349): where the check is enabled and |x| is not at most the
bound, or where non-finite values violate. DEDUCED (log 31): a NaN violates an enabled bound. -/
def violates (en nf : Bool) (bound x : Nat) : Bool :=
  (en && !fp32.le (absF32 x) bound) || (nf && !fp32.isFin x)

/-- A violation: DETAIL, and the row and column of AUX. -/
structure Violation where
  t : Nat
  row : Nat
  col : Nat
  deriving DecidableEq, Repr

/-- guard_e (R349). -/
def guardE (g : GdReg) (t : Nat) (e : List Nat) : Option Violation :=
  (List.zipIdx e).findSome? fun p =>
    if violates g.een g.nf g.emax.toNat p.1 then some { t := t, row := 64, col := p.2 } else none

/-- guard_s (R349). -/
def guardS (g : GdReg) (t : Nat) (rows : List (List Nat)) : Option Violation :=
  (List.zipIdx rows).findSome? fun r => (List.zipIdx r.1).findSome? fun p =>
    if violates g.sen g.nf g.smax.toNat p.1 then some { t := t, row := r.2, col := p.2 } else none

/-- A divergence trap (R349): its LANE is the token index (R189). -/
def State.diverge (s : State) (o : OpIn) (v : Violation) : State :=
  s.trapOp o 9 0 v.t (v.row + v.col * 256) v.t

/-- The number at (i, j) of rows. -/
def rowsAt (m : List (List Nat)) (i j : Nat) : Nat := (m.getD i []).getD j 0

/-- fma_f32 folded over an index, from `x`. -/
def fmaFold (x : Nat) (n : Nat) (f : Nat → Nat × Nat) : Nat :=
  (List.range n).foldl (fun a i => fmaF32 (f i).1 (f i).2 a) x

/-! ### MCOR (R346) -/

/-- One token of the delta rule. -/
def deltaStep (g : GdReg) (t b : Nat) (k v : List Nat) (m : List (List Nat)) :
    Except Violation (List (List Nat)) :=
  let e := (List.range 64).map fun j =>
    fmaFold (v.getD j 0) 64 fun i => (negF32 (rowsAt m i j), k.getD i 0)
  match guardE g t e with
  | some w => .error w
  | none =>
    let m1 := (List.zipIdx m).map fun r =>
      let bk := mulF32 b (k.getD r.2 0)
      (List.zipIdx r.1).map fun x => fmaF32 bk (e.getD x.2 0) x.1
    match guardS g t m1 with
    | some w => .error w
    | none => .ok m1

/-- The tokens of MCOR in order. -/
def deltaRun (g : GdReg) : Nat → List (Nat × List Nat × List Nat) → List (List Nat) →
    Except Violation (List (List Nat))
  | _, [], m => .ok m
  | t, (b, k, v) :: r, m =>
    match deltaStep g t b k v m with
    | .error w => .error w
    | .ok m1 => deltaRun g (t + 1) r m1

/-- The format rule of R346 on keys and values: the expected and the found format of a breach. -/
def kvBad (k v : MaReg) : Option (Nat × Nat) :=
  if k.fmt ≠ 1 ∧ k.fmt ≠ 2 then some (2, k.fmt) else if v.fmt ≠ k.fmt then some (k.fmt, v.fmt) else none

/-- The accumulator rule of R346. -/
def AccReg.floatOk (a : AccReg) : Bool := !a.written || !a.int

/-- Whether rows `rs` of a register hold a marked one. -/
def MaReg.marked (m : MaReg) (rs : List Nat) : Bool := rs.any fun r => bit m.prow r

/-- MCOR (R346). -/
def execMcor (h : OpWord) (acc : BitVec 3) (mk mv : BitVec 4) (ss gd : BitVec 2) (n : BitVec 5)
    (half : BitVec 1) (s : State) : Host.Outcome State Fault Refusal :=
  let names : MNames := memNames fun d =>
    [.acc acc.toNat, .ma (mk.toNat + d), .ma (mv.toNat + d), .ss ss.toNat, .gd gd.toNat]
  matOp names s fun o d =>
    let c := s.core o.c
    let k := c.ma (mk.toNat + d)
    let v := c.ma (mv.toNat + d)
    let a := c.acc acc.toNat
    let rs := (List.range (n.toNat + 1)).map fun t => 32 * half.toNat + t
    match kvBad k v with
    | some (w, g) => s.formatTrap o w g
    | none =>
      if !a.floatOk then s.formatTrap o 0 8
      else
        match s.betas o (c.ss ss.toNat) rs with
        | .error e => s.accFail o .matrix false o.f.first e
        | .ok (bs, p, s1) =>
          let toks := List.zipWith (fun b r => (b, k.f32Row r, v.f32Row r)) bs rs
          match deltaRun (c.gd gd.toNat) 0 toks a.rows with
          | .error w => s.diverge o w
          | .ok m =>
            let bad := p || k.marked rs || v.marked rs
            (s1.modCore o.c fun x => x.setAcc acc.toNat
              { a.asFloat.flip m with psum := a.psum || bad }).finishM o h 0

/-! ### MTRI and MWY (R347, R348) -/

/-- Row `i` of A in MTRI. -/
def triA (ks : List (List Nat)) (bs : List Nat) (i : Nat) : List Nat :=
  (List.range i).map fun j =>
    mulF32 (bs.getD i 0) (fmaFold 0 64 fun d => (rowsAt ks i d, rowsAt ks j d))

/-- Row `i` of T from the rows before it. -/
def triRow (a : List (List Nat)) (bs : List Nat) (i : Nat) (t : List (List Nat)) : List Nat :=
  let before := (List.range i).map fun j =>
    negF32 (fmaFold 0 (i - j) fun m => (rowsAt a i (j + m), rowsAt t (j + m) j))
  before ++ bs.getD i 0 :: List.replicate (63 - i) 0

/-- T of a chunk of `c` rows (R347), as 64 rows. -/
def triRows (ks : List (List Nat)) (bs : List Nat) (c : Nat) : List (List Nat) :=
  let a := (List.range c).map (triA ks bs)
  let t := (List.range c).foldl (fun t i => t ++ [triRow a bs i t]) []
  t ++ List.replicate (64 - c) (List.replicate 64 0)

/-- MTRI (R347). -/
def execMtri (h : OpWord) (acc : BitVec 3) (mk : BitVec 4) (ss : BitVec 2) (c : BitVec 6) (s : State) :
    Host.Outcome State Fault Refusal :=
  matOp (memNames fun _ => [.acc acc.toNat, .ma mk.toNat, .ss ss.toNat]) s fun o _ =>
    let k := s.core o.c
    let m := k.ma mk.toNat
    let rs := List.range (c.toNat + 1)
    match kvBad m m with
    | some (w, g) => s.formatTrap o w g
    | none =>
      match s.betas o (k.ss ss.toNat) rs with
      | .error e => s.accFail o .matrix false o.f.first e
      | .ok (bs, p, s1) =>
        let t := triRows (rs.map m.f32Row) bs (c.toNat + 1)
        (s1.modCore o.c fun x =>
          let a := x.acc acc.toNat
          x.setAcc acc.toNat { a.asFloat.put t with psum := a.psum || p || m.marked rs }).finishM o h 0

/-- W of MWY, each row guarded (R348). -/
def wyRows (g : GdReg) (m : List (List Nat)) : Nat → List (List Nat × List Nat) →
    Except Violation (List (List Nat))
  | _, [] => .ok []
  | t, (k, v) :: r =>
    let w := (List.range 64).map fun j =>
      fmaFold (v.getD j 0) 64 fun i => (negF32 (k.getD i 0), rowsAt m i j)
    match guardE g t w with
    | some x => .error x
    | none =>
      match wyRows g m (t + 1) r with
      | .error x => .error x
      | .ok ws => .ok (w :: ws)

/-- MWY (R348). -/
def execMwy (h : OpWord) (acc atri : BitVec 3) (mk mv : BitVec 4) (gd : BitVec 2) (c : BitVec 6) (s : State) :
    Host.Outcome State Fault Refusal :=
  let names : MNames := namesOf fun _ =>
    [.acc acc.toNat, .acc atri.toNat, .ma mk.toNat, .ma mv.toNat, .gd gd.toNat]
  matOp names s fun o _ =>
    let x := s.core o.c
    let k := x.ma mk.toNat
    let v := x.ma mv.toNat
    let a := x.acc acc.toNat
    let t := x.acc atri.toNat
    let g := x.gd gd.toNat
    let n := c.toNat + 1
    let rs := List.range n
    match kvBad k v with
    | some (w, f) => s.formatTrap o w f
    | none =>
      if !a.floatOk || !t.floatOk then s.formatTrap o 0 8
      else
        let m := a.rows
        let ks := rs.map k.f32Row
        match wyRows g m 0 (List.zip ks (rs.map v.f32Row)) with
        | .error w => s.diverge o w
        | .ok ws =>
          let us := rs.map fun i => (List.range 64).map fun j =>
            fmaFold 0 (i + 1) fun e => (t.at i e, rowsAt ws e j)
          let m1 := (List.range 64).map fun i => (List.range 64).map fun j =>
            fmaFold (rowsAt m i j) n fun e => (rowsAt ks e i, rowsAt us e j)
          match guardS g 0xFFFF m1 with
          | some w => s.diverge o w
          | none =>
            let bad := k.marked rs || v.marked rs
            (s.modCore o.c fun x => x.setAcc acc.toNat
              { a.asFloat.flip m1 with psum := a.psum || bad }).finishM o h 0

/-! ### The Ply (R351, R352) -/

/-- A PLY block's fields. -/
structure PlyBlock where
  qpos : Int
  kpos : Int
  kcount : Nat
  window : Nat
  scale : Nat
  causal : Bool
  deriving DecidableEq, Repr

/-- Whether key `j` is visible to query `i` (R351). -/
def PlyBlock.visible (b : PlyBlock) (i j : Nat) : Bool :=
  decide (j < b.kcount) && (!b.causal || decide (b.kpos + j ≤ b.qpos + i)) &&
    (b.window == 0 || decide ((b.qpos + i) - (b.kpos + j) < b.window))

/-- The format of MV's elements. -/
def mvForm (fmt : Nat) : FForm := if fmt = 1 then fp16 else bf16

/-- FMAX on FP32 words (R288). -/
def maxF32 (a b : Nat) : Nat := fp32.minMax true a b

/-- 2^(x - mn), or +0 for x = -Inf. -/
def expDiff (x mn : Nat) : Nat := if x = negInf32 then 0 else exp2F32 (addF32 x (negF32 mn))

/-- One query row of PLY (R351): m, l and o after it. -/
def plyRow (b : PlyBlock) (F : FForm) (q : List FV) (ks vs : List (List FV)) (i mo lo : Nat) (oo : List Nat) :
    Nat × Nat × List Nat :=
  let xs := (List.range 64).map fun j =>
    if b.visible i j then mulF32 (dotR220 (List.zip q (ks.getD j []))) b.scale else negInf32
  let mn := xs.foldl maxF32 mo
  if mn = negInf32 then (mo, lo, oo)
  else
    let a := expDiff mo mn
    let ps := xs.map fun x => if x = negInf32 then 0 else F.encode .rne (fp32.decode (expDiff x mn))
    let pv := ps.map F.decode
    let l := fmaF32 a lo ((pv.map (fp32.encode .rne)).foldl addF32 0)
    let col := fun (c : Nat) => vs.map fun v => v.getD c (.fin false 0 0)
    (mn, l, (List.range 64).map fun c => fmaF32 a (oo.getD c 0) (dotR220 (List.zip pv (col c))))

/-- A row with its first two columns replaced. -/
def setML (row : List Nat) (m l : Nat) : List Nat := m :: l :: row.drop 2

/-- The MMA float formats (R351). -/
def plyFmt (c : Nat) : Bool :=
  match fmtOf c with
  | some f => !fmtInt f && f != Fmt.fp32
  | none => false

/-- Why a PLY's operands do not fit (R351). -/
def plyBad (q k v : MaReg) : Option (Nat × Nat) :=
  let fb := match fmtOf q.fmt with
    | some f => fmtFB f
    | none => false
  if !plyFmt q.fmt then some (2, q.fmt)
  else if k.fmt ≠ q.fmt ∨ (fb && (q.orient || k.orient)) = true then some (q.fmt, k.fmt)
  else if v.fmt ≠ 1 ∧ v.fmt ≠ 2 then some (2, v.fmt) else none

/-- A PLY block's fields, or none where the block is bad. -/
def plyBlock (bs : List Byte) (causal : Bool) : Option PlyBlock :=
  if leAt bs 8 4 ≤ 64 ∧ (slice bs 20 12).all (fun b => b == 0) = true then
    some { qpos := sval 32 (leAt bs 0 4), kpos := sval 32 (leAt bs 4 4), kcount := leAt bs 8 4,
           window := leAt bs 12 4, scale := leAt bs 16 4, causal := causal }
  else none

/-- PLY (R351). -/
def execPly (h : OpWord) (acc : BitVec 3) (mq mk mv : BitVec 4) (first causal : BitVec 1) (s : State) :
    Host.Outcome State Fault Refusal :=
  let names : MNames := memNames fun _ =>
    [.acc acc.toNat, .acc (acc.toNat + 1), .ma mq.toNat, .ma mk.toNat, .ma mv.toNat]
  matOp names s fun o _ =>
    match s.paramBlock o 32 32 351 with
    | .error t => t
    | .ok (bs, s1) =>
      let x := s.core o.c
      let q := x.ma mq.toNat
      let k := x.ma mk.toNat
      let v := x.ma mv.toNat
      let a := x.acc acc.toNat
      let a1 := x.acc (acc.toNat + 1)
      match plyBlock bs (causal == 1) with
      | none => s.illegal o o.value 351
      | some b =>
        match plyBad q k v with
        | some (w, g) => s.formatTrap o w g
        | none =>
          if !a.floatOk || !a1.floatOk then s.formatTrap o 0 8
          else
            let ks := (List.range 64).map k.nanVals
            let vs := (List.range 64).map v.nanVals
            let out := (List.range 64).map fun i =>
              let row := a1.row i
              if first = 1 then
                (setML row 0 0, plyRow b (mvForm v.fmt) (q.nanVals i) ks vs i negInf32 0 (List.replicate 64 0))
              else (row, plyRow b (mvForm v.fmt) (q.nanVals i) ks vs i (row.getD 0 0) (row.getD 1 0) (a.row i))
            let bad := q.prow != 0 || k.prow != 0 || v.prow != 0
            (s1.modCore o.c fun x =>
              (x.setAcc acc.toNat { a.asFloat.put (out.map fun r => r.2.2.2) with psum := a.psum || bad }).setAcc
                (acc.toNat + 1)
                { a1.asFloat.put (out.map fun r => setML r.1 r.2.1 r.2.2.1) with
                  psum := a1.psum || bad }).finishM o h 0

/-- One row of PLYC (R352): m, l and o of the pair A after it, or none where it is unchanged. -/
def plycRow (ma la : Nat) (oa : List Nat) (mb lb : Nat) (ob : List Nat) : Option (Nat × Nat × List Nat) :=
  let mn := maxF32 ma mb
  if mn = negInf32 then none
  else
    let aa := expDiff ma mn
    let ab := expDiff mb mn
    some (mn, fmaF32 ab lb (mulF32 aa la), List.zipWith (fun x y => fmaF32 ab y (mulF32 aa x)) oa ob)

/-- PLYC (R352). -/
def execPlyc (h : OpWord) (a b : BitVec 3) (s : State) : Host.Outcome State Fault Refusal :=
  let names : MNames := namesOf fun _ =>
    [.acc a.toNat, .acc (a.toNat + 1), .acc b.toNat, .acc (b.toNat + 1)]
  matOp names s fun o _ =>
    let k := s.core o.c
    let oa := k.acc a.toNat
    let sa := k.acc (a.toNat + 1)
    let ob := k.acc b.toNat
    let sb := k.acc (b.toNat + 1)
    if !([oa, sa, ob, sb].all AccReg.floatOk) then s.formatTrap o 0 8
    else
      let out := (List.range 64).map fun i =>
        let row := sa.row i
        match plycRow (row.getD 0 0) (row.getD 1 0) (oa.row i) (sb.at i 0) (sb.at i 1) (ob.row i) with
        | some (m, l, r) => (setML row m l, r)
        | none => (row, oa.row i)
      (s.modCore o.c fun x =>
        (x.setAcc a.toNat { oa.asFloat.put (out.map fun r => r.2) with psum := oa.psum || ob.psum }).setAcc
          (a.toNat + 1)
          { sa.asFloat.put (out.map fun r => r.1) with psum := sa.psum || sb.psum }).finishM o h 0

/-- PLYF (R352). -/
def execPlyf (h : OpWord) (acc : BitVec 3) (s : State) : Host.Outcome State Fault Refusal :=
  matOp (namesOf fun _ => [.acc acc.toNat, .acc (acc.toNat + 1)]) s fun o _ =>
    let k := s.core o.c
    let a := k.acc acc.toNat
    let t := k.acc (acc.toNat + 1)
    if !a.floatOk || !t.floatOk then s.formatTrap o 0 8
    else
      let rows := (List.range 64).map fun i =>
        let l := t.at i 1
        (a.row i).map fun x => if absF32 l = 0 then 0 else divF32 x l
      (s.modCore o.c fun x => x.setAcc acc.toNat (a.asFloat.put rows)).finishM o h 0

end Sys2Proof.Machine
end

