-- ==== Sys2Proof/Machine/Engine.lean ====
section
/-! DEFINITION. Accesses of a core's engines (R161, R184): the Shuttle, the Reel, the Spindle and the nodes
read, write and make atomics as agents of their own or of the colour that opened them. -/

namespace Sys2Proof.Machine

open Sys2Proof

/-! ### Places and checks -/

/-- The check of one piece of an engine's access (R165). -/
def State.engCheck (s : State) (c who : Nat) (use : Use) (t : Target) : Option AccErr :=
  if !t.records use then none
  else
    (s.raceOn t.loc.line (s.accNow c who (use != .read) (use == .atomic))).map fun a =>
      .race t.loc.line a

/-- Who asks another module for an engine's access: the operation that the engine carries out, or the engine
itself. -/
def State.engAsker (s : State) (c who : Nat) : Asker :=
  match s.firing with
  | some (_, f) => .op c f.iid f.slot f.first
  | none => .engine c who

/-- The request of an engine for a place of another module, where there is one. -/
def State.askOf (s : State) (c who : Nat) (atomic : List Nat) (pa : Nat) : Option Ask :=
  s.asks.find? fun x => x.asker == s.engAsker c who && x.addr == pa && x.atomic == atomic

/-- What another module's memory makes an engine's access wait for, or end with (R21, R166, R181); nothing
where each piece is answered, or there is none. -/
def State.engFar (s : State) (c who : Nat) (atomic : List Nat) (release : Option Nat) (va : Nat) (ts : List (Target × Nat)) :
    Option AccErr :=
  let ps := farPieces ts
  let st := fun (p : Nat × Nat) => (s.askOf c who atomic p.1).map fun x => x.st
  let ends := fun (p : Nat × Nat) => match st p with
    | some (.raced _ d y) => some (AccErr.farRace p.1 d y)
    | some .failed => some (.translation va)
    | _ => none
  let answered := fun (p : Nat × Nat) => match st p with
    | some (.answered _) => true
    | _ => false
  match ps.findSome? ends with
  | some e => some e
  | none => if ps.all answered then none else some (.remote who atomic release (ps.filter fun p => (st p).isNone))

/-- Where an engine's access of `n` bytes goes, or why it does not complete. R145 protects a bound store's
memory from a program's loads, stores and atomics and those of its nodes, not from another engine's accesses. A
counted writer has the acquires of R177 before the check. -/
def State.engPlace (s : State) (c who : Nat) (use : Use) (counted : Bool) (atomic : List Nat) (release : Option Nat)
    (va n : Nat) : Except AccErr (List (Target × Nat)) :=
  let s0 := if 0x8000 ≤ who then { s with stores := [] } else s
  match s0.resolveRange c use va n with
  | .error (.translation, a) => .error (.translation a)
  | .error (.protection, a) => .error (.protection a)
  | .ok ts =>
    let s1 := if counted && use == .write then s.acquireTargets c (s.agent c who) ts else s
    match ts.findSome? fun t => s1.engCheck c who use t.1 with
    | some e => .error e
    | none =>
      match s.engFar c who (if use == .write then checkAsk else atomic) release va ts with
      | some e => .error e
      | none => .ok ts

/-! ### Effects -/

/-- An engine's access entered in the records of its lines, and counted in the tiles of its core
where it is a counted reader or writer (R119, R165). DESIGN CHOICE: a line that another core owns counts in no
tile (log 111). -/
def State.engNote (s : State) (c who : Nat) (use : Use) (counted : Bool) (ts : List (Target × Nat)) :
    State :=
  let a := s.agent c who
  ts.foldl (fun s t =>
    let line := t.1.loc.line
    let s1 := if t.1.records use then
        s.recordAcc line (s.accNow c who (use != .read) (use == .atomic))
      else s
    match line with
    | .scratch c' l => if counted && c' == c then s1.countLine c a l (use == .write) else s1
    | .phys _ => s1) s

/-- Bytes read by an engine, each with its line's poison. -/
def State.engRead (s : State) (c who : Nat) (counted : Bool) (va n : Nat) :
    Except AccErr (List PByte × State) :=
  match s.engPlace c who .read counted [] none va n with
  | .error e => .error e
  | .ok ts =>
    let bs := ts.flatMap fun t => (s.readLoc t.1.loc t.2).map fun b => (b, s.poisoned t.1.loc)
    .ok (bs, (s.cachePage c va).engNote c who .read counted ts)

/-- Bytes written by an engine, for its entry or command `part`. -/
def State.engWrite (s : State) (c who : Nat) (counted : Bool) (va : Nat) (bs : List PByte) (part : Nat := 0) :
    Except AccErr State :=
  match s.engPlace c who .write counted [] none va bs.length with
  | .error e => .error e
  | .ok ts =>
    let s0 := if counted then s.acquireTargets c (s.agent c who) ts else s
    let x := s0.accNow c who true false
    .ok (((segsP ts bs).foldl (fun s g => s.performWrite (some x) g part) (s0.cachePage c va)).engNote c who .write counted ts)

/-- The word that an engine's atomic finds, with its poison: at its place, or as another module has answered. -/
def State.engOld (s : State) (c who n : Nat) (atomic : List Nat) (t : Target) : Nat × Bool :=
  match t.far with
  | none => (ofBytes (s.readLoc t.loc n), s.poisoned t.loc)
  | some pa =>
    match s.askOf c who atomic pa with
    | some { st := .answered (a :: b), .. } => (a.val.toNat + (b.headD { val := 0, poison := false }).val.toNat * 2 ^ 32,
        a.poison || anyPoison b)
    | _ => (0, false)

/-- An atomic of an engine on a word of `n` bytes (R134): the old value, whether its line is
poisoned, and the state after. `op` are the numbers by which another module is asked for it. With `sync` it is a
release and an acquire at system scope; the release of one at another module has its epoch since it was asked for. -/
def State.engRmw (s : State) (c who : Nat) (sync : Bool) (va n : Nat) (op : List Nat) (upd : Nat → Nat) :
    Except AccErr (Nat × Bool × State) :=
  match s.engPlace c who .atomic false (n :: op) (if sync then some (s.radius 6) else none) va n with
  | .error e => .error e
  | .ok [] => .error (.protection va)
  | .ok (t :: ts) =>
    let loc := t.1.loc
    let old := s.engOld c who n (n :: op) t.1
    let a := s.agent c who
    let prev := (s.lineRec loc.line).release
    let s1 := if sync && t.1.far.isNone then (s.raiseEpoch a).1 else s
    let s2 := (s1.cachePage c va).engNote c who .atomic false (t :: ts)
    let s3 := if sync then
        let r := if t.1.records .atomic then
            s2.markRelease loc.line { agent := a, core := c, epoch := s2.epoch a, radius := s.radius 6 }
          else s2
        match prev with
        | some p => if s.dist p.agent a p.core c ≤ p.radius then r.raiseAcq a p.agent p.epoch else r
        | none => r
      else s2
    .ok (old.1, old.2, s3.writeLoc loc (toBytes n (upd old.1)))

/-- An atomic read of an engine. -/
def State.engLoad (s : State) (c who va n : Nat) : Except AccErr (Nat × Bool × State) :=
  s.engRmw c who false va n [0] id

/-- The requests to another module that an engine's access still needs, made (R181). -/
def State.engAsk (s : State) (c who : Nat) (atomic : List Nat) (release : Option Nat) (ps : List (Nat × Nat)) : State :=
  s.askFor (s.engAsker c who) (s.accNow c who (!atomic.isEmpty) (!atomic.isEmpty && atomic != checkAsk)) atomic release ps

/-- An engine that has done what it asked for: its answers are gone. -/
def State.dropAnswers (s : State) (c who : Nat) : State :=
  { s with asks := s.asks.filter fun x => !(x.asker == s.engAsker c who && x.acc.agent.who == who) }

/-- An operation that an engine carries out and whose access does not complete: with nothing more to wait for,
the answers go. -/
def State.engOpFail (s : State) (o : OpIn) (u : HUnit) (who : Nat) (write : Bool) (e : AccErr) : State :=
  match e with
  | .remote _ _ _ _ => s.accFail o u write o.f.first e
  | e => (s.dropAnswers o.c who).accFail o u write o.f.first e

end Sys2Proof.Machine
end

