-- ==== Sys2Proof/Machine/Reel.lean ====
section
/-! DEFINITION. Bobbins as their producers see them (R133, R177), the Warper and the Reel (R79,
R137 to R140, R353 to R355, R389). -/

namespace Sys2Proof.Machine

open Sys2Proof

/-! ### Fills (R132, R133, R177) -/

/-- Whether a producer may start a fill (R133). -/
def Bobbin.canStart (b : Bobbin) : Bool :=
  decide ((b.wp + b.infl + 65536 - b.rp % 65536) % 65536 ≤ b.slots)

/-- The release of the slot that the next fill takes: none on the first pass of the ring (R177). -/
def Bobbin.slotFreed (b : Bobbin) : Option (Nat × Agent × Nat) :=
  let f := b.wp + b.infl
  if f ≤ b.slots ∧ b.freed.all (fun p => decide (p.1 ≤ f)) = true then none
  else b.freed.find? fun p => decide (0 ≤ sval 16 (p.1 + 65536 - (f - b.slots) % 65536))

/-- A fill started by an engine (R133): it acquires the release of its slot. -/
def State.fillStart (s : State) (c who b : Nat) : State :=
  let x := (s.core c).bob b
  let s1 := match x.slotFreed with
    | some (_, a, e) => s.raiseAcq (s.agent c who) a e
    | none => s
  s1.modCore c fun k => k.modBob b fun x => { x with infl := x.infl + 1 }

/-- A fill's completion posted by an engine (R130, R133): a release to the waiters. -/
def State.fillDone (s : State) (c who b : Nat) (err poison : Bool) : State :=
  let a := s.agent c who
  let r := s.raiseEpoch a
  r.1.modCore c fun k => k.modBob b fun x =>
    { x with wp := (x.wp + 1) % 65536, infl := x.infl - 1, err := x.err || err,
             poison := x.poison || poison, filled := (x.filled.filter fun p => p.1 != a) ++ [(a, r.2)] }

/-- An engine's access that does not complete (R130, R185): what withholds it, or none where the
entry or page ends with the error flag. A translated access that no route can deliver ends so as well (R21). One
that waits for another module has been dealt with before (`engAsk`). -/
def State.engFail (s : State) (c : Nat) (src : TrapSrc) (owner : FaultOwner) (write : Bool) (e : AccErr) :
    State × Option Nat :=
  let rec1 := fun (type va : Nat) =>
    { s.coreRec c type with node := 0x11, address := va, write := write }
  match e with
  | .translation va =>
    let routed := match s.translation c va with
      | .page _ => true
      | _ => false
    if routed then ((s.noteFar c va).postRec (rec1 7 va), none)
    else if s.fsvc c then (s.raise c (Trap.untied 6 va 0x11 0 src), some trapHeld)
    else
      let p := s.serviceFault (rec1 1 va) owner
      (p.1, some p.2)
  | .protection va =>
    (((s.notePoisoned c va).postRec (rec1 2 va)).raise c (Trap.untied 7 va 0x11 0 .untied), none)
  | .race line a => (s.raise c (Trap.untied 8 line.addr (raceDetail a) (s.raceAux a) src), some trapHeld)
  | .farRace pa d x => (s.raise c (Trap.untied 8 (lineOf pa) d x src), some trapHeld)
  | .remote _ _ _ _ => (s, none)

/-! ### The Warper (R79, R353) -/

/-- Pages of 64 tokens. -/
def pagesOf (len : Nat) : Nat := ceilDiv len 64

/-- The sequence that holds global page `g`, and the page's index in it; none past the last page. -/
def pageAt : Nat → List Nat → Nat → Option (Nat × Nat)
  | _, [], _ => none
  | i, p :: ps, g => if g < p then some (i, g) else pageAt (i + 1) ps (g - p)

/-- Entry `j` of a plan for `c` cores (R353). The page's index where there is no page is open. -/
def planEntry (pages : List Nat) (c free j : Nat) : List Byte :=
  let p := pages.foldl (fun a b => a + b) 0
  let first := j * p / c
  let q := match pageAt 0 pages first with
    | some x => x
    | none => (pages.length, free)
  toBytes 4 first ++ toBytes 4 ((j + 1) * p / c) ++ toBytes 4 q.1 ++ toBytes 4 q.2

/-- WARP (R353): a counted output whose plan is written at the commit. -/
def execWarp (h : OpWord) (s : State) : Host.Outcome State Fault Refusal :=
  matOp (memNames fun _ => []) s fun o _ =>
    if o.overCount then s.illegal o o.value 100
    else
      match s.paramBlock o 32 32 353 with
      | .error t => t
      | .ok (bs, s1) =>
        let w := fun i => leAt bs (8 * i) 8
        let lens := w 0
        let n := bits (w 1) 0 16
        let c := bits (w 1) 16 16
        let plan := w 2
        if 2 ^ 56 ≤ lens ∨ lens % 4 ≠ 0 ∨ n = 0 ∨ c = 0 ∨ 4096 < c ∨ 2 ^ 32 ≤ w 1 ∨ 2 ^ 56 ≤ plan ∨
            plan % 16 ≠ 0 ∨ w 3 ≠ 0 then s.illegal o o.value 353
        else
          match s1.load o lens (4 * n) with
          | .error e => s.accFail o .matrix false o.f.first e
          | .ok (lb, poison, s2) =>
            let pages := (List.range n).map fun i => pagesOf (leAt lb (4 * i) 4)
            let total := pages.foldl (fun a b => a + b) 0
            if poison then s.poisonTrap o lens 5 o.f.left
            else if 2 ^ 32 ≤ total then s.illegal o total 353
            else
              let d := s2.drawFree
              let out := (List.range c).flatMap (planEntry pages c d.1) ++ toBytes 8 total
              match d.2.access o .write plan out.length with
              | .error e => s.accFail o .matrix true o.f.first e
              | .ok ts =>
                ((d.2.noteAccess o .write plan ts).atCommit o (.store o.f.slot (segsOf ts out false))).finishM o h 0

/-! ### The Reel's parts (R137 to R140, R354) -/

/-- Why a page or an append does not go on: an access, an empty free list, or a list whose swaps were forestalled
again and again, after which the step is made again. -/
inductive ReelErr where
  | access (e : AccErr)
  | empty
  | again

/-- The bytes of a KV page (R137). -/
def pageBytes : Nat := 0x8040

/-- An access of the Reel. -/
def reelAcc {α : Type} (x : Except AccErr α) : Except ReelErr α :=
  match x with
  | .error e => .error (.access e)
  | .ok a => .ok a

/-- A system-scope atomic of the Reel on an 8-byte word; `op` are the numbers by which another module is asked
for it. -/
def State.reelRmw (s : State) (c va : Nat) (op : List Nat) (upd : Nat → Nat) : Except ReelErr (Nat × State) :=
  match s.engRmw c reelAgent true va 8 op upd with
  | .error e => .error (.access e)
  | .ok (w, _, s1) => .ok (w, s1)

/-- A word with its address field replaced. -/
def withAddr (w a : Nat) : Nat := w / 2 ^ 56 * 2 ^ 56 + a % 2 ^ 56

/-- A compare-and-swap of a word's address field. -/
def State.reelCas (s : State) (c va k want new : Nat) : Except ReelErr (Nat × State) :=
  s.reelRmw c va [2, k, want, new] fun x => if x % 2 ^ 56 = want then withAddr x new else x

/-- A page popped from a free list (R354); an empty list has head 0. A swap that another agent forestalls is made
again, `fuel` times at most; `k` tells the pops and pushes of a step apart. -/
def State.popFree (s : State) (c free k : Nat) : Nat → Except ReelErr (Nat × State)
  | 0 => .error .again
  | n + 1 => do
    let (w, s1) ← s.reelRmw c free [0, k, n] id
    let p := w % 2 ^ 56
    if p = 0 then throw .empty
    let (bs, s2) ← reelAcc (s1.engRead c reelAgent false p 8)
    let (x, s3) ← s2.reelCas c free n p (leAt (bs.map fun b => b.1) 0 7)
    if x % 2 ^ 56 = p then return (p, s3)
    s3.popFree c free k n

/-- A page pushed to a free list (R354), likewise. -/
def State.pushFree (s : State) (c free p k part : Nat) : Nat → Except ReelErr State
  | 0 => .error .again
  | n + 1 => do
    let (w, s1) ← s.reelRmw c free [0, k, n] id
    let s2 ← reelAcc (s1.engWrite c reelAgent false p ((toBytes 8 (w % 2 ^ 56)).map fun b => (b, false)) part)
    let (x, s3) ← s2.reelCas c free n (w % 2 ^ 56) p
    if x = w then return s3
    s3.pushFree c free p k part n

/-- How often a swap of a free list is tried in one step. -/
def swapTries : Nat := 64

/-- Whether a page's ITAG matches its contents (R137): words 1 and 2, then the K rows and the V rows
of its tokens. DEDUCED (log 58): in that order and each 256 bytes. -/
def itagOk (bs : List Byte) : Bool :=
  let n := 256 * bits (leAt bs 8 8) 8 8
  sm3First64 (slice bs 8 16 ++ slice bs 0x40 n ++ slice bs 0x4040 n) == leAt bs 56 8

/-- A page's bytes with POISON set in its header. -/
def poisonPage (bs : List PByte) : List PByte :=
  (List.zipIdx bs).map fun b => if b.2 = 8 then (b.1.1 ||| 2, b.1.2) else b.1

/-- Whether a page's copy fails its check (R139): it is sealed and its ITAG is not that of its contents. -/
def pageBad (bs : List PByte) : Bool :=
  let raw := bs.map fun b => b.1
  bit (leAt raw 8 8) 0 && !itagOk raw

/-- A command at another stage. -/
def ReelCmd.to (m : ReelCmd) (st : ReelStage) : ReelCmd := { m with stage := st }

/-- The link to a page in T3 replaced by its copy (R139 step 3). Where another agent has promoted the page, the copy goes
back and the new address is followed. -/
def State.relink (s : State) (c : Nat) (m : ReelCmd) (p d : Nat) (bad : Bool) : Except ReelErr (ReelCmd × State) := do
  let (w, s1) ← s.reelCas c m.link 1 p d
  if w % 2 ^ 56 = p then return (m.to (if bad then .abort p d else .copy d false), s1)
  let s2 ← s1.pushFree c m.free d 1 m.id swapTries
  return (m.to (.copy (w % 2 ^ 56) false), s2)

/-- The next page of a chain followed (R138): the chain ends, the page is copied, or, in T3, promoted first (R139
steps 1 and 2). -/
def State.reelFollow (s : State) (c : Nat) (m : ReelCmd) : Except ReelErr (ReelCmd × State) := do
  let (lb, s1) ← reelAcc (s.engRead c reelAgent true m.link 8)
  let p := leAt (lb.map fun b => b.1) 0 7
  if p = 0 then return (m.to (.finish none), s1)
  let far := match s1.resolve c .read p with
    | .ok t => t.t3
    | .error _ => false
  if !far then return (m.to (.copy p false), s1)
  let (d, s2) ← s1.popFree c m.free 0 swapTries
  let (bs, s3) ← reelAcc (s2.engRead c reelAgent true p pageBytes)
  let s4 ← reelAcc (s3.engWrite c reelAgent true d bs m.id)
  if pageBad bs then return (m.to (.recheck p d), s4)
  s4.relink c m p d false

/-- A page whose copy failed its check read once more from T3 and checked again (R139 step 2); a copy that fails both
checks is marked poisoned. -/
def State.reelRecheck (s : State) (c : Nat) (m : ReelCmd) (p d : Nat) : Except ReelErr (ReelCmd × State) := do
  let (bs, s1) ← reelAcc (s.engRead c reelAgent true p pageBytes)
  let bad := pageBad bs
  let s2 ← reelAcc (s1.engWrite c reelAgent true d (if bad then poisonPage bs else bs) m.id)
  s2.relink c m p d bad

/-- The abort record of a step (R389): PAGE by two swaps, then ABORT into STATUS. -/
def State.abortStep (s : State) (c skein page : Nat) : Except AccErr State := do
  if skein = 0 then return s
  let (_, _, s1) ← s.engRmw c reelAgent false (skein + 40) 4 [8, page % 2 ^ 32] fun _ => page % 2 ^ 32
  let (_, _, s2) ← s1.engRmw c reelAgent false (skein + 44) 4 [8, page / 2 ^ 32 % 2 ^ 32] fun _ => page / 2 ^ 32 % 2 ^ 32
  let (_, _, s3) ← s2.engRmw c reelAgent false (skein + 12) 4 [2, 4] fun x => setBit x 2
  return s3

/-- DONE written at a command's end (R354). -/
def State.writeDone (s : State) (c : Nat) (m : ReelCmd) (k : Nat) (err poison : Bool) :
    Except AccErr State := do
  let v := k % 2 ^ 32 + b2n err * 2 ^ 32 + b2n poison * 2 ^ 33
  let (_, _, s1) ← s.engRmw c reelAgent true m.doneAt 8 [8, v] fun _ => v
  return s1

/-- A page copied to its slot (R138): whether it is poisoned, and whether it is the chain's last. -/
def State.reelCopy (s : State) (c : Nat) (m : ReelCmd) (q : Nat) (bad : Bool) : Except ReelErr (ReelCmd × State) := do
  let (bs, s1) ← reelAcc (s.engRead c reelAgent true q pageBytes)
  let s2 ← reelAcc (s1.engWrite c reelAgent true (m.slotbase + m.k % m.nslot * pageBytes) bs m.id)
  let raw := bs.map fun b => b.1
  let w1 := leAt raw 8 8
  let poison := bad || bit w1 1 || bs.any fun b => b.2
  let last := leAt raw 0 7 == 0 || decide (bits w1 8 8 < 64) || (m.maxpages != 0 && decide (m.maxpages ≤ m.k + 1))
  return ({ m with k := m.k + 1, started := last, poison := m.poison || poison, link := q,
                   posts := if last then m.posts else m.posts ++ [(false, poison)],
                   stage := if last then .finish (some poison) else .follow }, s2)

/-- A command ended: its last completion, where a page is under way or the command has an error. -/
def ReelCmd.close (m : ReelCmd) (last : Option Bool) : ReelCmd :=
  let err := m.err || m.lost
  let posts := if err then [(true, last.getD false)] else (last.toList.map fun p => (false, p))
  { m with err := err, posts := m.posts ++ posts, ended := true }

/-- The fill that a command started for a page that is not there is not under way any more. -/
def State.unstart (s : State) (c : Nat) (m : ReelCmd) : State :=
  s.modCore c fun k => k.modBob m.bob fun b => { b with infl := b.infl - 1 }

/-- DONE written, and then the last completion (R354). -/
def State.reelFinish (s : State) (c : Nat) (m : ReelCmd) (last : Option Bool) : Except ReelErr (ReelCmd × State) := do
  let m1 := m.close last
  let s1 ← reelAcc (s.writeDone c m m.k m1.err m.poison)
  return (m1, if m1.posts.length = m.posts.length then s1.unstart c m else s1)

/-- One stage of a command (R138, R139, R389, R354). What a stage has done stays done where a later one does not
complete. -/
def State.reelStage (s : State) (c : Nat) (m : ReelCmd) : Except ReelErr (ReelCmd × State) :=
  match m.stage with
  | .follow => s.reelFollow c m
  | .recheck p d => s.reelRecheck c m p d
  | .abort p d => do
    let s1 ← reelAcc (s.abortStep c m.skein p)
    return (m.to (.copy d true), s1)
  | .copy q bad => s.reelCopy c m q bad
  | .finish last => s.reelFinish c m last

/-- A command of the Reel replaced, or taken out. -/
def Core.setReel (k : Core) (id : Nat) (m : Option ReelCmd) : Core :=
  match m with
  | some m => { k with reel := modFirst (fun x => x.id == id) (fun _ => m) k.reel }
  | none => { k with reel := k.reel.filter fun x => x.id != id }

/-- The completions that a bobbin's commands have posted, in the commands' order, each command's once all its writes
have been performed: those of a command behind an earlier one on the same bobbin wait (R130, R163, R185). A command with
an undeliverable write has the error flag on them (R21). -/
def State.reelPost (s : State) (c bob : Nat) : Nat → State
  | 0 => s
  | n + 1 =>
    match (s.core c).reel.find? fun m => m.bob == bob with
    | none => s
    | some m =>
      if !s.partDone c reelAgent m.id then s
      else
        let s1 := m.posts.foldl (fun s p => s.fillDone c reelAgent bob (p.1 || m.lost) p.2) s
        let s2 := s1.modCore c fun k => k.setReel m.id (if m.ended then none else some { m with posts := [] })
        if m.ended then s2.reelPost c bob n else s2

/-- A command as a stage leaves it. -/
def State.putReel (s : State) (c : Nat) (m : ReelCmd) : State := s.modCore c fun k => k.setReel m.id (some m)

/-- A command as a page leaves it: its completions are posted as far as their order allows. -/
def State.reelDone (s : State) (c : Nat) (m : ReelCmd) : State :=
  (s.putReel c m).reelPost c m.bob (s.core c).reel.length

/-- A command that ends with the error flag on its bobbin (R130, R139): DONE is still to be written; where DONE is what
has failed, the command ends without it. -/
def State.reelError (s : State) (c : Nat) (m : ReelCmd) : State :=
  let m1 := { m with err := true, withheld := none }
  match m.stage with
  | .finish last => s.reelDone c (m1.close last)
  | _ => s.putReel c (m1.to (.finish (some false)))

/-- Whether a stage writes DONE. -/
def ReelStage.finishes : ReelStage → Bool
  | .finish _ => true
  | _ => false

/-- A stage that does not complete. What it waits for another module to answer is asked for, and the stage is tried again
(R181). -/
def State.reelStop (s : State) (c : Nat) (m : ReelCmd) (e : ReelErr) : State :=
  match e with
  | .again => (s.dropAnswers c reelAgent).putReel c m
  | .empty => (s.dropAnswers c reelAgent).reelError c m
  | .access (.remote who n r ps) => (s.engAsk c who n r ps).putReel c m
  | .access e =>
    let r := (s.dropAnswers c reelAgent).engFail c (.reel m.id) (.reel c) m.stage.finishes e
    match r.2 with
    | some id => r.1.putReel c { m with withheld := some id }
    | none => r.1.reelError c m

/-- A command's page, `fuel` stages on, or until it waits. DONE waits for the command's writes. -/
def State.reelRun (s : State) (c : Nat) : Nat → ReelCmd → State
  | 0, m => s.putReel c m
  | n + 1, m =>
    if m.stage.finishes && !s.partDone c reelAgent m.id then s.putReel c m
    else
      match s.reelStage c m with
      | .error e => s.reelStop c m e
      | .ok (m1, s1) =>
        let s2 := s1.dropAnswers c reelAgent
        if m1.ended || !m1.started then s2.reelDone c m1 else s2.reelRun c n m1

/-- One page of a command, whose fill has started (R138, R139, R354); one with an undeliverable write ends (R21). -/
def State.reelGo (s : State) (c : Nat) (m : ReelCmd) : State :=
  let m1 := if m.lost && !m.stage.finishes then { m with err := true, stage := .finish (some false) } else m
  s.reelRun c 5 m1

/-- The completions of a core's commands that waited for their writes, posted. -/
def State.reelFlush (s : State) (c : Nat) : State :=
  (s.core c).reel.foldl (fun s m => s.reelPost c m.bob (s.core c).reel.length) s

/-- REEL_PAGE_FILL (R138, R139, R354): the first command of a core's Reel that nothing withholds goes
one page on, where its bobbin has a free slot and it is at most four pages ahead. -/
def execReelPageFill (core : Nat) (s : State) : Host.Outcome State Fault Refusal :=
  let s0 := s.reelFlush core
  match (s0.core core).reel.find? fun m => m.withheld.isNone && !m.ended with
  | none => .next s0
  | some m =>
    let b := (s0.core core).bob m.bob
    let ahead := sval 16 (m.k + 65536 - b.rp % 65536)
    if m.started then .next (s0.reelGo core m)
    else if !b.canStart || decide (4 < ahead) then .next s0
    else .next ((s0.fillStart core reelAgent m.bob).reelGo core { m with started := true })

/-! ### Appends (R140, R355) -/

/-- R140 on header word 1: the new word. -/
def appendWord (w : Nat) : Nat :=
  let fill := bits w 8 8
  if fill = 64 then w
  else if bits w 16 16 = 1 then w - w % 2 - fill * 256 + (fill + 1) * 256
  else w - bits w 16 16 * 65536 + (bits w 16 16 + 65535) % 65536 * 65536

/-- R140's result: CLAIM 0, COPY 1 or FULL 2. -/
def appendResult (w : Nat) : Nat :=
  if bits w 8 8 = 64 then 2 else if bits w 16 16 = 1 then 0 else 1

/-- Header word 1 of a fresh copy: REFCNT 1, one token more, SEALED clear (R140). -/
def copyWord (w : Nat) : Nat :=
  bits w 32 32 * 2 ^ 32 + 65536 + (bits w 8 8 + 1) * 256 + bits w 1 1 * 2

/-- A token's rows written at a slot of a page. -/
def State.writeKV (s : State) (c page slot : Nat) (kr vr : List PByte) : Except ReelErr State := do
  let s1 ← reelAcc (s.engWrite c reelAgent true (page + 0x40 + 256 * slot) kr)
  reelAcc (s1.engWrite c reelAgent true (page + 0x4040 + 256 * slot) vr)

/-- An append (R355): its result and slot, and the state after. The copy takes SUCC and word 2 of the
tail. DEDUCED (log 59). -/
def State.append (s : State) (c link free : Nat) (kr vr : List PByte) :
    Except ReelErr (Nat × Nat × State) := do
  let (d, s1) ← s.popFree c free 0 swapTries
  let (l, s2) ← s1.reelRmw c link [0, 2] id
  let tail := l % 2 ^ 56
  let (w, s3) ← s2.reelRmw c (tail + 8) [17] appendWord
  let fill := bits w 8 8
  match appendResult w with
  | 0 =>
    let s4 ← s3.writeKV c tail fill kr vr
    let s5 ← s4.pushFree c free d 1 0 swapTries
    return (0, fill, s5)
  | 1 =>
    let (w0, s4) ← s3.reelRmw c tail [0] id
    let (w2, s5) ← s4.reelRmw c (tail + 16) [0] id
    let head := (toBytes 8 w0 ++ toBytes 8 (copyWord w) ++ toBytes 8 w2 ++ List.replicate 40 0).map fun b =>
      ((b, false) : PByte)
    let s6 ← reelAcc (s5.engWrite c reelAgent true d head)
    let (kb, s7) ← reelAcc (s6.engRead c reelAgent true (tail + 0x40) (256 * fill))
    let s8 ← if fill = 0 then .ok s7 else reelAcc (s7.engWrite c reelAgent true (d + 0x40) kb)
    let (vb, s9) ← reelAcc (s8.engRead c reelAgent true (tail + 0x4040) (256 * fill))
    let s10 ← if fill = 0 then .ok s9 else reelAcc (s9.engWrite c reelAgent true (d + 0x4040) vb)
    let s11 ← s10.writeKV c d fill kr vr
    let (_, s12) ← s11.reelCas c link 3 tail d
    return (1, fill, s12)
  | _ =>
    let s4 ← s3.pushFree c free d 1 0 swapTries
    return (2, 0, s4)

/-- A local row of 256 bytes read as an operand of a matrix form. -/
def State.kvRow (s : State) (o : OpIn) (a : Nat) : Except AccErr (List PByte × State) :=
  s.collLoad o 5 a 256

/-- An append performed, with its token's value (R355): the token waits until every write has been performed. -/
def State.reelAnswer (s : State) (o : OpIn) (h : OpWord) (v : Word) : State :=
  if s.partDone o.c reelAgent 0 then s.finishL o h v
  else s.hold { o with f := { o.f with answered := some v } } .matrix .flight

/-- An APPEND form (R355). -/
def State.reelAppend (s : State) (o : OpIn) (h : OpWord) (d : List Nat) : State :=
  let w := fun i => d.getD i 0
  if 2 ^ 56 ≤ w 0 ∨ 0x200000 < w 1 + 256 ∨ 0x200000 < w 2 + 256 ∨ 2 ^ 56 ≤ w 3 ∨
      (d.drop 4).all (fun x => x == 0) = false then s.illegal o o.value 354
  else
    match s.kvRow o (w 1) with
    | .error e => s.accFail o .matrix false o.f.first e
    | .ok (kr, s1) =>
      match s1.kvRow o (w 2) with
      | .error e => s.accFail o .matrix false o.f.first e
      | .ok (vr, s2) =>
        match s2.append o.c (w 0) (w 3) kr vr with
        | .error .again => (s.dropAnswers o.c reelAgent).hold o .matrix .reel
        | .error .empty => (s.dropAnswers o.c reelAgent).finishL o h 3
        | .error (.access e) => s.engOpFail o .matrix reelAgent true e
        | .ok (res, slot, s3) => (s3.dropAnswers o.c reelAgent).reelAnswer o h (BitVec.ofNat 32 (res + 256 * slot))

/-- A chain command's descriptor (R354), or none where a field is bad. -/
def reelCmd (id colour : Nat) (d : List Nat) : Option ReelCmd :=
  let w := fun i => d.getD i 0
  let nslot := bits (w 1) 20 8
  let base := bits (w 1) 0 15 * 64
  if w 0 < 2 ^ 56 ∧ bits (w 1) 15 5 = 0 ∧ 5 ≤ nslot ∧ base + nslot * pageBytes ≤ 0x200000 ∧ w 2 < 2 ^ 56 ∧
      w 3 < 2 ^ 56 ∧ w 4 < 2 ^ 56 ∧ (d.drop 5).all (fun x => x == 0) = true then
    some { id := id, colour := colour, link := w 0, maxpages := bits (w 1) 32 32, bob := bits (w 1) 28 4,
           nslot := nslot, slotbase := base, free := w 2, skein := w 3, doneAt := w 4, k := 0,
           started := false, err := false, poison := false, withheld := none, posts := [], ended := false }
  else none

/-- REEL (R354, R355): a chain command is queued; an APPEND is performed at once. With four commands queued either waits. -/
def execReel (h : OpWord) (append : BitVec 1) (s : State) : Host.Outcome State Fault Refusal :=
  matOp (memNames fun _ => []) s fun o _ =>
    match o.f.answered with
    | some v => s.reelAnswer o h v
    | none =>
      match s.paramBlock o 64 64 354 with
      | .error t => t
      | .ok (bs, s1) =>
        let d := words64 bs
        let cmds := (s.core o.c).reel
        if append = 1 then if 4 ≤ cmds.length then s.hold o .matrix .reel else s1.reelAppend o h d
        else
          match reelCmd ((cmds.map fun m => m.id).foldl max 0 + 1) o.colour d with
          | none => s.illegal o o.value 354
          | some m =>
            if 4 ≤ cmds.length then s.hold o .matrix .reel
            else (s1.modCore o.c fun k => { k with reel := k.reel ++ [m] }).finishM o h 0

end Sys2Proof.Machine
end

