-- ==== Sys2Proof/Machine/Spindle.lean ====
section
/-! DEFINITION. The Spindle (R373 to R391, R393): bindings, skein tables, logit programs, the
candidate buffer and the draw. -/

namespace Sys2Proof.Machine

open Sys2Proof

/-! ### Skein tables (R375 to R377) -/

/-- Offset of the candidate save area. -/
def skeinSave : Nat := 0x80

/-- Offset of the count table. -/
def skeinCount : Nat := 0x280

/-- Offset of the bias table. -/
def skeinBias : Nat := 0x4280

/-- The hash of way 0, of `b` bits. -/
def skeinHa (x b : Nat) : Nat := x * 0x9E3779B1 % 2 ^ 32 / 2 ^ (32 - b)

/-- The hash of way 1. -/
def skeinHb (x b : Nat) : Nat := Nat.xor x 0x5BD1E995 * 0x85EBCA77 % 2 ^ 32 / 2 ^ (32 - b)

/-- The two slots of a token in a table of ways of 2^b entries. -/
def skeinSlots (x b : Nat) : Nat × Nat := (skeinHa x b, 2 ^ b + skeinHb x b)

/-- VALID of an entry. -/
def entryValid (e : Nat) : Bool := bit e 63

/-- Whether an entry holds a token. -/
def entryIs (e x : Nat) : Bool := entryValid e && bits e 0 32 == x

/-- The 16-bit value of an entry. -/
def entryVal (e : Nat) : Nat := bits e 32 16

/-- An entry of a token with its value. -/
def skeinEntry (x v : Nat) : Nat := 2 ^ 63 + v * 2 ^ 32 + x

/-! ### Logit programs (R378) -/

/-- OP of a logit word. -/
def lwOp (w : Nat) : Nat := bits w 11 5
/-- D of a logit word. -/
def lwD (w : Nat) : Nat := bits w 8 3
/-- A of a logit word. -/
def lwA (w : Nat) : Nat := bits w 5 3
/-- B or K of a logit word. -/
def lwB (w : Nat) : Nat := bits w 2 3

/-- Which of D, A and B an operation uses, or none where it is reserved. -/
def lwUses (op : Nat) : Option (Bool × Bool × Bool) :=
  match op with
  | 0x00 => some (false, false, false)
  | 0x01 => some (true, true, true)
  | 0x02 => some (true, true, true)
  | 0x03 => some (true, true, true)
  | 0x04 => some (true, true, true)
  | 0x05 => some (true, true, true)
  | 0x06 => some (true, true, true)
  | 0x07 => some (true, true, true)
  | 0x08 => some (true, true, true)
  | 0x09 => some (true, false, true)
  | 0x0A => some (true, true, false)
  | 0x0B => some (true, true, false)
  | 0x0C => some (true, true, false)
  | 0x0D => some (true, true, true)
  | 0x0E => some (true, true, false)
  | 0x0F => some (false, true, false)
  | 0x10 => some (false, true, true)
  | 0x11 => some (false, true, true)
  | 0x12 => some (false, false, false)
  | 0x13 => some (false, false, false)
  | _ => none

/-- Whether a logit word is well formed. -/
def lwOk (w : Nat) : Bool :=
  match lwUses (lwOp w) with
  | none => false
  | some (d, a, b) => bits w 0 2 == 0 && (d || lwD w == 0) && (a || lwA w == 0) && (b || lwB w == 0)

/-- The words kept of a program: up to and including the first `end`, each well formed. -/
def keepProg : List Nat → Option (List Nat)
  | [] => none
  | w :: ws =>
    if !lwOk w then none
    else if lwOp w = 0 then some [w]
    else (keepProg ws).map fun r => w :: r

/-- A lane of a run (R379). -/
structure LLane where
  tok : Nat
  v : List Nat
  mask : Bool
  poison : Bool

/-- A lane's register. -/
def LLane.get (l : LLane) (i : Nat) : Nat := l.v.getD i 0

/-- A lane with a register set. -/
def LLane.set (l : LLane) (i x : Nat) : LLane := { l with v := setAt l.v i x }

/-- -Inf of FP32. -/
def ninfF32 : Nat := fp32.encInf true

/-- A logit word on one lane, for the words that read no table. -/
def lwPlain (b : Binding) (w : Nat) (l : LLane) : LLane :=
  let a := l.get (lwA w)
  let y := l.get (lwB w)
  let k := (b.ks.getD (lwB w) 0).toNat
  let set := fun x => l.set (lwD w) x
  match lwOp w with
  | 0x01 => set (addF32 a y)
  | 0x02 => set (addF32 a (negF32 y))
  | 0x03 => set (mulF32 a y)
  | 0x04 => set (fp32.minMax true a y)
  | 0x05 => set (fp32.minMax false a y)
  | 0x06 => set (addF32 a k)
  | 0x07 => set (mulF32 a k)
  | 0x08 => set (divF32 a k)
  | 0x09 => set k
  | 0x0C => set (if b.temp = 0 then a else divF32 a b.temp.toNat)
  | 0x0D => set (if l.mask then (if fp32.lt 0 a then divF32 a k else mulF32 a k) else a)
  | 0x0E => set (if l.mask then a else ninfF32)
  | 0x10 => { l with mask := l.mask && fp32.lt y a }
  | 0x11 => { l with mask := l.mask && fp32.lt k a }
  | 0x12 => { l with mask := !l.mask }
  | 0x13 => { l with mask := true }
  | _ => l

/-- A plain read by the Spindle of `n` bytes: the number, whether it is poisoned, and the state
after. -/
def State.spRead (s : State) (c va n : Nat) : Except AccErr (Nat × Bool × State) := do
  let (bs, s1) ← s.engRead c spindleAgent false (wrapVa va) n
  return (ofBytes (bs.map fun b => b.1), bs.any fun b => b.2, s1)

/-- A lookup of a token in a table (R377): the entry's value, 0 where it is absent. -/
def State.lookup (s : State) (c table x b : Nat) : Except AccErr (Nat × Bool × State) := do
  let p := skeinSlots x b
  let (e0, p0, s1) ← s.spRead c (table + 8 * p.1) 8
  if entryIs e0 x then return (entryVal e0, p0, s1)
  let (e1, p1, s2) ← s1.spRead c (table + 8 * p.2) 8
  return (if entryIs e1 x then entryVal e1 else 0, p0 || p1, s2)

/-- A logit word on one lane (R378). -/
def State.lwLane (s : State) (c : Nat) (b : Binding) (w : Nat) (l : LLane) :
    Except AccErr (LLane × State) := do
  let x := l.get (lwA w)
  match lwOp w with
  | 0x0A =>
    let (v, p, s1) ← s.lookup c (b.skein + skeinCount) x 10
    return ({ l.set (lwD w) (floatF32 v) with poison := l.poison || p }, s1)
  | 0x0B =>
    let (v, p, s1) ← s.lookup c (b.skein + skeinBias) x 9
    return ({ l.set (lwD w) (fp32.encode .rne (fp16.decode v)) with poison := l.poison || p }, s1)
  | 0x0F =>
    if b.maskptr = 0 then return (l, s)
    let (v, p, s1) ← s.spRead c (b.maskptr + x / 8) 1
    return ({ l with mask := l.mask && bit v (x % 8), poison := l.poison || p }, s1)
  | _ => return (lwPlain b w l, s)

/-- A logit word on every active lane. -/
def State.lwLanes (s : State) (c : Nat) (b : Binding) (w : Nat) :
    List LLane → Except AccErr (List LLane × State)
  | [] => .ok ([], s)
  | l :: ls =>
    match s.lwLane c b w l with
    | .error e => .error e
    | .ok (x, s1) =>
      match s1.lwLanes c b w ls with
      | .error e => .error e
      | .ok (xs, s2) => .ok (x :: xs, s2)

/-- A program run over the active lanes (R379). -/
def State.lwRun (s : State) (c : Nat) (b : Binding) : List Nat → List LLane → Except AccErr (List LLane × State)
  | [], ls => .ok (ls, s)
  | w :: ws, ls =>
    match s.lwLanes c b w ls with
    | .error e => .error e
    | .ok (xs, s1) => s1.lwRun c b ws xs

/-! ### The candidate buffer (R380) -/

/-- Whether a candidate stands before another: by x descending, then by token ascending. -/
def Cand.before (a b : Cand) : Bool :=
  fp32.lt b.val.toNat a.val.toNat || (fp32.eq a.val.toNat b.val.toNat && decide (a.tok ≤ b.tok))

/-- A candidate put in its place. -/
def insertCand (a : Cand) : List Cand → List Cand
  | [] => [a]
  | b :: r => if a.before b then a :: b :: r else b :: insertCand a r

/-- A lane's value offered to the buffer (R380, R388). -/
def Binding.offer (b : Binding) (l : LLane) : Binding :=
  let x := l.get 0
  if l.poison then { b with poisoned := true }
  else if x = ninfF32 then b
  else if !fp32.isFin x then { b with nonfin := true }
  else { b with cands := (insertCand { tok := l.tok, val := BitVec.ofNat 32 x } b.cands).take 64 }

/-! ### The frame of a Spindle form (R373, R383) -/

/-- A form of the Spindle's port: it waits behind an earlier one, while its core has arrived at the
open step, and, but for SPIN, for the earlier instances of its colour. -/
def spindleOp (waits : Bool) (s : State) (g : OpIn → State) : Host.Outcome State Fault Refusal :=
  runOp s fun o =>
    if s.portBusy o .spindle then s.hold o .spindle .port
    else if s.hasArrived o.c then s.hold o .spindle .step
    else if waits && s.earlier o then s.hold o .spindle .earlier
    else if s.tagBadM o o.head then s.tagTrap o o.head.tg.toNat
    else g o

/-- The Spindle's acquire of the colour's writes as it takes a form (R373). -/
def State.spTake (s : State) (o : OpIn) : State :=
  s.handOver (s.agent o.c o.colour) (s.agent o.c spindleAgent)

/-- The release to the colour that a form's token is (R373); what other modules answered to the form is done
with. -/
def State.spGive (s : State) (o : OpIn) : State :=
  (s.dropAnswers o.c spindleAgent).handOver (s.agent o.c spindleAgent) (s.agent o.c o.colour)

/-- An access of a form that does not complete. -/
def State.spFail (s : State) (o : OpIn) (write : Bool) (e : AccErr) : State := s.engOpFail o .spindle spindleAgent write e

/-- A binding replaced. -/
def State.setBind (s : State) (o : OpIn) (i : Nat) (b : Binding) : State :=
  s.modCore o.c fun k => { k with binds := aset k.binds i b }

/-- Whether two addresses of a core name one table. -/
def State.sameTable (s : State) (c x y : Nat) : Bool :=
  x == y || (match s.resolve c .read x, s.resolve c .read y with
    | .ok a, .ok b => a.loc == b.loc
    | _, _ => false)

/-- The bindings that hold a table no longer do (R384): of those of one table only the latest takes effect. -/
def State.dropTable (s : State) (o : OpIn) (skein : Nat) : State :=
  let free := fun (p : Nat × Binding) =>
    if p.2.bound && s.sameTable o.c (p.2.skein) skein then (p.1, Binding.zero) else p
  s.modCore o.c fun k => { k with binds := k.binds.map free }

/-- Header words read by system-scope atomics, with whether one is poisoned. -/
def State.headerWords (s : State) (c skein : Nat) : List Nat → Except AccErr (List Nat × Bool × State)
  | [] => .ok ([], false, s)
  | w :: ws =>
    match s.engLoad c spindleAgent (skein + 4 * w) 4 with
    | .error e => .error e
    | .ok (x, p, s1) =>
      match s1.headerWords c skein ws with
      | .error e => .error e
      | .ok (xs, q, s2) => .ok (x :: xs, p || q, s2)

/-- A header word changed by a system-scope atomic; `op` are the numbers by which another module is asked for
it. -/
def State.headerRmw (s : State) (c skein w : Nat) (op : List Nat) (upd : Nat → Nat) : Except AccErr State :=
  match s.engRmw c spindleAgent false (skein + 4 * w) 4 op upd with
  | .error e => .error e
  | .ok (_, _, s1) => .ok s1

/-! ### SKBIND (R384) -/

/-- Whether TEMP is as R376 says: +0, or positive, normal and finite. -/
def tempOk (x : Nat) : Bool := x == 0 || (decide (0x00800000 ≤ x) && decide (x ≤ 0x7F7FFFFF))

/-- The header words that SKBIND reads: STEP, TEMP, TOPK, VOCAB, MASKPTR and the parameters. -/
def bindWords : List Nat := [2, 4, 5, 7, 8, 9, 16, 17, 18, 19, 20, 21, 22, 23]

/-- SKBIND (R384). -/
def execSkbind (h : OpWord) (bind : BitVec 3) (s : State) : Host.Outcome State Fault Refusal :=
  spindleOp true s fun o =>
    let a := o.value
    if (lane0 o.f.left).poison then s.poisonTrap o a 1 o.f.left
    else if a % 16 ≠ 0 ∨ 0x200000 ≤ a then s.illegal o a 384
    else
      match s.readBlock o .spindle a 16 with
      | .error t => t
      | .ok (bs, s1) =>
        let skein := leAt bs 0 8
        let prog := leAt bs 8 4
        let n := bits (leAt bs 12 4) 0 7
        if 2 ^ 56 ≤ skein ∨ 128 ≤ leAt bs 12 4 then s.illegal o a 384
        else if skein = 0 then
          let d := s1.drawFree
          (((d.2.spTake o).setBind o bind.toNat Binding.zero).spGive o).finishM o h (BitVec.ofNat 32 d.1)
        else if skein % 64 ≠ 0 ∨ prog % 2 ≠ 0 ∨ n = 0 ∨ 64 < n ∨ 0x200000 ≤ prog then s.illegal o a 384
        else
          match s1.readBlock o .spindle prog (2 * n) with
          | .error t => t
          | .ok (pb, s2) =>
            match keepProg ((List.range n).map fun i => leAt pb (2 * i) 2) with
            | none => s.illegal o prog 378
            | some ws =>
              match (s2.spTake o).headerWords o.c skein bindWords with
              | .error e => s.spFail o true e
              | .ok (hw, poison, s3) =>
                let x := fun i => hw.getD i 0
                let mask := x 4 + x 5 * 2 ^ 32
                if poison then s.poisonTrap o skein 5 o.f.left
                else if !tempOk (x 1) || x 2 / 128 != 0 || x 3 == 0 || decide (2 ^ 56 ≤ mask) then
                  s.illegal o skein 376
                else
                  let b : Binding :=
                    { bound := true, skein := skein, prog := ws, ks := (hw.drop 6).map (BitVec.ofNat 32),
                      temp := BitVec.ofNat 32 (x 1), vocab := x 3, maskptr := mask, cands := [],
                      poisoned := false, nonfin := false }
                  (((s3.dropTable o skein).setBind o bind.toNat b).spGive o).finishM o h (BitVec.ofNat 32 (x 0))

/-! ### SPIN (R385) -/

/-- The lanes of a run that are active (R379). -/
def OpIn.logitLanes (o : OpIn) (vocab : Nat) : List LLane :=
  let base := baseOf o.m.vec o.i.tag o.f.first
  let ls := (List.zipIdx o.f.left).map fun p =>
    ({ tok := (base + p.2) % 2 ^ 32, v := [p.1.val.toNat, (base + p.2) % 2 ^ 32, 0, 0, 0, 0, 0, 0],
       mask := true, poison := p.1.poison } : LLane)
  ls.filter fun l => decide (l.tok < vocab)

/-- SPIN (R385). -/
def execSpin (h : OpWord) (bind : BitVec 3) (s : State) : Host.Outcome State Fault Refusal :=
  spindleOp false s fun o =>
    let b := (s.core o.c).bind bind.toNat
    if !b.bound then s.illegal o bind.toNat 383
    else
      match s.lwRun o.c b b.prog (o.logitLanes b.vocab) with
      | .error e => s.spFail o false e
      | .ok (ls, s1) => ((s1.dropAnswers o.c spindleAgent).setBind o bind.toNat (ls.foldl Binding.offer b)).finishM o h 0

/-! ### DRAW (R381, R382) -/

/-- R381's spin_mix. -/
def spinMix (x : Word) : Word :=
  let x1 := (x ^^^ (x >>> 16)) * 0x7FEB352D
  let x2 := (x1 ^^^ (x1 >>> 15)) * 0x846CA68B
  x2 ^^^ (x2 >>> 16)

/-- R381's gumbel. -/
def gumbel (seed0 seed1 step tok : Word) : Nat :=
  let a := spinMix (seed0 ^^^ tok)
  let b := spinMix (a ^^^ seed1 ^^^ step)
  let u := fp32.encode .rne (FV.ofInt false ((2 * (b.toNat / 2 ^ 9) + 1 : Nat) : Int) (-24))
  negF32 (lnF32 (negF32 (lnF32 u)))

/-- The weights of the candidates (R382). -/
def drawWeights (m : Nat) (c : List Cand) : List Nat :=
  c.map fun x => expF32 (addF32 x.val.toNat (negF32 m))

/-- The last candidate that top-p keeps (R382): the first whose cumulative weight reaches the
limit, or else the last. -/
def topP (lim : Nat) : Nat → Nat → List Nat → Nat
  | _, i, [] => i - 1
  | cum, i, w :: ws => if fp32.le lim (addF32 cum w) then i else topP lim (addF32 cum w) (i + 1) ws

/-- The index of the greatest score, the lowest on ties. -/
def bestOf (score : Cand → Nat) : List Cand → Nat → Nat → Nat → Nat
  | [], _, best, _ => best
  | c :: cs, i, best, top =>
    if fp32.lt top (score c) then bestOf score cs (i + 1) i (score c) else bestOf score cs (i + 1) best top

/-- The candidate drawn (R382). -/
def drawWin (b : Binding) (topk topp : Nat) (seed0 seed1 step : Word) : Nat :=
  let c := b.cands.take (min topk b.cands.length)
  if b.temp = 0 then 0
  else
    let m := ((c.head?.map fun x => x.val.toNat).getD 0)
    let w := drawWeights m c
    let lim := mulF32 topp (w.foldl addF32 0)
    let j := topP lim 0 0 w
    let score := fun (x : Cand) => addF32 x.val.toNat (gumbel seed0 seed1 step (BitVec.ofNat 32 x.tok))
    bestOf score (c.take (j + 1)) 0 0 (score (c.headD { tok := 0, val := 0 }))

/-- The STATUS bits a DRAW sets (R376). -/
def drawStatus (poison empty nonfin : Bool) : Nat := b2n poison * 8 + b2n empty * 16 + b2n nonfin * 32

/-- The header updates of a DRAW, and its token (R382): none where it fails. -/
def State.drawHeader (s : State) (c : Nat) (b : Binding) (win : Option Nat) : Except AccErr State :=
  match win with
  | none =>
    let bits := drawStatus b.poisoned b.cands.isEmpty b.nonfin
    s.headerRmw c b.skein 3 [2, bits] fun x => x ||| bits
  | some i => do
    let bits := drawStatus false false b.nonfin
    let tok := (b.cands.getD i { tok := 0, val := 0 }).tok
    let s1 ← s.headerRmw c b.skein 3 [2, bits] fun x => x ||| bits
    let s2 ← s1.headerRmw c b.skein 12 [8, tok] fun _ => tok
    s2.headerRmw c b.skein 2 [0, 1] fun x => (x + 1) % 2 ^ 32

/-- DRAW (R382). -/
def execDraw (h : OpWord) (bind : BitVec 3) (s : State) : Host.Outcome State Fault Refusal :=
  spindleOp true s fun o =>
    let b := (s.core o.c).bind bind.toNat
    if !b.bound then s.illegal o bind.toNat 383
    else
      match (s.spTake o).headerWords o.c b.skein [0, 1, 2, 3, 5, 6] with
      | .error e => s.spFail o true e
      | .ok (hw, poison, s1) =>
        let x := fun i => hw.getD i 0
        let w := fun i => BitVec.ofNat 32 (x i)
        if poison then s.poisonTrap o b.skein 5 o.f.left
        else if x 4 = 0 ∨ 64 < x 4 then s.illegal o (x 4) 382
        else if !fp32.lt 0 (x 5) || !fp32.le (x 5) 0x3F800000 then s.illegal o (x 5) 382
        else
          let failed := bit (x 3) 2 || b.poisoned || b.cands.isEmpty
          let win := if failed then none else some (drawWin b (x 4) (x 5) (w 0) (w 1) (w 2))
          match s1.drawHeader o.c b win with
          | .error e => s.spFail o true e
          | .ok s2 =>
            let tok := match win with
              | none => 0xFFFFFFFF
              | some i => (b.cands.getD i { tok := 0, val := 0 }).tok
            let s3 := s2.setBind o bind.toNat { b with cands := [], poisoned := false, nonfin := false }
            let s4 := s3.modCore o.c fun k =>
              { k with regs := { k.regs with
                  spFails := if failed then satAdd k.regs.spFails 1 0xFFFF else k.regs.spFails,
                  spDraws := if failed then k.regs.spDraws else satAdd k.regs.spDraws 1 0xFFFF } }
            let all := fun (v : Word) => o.f.run ((List.range o.f.n).map fun _ => ({ val := v, poison := false } : Lane))
            (s4.spGive o).finish o h true (all (BitVec.ofNat 32 tok)) (all (predWord failed))

/-! ### SKUPD, SKRD and SKWR (R386, R387) -/

/-- Entries of the count table that a walk has changed, newest first. -/
abbrev Moves := List (Nat × Nat)

/-- An entry of the count table as a walk leaves it. -/
def State.countAt (s : State) (c skein : Nat) (mv : Moves) (i : Nat) : Except AccErr (Nat × Bool × State) :=
  match mv.find? fun p => p.1 == i with
  | some p => .ok (p.2, false, s)
  | none => s.engLoad c spindleAgent (skein + skeinCount + 8 * i) 8

/-- The other slot of an entry. -/
def otherSlot (e i : Nat) : Nat :=
  let p := skeinSlots (bits e 0 32) 10
  if i < 1024 then p.2 else p.1

/-- The walk of R386: `e` is moved from slot `i`, with `fuel` displacements left; the moves where it
ends in a free slot, or none. -/
def State.walkCounts (s : State) (c skein : Nat) :
    Nat → Moves → Nat → Nat → Bool → Except AccErr (Option Moves × Bool × State)
  | 0, _, _, _, p => .ok (none, p, s)
  | fuel + 1, mv, e, i, p =>
    let j := otherSlot e i
    match s.countAt c skein mv j with
    | .error x => .error x
    | .ok (y, q, s1) =>
      if entryValid y then s1.walkCounts c skein fuel ((j, e) :: mv) y j (p || q)
      else .ok (some ((j, e) :: mv), p || q, s1)

/-- What a count update comes to: the entries to write, the result, the STATUS bits, the poison of
the entries read. -/
structure CountUpd where
  moves : Moves
  count : Nat
  status : Nat
  poison : Bool

/-- The plan of a SKUPD (R386). -/
def State.planCount (s : State) (c skein x inc : Nat) : Except AccErr (CountUpd × State) := do
  let p := skeinSlots x 10
  let (e0, p0, s1) ← s.countAt c skein [] p.1
  let (e1, p1, s2) ← s1.countAt c skein [] p.2
  let bump := fun (i e : Nat) =>
    let n := entryVal e + inc
    ({ moves := [(i, skeinEntry x (min n 0xFFFF))], count := min n 0xFFFF,
       status := if 0xFFFF < n then 2 else 0, poison := p0 || p1 } : CountUpd)
  let put := fun (i : Nat) =>
    ({ moves := [(i, skeinEntry x inc)], count := inc, status := 0, poison := p0 || p1 } : CountUpd)
  if entryIs e0 x then return (bump p.1 e0, s2)
  if entryIs e1 x then return (bump p.2 e1, s2)
  if !entryValid e0 then return (put p.1, s2)
  if !entryValid e1 then return (put p.2, s2)
  let (mv, q, s3) ← s2.walkCounts c skein 16 [(p.1, skeinEntry x inc)] e0 p.1 (p0 || p1)
  match mv with
  | some m => return ({ moves := m, count := inc, status := 0, poison := q }, s3)
  | none => return ({ moves := [], count := 0, status := 1, poison := q }, s3)

/-- The entries of a plan written by atomics, oldest first. -/
def State.writeCounts (s : State) (c skein : Nat) : Moves → Except AccErr State
  | [] => .ok s
  | (i, e) :: r =>
    match s.writeCounts c skein r with
    | .error x => .error x
    | .ok s1 =>
      match s1.engRmw c spindleAgent false (skein + skeinCount + 8 * i) 8 [8, e] fun _ => e with
      | .error x => .error x
      | .ok (_, _, s2) => .ok s2

/-- SKUPD's atomic performed (R386). -/
def State.updateCount (s : State) (c skein x inc : Nat) : Except AccErr (CountUpd × State) := do
  let (u, s1) ← s.planCount c skein x inc
  let s2 ← s1.writeCounts c skein u.moves
  let s3 ← if u.status = 0 then .ok s2 else s2.headerRmw c skein 3 [2, u.status] fun w => w ||| u.status
  return (u, s3)

/-- A data token of one value in every lane (R393). -/
def State.finishV (s : State) (o : OpIn) (h : OpWord) (l : Lane) : State :=
  let r := o.f.run ((List.range o.f.n).map fun _ => l)
  s.finish o h true r r

/-- SKUPD (R386). -/
def execSkupd (h : OpWord) (inc : BitVec 8) (bind : BitVec 3) (s : State) : Host.Outcome State Fault Refusal :=
  spindleOp true s fun o =>
    let b := (s.core o.c).bind bind.toNat
    let x := o.value
    if !b.bound then s.illegal o bind.toNat 383
    else if (lane0 o.f.left).poison then s.poisonTrap o 0 7 o.f.left
    else if x = 0xFFFFFFFF then ((s.spTake o).spGive o).finishV o h { val := 0, poison := false }
    else
      match (s.spTake o).updateCount o.c b.skein x inc.toNat with
      | .error e => s.spFail o true e
      | .ok (u, s1) =>
        let s2 := s1.setBind o bind.toNat { b with poisoned := b.poisoned || u.poison }
        (s2.spGive o).finishV o h { val := BitVec.ofNat 32 u.count, poison := u.poison }

/-- SKRD (R387). -/
def execSkrd (h : OpWord) (word : BitVec 5) (bind : BitVec 3) (s : State) : Host.Outcome State Fault Refusal :=
  spindleOp true s fun o =>
    let b := (s.core o.c).bind bind.toNat
    if !b.bound then s.illegal o bind.toNat 383
    else
      match (s.spTake o).engLoad o.c spindleAgent (b.skein + 4 * word.toNat) 4 with
      | .error e => s.spFail o true e
      | .ok (x, p, s1) => (s1.spGive o).finishV o h { val := BitVec.ofNat 32 x, poison := p }

/-- The cached value that a header word updates (R387). -/
def Binding.cache (b : Binding) (w : Nat) (v : Word) : Binding :=
  if w = 4 then { b with temp := v }
  else if w = 7 then { b with vocab := v.toNat }
  else if w = 8 then { b with maskptr := b.maskptr / 2 ^ 32 * 2 ^ 32 + v.toNat }
  else if w = 9 then { b with maskptr := v.toNat * 2 ^ 32 + b.maskptr % 2 ^ 32 }
  else if 16 ≤ w ∧ w < 24 then { b with ks := setAt b.ks (w - 16) v }
  else b

/-- SKWR (R387). -/
def execSkwr (h : OpWord) (word : BitVec 5) (bind : BitVec 3) (s : State) : Host.Outcome State Fault Refusal :=
  spindleOp true s fun o =>
    let b := (s.core o.c).bind bind.toNat
    if !b.bound then s.illegal o bind.toNat 383
    else if (lane0 o.f.left).poison then s.poisonTrap o 0 7 o.f.left
    else
      match (s.spTake o).headerRmw o.c b.skein word.toNat [8, o.value] fun _ => o.value with
      | .error e => s.spFail o true e
      | .ok s1 =>
        ((s1.setBind o bind.toNat (b.cache word.toNat (lane0 o.f.left).val)).spGive o).finishM o h 0

end Sys2Proof.Machine
end

