-- ==== Sys2Proof/Machine/Projective.lean ====
section
/-! DEFINITION. Projective and world-store instructions (R362 to R370): camera registers, gathers,
scatters, world steps and counters. -/

namespace Sys2Proof.Machine

open Sys2Proof

/-! ### Camera registers (R363 to R365) -/

/-- A camera form's block of `n` bytes at its local address, aligned to `al` (R364); or the state in
which the read has been dealt with. -/
def State.camBlock (s : State) (o : OpIn) (n al : Nat) : Except State (List Byte × State) :=
  let a := o.value
  if (lane0 o.f.left).poison then .error (s.poisonTrap o a 1 o.f.left)
  else if a % al ≠ 0 ∨ 0x200000 < a + 128 then .error (s.illegal o a 364)
  else
    match s.load o a n with
    | .error e => .error (s.accFail o .carder false o.f.first e)
    | .ok (bs, p, s1) => if p then .error (s.poisonTrap o a 4 o.f.left) else .ok (bs, s1)

/-- A camera write by an operation, and its completion (R145, R149, R364). -/
def State.camWrite (s : State) (o : OpIn) (h : OpWord) (bv : Nat) (b : List Byte) : State :=
  match s.writeCamera o.c bv b with
  | .error .refused => s.illegal o o.value 149
  | .error .bound => s.trapOp o 7 (s.descPlace (s.corePart o.c) (camStore b)) 0x13 0 o.f.first
  | .ok s1 => s1.finishM o h 0

/-- CAMLD (R364). -/
def execCamld (h : OpWord) (bv : BitVec 3) (s : State) : Host.Outcome State Fault Refusal :=
  carderOp s true fun o =>
    if s.tagBadM o h then s.tagTrap o h.tg.toNat
    else
      match s.camBlock o 128 64 with
      | .error t => t
      | .ok (b, s1) => s1.camWrite o h bv.toNat b

/-- CAMST (R364): a counted output that performs at commit. -/
def execCamst (h : OpWord) (bv : BitVec 3) (s : State) : Host.Outcome State Fault Refusal :=
  carderOp s true fun o =>
    let a := o.value
    let m := (s.core o.c).cam bv.toNat
    if o.overCount then s.illegal o a 100
    else if !m.loaded then s.illegal o bv.toNat 363
    else if (lane0 o.f.left).poison then s.poisonTrap o a 1 o.f.left
    else if a % 64 ≠ 0 ∨ 0x200000 < a + 128 then s.illegal o a 364
    else if s.tagBadM o h then s.tagTrap o h.tg.toNat
    else
      match s.access o .write a 128 with
      | .error e => s.accFail o .carder true o.f.first e
      | .ok ts =>
        ((s.noteAccess o .write a ts).atCommit o (.store o.f.slot (segsOf ts m.bytes false))).finishM o h 0

/-- M·P of R365, as 64 bytes. -/
def composeM (m p : List Byte) : List Byte :=
  (List.range 4).flatMap fun a => (List.range 4).flatMap fun b =>
    toBytes 4 ([1, 2, 3].foldl (fun x c => fmaF32 (camM m a c) (camM p c b) x)
      (mulF32 (camM m a 0) (camM p 0 b)))

/-- CAMCOMP (R364, R365). -/
def execCamcomp (h : OpWord) (bvd bvs : BitVec 3) (s : State) : Host.Outcome State Fault Refusal :=
  carderOp s true fun o =>
    let m := (s.core o.c).cam bvs.toNat
    if !m.loaded then s.illegal o bvs.toNat 363
    else if s.tagBadM o h then s.tagTrap o h.tg.toNat
    else
      match s.camBlock o 64 16 with
      | .error t => t
      | .ok (p, s1) =>
        let b := composeM m.bytes p ++ slice m.bytes 64 20 ++ List.replicate 12 0 ++ slice m.bytes 96 32
        s1.camWrite o h bvd.toNat b

/-! ### Gathers (R366, R367) -/

/-- A projective form's camera, its derived state and the descriptor of its store. -/
structure View where
  b : List Byte
  dv : Derived
  desc : List Byte
  deriving DecidableEq, Repr

/-- What a loaded camera register gives; none while it is unloaded (R363). -/
def State.view (s : State) (c bv : Nat) : Option View :=
  let m := (s.core c).cam bv
  if !m.loaded then none
  else (camDerive m.bytes).map fun dv =>
    { b := m.bytes, dv := dv, desc := s.descOf (s.corePart c) (camStore m.bytes) }

/-- The lane index of a row of a projective form that passes its tile, if there is one (R366). -/
def OpIn.rowsPass (o : OpIn) (rowoff rb len : Nat) : Bool :=
  (List.range o.f.n).any fun j => decide (len * 64 < (rowoff + o.rowIdx j + 1) * rb)

/-- A data-poison trap of a projective lane (R194, R368). -/
def State.projPoison (s : State) (o : OpIn) (lane : Nat) (ls : List Lane) : State :=
  s.trapOp o 0x0E 0 (Config.consumerKind 6).toNat (poisonMask o.f.first ls) lane

/-- The lane that a projective form's poison trap names: the first poisoned lane's index; for a
scatter its t, where that is not poisoned (R368). -/
def OpIn.poisonLane (o : OpIn) (scatter : Bool) : Option Nat :=
  (List.range o.f.n).findSome? fun j =>
    let t := o.f.left.getD j { val := 0, poison := false }
    let d := o.f.right.getD j { val := 0, poison := false }
    if t.poison then some (o.f.first + j)
    else if d.poison then some (if scatter then t.val.toNat else o.f.first + j) else none

/-- The result of a lane: its depth lane, and its case as PSEL numbers it. -/
structure GLane where
  depth : Lane
  case : Nat
  row : List Byte
  rowPoison : Bool
  deriving DecidableEq, Repr

/-- A case as PSEL numbers it (R362). -/
def GCase.num : GCase → Nat
  | .hit _ _ => 0
  | .unseen => 1
  | .outside => 2

/-- One lane of a gather (R152, R153, R367). A cell that it reads poisoned, whatever it makes of it, poisons the row and
the depth. -/
def State.gatherLane (s : State) (v : View) (march : Bool) (t d : Nat) : GLane :=
  let r := if march then gatherMarch s.mem v.b v.desc v.dv t else gatherAt s.mem v.b v.desc v.dv t d
  let g := r.1
  let bad := r.2.any fun a => has s.memPoison (lineOf (a + 4))
  let row := s.gatherRow v.desc g
  let depth := match g with
    | .hit _ x => x
    | _ => camFar v.b
  { depth := { val := BitVec.ofNat 32 depth, poison := bad || (row.2 && g.num == 0) }, case := g.num,
    row := row.1, rowPoison := bad || row.2 }

/-- The CLIPPED and UNSEEN counts of a set's lanes (R160). -/
def State.countCases (s : State) (c bv : Nat) (gs : List GLane) : State :=
  let n := fun (k : Nat) => (gs.filter fun g => g.case == k).length
  (s.bumpCamera c bv 0 (n 2)).bumpCamera c bv 1 (n 1)

/-- PSEL's number. -/
def pselNum : PSel → Nat
  | .hit => 0 | .unseen => 1 | .outside => 2

/-- A gather form (R366, R367). -/
def gatherOp (h : OpWord) (march : Bool) (bv tile rowoff : Nat) (psel : PSel) (s : State) :
    Host.Outcome State Fault Refusal :=
  carderOp s true fun o =>
    let t := (s.core o.c).tile tile
    match s.view o.c bv with
    | none => s.illegal o bv 363
    | some v =>
      if !t.valid then s.illegal o tile 120
      else if o.rowsPass rowoff 256 t.len then s.illegal o rowoff 366
      else
        match o.poisonLane false with
        | some lane => s.projPoison o lane (orPoison o.f.left o.f.right)
        | none =>
          if t.state ≠ 1 then s.hold o .carder (.tile tile)
          else if s.tagBadM o h then s.tagTrap o h.tg.toNat
          else
            let gs := (List.range o.f.n).map fun j =>
              s.gatherLane v march (o.f.left.getD j { val := 0, poison := false }).val.toNat
                (o.f.right.getD j { val := 0, poison := false }).val.toNat
            let rows := (List.zipIdx gs).map fun p =>
              (t.base * 64 + (rowoff + o.rowIdx p.2) * 256, p.1.row.map fun b => (b, p.1.rowPoison))
            match s.writeRows o o.f.first rows (s.countCases o.c bv gs) with
            | .error e => e
            | .ok s1 =>
              s1.finish o h true (o.f.run (gs.map fun g => g.depth))
                (o.f.run (gs.map fun g => { val := predWord (g.case == pselNum psel), poison := false }))

/-- PGATH (R367). -/
def execPgath (h : OpWord) (bv : BitVec 3) (tile : BitVec 8) (rowoff : BitVec 12) (psel : PSel) (s : State) :
    Host.Outcome State Fault Refusal :=
  gatherOp h false bv.toNat tile.toNat rowoff.toNat psel s

/-- PMARCH (R367). -/
def execPmarch (h : OpWord) (bv : BitVec 3) (tile : BitVec 8) (rowoff : BitVec 12) (psel : PSel) (s : State) :
    Host.Outcome State Fault Refusal :=
  gatherOp h true bv.toNat tile.toNat rowoff.toNat psel s

/-! ### Scatters (R368) -/

/-- A scatter's lane: its token, depth, confidence and feature. -/
structure PLane where
  t : Nat
  d : Nat
  w : Nat
  feature : List Nat
  poison : Bool
  deriving DecidableEq, Repr

/-- Whether a confidence makes its write an outside one (R154). -/
def confBad (w : Nat) : Bool := !fp16.isFin w || fp16.lt w 0

/-- The cell a lane writes, or none where it is outside (R154). -/
def PLane.cell (v : View) (p : PLane) : Option (List Nat) :=
  if confBad p.w then none else landing v.b v.desc v.dv p.t p.d

/-- The lanes of a set with their source rows. -/
def OpIn.scatterLanes (o : OpIn) (rows : List (List PByte)) : List PLane :=
  (List.zipIdx rows).map fun p =>
    let bs := p.1.map fun b => b.1
    { t := (o.f.left.getD p.2 { val := 0, poison := false }).val.toNat,
      d := (o.f.right.getD p.2 { val := 0, poison := false }).val.toNat,
      w := leAt bs 256 2, feature := (List.range 128).map fun i => leAt bs (2 * i) 2,
      poison := p.1.any fun b => b.2 }

/-- The scatter effects of a set's lanes, noted for the commit. -/
def State.noteScatter (s : State) (o : OpIn) (bv : Nat) (v : View) (ls : List PLane) : State :=
  ls.foldl (fun s p =>
    match p.cell v with
    | some cell =>
      s.atCommit o (.scatter (camStore v.b) bv p.t cell (BitVec.ofNat 32 p.d) p.w p.feature o.f.slot (camPrio v.b))
    | none => s) s

/-- PSCAT (R368). -/
def execPscat (h : OpWord) (bv : BitVec 3) (tile : BitVec 8) (rowoff : BitVec 12) (s : State) :
    Host.Outcome State Fault Refusal :=
  carderOp s true fun o =>
    let t := (s.core o.c).tile tile.toNat
    match s.view o.c bv.toNat with
    | none => s.illegal o bv.toNat 363
    | some v =>
      if o.overCount then s.illegal o o.value 100
      else if !t.valid then s.illegal o tile.toNat 120
      else if o.rowsPass rowoff.toNat 320 t.len then s.illegal o rowoff.toNat 366
      else
        match o.poisonLane true with
        | some lane => s.projPoison o lane (orPoison o.f.left o.f.right)
        | none =>
          if t.state ≠ 2 then s.hold o .carder (.tile tile.toNat)
          else if s.tagBadM o h then s.tagTrap o h.tg.toNat
          else
            let addrs := (List.range o.f.n).map fun j => t.base * 64 + (rowoff.toNat + o.rowIdx j) * 320
            match s.readRows (o.afterFill t) 320 o.f.first addrs (s.acquireAll (s.agent o.c o.colour) t.rels) with
            | .error e => e
            | .ok (rows, s1) =>
              let ls := o.scatterLanes rows
              match ls.find? fun p => p.poison with
              | some p => s.projPoison o p.t o.f.left
              | none =>
                match (if camStrict v.b then ls.find? fun p => (p.cell v).isNone else none) with
                | some p => s.illegalAt o p.t 154 p.t
                | none =>
                  let out := (ls.filter fun p => (p.cell v).isNone).length
                  let s2 := (s1.bumpCamera o.c bv.toNat 0 out).noteScatter o bv.toNat v ls
                  s2.finish o h false
                    (o.f.run ((List.range o.f.n).map fun _ => { val := 0, poison := false }))
                    (o.f.run (ls.map fun p => { val := predWord (p.cell v).isNone, poison := false }))

/-! ### World steps and counters (R369, R370) -/

/-- PSTEP (R369): the store is bound where it is not yet, and the request waits for the world step;
WORLD_STEP_ARRIVAL performs the arrival and WORLD_STEP_CLOSE the close. -/
def execPstep (h : OpWord) (store : BitVec 6) (s : State) : Host.Outcome State Fault Refusal :=
  carderOp s false fun o =>
    let p := s.corePart o.c
    let id := store.toNat
    if o.f.answered.isSome then s.finishC o h (o.f.answered.getD 0)
    else if (s.part p).storeCount ≤ id then s.illegal o id 369
    else if s.boundElsewhere o.c id then s.trapOp o 7 (s.descPlace p id) 0x13 0 o.f.first
    else if !descOk (s.descOf p id) then s.illegal o id 149
    else if s.tagBadM o h then s.tagTrap o h.tg.toNat
    else (s.bindStore o.c id).hold o .carder (.world id)

/-- A counter as PSTAT names it (R362). -/
def pwhichNum : PWhich → Nat
  | .clipped => 0 | .unseen => 1 | .conflost => 2 | .lostbrick => 3 | .blendovf => 4

/-- PSTAT (R370). -/
def execPstat (h : OpWord) (clr : BitVec 1) (which : PWhich) (bv : BitVec 3) (s : State) :
    Host.Outcome State Fault Refusal :=
  carderOp s false fun o =>
    let m := (s.core o.c).cam bv.toNat
    let k := pwhichNum which
    if !m.loaded then s.illegal o bv.toNat 363
    else
      let v := if k < 3 then m.count k
        else w32 (s.descOf (s.corePart o.c) (camStore m.bytes)) (64 + 4 * (k - 3))
      let r := single o.f.first (BitVec.ofNat 32 v)
      if s.tagBad o h.tg.toNat r then s.tagTrap o h.tg.toNat
      else
        let m1 : Camera := { m with bytes := patch m.bytes (84 + 4 * k) (toBytes 4 0) }
        let s1 := if clr = 1 ∧ k < 3 then
            s.modCore o.c fun c => { c with cams := aset c.cams bv.toNat m1 }
          else s
        s1.finish o h true r r

end Sys2Proof.Machine
end

