-- ==== Sys2Proof/Machine/Mapping.lean ====
section
/-! DEFINITION. The mapping of a block (R86 to R89, R104 to R107, R175, R236 to R238, R247 to R250):
its fetch, its checks in their order, its routes, its place on the fabric, and BLOCK_MAPPING. -/

namespace Sys2Proof.Machine

open Sys2Proof

/-- Why a block is not mapped. -/
inductive MapErr where
  | illegal (word off : Nat)
  | route (word detail : Nat)
  | access (e : XFault) (va : Nat)
  | race (line : Nat) (first : Acc) (slot : Nat)
  deriving DecidableEq, Repr

/-! ### Fetching (R107, R113, R247) -/

/-- `n` bytes of a block as the sequencer fetches them. -/
def State.fetchBytes (s : State) (c va n : Nat) : Except MapErr (List Byte) :=
  match s.resolveRange c .fetch (wrapVa va) n with
  | .error (e, a) => .error (.access e a)
  | .ok ts => .ok (ts.flatMap fun t => s.readLoc t.1.loc t.2)

/-- The 32-bit word at offset `off`, in words, of a block. -/
def State.fetchWord (s : State) (c block off : Nat) : Except MapErr Nat :=
  (s.fetchBytes c (block + 4 * off) 4).map fun bs => ofBytes bs

/-- A slot as it is read: its operation word, its extension word and its offset in words. -/
structure RawSlot where
  w : Nat
  x : Nat
  off : Nat
  deriving DecidableEq, Repr

/-- The words of `n` slots from offset `off` on, and the offset behind them (R247, R248). -/
def State.fetchSlots (s : State) (c block : Nat) : Nat → Nat → Except MapErr (List RawSlot × Nat)
  | 0, off => .ok ([], off)
  | n + 1, off => do
    let w ← s.fetchWord c block off
    let x ← if hasExt w then s.fetchWord c block (off + 1) else .ok 0
    let (rs, last) ← s.fetchSlots c block n (off + 1 + b2n (hasExt w))
    return ({ w := w, x := x, off := off } :: rs, last)

/-! ### The checks of the words (R248) -/

/-- Elements of the region of a header (R88). -/
def hdrElems (h0 : Nat) : Nat := regionElems (bits h0 30 2)

/-- The instruction of a slot. -/
def RawSlot.instr? (r : RawSlot) : Option Instr :=
  match decodeWords r.w r.x with
  | .ok i => some i
  | .error _ => none

/-- AR of a slot. -/
def RawSlot.ar (r : RawSlot) : Nat := fieldOf r.w 23 2

/-- OP of a slot. -/
def RawSlot.op (r : RawSlot) : Nat := fieldOf r.w 25 7

/-- The forms whose entry gives them no targets (R254). -/
def bareForm : Instr → Bool
  | .bra _ _ => true
  | .bri _ => true
  | .callb _ _ _ => true
  | .retb _ => true
  | .sret _ => true
  | .write _ _ => true
  | .rep _ _ _ => true
  | .eret _ => true
  | .endl _ => true
  | .mtsr _ _ => true
  | _ => false

/-- The forms that must have TG = 0 (R254). -/
def plainTagForm : Instr → Bool
  | .endl _ => true
  | .trapif _ => true
  | .bri _ => true
  | .retb _ => true
  | .sret _ => true
  | .eret _ => true
  | .write _ _ => true
  | .mtsr _ _ => true
  | _ => false

/-- What the operation word alone decides of an instruction (R232, R248, R254). -/
def wordOk (i : Instr) : Bool :=
  match i.opWord? with
  | none => false
  | some h => decide (h.ar.toNat ∈ i.arities) && h.targetsOk && (!bareForm i || h.noTargets) &&
      (!plainTagForm i || h.tg == 0)

/-- Whether a form is a three-operand form by its opcode (R236). -/
def threeOp (op : Nat) : Bool := op == 0x16 || op == 0x3B || op == 0x5D

/-- Whether two words have the same OP and TY. -/
def sameForm (a b : Nat) : Bool := fieldOf a 25 7 == fieldOf b 25 7 && fieldOf a 18 3 == fieldOf b 18 3

/-- R236 on slot `k`. -/
def partnerOk (elems : Nat) (rs : List RawSlot) (k : Nat) (r : RawSlot) : Bool :=
  if !threeOp r.op then true
  else if r.ar = 1 then
    decide (elems ≤ k) &&
      (match rs[k - elems]? with
       | some q => sameForm q.w r.w && q.ar != 1
       | none => false) && fieldOf r.w 21 2 == 0 && fieldOf r.w 0 18 == 0
  else
    match rs[k + elems]? with
    | some q => sameForm q.w r.w && q.ar == 1 && fieldOf q.w 21 2 == 0 && fieldOf q.w 0 18 == 0
    | none => false

/-- The extension words among which every operation word that a legal instruction has meets one that it is legal
with: its own, that of SEC alone, and for the forms that have a reserved zero field two more. -/
def RawSlot.samples (r : RawSlot) : List Nat :=
  if r.op = 0x7F then [r.x, fieldOf r.x 22 10 * 2 ^ 22] else [r.x, 0, 8, 2 ^ 28]

/-- Whether the operation word's own fields are legal with some extension word (R248): where SEC is reserved
nothing but its arity (R246) and its targets can be told. -/
def RawSlot.opLegal (r : RawSlot) : Bool :=
  if hasExt r.w then
    (r.samples.any fun x => match decodeWords r.w x with
      | .ok i => wordOk i
      | .error _ => false) ||
    (r.op == 0x7F && (r.ar == 1 || r.ar == 3) && (opWord r.w).targetsOk && decodeWords r.w (fieldOf r.x 22 10 * 2 ^ 22) == .error .reservedSec)
  else
    match decodeWords r.w r.x with
    | .ok i => wordOk i && i.extOk
    | .error _ => false

/-- Whether a slot holds a form with a field that REP steps (R334). -/
def steppedForm (q : RawSlot) : Bool :=
  (decide (0x70 ≤ q.op) && decide (q.op ≤ 0x77)) || (q.op == 0x7F && decide (fieldOf q.x 22 10 ≤ 2))

/-- R237 on slot `k`. -/
def repOk (rs : List RawSlot) (k : Nat) (r : RawSlot) : Bool :=
  if r.op != 0x0C then true
  else
    match rs[k + 1]? with
    | none => false
    | some q => (decide (0x58 ≤ q.op) && decide (q.op ≤ 0x67)) ||
        (decide (0x70 ≤ q.op) && decide (q.op ≤ 0x77)) ||
        (q.op == 0x7F && decide (fieldOf q.x 22 10 ≤ 8))

/-- R87 and R232 on a target of a block. -/
def targetInBlock (rs : List RawSlot) (t : Nat) : Bool :=
  let pos := t % 4
  if pos = 0 ∨ 120 ≤ t / 4 then true
  else
    match rs[t / 4]? with
    | none => false
    | some q => pos == 1 || (pos == 2 && decide (2 ≤ q.ar)) || (pos == 3 && q.ar == 3)

/-- Whether a slot holds a form that is a block's branch (R254). -/
def RawSlot.isBranch (r : RawSlot) : Bool :=
  match r.instr? with
  | some i => isBranchForm i
  | none => false

/-- R257 on a slot: a TAGENTER or TAGLEAVE in a block without RES has no target but its branch's left
position. -/
def leftTagOk (h0 : Nat) (rs : List RawSlot) (r : RawSlot) : Bool :=
  let ok := fun (t : Nat) => t % 4 == 0 || (t % 4 == 1 && (rs[t / 4]?.map RawSlot.isBranch).getD false)
  bit h0 29 || (r.op != 0x06 && r.op != 0x07) || (ok (fieldOf r.w 9 9) && ok (fieldOf r.w 0 9))

/-- What an extension word's check takes from elsewhere in the block: a REP with a stride before a form without
a stepped field (R266), and MACCR in a block without VEC (R334). DESIGN CHOICE: the word reported is the
extension word, which holds the stride or names the form (log 113). -/
def extPlaceOk (h0 : Nat) (rs : List RawSlot) (k : Nat) (i : Instr) : Bool :=
  match i with
  | .rep _ _ stride => stride == 0 || (rs[k + 1]?.map steppedForm).getD false
  | .maccr _ _ _ _ _ => bit h0 28
  | _ => true

/-- Whether the operation word of slot `k` fails a check. -/
def opWordBad (h0 : Nat) (rs : List RawSlot) (k : Nat) (r : RawSlot) : Bool :=
  !r.opLegal || !leftTagOk h0 rs r || (fieldOf r.w 21 2 != 0 && !bit h0 29) || !targetInBlock rs (fieldOf r.w 9 9) ||
    !targetInBlock rs (fieldOf r.w 0 9) || !partnerOk (hdrElems h0) rs k r || !repOk rs k r

/-- The first failure of slot `k`'s words. -/
def slotFault (h0 : Nat) (rs : List RawSlot) (k : Nat) (r : RawSlot) : Option MapErr :=
  if opWordBad h0 rs k r then some (.illegal r.w r.off)
  else
    match r.instr? with
    | some i => if i.wellFormed && extPlaceOk h0 rs k i then none else some (.illegal r.x (r.off + 1))
    | none => some (.illegal r.x (r.off + 1))

/-- The first failure of a block's words, in ascending offset (R248). -/
def wordsFault (h0 : Nat) (rs : List RawSlot) : Option MapErr :=
  (List.zipIdx rs).findSome? fun p => slotFault h0 rs p.2 p.1

/-! ### Routes (R104, R105, R238, R249) -/

/-- The targets of an instruction that receive a predicate (R238). -/
def predTargets : Instr → Bool × Bool
  | .spawn _ _ => (true, false)
  | .cmp _ _ => (true, true)
  | .tst _ => (true, true)
  | .fcmp _ _ _ => (true, true)
  | .unt5 _ _ => (false, true)
  | .cas _ _ _ _ _ => (false, true)
  | .stst _ _ => (false, true)
  | .pgath _ _ _ _ _ => (false, true)
  | .pmarch _ _ _ _ _ => (false, true)
  | .pscat _ _ _ _ => (false, true)
  | .draw _ _ => (false, true)
  | _ => (false, false)

/-- Where a token stands on its way: its heading is 0 east, 1 north, 2 south or 3 west. -/
structure Walker where
  x : Nat
  y : Nat
  heading : Nat
  deriving DecidableEq, Repr

/-- The heading after a turn: 1 left, 2 right (R104). -/
def turned (heading turn : Nat) : Nat :=
  match heading, turn with
  | 0, 1 => 1
  | 0, _ => 2
  | 1, 1 => 3
  | 1, _ => 0
  | 2, 1 => 0
  | 2, _ => 3
  | _, 1 => 2
  | _, _ => 1

/-- A region of the fabric. -/
structure Region where
  x0 : Nat
  y0 : Nat
  w : Nat
  h : Nat
  deriving DecidableEq, Repr

/-- A leg in a heading (R104): to the destination's coordinate where it lies ahead, else to the
region's edge. -/
def Walker.leg (g : Region) (p : Walker) (dx dy : Nat) : Walker :=
  match p.heading with
  | 0 => { p with x := if p.x < dx then dx else g.x0 + g.w - 1 }
  | 3 => { p with x := if dx < p.x then dx else g.x0 }
  | 1 => { p with y := if dy < p.y then dy else g.y0 }
  | _ => { p with y := if p.y < dy then dy else g.y0 + g.h - 1 }

/-- The rest of a string of turns: whether it ends with an exit at the destination. -/
def walkTurns (g : Region) (dx dy : Nat) : List Nat → Walker → Bool
  | [], _ => false
  | t :: ts, p =>
    if t = 0 then false
    else if t = 3 then p.x == dx && p.y == dy
    else walkTurns g dx dy ts ({ p with heading := turned p.heading t }.leg g dx dy)

/-- Whether TURNS leads from one element to another (R104). -/
def turnsOk (g : Region) (turns sx sy dx dy : Nat) : Bool :=
  turns == 0 ||
    walkTurns g dx dy ((List.range 5).map fun i => bits turns (2 * i + 2) 2)
      ({ x := sx, y := sy, heading := bits turns 0 2 : Walker }.leg g dx dy)

/-- Coordinates of slot `k` in a region. -/
def slotXY (g : Region) (k : Nat) : Nat × Nat :=
  let e := k % (g.w * g.h)
  (g.x0 + e % g.w, g.y0 + e / g.w)

/-- Whether a class agrees with a position and the kind of token (R238). -/
def classOk (cls pos : Nat) (pred : Bool) : Bool :=
  cls != 3 && (cls == 1) == (pos == 3) && pred == (pos == 3)

/-- Whether TURNS leads from slot `k` to another slot. DESIGN CHOICE: a further channel may name a port slot, which no
switch word reaches, and then its TURNS are 0 (log 157). -/
def routeOk (g : Region) (turns k dst : Nat) : Bool :=
  if 120 ≤ dst then turns == 0
  else
    let a := slotXY g k
    let b := slotXY g dst
    turnsOk g turns a.1 a.2 b.1 b.2

/-- A route that the switch words give: the slot, the target, the channel, TURNS, the destination and the word
that names it. -/
structure RouteWord where
  slot : Nat
  second : Bool
  chan : Nat
  turns : Nat
  dst : Nat
  word : Nat
  deriving DecidableEq, Repr

/-- The further channels of a target: `n` pairs of words after its head; the first failure is named by
its word and channel. A further channel has its head's CLASS. DEDUCED (log 48). `alive` is R106's check of a route. -/
def channels (alive : RouteWord → Except MapErr Unit) (g : Region) (nslot k : Nat) (second pred : Bool) (cls : Nat) :
    Nat → Nat → List Nat → Except MapErr (List Chan)
  | 0, _, _ => .ok []
  | n + 1, f, ws =>
    let dw := ws.getD 0 0
    let rw := ws.getD 1 0
    let dst := bits dw 9 7
    let pos := bits dw 7 2
    let detail := k + b2n second * 128 + f * 256
    if pos = 0 ∨ bits dw 0 7 ≠ 0 ∨ (nslot ≤ dst ∧ dst < 120) ∨ (120 ≤ dst ∧ pos ≠ 1) ∨
        classOk cls pos pred = false then .error (.route dw detail)
    else if bits rw 12 4 ≠ 0 ∨ routeOk g (bits rw 0 12) k dst = false then .error (.route rw detail)
    else do
      alive { slot := k, second := second, chan := f, turns := bits rw 0 12, dst := dst, word := rw }
      let rest ← channels alive g nslot k second pred cls n (f + 1) (ws.drop 2)
      return { slot := k, second := second, dslot := dst, dpos := pos } :: rest

/-- The routes of a list of targets (slot, second, field, pred, operation word), read from the switch
words in order and checked (R249): the channels. -/
def routesFrom (alive : RouteWord → Except MapErr Unit) (g : Region) (nslot : Nat) :
    List (Nat × Bool × Nat × Bool × Nat) → List Nat → Except MapErr (List Chan)
  | [], _ => .ok []
  | (k, second, t, pred, w) :: rest, ws =>
    let pos := t % 4
    let detail := k + b2n second * 128
    if pos = 0 then routesFrom alive g nslot rest ws
    else if 120 ≤ t / 4 then
      if pred then .error (.route w detail) else routesFrom alive g nslot rest ws
    else
      let hw := ws.getD 0 0
      let fan := bits hw 12 2
      if !classOk (bits hw 14 2) pos pred || !routeOk g (bits hw 0 12) k (t / 4) then .error (.route hw detail)
      else do
        alive { slot := k, second := second, chan := 0, turns := bits hw 0 12, dst := t / 4, word := hw }
        let cs ← channels alive g nslot k second pred (bits hw 14 2) fan 1 (ws.drop 1)
        let more ← routesFrom alive g nslot rest (ws.drop (1 + 2 * fan))
        return cs ++ more

/-- The targets of a block in the order their switch words stand (R247). -/
def targetList (rs : List RawSlot) : List (Nat × Bool × Nat × Bool × Nat) :=
  (List.zipIdx rs).flatMap fun p =>
    let pt := match p.1.instr? with
      | some i => predTargets i
      | none => (false, false)
    [(p.2, false, fieldOf p.1.w 9 9, pt.1, p.1.w), (p.2, true, fieldOf p.1.w 0 9, pt.2, p.1.w)]

/-- The switch words of a list of targets as they are fetched from an address on. -/
def State.fetchSwitch (s : State) (c : Nat) :
    List (Nat × Bool × Nat × Bool × Nat) → Nat → Except MapErr (List Nat)
  | [], _ => .ok []
  | (_, _, t, _, _) :: rest, va =>
    if t % 4 = 0 ∨ 480 ≤ t then s.fetchSwitch c rest va
    else do
      let hb ← s.fetchBytes c va 2
      let n := 2 * bits (ofBytes hb) 12 2
      let tail ← s.fetchBytes c (va + 2) (2 * n)
      let more ← s.fetchSwitch c rest (va + 2 + 2 * n)
      return ofBytes hb :: (List.range n).map (fun i => leAt tail (2 * i) 2) ++ more

/-- The targets of a mapped block. -/
def Mapping.targetList (m : Mapping) : List (Nat × Bool × Nat × Bool × Nat) :=
  Sys2Proof.Machine.targetList (m.slots.map fun p => { w := p.1, x := p.2, off := 0 })

/-- The routes of a list of targets, in the order of R249. -/
def routeWords : List (Nat × Bool × Nat × Bool × Nat) → List Nat → List RouteWord
  | [], _ => []
  | (k, second, t, _, _) :: rest, ws =>
    if t % 4 = 0 ∨ 480 ≤ t then routeWords rest ws
    else
      let hw := ws.getD 0 0
      let fan := bits hw 12 2
      let head : RouteWord := { slot := k, second := second, chan := 0, turns := bits hw 0 12, dst := t / 4, word := hw }
      let more := (List.range fan).map fun i =>
        let rw := ws.getD (2 * i + 2) 0
        ({ slot := k, second := second, chan := i + 1, turns := bits rw 0 12, dst := bits (ws.getD (2 * i + 1) 0) 9 7,
           word := rw } : RouteWord)
      head :: more ++ routeWords rest (ws.drop (1 + 2 * fan))

/-! ### Retired links (R106) -/

/-- The element behind a hop in a heading: 0 east, 1 north, 2 south, 3 west. -/
def hopTo (e heading : Nat) : Nat :=
  match heading with
  | 0 => e + 1
  | 1 => e - 8
  | 2 => e + 8
  | _ => e - 1

/-- Whether a hop from an element in a heading crosses a retired link, by either of its names. -/
def Core.deadHop (k : Core) (h : Nat × Nat) : Bool :=
  has2 k.deadLinks h || has2 k.deadLinks (hopTo h.1 h.2, 3 - h.2)
where
  has2 (l : List (Nat × Nat)) (x : Nat × Nat) : Bool := l.any fun y => y == x

/-- The hops of a straight way from one place to another. -/
def lineHops (a b : Nat × Nat) : List (Nat × Nat) :=
  let at_ := fun (x y : Nat) => 8 * y + x
  if a.1 < b.1 then (List.range (b.1 - a.1)).map fun i => (at_ (a.1 + i) a.2, 0)
  else if b.1 < a.1 then (List.range (a.1 - b.1)).map fun i => (at_ (a.1 - i) a.2, 3)
  else if a.2 < b.2 then (List.range (b.2 - a.2)).map fun i => (at_ a.1 (a.2 + i), 2)
  else (List.range (a.2 - b.2)).map fun i => (at_ a.1 (a.2 - i), 1)

/-- The hops of a way through places. -/
def wayHops : List (Nat × Nat) → List (Nat × Nat)
  | a :: b :: rest => lineHops a b ++ wayHops (b :: rest)
  | _ => []

/-- The hops of a string of turns. -/
def turnHops (g : Region) (dx dy : Nat) : List Nat → Walker → List (Nat × Nat)
  | [], _ => []
  | t :: ts, p =>
    if t = 0 ∨ t = 3 then []
    else
      let q := { p with heading := turned p.heading t }.leg g dx dy
      lineHops (p.x, p.y) (q.x, q.y) ++ turnHops g dx dy ts q

/-- The hops of a route as its TURNS gives it (R104). -/
def routeHopsOf (g : Region) (turns : Nat) (a b : Nat × Nat) : List (Nat × Nat) :=
  if turns = 0 then wayHops [a, (b.1, a.2), b]
  else
    let p := ({ x := a.1, y := a.2, heading := bits turns 0 2 : Walker }).leg g b.1 b.2
    lineHops a (p.x, p.y) ++ turnHops g b.1 b.2 ((List.range 5).map fun i => bits turns (2 * i + 2) 2) p

/-- The ways that R106 tries: the default route; column first, then row; and the detours by the north, south, east
and west edges of the region. -/
def candidateWays (g : Region) (a b : Nat × Nat) : List (List (Nat × Nat)) :=
  let s := g.y0 + g.h - 1
  let e := g.x0 + g.w - 1
  [[a, (b.1, a.2), b], [a, (a.1, b.2), b], [a, (a.1, g.y0), (b.1, g.y0), b], [a, (a.1, s), (b.1, s), b],
   [a, (e, a.2), (e, b.2), b], [a, (g.x0, a.2), (g.x0, b.2), b]]

/-- A route kept as its word gives it (none), or generated anew as the first candidate that crosses no retired
link; or the route fault of R249. -/
def Core.wayOf (k : Core) (g : Region) (r : RouteWord) : Except MapErr (Option Nat) :=
  let a := slotXY g r.slot
  let b := slotXY g r.dst
  let ok := fun (hs : List (Nat × Nat)) => hs.all fun h => !k.deadHop h
  if 120 ≤ r.dst || ok (routeHopsOf g r.turns a b) then .ok none
  else
    match (List.zipIdx (candidateWays g a b)).find? fun w => ok (wayHops w.1) with
    | some w => .ok (some w.2)
    | none => .error (.route r.word (r.slot + b2n r.second * 128 + r.chan * 256))

/-- The routes of a block generated anew at its place (R106). -/
def Core.routesFor (k : Core) (m : Mapping) : Except MapErr (List (Nat × Nat × Nat × Nat)) :=
  if k.deadLinks.isEmpty then .ok []
  else do
    let g : Region := { x0 := m.x0, y0 := m.y0, w := regionWidth m.size, h := regionElems m.size / regionWidth m.size }
    let l ← (routeWords m.targetList m.switchWords).mapM fun r => (k.wayOf g r).map fun w => (r, w)
    return l.filterMap fun p => p.2.map fun w => (p.1.slot, b2n p.1.second, p.1.chan, w)

/-! ### A place on the fabric (R88, R89) -/

/-- The region of a header at an origin. -/
def regionAt (size x0 y0 : Nat) : Region :=
  { x0 := x0, y0 := y0, w := regionWidth size, h := regionElems size / regionWidth size }

/-- The origins of a region, the lowest y0 first, then the lowest x0. -/
def origins (size : Nat) : List (Nat × Nat) :=
  if size = 0 then [(0, 0), (4, 0), (0, 4), (4, 4)] else if size = 1 then [(0, 0), (4, 0)] else [(0, 0)]

/-- Whether two regions share an element. -/
def Region.meets (a b : Region) : Bool :=
  decide (a.x0 < b.x0 + b.w) && decide (b.x0 < a.x0 + a.w) && decide (a.y0 < b.y0 + b.h) &&
    decide (b.y0 < a.y0 + a.h)

/-- The cells deep that a block is. -/
def blockDepth (size nslot : Nat) : Nat := ceilDiv nslot (regionElems size)

/-- The region of a mapping. -/
def Mapping.region (m : Mapping) : Region := regionAt m.size m.x0 m.y0

/-- Whether an element of a region is retired (R109). -/
def Region.retired (g : Region) (elret : Nat) : Bool :=
  (List.range (g.w * g.h)).any fun e => bit elret (8 * (g.y0 + e / g.w) + g.x0 + e % g.w)

/-- Whether cells b to b + d - 1 of a region are free. -/
def Core.cellsFree (k : Core) (g : Region) (b d : Nat) : Bool :=
  k.mappings.all fun m =>
    m.off || !(m.region.meets g && decide (m.b < b + d) && decide (b < m.b + blockDepth m.size m.nslot))

/-- The lowest b, then y0, then x0, where a block fits (R88). -/
def Core.placeFor (k : Core) (size nslot : Nat) : Option (Nat × Nat × Nat) :=
  let d := blockDepth size nslot
  (List.range (33 - d)).findSome? fun b =>
    (origins size).findSome? fun o =>
      let g := regionAt size o.1 o.2
      if !g.retired k.regs.elret && k.cellsFree g b d then some (b, o.1, o.2) else none

/-- Whether a region of a size class holds no retired element. -/
def Core.healthy (k : Core) (size : Nat) : Bool :=
  (origins size).any fun o => !(regionAt size o.1 o.2).retired k.regs.elret

/-- The least recently admitted mapping that may be unmapped: not resident, with no instance. -/
def Core.victim (k : Core) : Option Mapping :=
  let free := k.mappings.filter fun m =>
    (!m.res || m.resOrdinary) && !m.off && !(k.instances.any fun i => i.block == m.block)
  free.foldl (fun best m => match best with
    | none => some m
    | some x => if m.lastUse < x.lastUse then some m else best) none

/-- Room made for a block (R88): one victim unmapped at a time. -/
def Core.makeRoom : Nat → Core → Nat → Nat → Core × Option (Nat × Nat × Nat)
  | 0, k, _, _ => (k, none)
  | n + 1, k, size, nslot =>
    match k.placeFor size nslot with
    | some p => (k, some p)
    | none =>
      match k.victim with
      | none => (k, none)
      | some m =>
        Core.makeRoom n { k with mappings := k.mappings.filter fun x => x.block != m.block } size nslot

/-- R106's check of a route of a block, at the place that the block would have: the route itself, or one generated anew. -/
def Core.alive (k : Core) (block size nslot : Nat) : RouteWord → Except MapErr Unit :=
  let k1 := { k with mappings := k.mappings.filter fun m => m.block != block }
  match k.deadLinks.isEmpty, (Core.makeRoom (k1.mappings.length + 1) k1 size nslot).2 with
  | false, some p => fun r => (k.wayOf (regionAt size p.2.1 p.2.2) r).map fun _ => ()
  | _, _ => fun _ => .ok ()

/-- Cells that resident blocks hold (R89). -/
def Core.residentCells (k : Core) : Nat :=
  ((k.mappings.filter fun m => m.res && !m.resOrdinary && !m.off).map fun m =>
    regionElems m.size * blockDepth m.size m.nslot).foldl (fun a b => a + b) 0

/-! ### Self-races that the mapping shows (R175) -/

/-- A memory operation: its slot, whether it writes, whether it is an atomic, and its address: `base` plus the left lane,
or, with a `pair`, plus (left + right · its first number) modulo its second (R299, R303); and the bytes that it accesses
from there on. -/
structure MemOp where
  slot : Nat
  write : Bool
  atomic : Bool
  base : Nat
  pair : Option (Nat × Nat) := none
  len : Nat := 1
  deriving DecidableEq, Repr

/-- A slot's memory operation, where its operands give the address: an access there, or the read of the block of
parameters that lies there. -/
def memOp (k : Nat) (i : Instr) : Option MemOp :=
  let op := fun (w a : Bool) (base : Nat) => some { slot := k, write := w, atomic := a, base := base : MemOp }
  let long := fun (w : Bool) (n : Nat) => some { slot := k, write := w, atomic := false, base := 0, len := n : MemOp }
  let pair := fun (base m n : Nat) =>
    some { slot := k, write := false, atomic := false, base := base, pair := some (m, n) : MemOp }
  match i with
  | .ld h _ => if h.ar = 1 then op false false 0 else pair 0 (2 ^ 32) (2 ^ 56)
  | .st _ _ => op true false 0
  | .ldv h sh hi => if h.ar = 1 then op false false (hi.toNat * 2 ^ 32) else pair (hi.toNat * 2 ^ 32) (2 ^ sh.toNat) (2 ^ 32)
  | .stv _ hi => op true false (hi.toNat * 2 ^ 32)
  | .atom _ _ _ _ g hi => op true true (g.toNat * 0x00F0000000000000 + hi.toNat * 2 ^ 32)
  | .cas h _ _ g hi => if h.ar = 1 then none else op true true (g.toNat * 0x00F0000000000000 + hi.toNat * 2 ^ 32)
  | .ldlk _ => op true true 0
  | .stul _ => op true true 0
  | .cwalk _ _ cnt => long false (4 * (cnt.toNat + 1))
  | .stld h _ => if h.ar = 1 then long false 16 else none
  | .sopen _ _ => op false false 0
  | .mld _ _ _ _ _ _ _ _ _ => op false false 0
  | .mst _ _ _ _ _ _ _ _ _ => op false false 0
  | .mgrd _ _ => op false false 0
  | .ply _ _ _ _ _ _ _ => op false false 0
  | .warp _ => op false false 0
  | .reel _ _ => op false false 0
  | .camld _ _ => long false 128
  | .camst _ _ => long true 128
  | .camcomp _ _ _ => long false 128
  | .skbind _ _ => op false false 0
  | .cred _ _ _ _ _ => op false false 0
  | .cbc _ _ _ => op false false 0
  | .cag _ _ => op false false 0
  | .ca2a _ _ => op false false 0
  | _ => none

/-- The slots and targets that feed a position of a slot. -/
def Mapping.feeders (m : Mapping) (slot : Nat) (pos : Nat := 1) : List (Nat × Bool) :=
  (List.range m.nslot).flatMap fun k =>
    [false, true].filterMap fun b => if (m.dests k b).any fun d => d == (slot, pos) then some (k, b) else none

/-- Forms that send different data to T0 and T1. -/
def splitsForm : Instr → Bool
  | .sel _ => true
  | .cwalk _ _ _ => true
  | .snext _ _ _ => true
  | .sisect _ _ _ _ => true
  | .sunion _ _ _ _ => true
  | .sdiff _ _ _ _ => true
  | .smadd _ _ _ _ _ => true
  | _ => false

/-- The value of a position of a slot where a CONST gives it. -/
def Mapping.constAt (m : Mapping) (slot pos : Nat) : Option Nat :=
  match m.feeders slot pos with
  | [(a, _)] =>
    match m.instr? a with
    | some (.const _ u) => some u.toNat
    | _ => none
  | _ => none

/-- The address of a memory operation where CONSTs give it. -/
def Mapping.constAddr (m : Mapping) (x : MemOp) : Option Nat :=
  match m.constAt x.slot 1, x.pair with
  | some u, none => some (x.base + u)
  | some u, some (f, n) => (m.constAt x.slot 2).map fun v => x.base + (u + v * f) % n
  | none, _ => none

/-- The first line that two memory operations share where CONSTs give both addresses. -/
def Mapping.constLine (m : Mapping) (x y : MemOp) : Option Nat :=
  match m.constAddr x, m.constAddr y with
  | some u, some v =>
    let l := max (lineOf u) (lineOf v)
    if l ≤ lineOf (u + x.len - 1) ∧ l ≤ lineOf (v + y.len - 1) then some l else none
  | _, _ => none

/-- Whether one slot alone, by one result, gives the operand at a position of two slots. -/
def Mapping.oneResult (m : Mapping) (x y pos : Nat) : Bool :=
  match m.feeders x pos, m.feeders y pos with
  | [(a, ta)], [(b, tb)] => a == b && (ta == tb || !((m.instr? a).map splitsForm).getD false)
  | _, _ => false

/-- Whether two memory operations of a block have the same addresses by R175: one slot's result, or
CONSTs of one line. Of an address of two operands that slot gives both. -/
def Mapping.sameAddr (m : Mapping) (x y : MemOp) : Bool :=
  let both := m.oneResult x.slot y.slot 2 && (m.feeders x.slot 1).map Prod.fst == (m.feeders x.slot 2).map Prod.fst
  (x.base == y.base && x.pair == y.pair && m.oneResult x.slot y.slot 1 && (x.pair.isNone || both)) || (m.constLine x y).isSome

/-- The slots reached from slot `k` when the first edge has CLASS 2 (R175). `cls` gives each target's
class. -/
def Mapping.arc2 (m : Mapping) (cls : List ((Nat × Bool) × Nat)) (x y : Nat) : Bool :=
  let first := if fieldOf (m.word x) 21 2 != 0 then [] else [false, true].flatMap fun b =>
    if cls.any fun p => p.1 == (x, b) && p.2 == 2 then
      ((m.dests x b).filter fun d => decide (d.1 < 120)).map fun d => m.feeds d.1
    else []
  has (m.reach m.nslot (first.foldl addMem [])) y

/-- The class of each target, read from the switch words. -/
def targetClasses : List (Nat × Bool × Nat × Bool × Nat) → List Nat → List ((Nat × Bool) × Nat)
  | [], _ => []
  | (k, second, t, _, _) :: rest, ws =>
    if t % 4 = 0 ∨ 480 ≤ t then targetClasses rest ws
    else
      let hw := ws.getD 0 0
      ((k, second), bits hw 14 2) :: targetClasses rest (ws.drop (1 + 2 * bits hw 12 2))

/-- The two operations of a self-race that the mapping shows, if there is one. -/
def Mapping.selfRace (m : Mapping) (cls : List ((Nat × Bool) × Nat)) : Option (MemOp × MemOp) :=
  let ops := (List.range m.nslot).filterMap fun k => (m.instr? k).bind (memOp k)
  ops.findSome? fun y =>
    (ops.find? fun x => decide (x.slot < y.slot) && (x.write || y.write) && !(x.atomic && y.atomic) &&
      m.sameAddr x y && !m.arc2 cls x.slot y.slot && !m.arc2 cls y.slot x.slot).map fun x => (x, y)

/-! ### BLOCK_MAPPING -/

/-- Whether a further channel leads a TAGENTER's or TAGLEAVE's token in a block without RES elsewhere than to its
branch (R257). -/
def strayChan (h0 : Nat) (rs : List RawSlot) (ch : Chan) : Bool :=
  match rs[ch.slot]? with
  | none => false
  | some r =>
    let h : OpWord := { ar := 1, tg := 0, t0 := BitVec.ofNat 9 (4 * ch.dslot + ch.dpos), t1 := 0 }
    !leftTagOk h0 rs { r with w := encOp r.op 0 h }

/-- A block read and checked, to be placed at the region of origin (0, 0) until its place is
chosen. -/
def State.readBlockAt (s : State) (c block : Nat) : Except MapErr (Mapping × List ((Nat × Bool) × Nat)) := do
  let h0 ← s.fetchWord c block 0
  if !headerOk h0 then throw (.illegal h0 0)
  let h1 ← s.fetchWord c block 1
  let nslot := bits h0 20 7
  let (rs, last) ← s.fetchSlots c block nslot 2
  match wordsFault h0 rs with
  | some e => throw e
  | none => pure ()
  if last - 2 ≠ bits h0 12 8 then throw (.illegal h0 0)
  let ts := targetList rs
  let sw ← s.fetchSwitch c ts (block + 8 + 4 * bits h0 12 8)
  let size := bits h0 30 2
  let chans ← routesFrom ((s.core c).alive block size nslot) (regionAt size 0 0) nslot ts sw
  match chans.find? fun ch => strayChan h0 rs ch with
  | some ch => throw (.illegal (rs.getD ch.slot { w := 0, x := 0, off := 0 }).w (rs.getD ch.slot { w := 0, x := 0, off := 0 }).off)
  | none => pure ()
  let bs ← s.fetchBytes c block (8 + 4 * bits h0 12 8 + 2 * sw.length)
  return ({ block := block, size := size, res := bit h0 29, resOrdinary := false, vec := bit h0 28,
            reent := bit h0 27, nslot := nslot, nword := bits h0 12 8, nout := bits h0 4 8, narg := bits h0 0 4,
            wmask := h1, slots := rs.map fun r => (r.w, r.x), chans := chans, switchWords := sw, b := 0, x0 := 0,
            y0 := 0, sig := sm3First64 bs, lastUse := 0, frozen := false, eccElems := [],
            differs := false, off := false, routes := [] },
          targetClasses ts sw)

/-- The line of a self-race that the mapping shows: where CONSTs give the address, the line there; 0 where the
address is not known yet. -/
def State.raceLine (s : State) (c : Nat) (m : Mapping) (x y : MemOp) : Nat :=
  match m.constLine x y with
  | none => 0
  | some va =>
    match s.resolve c .read va with
    | .ok t => t.loc.line.addr
    | .error _ => va

/-- A core with the mapping of a block changed. -/
def Core.modMapping (k : Core) (block : Nat) (f : Mapping → Mapping) : Core :=
  { k with mappings := modFirst (fun m => m.block == block) f k.mappings }

/-- A trap raised at the mapping of an instance's block (R250); its block stays unmapped. A self-race names the
first operation's access as its colour's now (R405). -/
def State.mapTrap (s : State) (c : Nat) (i : Instance) (e : MapErr) : State :=
  let k := s.core c
  let s1 := s.setCore c { k with mapping := none }
  let trap := fun (cause addr detail : Nat) => Trap.ofInst k i cause addr detail 0 .mapping
  match e with
  | .illegal w off => s1.raise c (trap 1 w off)
  | .route w d => s1.raise c (trap 3 w d)
  | .access .translation va => (s1.noteFar c va).raise c (trap 6 va 0x12)
  | .access .protection va =>
    ((s1.notePoisoned c va).postRec { s1.coreRec c 2 with node := 0x12, address := va }).raise c (trap 7 va 0x12)
  | .race line a slot => s1.raise c { trap 8 line (raceDetail a) with slot := slot, aux := s.raceAux a }

/-- The pending instances of a block, which take its tags as its header makes them (R93). -/
def Core.normPending (k : Core) (m : Mapping) : Core :=
  { k with instances := k.instances.map fun i =>
      if i.block == m.block && i.status == .pending then { i with tag := normTag m.vec i.tag } else i }

/-- The matched sets of a block's instances moved to the elements where the block lies now. -/
def Core.reseat (k : Core) (m : Mapping) : Core :=
  let mine := fun (f : Firing) => (k.inst? f.iid).any fun i => i.block == m.block
  let seat := fun (f : Firing) => if mine f then { f with elem := m.elem f.slot } else f
  { k with issueQ := k.issueQ.map seat,
           instances := k.instances.map fun i => { i with parkedSets := i.parkedSets.map seat } }

/-- A checked block placed on the fabric (R88, R89, R107). A resident block past the limit is mapped as
an ordinary one. -/
def Core.addMapping (k : Core) (m : Mapping) (p : Nat × Nat × Nat) : Core :=
  let cells := regionElems m.size * blockDepth m.size m.nslot
  let deny := m.res && decide (1536 < k.residentCells + cells)
  let m1 := { m with b := p.1, x0 := p.2.1, y0 := p.2.2, resOrdinary := deny, lastUse := k.admitSeq }
  let regs := { k.regs with resdeny := if deny then satAdd k.regs.resdeny 1 0xFF else k.regs.resdeny }
  { k with mappings := k.mappings ++ [m1], mapping := none, regs := regs }.normPending m1 |>.reseat m1

/-- BLOCK_MAPPING (R107): the mapping under way on a core is done; or the block fails a check and the
instance that caused it traps; or there is no room and it waits. -/
def execBlockMapping (core : Nat) (s : State) : Host.Outcome State Fault Refusal :=
  let k := s.core core
  match k.mapping.bind k.inst? with
  | none => .next (s.setCore core { k with mapping := none })
  | some i =>
    match s.readBlockAt core i.block with
    | .error e => .next (s.mapTrap core i e)
    | .ok (m, cls) =>
      match m.selfRace cls with
      | some (x, y) =>
        .next (s.mapTrap core i (.race (s.raceLine core m x y) (s.accNow core i.tag.colour x.write x.atomic) y.slot))
      | none =>
        if k.isHandler i && (!m.reent || m.narg != 1) then
          .next ((s.setCore core { k with mapping := none }).doubleTrap core)
        else if !k.healthy m.size then .next (s.mapTrap core i (.route 0 0x80000000))
        else
          let r := Core.makeRoom (k.mappings.length + 1) k m.size m.nslot
          match r.2 with
          | none => .next (s.setCore core r.1)
          | some p =>
            match k.routesFor { m with x0 := p.2.1, y0 := p.2.2 } with
            | .error e => .next ((s.setCore core r.1).mapTrap core i e)
            | .ok rt => .next (s.setCore core (r.1.addMapping { m with routes := rt } p))

end Sys2Proof.Machine
end

