-- ==== Sys2Proof/Machine/Frames.lean ====
section
/-! DEFINITION. Frames (R96 to R98): the lanes that wait in one, what of it stands in memory, and the faults of
a frame in DRAM. -/

namespace Sys2Proof.Machine

open Sys2Proof

/-- Zero bytes. -/
def zeros (n : Nat) : List Byte := List.replicate n 0

/-- A list of bits as a number, the first lowest. -/
def maskOf (bs : List Bool) : Nat := bs.foldr (fun b a => b2n b + 2 * a) 0

/-! ### Waiting lanes (R94) -/

/-- Whether a list of waiting lanes has lane `i`. -/
def hasLane (ws : List Waiting) (i : Nat) : Bool := ws.any fun w => w.idx == i

/-- Lane `i` of a list of waiting lanes: the one that came first. -/
def laneOf (ws : List Waiting) (i : Nat) : Lane :=
  match ws.find? fun w => w.idx == i with
  | some w => w.lane
  | none => { val := 0, poison := false }

/-- The bits of the indices of waiting lanes. -/
def waitMask (ws : List Waiting) : Nat := maskOf ((List.range 32).map fun i => hasLane ws i)

/-- Waiting lanes as 32 lanes. -/
def waitLanes (ws : List Waiting) : List Byte :=
  (List.range 32).flatMap fun i => toBytes 4 (if hasLane ws i then (laneOf ws i).val.toNat else 0)

/-- The lanes of a position that stand in the frame. -/
def inFrame (ws : List Waiting) : List Waiting := ws.filter fun w => w.spilled

/-- The partner slot of a three-operand form (R236), or none. -/
def Mapping.partner? (m : Mapping) (slot : Nat) : Option Nat :=
  if threeOp (fieldOf (m.word slot) 25 7) && m.ar slot != 1 then some (slot + regionElems m.size) else none

/-! ### The tokens that a trap has withdrawn (R186, R196) -/

/-- The tokens that a matched set was made of (R94, R236, R221): slot, position and lanes. A set that fires as its
predicate is true had that token too, and an FB operand's scale token stands at position 4. -/
def Core.setTokens (k : Core) (i : Instance) (f : Firing) : List (Nat × Nat × Run) :=
  let m := k.mapping? i.block
  let ar := (m.map fun m => m.ar f.slot).getD 0
  let partner := (m.bind fun m => m.partner? f.slot).getD f.slot
  let ones : List Lane := List.replicate f.n { val := 1, poison := false }
  let scale : List Lane := match f.ticket.fb with
    | some x => [x.scale]
    | none => []
  [(f.slot, 1, f.run f.left), (f.slot, 2, f.run f.right), (partner, 1, f.run f.third),
    (f.slot, 3, f.run (if ar = 3 then ones else [])), (f.slot, 4, f.run scale)].filter fun p => !p.2.2.lanes.isEmpty

/-- Lanes laid down in a frame. -/
def laidLanes (r : Run) : List Waiting :=
  (List.zipIdx r.lanes).map fun p => { idx := r.first + p.2, lane := p.1, spilled := true }

/-- A slot's operands with a token's lanes added in the frame. -/
def SlotOps.withToken (o : SlotOps) (pos : Nat) (r : Run) : SlotOps :=
  if pos = 1 then { o with left := o.left ++ laidLanes r }
  else if pos = 2 then { o with right := o.right ++ laidLanes r }
  else if pos = 3 then { o with pred := o.pred ++ laidLanes r }
  else { o with scale := o.scale ++ laidLanes r }

/-- An instance with the tokens of the sets that were withdrawn into its frame as it was parked (R186, R196). -/
def Core.withParked (k : Core) (i : Instance) : Instance :=
  i.parkedSets.foldl (fun i f => (k.setTokens i f).foldl
    (fun i p => i.modSlot p.1 fun o => o.withToken p.2.1 p.2.2) i) i

/-! ### The frame in memory (R96) -/

/-- What the first bytes of a frame hold, and of an instance's record (R199): the tag, the block, the outputs
counted and whether the branch is taken. -/
def Core.instHead (k : Core) (i : Instance) : List Byte :=
  toBytes 8 (i.tag.encode (k.shape i.tag.colour)) ++ toBytes 8 i.block ++ toBytes 1 i.counted ++ toBytes 1 (b2n i.branchDone)

/-- `n` bytes of a piece of an image that hold given values in a layout that the spec leaves open (R199). -/
def heldBytes (piece : Nat) (vals : List Nat) (n : Nat) : List Byte := (List.range n).map (Config.imageByte piece vals)

/-- The 16 bytes of a frame's branch token (R96), whose layout is open: the block and the tag that the branch goes to.
DEDUCED: RETB and SRET, which name no block, leave the values empty (log 109). -/
def Core.branchToken (k : Core) (i : Instance) : List Byte :=
  match i.branch with
  | some (b, t) => heldBytes 3 [b, t.encode (k.shape t.colour)] 16
  | none => if i.branchDone then heldBytes 3 [] 16 else zeros 16

/-- A slot's presence masks and predicate values. -/
def SlotOps.maskBytes (o : SlotOps) : List Byte :=
  let p := inFrame o.pred
  toBytes 4 (waitMask (inFrame o.left)) ++ toBytes 4 (waitMask (inFrame o.right)) ++ toBytes 4 (waitMask p) ++
    toBytes 4 (maskOf ((List.range 32).map fun j => hasLane p j && (laneOf p j).val != 0))

/-- A slot's repeat count: that of a set that waits in the frame of a parked instance. -/
def Instance.repcByte (i : Instance) (slot : Nat) : Nat :=
  match i.parkedSets.find? fun f => f.slot == slot with
  | some f => (match f.rep with
    | some r => r.left
    | none => 0)
  | none => 0

/-- The lanes of a slot's position in the frame, each at its offset with its poison. -/
def frameLanesAt (off : Nat) (ws : List Waiting) : List (Nat × List Byte × Bool) :=
  (inFrame ws).map fun w => (off + 4 * w.idx, toBytes 4 w.lane.val.toNat, w.lane.poison)

/-- What of a frame the device has written (R96), by offset: the head with the branch token; for every slot that has had
tokens its masks, its lanes there and its repeat count. The tokens of the sets that a trap has withdrawn stand there too
(R186). The bytes kept by the device are not shown (log 109). -/
def Core.framePieces (k : Core) (i0 : Instance) : List (Nat × List Byte × Bool) :=
  let i := k.withParked i0
  (0, k.instHead i ++ k.branchToken i, false) :: i.ops.flatMap fun o =>
    (0x40 + 16 * o.slot, o.maskBytes, false) :: (0x8840 + o.slot, toBytes 1 (i.repcByte o.slot), false) ::
      (frameLanesAt (0x840 + 256 * o.slot) o.left ++ frameLanesAt (0x8C0 + 256 * o.slot) o.right)

/-- The address of an instance's frame in DRAM, where it has one there (R98). -/
def Core.frameAddr (k : Core) (i : Instance) : Option Nat :=
  match i.frame with
  | some (.dram n) => some (wrapVa (k.regs.dramBase * 65536 + n * 0x9000))
  | _ => none

/-- Where byte `off` of an instance's frame lies, or the fault of its translation: in the pool (R97), or in
the DRAM frame area, translated like any other access (R98). -/
def State.framePlace (s : State) (c : Nat) (i : Instance) (off : Nat) : Except (XFault × Nat) (Option Loc) :=
  match i.frame, (s.core c).frameAddr i with
  | some (.pool n), _ => .ok (some (.scratch c ((s.core c).regs.poolBase * 4096 + n * 0x9000 + off)))
  | _, some a =>
    match s.resolve c .write (wrapVa (a + off)) with
    | .ok t => .ok (some t.loc)
    | .error e => .error (e, wrapVa (a + off))
  | _, none => .ok none

/-- The first fault that the pieces of an instance's frame meet. -/
def State.frameErr (s : State) (c : Nat) (i : Instance) : Option (XFault × Nat) :=
  ((s.core c).framePieces i).findSome? fun p => match s.framePlace c i p.1 with
    | .error e => some e
    | .ok _ => none

/-- A piece of a frame written where it is not there already. -/
def State.framePiece (s : State) (l : Loc) (bs : List Byte) (bad : Bool) : State :=
  if s.readLoc l bs.length == bs && (!bad || s.poisoned l) then s
  else s.performWrite none { loc := l, bytes := bs, poison := bad }

/-- An instance's frame written as it stands (R96, R98); a piece that cannot be written is left. -/
def State.syncFrame (s : State) (c : Nat) (i : Instance) : State :=
  ((s.core c).framePieces i).foldl (fun s p => match s.framePlace c i p.1 with
    | .ok (some l) => s.framePiece l p.2.1 p.2.2
    | _ => s) s

/-- A fault of an instance's frame told (R98): a translation fault by its record, or by a trap where the supervisor
services it; a protection fault by its record and a trap. It is told once, until it has been answered. -/
def State.tellFrame (s : State) (c : Nat) (i : Instance) (e : XFault × Nat) : State :=
  if i.frameBad then s
  else
    let t := fun (cause : Nat) => Trap.ofInst (s.core c) i cause e.2 0x12 0 .op
    let s0 := s.modCore c fun k => k.modInst i.iid fun j => { j with frameBad := true }
    match e.1 with
    | .protection =>
      ((s0.notePoisoned c e.2).postRec { s.coreRec c 2 with node := 0x12, address := e.2, write := true }).raiseBeside c i (t 7)
    | .translation =>
      let s1 := s0.noteFar c e.2
      if s.fsvc c then s1.raiseBeside c i (t 6)
      else (s1.serviceFault { s.coreRec c 1 with node := 0x12, address := e.2, write := true } (.frame c i.iid)).1

/-- What becomes of a token that must go to a frame (R98): none where the frame takes it, else the
state in which its fault has been dealt with. -/
def State.frameFault (s : State) (c : Nat) (i : Instance) : Option State := (s.frameErr c i).map (s.tellFrame c i)

/-- Whether anything of an instance stands in its frame. -/
def Instance.framed (i : Instance) : Bool :=
  i.ops.any fun o => (o.left ++ o.right ++ o.pred ++ o.scale).any fun w => w.spilled

/-- An instance's frame brought up to date. Where it holds tokens that it cannot take, the fault is told, and they stay
withheld until it takes them (R98). -/
def State.keepFrame (s : State) (c : Nat) (i : Instance) : State :=
  let s1 := s.syncFrame c i
  if ((s.core c).withParked i).framed then (s1.frameFault c i).getD s1 else s1

/-- The frames of a core's instances brought up to date. -/
def State.keepFrames (s : State) (c : Nat) : State :=
  ((s.core c).instances.filter fun i => i.frame.isSome).foldl (fun s i => s.keepFrame c i) s

/-- Every frame brought up to date: each holds at any moment what R96 lays out in it. -/
def State.syncFrames (s : State) : State := s.cores.foldl (fun s p => s.keepFrames p.1) s

end Sys2Proof.Machine
end

