-- ==== Sys2Proof/Machine/Fabric.lean ====
section
/-! DEFINITION. Tokens and matching (R93 to R96), admission and frames (R73, R74, R97 to R99): the
steps TOKEN_ARRIVAL, BLOCK_ADMISSION and FRAME_EXHAUSTION. -/

namespace Sys2Proof.Machine

open Sys2Proof

/-! ### Waiting lanes (R94, R95) -/

/-- A list of waiting lanes without the first of each index. -/
def dropLanes (ws : List Waiting) (is : List Nat) : List Waiting :=
  is.foldl (fun ws i => delFirst (fun w => w.idx == i) ws) ws

/-- A list of waiting lanes with those of a token appended, by the token's number and the format code it
carries. -/
def addLanes (ws : List Waiting) (tok : Nat) (fmt : Option Nat) (r : List (Nat × Lane)) : List Waiting :=
  ws ++ r.map fun p => { idx := p.1, lane := p.2, spilled := false, tok := tok, fmt := fmt }

/-- The lanes of a token with their indices; a block without VEC has the index 0 alone. -/
def Token.lanes (t : Token) (vec : Bool) : List (Nat × Lane) :=
  (List.zipIdx t.run.lanes).map fun p => (if vec then t.run.first + p.2 else 0, p.1)

/-- The waiting lanes at a position of a slot. -/
def SlotOps.at (o : SlotOps) (pos : Nat) : List Waiting :=
  if pos = 1 then o.left else if pos = 2 then o.right else o.pred

/-- A slot with the waiting lanes at a position changed. -/
def SlotOps.put (o : SlotOps) (pos : Nat) (ws : List Waiting) : SlotOps :=
  if pos = 1 then { o with left := ws } else if pos = 2 then { o with right := ws } else { o with pred := ws }

/-- The FB operand position of an operation (R221): the format code that the operation names for the elements of
its left operand and the orientation it requires, where the format is an FB one. Of the forms of the opcode
map FCVT alone names a format for a token's elements, and its encoding (R290) has no FB code (log 108). -/
def fbOperand (i : Instr) : Option (Nat × Option Bool) :=
  match i with
  | .fcvt _ _ _ src _ => if src = .fb8 ∨ src = .fb6 ∨ src = .fb4 then some (src.code, none) else none
  | _ => none

/-- The lanes of a block's element token by its format code (R221). -/
def fbLanes (code : Nat) : Nat := if code = 5 then 8 else if code = 6 then 7 else 4

/-- Whether a slot's operation has an FB operand position. -/
def Mapping.takesFb (m : Mapping) (slot : Nat) : Bool := ((m.instr? slot).bind fbOperand).isSome

/-- The first lane of the element token that a left lane of a slot came with: its block tag, which its scale token has
too (R221). -/
def Instance.blockBase (i : Instance) (slot idx : Nat) : Option Nat :=
  let ws := (i.slotOps slot).left
  (ws.find? fun w => w.idx == idx).map fun w => ((ws.filter fun x => x.tok == w.tok).map fun x => x.idx).foldl min w.idx

/-- Whether a lane of a slot has every operand that it needs (R94, R95, R221, R236). -/
def Instance.laneReady (i : Instance) (m : Mapping) (slot idx : Nat) : Bool :=
  let o := i.slotOps slot
  let ar := m.ar slot
  hasLane o.left idx && (decide (ar < 2) || hasLane o.right idx) && (ar != 3 || hasLane o.pred idx) &&
    (!m.takesFb slot || (match i.blockBase slot idx with
      | some b => hasLane o.scale b
      | none => false)) &&
    (match m.partner? slot with
     | some p => hasLane (i.slotOps p).left idx
     | none => true)

/-- The FB block of a slot's left operand from a lane on (R221): its token's format code and run length, and
the scale token of its block tag. -/
def Instance.fbSet (i : Instance) (m : Mapping) (slot first : Nat) : Option FbSet :=
  let o := i.slotOps slot
  match m.takesFb slot, i.blockBase slot first, o.left.find? fun w => w.idx == first with
  | true, some b, some w =>
    some { fmt := w.fmt, len := (o.left.filter fun x => x.tok == w.tok).length, scale := laneOf o.scale b }
  | _, _, _ => none

/-- The matched set of a run of ready lanes (R94). -/
def Instance.setOf (i : Instance) (m : Mapping) (slot first n : Nat) : Firing :=
  let o := i.slotOps slot
  let idxs := (List.range n).map fun j => first + j
  let third := match m.partner? slot with
    | some p => idxs.map (laneOf (i.slotOps p).left)
    | none => []
  { iid := i.iid, slot := slot, elem := m.elem slot, first := first, n := n, left := idxs.map (laneOf o.left),
    right := if 2 ≤ m.ar slot then idxs.map (laneOf o.right) else [], third := third, rep := none,
    answered := none, opTag := o.leftTag, heldAt := none, skip := 0,
    ticket := { Ticket.blank with fb := i.fbSet m slot first } }

/-- The operands of a matched set taken from what waits. -/
def Instance.takeSet (i : Instance) (m : Mapping) (f : Firing) : Instance :=
  let idxs := f.idxs
  let i1 := i.modSlot f.slot fun o =>
    { o with left := dropLanes o.left idxs, right := if 2 ≤ m.ar f.slot then dropLanes o.right idxs else o.right,
             pred := if m.ar f.slot = 3 then dropLanes o.pred idxs else o.pred,
             scale := if f.ticket.fb.isSome then dropLanes o.scale (i.blockBase f.slot f.first).toList else o.scale }
  match m.partner? f.slot with
  | some p => i1.modSlot p fun o => { o with left := dropLanes o.left idxs }
  | none => i1

/-- Whether a form takes its whole window (R295): VRED, VSCAN, VBCAST, VLANE and VSHUF. -/
def windowForm (op : Nat) : Bool := decide (0x51 ≤ op) && decide (op ≤ 0x55)

/-- The lanes of a slot that can go into matched sets (R94); those of a form that takes its whole window only
when all 32 are ready (R295). -/
def Instance.readyLanes (i : Instance) (m : Mapping) (slot : Nat) : List Nat :=
  let ready := (List.range 32).filter fun x => i.laneReady m slot x
  if m.vec && windowForm (fieldOf (m.word slot) 25 7) && ready.length != 32 then [] else ready

/-- The runs of ready lanes of a slot, each by its first lane and length; those of an FB operand one for each token, which
is one block (R221). -/
def Instance.readyRuns (i : Instance) (m : Mapping) (slot : Nat) : List (Nat × Nat) :=
  let ready := i.readyLanes m slot
  if m.takesFb slot then (tokenRuns ((i.slotOps slot).left.filter fun w => has ready w.idx)).map fun r => r.2
  else runsOf ready

/-- The matched sets that a slot has, in ascending order, and the instance without their operands. -/
def Instance.matched (i : Instance) (m : Mapping) (slot : Nat) : Instance × List Firing :=
  let sets := (i.readyRuns m slot).map fun p => i.setOf m slot p.1 p.2
  (sets.foldl (fun i f => i.takeSet m f) i, sets)

/-- Lanes of a predicate token (R95): a false one retires its lane, a true one waits. DESIGN CHOICE: operand
lanes that wait already for a lane that retires are dropped with it, at the partner slot too, and DISCARD does
not count them (log 110). -/
def Instance.takePred (i : Instance) (m : Mapping) (slot tok : Nat) (ls : List (Nat × Lane)) : Instance :=
  let off := (ls.filter fun p => p.2.val == 0).map fun p => p.1
  let on := ls.filter fun p => p.2.val != 0
  let i1 := i.modSlot slot fun o =>
    { o with pred := addLanes o.pred tok none on, off := off.foldl addMem o.off, left := dropLanes o.left off,
             right := dropLanes o.right off }
  let i2 := match m.partner? slot with
    | some p => i1.modSlot p fun o => { o with left := dropLanes o.left off }
    | none => i1
  off.foldl (fun i x => i.retire m slot [x] false) i2

/-- A token's lanes laid down at their position, as token number `tok`; those of a lane that a false predicate
has retired are discarded, and a scale token waits for its element token (R221). The second component is the
slot whose sets may match. -/
def Instance.takeToken (i : Instance) (m : Mapping) (tok : Nat) (t : Token) : Instance × Nat :=
  let slot := m.feeds t.slot
  let ls := t.lanes m.vec
  if t.scale then (i.modSlot slot fun o => { o with scale := addLanes o.scale tok none (ls.take 1) }, slot)
  else if t.pos = 3 then (i.takePred m slot tok ls, slot)
  else
    let live := ls.filter fun p => !has (i.slotOps slot).off p.1
    let i1 := i.modSlot t.slot fun o => o.put t.pos (addLanes (o.at t.pos) tok t.fmt live)
    let i2 := match t.opTag with
      | some g => i1.modSlot slot fun o => { o with leftTag := some g }
      | none => i1
    (i2, slot)

/-! ### The matching store and the frames (R94, R96, R98) -/

/-- Matching-store entries that an instance holds at an element. -/
def Instance.entriesAt (i : Instance) (m : Mapping) (elem : Nat) : Nat :=
  (i.ops.map fun o =>
    if m.elem o.slot = elem then o.entries else 0).sum

/-- Matching-store entries at an element of a core. -/
def Core.entriesAt (k : Core) (elem : Nat) : Nat :=
  (k.instances.map fun i => match k.mapping? i.block with
    | some m => i.entriesAt m elem
    | none => 0).sum

/-- One waiting token put into the frame. -/
def SlotOps.spillRun (o : SlotOps) (pos : Nat) (r : Nat × Nat × Nat) : SlotOps :=
  o.put pos ((o.at pos).map fun w =>
    if w.tok == r.1 && decide (r.2.1 ≤ w.idx) && decide (w.idx < r.2.1 + r.2.2) then { w with spilled := true } else w)

/-- The tokens outside the frame that may make room at a slot where a token has arrived (R94): the remainder of
the arriving one first, then those of its partners; each with the slot and position it waits at. -/
def Instance.remainders (i : Instance) (m : Mapping) (t : Token) (tok : Nat) : List (Nat × Nat × Nat × Nat × Nat) :=
  let slot := m.feeds t.slot
  let here := fun (sl pos : Nat) =>
    (tokenRuns (((i.slotOps sl).at pos).filter fun w => !w.spilled)).map fun r => (sl, pos, r)
  let all := here t.slot t.pos ++ here slot 1 ++ here slot 2 ++ here slot 3 ++
    (match m.partner? slot with
     | some p => here p 1
     | none => [])
  (all.filter fun x => x.2.2.1 == tok) ++ all.filter fun x => x.2.2.1 != tok

/-- Whether a token that goes to the frame would find its own position there occupied (R99). -/
def Instance.frameTaken (i : Instance) (x : Nat × Nat × Nat × Nat × Nat) : Bool :=
  ((i.slotOps x.1).at x.2.1).any fun w => w.spilled && decide (x.2.2.2.1 ≤ w.idx) && decide (w.idx < x.2.2.2.1 + x.2.2.2.2)

/-- `n` tokens moved to the frame at a slot where a token has arrived, or none where a position is occupied. -/
def Instance.spillTokens (m : Mapping) (t : Token) (tok : Nat) : Nat → Instance → Option Instance
  | 0, i => some i
  | n + 1, i =>
    match i.remainders m t tok with
    | [] => some i
    | x :: _ =>
      if i.frameTaken x then none
      else Instance.spillTokens m t tok n (i.modSlot x.1 fun o => o.spillRun x.2.1 x.2.2)

/-! ### TOKEN_ARRIVAL -/

/-- Whether a token's format code is a reserved one (R209). -/
def Token.fmtBad (t : Token) : Bool := t.fmt.any fun x => decide (13 ≤ x)

/-- Whether a token cannot be matched: a run where the block has no VEC (R93), a reserved format code (R209), or a
poisoned predicate (R194). -/
def Token.bad (t : Token) (m : Mapping) : Bool :=
  (!m.vec && decide (1 < t.run.lanes.length)) || t.fmtBad || (t.pos == 3 && anyPoison t.run.lanes)

/-- The trap of a token that cannot be matched; the token stays at the switch. -/
def State.tokenTrap (s : State) (c : Nat) (i : Instance) (m : Mapping) (t : Token) : State :=
  let k := s.core c
  let v := (lane0 t.run.lanes).val.toNat
  let tr := if !m.vec && decide (1 < t.run.lanes.length) then ({ Trap.ofInst k i 2 v 93 0 .op with lane := t.run.first } : Trap)
    else if t.fmtBad then ({ Trap.ofInst k i 2 (t.fmt.getD 0) 209 0 .op with lane := t.run.first } : Trap)
    else { Trap.ofInst k i 0x0E 0 (Config.consumerKind 2).toNat (poisonMask t.run.first t.run.lanes) .op with
           lane := firstPoison t.run.first t.run.lanes }
  s.raise c { tr with slot := m.feeds t.slot }

/-- Matched sets of an element in its issue queue. -/
def Core.queued (k : Core) (elem : Nat) : Nat := (k.issueQ.filter fun f => f.elem == elem).length

/-- Whether the token at place `n` on the switch network may arrive: its instance has a frame, no
earlier token of its channel is there, and its element takes tokens (R75, R105). -/
def Core.mayArrive (k : Core) (n : Nat) (t : Token) (i : Instance) (m : Mapping) : Bool :=
  i.status != .pending && !(k.inflight.take n).any (fun x =>
    x.iid == t.iid && x.src == t.src && x.slot == t.slot && x.pos == t.pos) &&
    decide (k.queued (m.elem (m.feeds t.slot)) < 8) && !(i.status == .parked && t.bad m)

/-- The sets of a token's slot put where they wait to fire: in the issue queue, or with the parked
sets of a parked instance. -/
def Core.enterSets (k : Core) (i : Instance) (sets : List Firing) : Core :=
  if i.status == .parked then
    k.modInst i.iid fun _ => { i with parkedSets := i.parkedSets ++ sets }
  else { k.modInst i.iid (fun _ => i) with issueQ := k.issueQ ++ sets }

/-- A token delivered (R94): its lanes wait, sets match, and what does not fit the matching store goes
to the frame. -/
def State.deliver (s : State) (c n : Nat) (t : Token) (i : Instance) (m : Mapping) : State :=
  let k := s.core c
  let tok := k.nextTok
  let r := i.takeToken m tok t
  let q := r.1.matched m r.2
  let k1 := { k with inflight := delAt k.inflight n, nextTok := tok + 1 }.enterSets q.1 q.2
  let s1 := match t.acq with
    | some (a, e) => (s.setCore c k1).raiseAcq (s.agent c i.tag.colour) a e
    | none => s.setCore c k1
  let excess := k1.entriesAt (m.elem t.slot) - 64
  if excess = 0 then s1
  else
    match k1.inst? i.iid with
    | none => s1
    | some i1 =>
      match Instance.spillTokens m t tok excess i1 with
      | none => s
      | some i2 =>
        match s.frameFault c i2 with
        | some s2 => s2
        | none =>
          let moved := (i1.ops.map SlotOps.entries).sum - (i2.ops.map SlotOps.entries).sum
          s1.modCore c fun k =>
            { (k.modInst i.iid fun _ => i2) with regs := { k.regs with spill := satAdd k.regs.spill moved 0xFFFF } }

/-- TOKEN_ARRIVAL (R94): the token at place `n` on a core's switch network arrives. -/
def execTokenArrival (core n : Nat) (s : State) : Host.Outcome State Fault Refusal :=
  let k := s.core core
  match k.inflight[n]? with
  | none => .next s
  | some t =>
    match k.inst? t.iid with
    | none => .next (s.setCore core { k with inflight := delAt k.inflight n })
    | some i =>
      match k.mapping? i.block with
      | none => .next s
      | some m =>
        if k.frozen || !k.mayArrive n t i m then .next s
        else if t.bad m then .next (s.tokenTrap core i m t)
        else .next (s.deliver core n t i m)

/-! ### BLOCK_ADMISSION (R73, R74) -/

/-- Whether a pending instance is a candidate for admission (R73, R91). DESIGN CHOICE: an instance of a block whose
mapping is frozen is none (log 156). -/
def Core.candidate (k : Core) (i : Instance) : Bool :=
  i.status == .pending &&
    (match k.mapping? i.block with
     | some m => !m.frozen
     | none => k.mapping.isNone) &&
    !(k.instances.any fun j => decide (j.iid < i.iid) && j.block == i.block && j.tag == i.tag)

/-- The priority of a colour (R70). -/
def Core.prioOf (k : Core) (c : Nat) : Nat :=
  match k.colour? c with
  | some x => x.prio
  | none => 0

/-- Whether a frame is in use. -/
def Core.frameUsed (k : Core) (f : FrameRef) : Bool := k.instances.any fun i => i.frame == some f

/-- The free frames that any colour may take (R97, R98). -/
def Core.freeFrames (k : Core) : List FrameRef :=
  (((List.range k.regs.poolCount).drop 1).map FrameRef.pool ++
    (List.range k.regs.dramCount).map FrameRef.dram).filter fun f => !k.frameUsed f

/-- The frame that an instance takes, or none (R74, R97): colour 0 has frame 0; the last free frame is
for the oldest instance of its colour. -/
def Core.frameFor (k : Core) (i : Instance) : Option FrameRef :=
  let own := i.tag.colour == 0 && decide (0 < k.regs.poolCount) && !k.frameUsed (.pool 0)
  if own then some (.pool 0)
  else
    match k.freeFrames with
    | [] => none
    | [f] => if k.hasEarlier i then none else some f
    | f :: _ => some f

/-- R73's a: a colour's priority with its instance's age; AGE 0 is no aging (R72). -/
def Core.arbPrio (k : Core) (i : Instance) : Nat :=
  min 15 (k.prioOf i.tag.colour + (if k.regs.admitAge = 0 then 0 else i.waited / k.regs.admitAge))

/-- Whether one candidate goes before another one (R73): colour 0, then the higher a, then the longer wait,
then the lower colour. -/
def Core.arbBefore (k : Core) (i j : Instance) : Bool :=
  let key := fun (x : Instance) => (b2n (x.tag.colour == 0), k.arbPrio x, x.waited)
  let a := key i
  let b := key j
  if a.1 ≠ b.1 then decide (b.1 < a.1)
  else if a.2.1 ≠ b.2.1 then decide (b.2.1 < a.2.1)
  else if a.2.2 ≠ b.2.2 then decide (b.2.2 < a.2.2)
  else decide (i.tag.colour < j.tag.colour)

/-- The candidates among which the sequencer picks: of each colour the first, in the order in which they became
pending, that a frame is free for (R73, R74). DESIGN CHOICE: one whose block is unmapped is left out too where no frame is
free for it, so that its mapping waits (log 156). -/
def Core.contenders (k : Core) : List Instance :=
  let cs := k.instances.filter fun i => k.candidate i && (k.frameFor i).isSome
  cs.filter fun i => match cs.find? fun j => j.tag.colour == i.tag.colour with
    | some j => j.iid == i.iid
    | none => false

/-- The pending instance that the sequencer picks (R73), or none. -/
def Core.chosen (k : Core) : Option Instance :=
  let cs := k.contenders
  cs.find? fun i => cs.all fun j => j.iid == i.iid || k.arbBefore i j

/-- The start tokens of an instance (R93). -/
def startTokens (m : Mapping) (iid : Nat) : List Token :=
  ((List.range m.nslot).filter fun k => m.ar k == 0).map fun k =>
    { iid := iid, src := k, slot := k, pos := 1,
      run := { first := 0, lanes := List.replicate (if m.vec then 32 else 1) { val := 0, poison := false } },
      opTag := none, acq := none }

/-- An instance admitted with its frame: it samples the port mode and gets its start tokens (R93, R96,
R103). -/
def Core.admitInst (k : Core) (i : Instance) (m : Mapping) (f : FrameRef) : Core :=
  let k1 := k.modInst i.iid fun x =>
    { x with status := .admitted, frame := some f, portmode := k.regs.portmode, admitNo := k.admitSeq }
  { k1 with
    admitSeq := k.admitSeq + 1,
    mappings := modFirst (fun x => x.block == m.block) (fun x => { x with lastUse := k.admitSeq }) k.mappings,
    inflight := k1.inflight ++ startTokens m i.iid }

/-- The pending instances of a core after some more cycles of waiting. -/
def Core.waits (k : Core) (cycles : Nat) : Core :=
  { k with instances := k.instances.map fun i =>
      if i.status == .pending then { i with waited := i.waited + cycles } else i }

/-- BLOCK_ADMISSION (R73): `cycles` after the one before, the sequencer picks an instance, which gets a frame;
or, where its block is unmapped, its mapping begins. A handler's block that lacks REENT = 1 and NARG = 1 is a
double trap (R192). -/
def execBlockAdmission (core cycles : Nat) (s : State) : Host.Outcome State Fault Refusal :=
  let k := (s.core core).waits cycles
  if k.gated || k.frozen || k.noAdmit then .next (s.setCore core k)
  else
    match k.chosen with
    | none => .next (s.setCore core k)
    | some i =>
      match k.mapping? i.block with
      | none => .next (s.setCore core { k with mapping := some i.iid })
      | some m =>
        if k.isHandler i && (!m.reent || m.narg != 1) then .next ((s.setCore core k).doubleTrap core)
        else match k.frameFor i with
        | none => .next (s.setCore core k)
        | some f => .next (s.setCore core (k.admitInst i m f))

/-! ### FRAME_EXHAUSTION (R99) -/

/-- Whether a set's mapping is frozen, so that it does not fire (R108). -/
def Core.setFrozen (k : Core) (f : Firing) : Bool :=
  match (k.inst? f.iid).bind fun i => k.mapping? i.block with
  | some m => m.frozen
  | none => false

/-- Whether what withholds a node, an entry or a page is a translation fault: one of the host's, or the trap of one. -/
def Core.faultHolds (k : Core) (src : TrapSrc) : Option Nat → Bool
  | none => false
  | some id => id != trapHeld || (k.ring.any fun p => p.2.src == src && p.2.cause == 6) ||
      k.traps.any fun t => t.src == src && t.cause == 6

/-- Whether a node of the core (R55: an address-generator node, the Shuttle, and like it the Reel, the
Carder or the sequencer) withholds what it does for a translation fault, which suspends the stall limit
(R58, R99). -/
def State.withholding (s : State) (c : Nat) : Bool :=
  let k := s.core c
  (k.nodes.any fun p => k.faultHolds (.node p.1) p.2.fault) ||
    ((List.zipIdx k.shuttle).any fun p => k.faultHolds (.shuttle p.2) p.1.withheld) ||
    (k.reel.any fun e => k.faultHolds (.reel e.id) e.withheld) || (k.held.any fun h => match h.wait with
      | .fault _ => true
      | _ => false) ||
    s.outstanding.any fun o => match o.owner with
      | .frame c' _ => c' == c
      | _ => false

/-- Whether nothing can issue on a core: no matched set is in a queue, but for those of frozen mappings. -/
def Core.nothingIssues (k : Core) : Bool := k.issueQ.all fun f => k.setFrozen f

/-- FRAME_EXHAUSTION (R99): for CR_STALLWD cycles no matched set has issued and no instance committed, while
one is admitted or pending; colour 0 receives the trap, with the number of free frames. -/
def execFrameExhaustion (core : Nat) (s : State) : Host.Outcome State Fault Refusal :=
  let k := s.core core
  if k.regs.stallwd != 0 && !k.instances.isEmpty && k.nothingIssues && !s.withholding core then
    .next (s.raise core (Trap.untied 0x0A 0 k.freeFrames.length 0 .untied))
  else .next s

end Sys2Proof.Machine
end

