-- ==== Sys2Proof/Machine/Nodes.lean ====
section
/-! DEFINITION. Address-generator nodes (R122 to R126, R371): the addresses of their elements, and
NODE_ELEMENT_READ. -/

namespace Sys2Proof.Machine

open Sys2Proof

/-! ### Positions (R123, R126) -/

/-- A node at its next element; after the last one it is done. -/
def Node.advance (n : Node) : Node :=
  let c := fun i => descCnt n.desc i
  if n.i0 + 1 < c 0 then { n with i0 := n.i0 + 1 }
  else if n.i1 + 1 < c 1 then { n with i0 := 0, i1 := n.i1 + 1 }
  else if n.i2 + 1 < c 2 then { n with i0 := 0, i1 := 0, i2 := n.i2 + 1 }
  else
    let m := { n with i0 := 0, i1 := 0, i2 := 0, i3 := n.i3 + 1 }
    if n.i3 + 1 < c 3 then m else { m with state := 2 }

/-- A byte stride of a descriptor (R122). -/
def Node.stride (n : Node) (i : Nat) : Int := sval 32 (bits (n.word (2 + i / 2)) (32 * (i % 2)) 32)

/-- BASE of a node. -/
def Node.base (n : Node) : Nat := bits (n.word 0) 0 56

/-- IDXBASE of a node. -/
def Node.idxBase (n : Node) : Nat := bits (n.word 5) 0 56

/-- Bytes of an index (R122). -/
def Node.idxBytes (n : Node) : Nat := if n.kind = 4 ∨ bits (n.word 5) 60 4 ≠ 0 then 4 else 2

/-- The value of an index by IDXFMT. -/
def Node.idxValue (n : Node) (x : Nat) : Int := if bits (n.word 5) 60 4 = 2 then sval 32 x else x

/-- off of R123. -/
def Node.off (n : Node) : Int :=
  (n.i0 : Int) * n.stride 0 + (n.i1 : Int) * n.stride 1 + (n.i2 : Int) * n.stride 2 + (n.i3 : Int) * n.stride 3

/-- The address of an element of KIND 0 to 3, from its index where it has one (R123). -/
def Node.elemAddr (n : Node) (idx : Nat) : Nat :=
  match n.kind with
  | 1 =>
    let len : Int := bits (n.word 4) 32 32
    wrap 56 ((n.base : Int) + ((bits (n.word 4) 0 32 : Int) + n.off) % len)
  | 2 => wrap 56 ((n.base : Int) + n.idxValue idx * n.stride 0 + (n.i1 : Int) * n.stride 1)
  | 3 => wrap 56 ((n.base : Int) + n.idxValue idx * n.stride 0 + (n.i1 : Int) * n.stride 1)
  | _ => wrap 56 ((n.base : Int) + n.off)

/-- The two addresses of an element of KIND 4: its row and its column (R123). -/
def Node.pairAddr (n : Node) (idx : Nat) : Nat × Nat :=
  (wrap 56 ((n.base : Int) + (bits idx 0 16 : Int) * n.stride 0),
   wrap 56 ((bits (n.word 7) 0 56 : Int) + (bits idx 16 16 : Int) * n.stride 1))

/-! ### Reading -/

/-- The lanes that bytes hold; every lane is poisoned where `bad`. -/
def lanesOf (bad : Bool) (bs : List PByte) : List Lane :=
  (List.range (bs.length / 4)).map fun j =>
    let w := (bs.drop (4 * j)).take 4
    { val := BitVec.ofNat 32 (ofBytes (w.map fun b => b.1)), poison := bad || w.any fun b => b.2 }

/-- An index of a node, read as a plain access of the opening colour: its value, its poison and the
state after. KINDs without an index read none. A load node is a counted reader, a store node is none (R119). -/
def State.nodeIndex (s : State) (c : Nat) (n : Node) : Except AccErr (Nat × Bool × State) :=
  if n.kind < 2 then .ok (0, false, s)
  else
    let k := n.idxBytes
    match s.engRead c n.opener (!descStore n.desc) (wrapVa (n.idxBase + k * n.index)) k with
    | .error e => .error e
    | .ok (bs, s1) => .ok (ofBytes (bs.map fun b => b.1), bs.any (fun b => b.2), s1)

/-- An element's lanes from an address. -/
def State.nodeRead (s : State) (c : Nat) (n : Node) (bad : Bool) (va : Nat) : Except AccErr (List Lane × State) :=
  match s.engRead c n.opener true va (4 * descEwords n.desc) with
  | .error e => .error e
  | .ok (bs, s1) => .ok (lanesOf bad bs, s1)

/-- A queue entry that a node pushes: no predicate bit is set (R127). -/
def nodeEntry (ls : List Lane) (src : Option Nat) : QEntry :=
  { lanes := ls, preds := ls.map fun _ => false, rel := none, src := src }

/-- The entries of an element with their queues; the path is queue 8. The last entry of an element
carries its node, whose AHEAD falls when it is taken (R126). -/
abbrev NodeOut := List (Nat × QEntry)

/-- An element of KIND 5 (R371): the gather's row in two entries, then its depth and case. -/
def State.projElem (s : State) (c i : Nat) (n : Node) (v : View) (bv : Nat) :
    Except AccErr (NodeOut × State) :=
  let march := camMarched v.b
  let t := (bits (n.word 4) 0 32 + n.i0 + n.i1 * camPitch v.b) % 2 ^ 32
  let depth := if march then .ok (([] : List PByte), s)
    else s.engRead c n.opener true (wrapVa (n.idxBase + 4 * n.index)) 4
  match depth with
  | .error e => .error e
  | .ok (bs, s1) =>
    let bad := bs.any fun b => b.2
    let g := s1.gatherLane v march t (ofBytes (bs.map fun b => b.1))
    let row := g.row.map fun b => ((b, bad || g.rowPoison) : PByte)
    let last : List Lane :=
      [{ g.depth with poison := bad || g.depth.poison }, { val := BitVec.ofNat 32 g.case, poison := bad }]
    .ok ([(n.dest, nodeEntry (lanesOf false (row.take 128)) none),
          (n.dest, nodeEntry (lanesOf false ((row.drop 128).take 128)) none),
          (n.dest, nodeEntry last (some i))], s1.countCases c bv [g])

/-- The next element of a load node. -/
def State.nodeElem (s : State) (c i : Nat) (n : Node) : Except AccErr (NodeOut × State) :=
  if n.kind = 5 then
    match s.view c (n.base % 8) with
    | none => .ok ([], s)
    | some v => s.projElem c i n v (n.base % 8)
  else
    match s.nodeIndex c n with
    | .error e => .error e
    | .ok (idx, bad, s1) =>
      if n.kind = 4 then
        let a := n.pairAddr idx
        match s1.nodeRead c n bad a.1 with
        | .error e => .error e
        | .ok (ls, s2) =>
          match s2.nodeRead c n bad a.2 with
          | .error e => .error e
          | .ok (ms, s3) =>
            .ok ([(n.dest, nodeEntry ls none), ((n.dest + 1) % 8, nodeEntry ms (some i))], s3)
      else
        match s1.nodeRead c n bad (n.elemAddr idx) with
        | .error e => .error e
        | .ok (ls, s2) => .ok ([(n.dest, nodeEntry ls (some i))], s2)

/-- Whether a node's destination has room for its next element on chip: a node never spills (R124). -/
def Core.nodeRoom (k : Core) (n : Node) : Bool :=
  let room := fun (q need : Nat) => (k.queue q).spillCount == 0 && decide ((k.queue q).entries.length + need ≤ 32)
  if n.dest = 8 then decide (k.matPath.length < 64)
  else if n.kind = 4 then room n.dest 1 && room ((n.dest + 1) % 8) 1
  else if n.kind = 5 then room n.dest 3
  else room n.dest 1

/-- An element's entries placed. -/
def Core.placeElem (k : Core) (i : Nat) (out : NodeOut) : Core :=
  out.foldl (fun k p =>
    if p.1 = 8 then { k with matPath := k.matPath ++ [(i, p.2.lanes)] }
    else k.modQueue p.1 fun q => { q with entries := q.entries ++ [p.2] }) k

/-! ### Faults (R57, R125, R185) -/

/-- COUNT0 and COUNT1 of a node's record (R125). -/
def Node.counts (n : Node) : Nat × Nat :=
  (n.i0 % 65536 + n.i1 % 65536 * 65536, n.i2 % 65536 + n.i3 % 65536 * 65536)

/-- A node's translation fault: it withholds the element, and the host or the supervisor is told. -/
def State.nodeWithhold (s : State) (c i : Nat) (n : Node) (write : Bool) (va : Nat) : State :=
  let ct := n.counts
  let s := s.noteFar c va
  if s.fsvc c then
    (s.raise c (Trap.untied 6 va i (ct.1 + ct.2 * 2 ^ 32) (.node i))).modCore c fun k =>
      k.modNode i fun x => { x with state := 3, fault := some trapHeld }
  else
    let p := s.serviceFault { s.coreRec c 1 with
      node := i, address := va, write := write, count0 := ct.1, count1 := ct.2 } (.node c i)
    p.1.modCore c fun k => k.modNode i fun x => { x with state := 3, fault := some p.2 }

/-- A load node's element that cannot be read: a protection fault or a race waits for its consumer, and what
another module is to answer is asked for (R181). -/
def State.nodeFail (s : State) (c i : Nat) (n : Node) (e : AccErr) : State :=
  let ct := n.counts
  let bad := fun (s : State) (t : Trap) =>
    (s.dropAnswers c n.opener).modCore c fun k => k.modNode i fun x => { x with badElem := some t }
  match e with
  | .translation va => (s.dropAnswers c n.opener).nodeWithhold c i n false va
  | .protection va => bad (s.notePoisoned c va) (Trap.untied 7 va i (ct.1 + ct.2 * 2 ^ 32) .op)
  | .race line a => bad s (Trap.untied 8 line.addr (raceDetail a) (s.raceAux a) .op)
  | .farRace pa d x => bad s (Trap.untied 8 (lineOf pa) d x .op)
  | .remote who m r ps => s.engAsk c who m r ps

/-! ### Store nodes (R124) -/

/-- A data entry's lanes as an element's bytes: EWORDS words. DESIGN CHOICE: of an entry of another run length
the lanes it has are written, up to EWORDS (log 114). -/
def elemBytesOf (n : Node) (r : Run) : List PByte :=
  (r.lanes.take (descEwords n.desc)).flatMap fun l => (toBytes 4 l.val.toNat).map fun b => (b, l.poison)

/-- The addresses of a store node's next element: one, or two for KIND 4; and whether the index that gives them
is poisoned. -/
def State.storeAddrs (s : State) (c : Nat) (n : Node) : Except AccErr (List Nat × Bool × State) :=
  match s.nodeIndex c n with
  | .error e => .error e
  | .ok (idx, bad, s1) =>
    .ok (if n.kind = 4 then [(n.pairAddr idx).1, (n.pairAddr idx).2] else [n.elemAddr idx], bad, s1)

/-- Why a store node's element is not paired: an access fails, the index is poisoned, or poisoned data would go
to T3 (R194). -/
inductive StoreErr where
  | access (e : AccErr)
  | badIndex (va : Nat)
  | badData (va : Nat) (ls : List Lane)
  deriving DecidableEq, Repr

/-- The pieces of data entries stored at addresses, each with the instance that sent its data; or why one
cannot be stored, with its instance. -/
def State.nodePieces (s : State) (c : Nat) (n : Node) :
    List Nat → List (Nat × Run) → Except (Nat × StoreErr) (List (Nat × List Seg))
  | va :: vas, (iid, r) :: rs =>
    let bs := elemBytesOf n r
    match s.resolveRange c .write va bs.length with
    | .error (.translation, a) => .error (iid, .access (.translation a))
    | .error (.protection, a) => .error (iid, .access (.protection a))
    | .ok ts =>
      if anyPoison r.lanes && ts.any fun t => t.1.t3 then .error (iid, .badData va r.lanes)
      else
        match s.nodePieces c n vas rs with
        | .error e => .error e
        | .ok more => .ok ((iid, segsP ts bs) :: more)
  | _, _ => .ok []

/-- A store node's data entry that cannot be paired: the instance that sent it takes the trap; a trap that it has
already is the one delivered (R323). -/
def State.storeFail (s : State) (c i iid : Nat) (n : Node) (e : StoreErr) : State :=
  let k := s.core c
  let trap := fun (s : State) (cause addr detail aux lane : Nat) =>
    match k.inst? iid with
    | some x =>
      if x.status == .parked then s
      else s.raise c { Trap.ofInst k x cause addr detail aux (.node i) with lane := lane }
    | none => s
  let parked := (k.inst? iid).any fun x => x.status == .parked
  let ct := n.counts
  match e with
  | .access (.translation va) => (s.dropAnswers c n.opener).nodeWithhold c i n true va
  | .access (.protection va) =>
    if parked then s
    else
      trap (((s.dropAnswers c n.opener).notePoisoned c va).postRec
        { s.coreRec c 2 with node := i, address := va, write := true, count0 := ct.1, count1 := ct.2 })
        7 va i (ct.1 + ct.2 * 2 ^ 32) 0
  | .access (.race line a) => trap s 8 line.addr (raceDetail a) (s.raceAux a) 0
  | .access (.farRace pa d x) => trap (s.dropAnswers c n.opener) 8 (lineOf pa) d x 0
  | .access (.remote who m r ps) => s.engAsk c who m r ps
  | .badIndex va => trap s 0x0E va (Config.consumerKind 1).toNat 1 0
  | .badData va ls => trap s 0x0E va (Config.consumerKind 8).toNat (poisonMask 0 ls) (firstPoison 0 ls)

/-- A store node pairs the oldest data with its next element's address (KIND 4: the two oldest with its
two); each write performs at the commit of the instance that sent the data. -/
def State.nodeStore (s : State) (c i : Nat) (n : Node) : State :=
  let need := if n.kind = 4 then 2 else 1
  let data := (s.core c).nodeData
  if data.length < need then s
  else
    let iid := (data.headD (0, { first := 0, lanes := [] })).1
    match s.storeAddrs c n with
    | .error e => s.storeFail c i iid n (.access e)
    | .ok (vas, bad, s1) =>
      if bad then s.storeFail c i iid n (.badIndex (vas.headD 0))
      else
        match s1.nodePieces c n vas data with
        | .error (x, e) => s.storeFail c i x n e
        | .ok ps =>
          (s1.dropAnswers c n.opener).modCore c fun k =>
            let k1 := { k with nodeData := k.nodeData.drop need }.modNode i Node.advance
            ps.foldl (fun (k : Core) p => k.modInst p.1 fun x =>
              { x with effects := noteEffect k1.issueSeq (Effect.nodeData i p.2) x.effects }) k1

/-! ### NODE_ELEMENT_READ -/

/-- Whether the sources of a core are gated for a pre-emption (R195, R131). -/
def State.isGated (s : State) (c : Nat) : Bool := (s.core c).gated || (s.core c).frozen

/-- A node's next element read into its destination, or paired with data (R124), where the node runs. -/
def State.nodeGo (s : State) (c i : Nat) : State :=
  let k := s.core c
  let n := k.node i
  if n.state ≠ 1 ∨ n.badElem.isSome = true then s
  else if descStore n.desc && n.kind != 5 then s.nodeStore c i n
  else if !k.nodeRoom n then s
  else
    match s.nodeElem c i n with
    | .error e => s.nodeFail c i n e
    | .ok ([], _) => s
    | .ok (out, s1) =>
      (s1.dropAnswers c n.opener).modCore c fun k =>
        (k.placeElem i out).modNode i fun x => { x.advance with ahead := x.ahead + 1 }

/-- NODE_ELEMENT_READ (R124): node `node` of a core reads its next element into its destination; a store
node pairs its next address with data. -/
def execNodeElementRead (core node : Nat) (s : State) : Host.Outcome State Fault Refusal :=
  .next (if s.isGated core then s else s.nodeGo core node)

end Sys2Proof.Machine
end

