-- ==== Sys2Proof/Machine/Shuttle.lean ====
section
/-! DEFINITION. The Shuttle (R50, R129 to R131): SHUTTLE_ENTRY_START, SHUTTLE_ROW_COPY and
SHUTTLE_COMPLETION_POST. -/

namespace Sys2Proof.Machine

open Sys2Proof

/-- Whether an entry is in progress: started and not posted. -/
def ShEntry.active (e : ShEntry) : Bool := e.st == .running || e.st == .copied

/-- The entries of a core in progress (R129): those started and not posted, and those some of whose writes are not yet
performed. -/
def State.inProgress (s : State) (c : Nat) : Nat :=
  ((List.zipIdx (s.core c).shuttle).filter fun p => p.1.active || !s.partDone c shuttleAgent p.2).length

/-- A core with one entry of its Shuttle changed. -/
def Core.modEntry (k : Core) (e : Nat) (f : ShEntry → ShEntry) : Core :=
  match k.shuttle[e]? with
  | some x => { k with shuttle := setAt k.shuttle e (f x) }
  | none => k

/-- SHUTTLE_ENTRY_START (R129): the next entry in schedule order starts once its stage is released, its
bobbin has a free slot and at most three earlier entries are in progress. -/
def execShuttleEntryStart (core : Nat) (s : State) : Host.Outcome State Fault Refusal :=
  let k := s.core core
  match findIdx? (fun (e : ShEntry) => e.st == .waiting) k.shuttle 0 with
  | none => .next s
  | some (n, e) =>
    let x := e.entry
    if k.regs.shadv ≤ x.stage ∨ s.isGated core = true ∨ k.endl = true ∨
        (x.boben && !(k.bob x.bob).canStart) = true ∨ 3 < s.inProgress core then .next s
    else
      let s1 := if x.boben then s.fillStart core shuttleAgent x.bob else s
      .next (s1.modCore core fun k => k.modEntry n fun e => { e with st := .running })

/-- The addresses of row `i` of an entry: its source and its destination. -/
def SchedEntry.row (x : SchedEntry) (i : Nat) : Nat × Nat :=
  (wrapVa (x.src + i * x.srcpitch), wrapVa (x.dst + i * x.dstpitch))

/-- The places of a row's bytes, where they can be told. -/
def State.rowPlaces (s : State) (c : Nat) (use : Use) (va n : Nat) : List (Loc × Nat) :=
  match s.resolveRange c use va n with
  | .ok ts => ts.map fun t => (t.1.loc, t.2)
  | .error _ => []

/-- Whether two pieces share a byte. -/
def piecesMeet (a b : Loc × Nat) : Bool :=
  match a.1, b.1 with
  | .scratch c x, .scratch d y => c == d && overlaps x a.2 y b.2
  | .phys x, .phys y => overlaps x a.2 y b.2
  | _, _ => false

/-- Whether an earlier entry in progress may still write bytes that a row reads or writes, by their places, which
several addresses may name, and by their addresses, or has written them and the write is not yet performed (R129). -/
def State.rowBlocked (s : State) (c n src dst len : Nat) : Bool :=
  let rows := ((s.core c).shuttle.take n).flatMap fun e =>
    if e.st == .running then
      ((List.range e.entry.rows).drop e.row).map fun i => ((e.entry.row i).2, e.entry.rowbytes)
    else []
  let sent := ((s.partWrites c shuttleAgent).filter fun w => decide (w.part < n)).map fun w => (Loc.phys w.addr, w.bytes.length)
  if rows.isEmpty && sent.isEmpty then false
  else
    let mine := s.rowPlaces c .read src len ++ s.rowPlaces c .write dst len
    (rows.any fun r => overlaps r.1 r.2 src len || overlaps r.1 r.2 dst len ||
      (s.rowPlaces c .write r.1 r.2).any fun p => mine.any fun q => piecesMeet p q) ||
      sent.any fun p => mine.any fun q => piecesMeet p q

/-- An entry that has written its last row, or has ended: without a bobbin it has no completion to
post. -/
def ShEntry.finished (e : ShEntry) (err : Bool) : ShEntry :=
  { e with st := if e.entry.boben then .copied else .posted, err := e.err || err, withheld := none }

/-- An entry after one more row. -/
def ShEntry.rowDone (e : ShEntry) (poison : Bool) : ShEntry :=
  let e1 := { e with row := e.row + 1, poison := e.poison || poison }
  if e1.entry.rows ≤ e1.row then e1.finished false else e1

/-- A row of an entry whose access does not complete (R130, R185); what another module is to answer is asked for
(R181). -/
def State.rowFail (s : State) (c n : Nat) (write : Bool) (e : AccErr) : State :=
  match e with
  | .remote who m r ps => s.engAsk c who m r ps
  | e =>
    let r := (s.dropAnswers c shuttleAgent).engFail c (.shuttle n) (.shuttle c n) write e
    r.1.modCore c fun k => k.modEntry n fun x =>
      match r.2 with
      | some id => { x with withheld := some id }
      | none => x.finished true

/-- The next row of a running entry that nothing withholds, read and written (R129). -/
def State.rowGo (s : State) (c n : Nat) : State :=
  match (s.core c).shuttle[n]? with
  | none => s
  | some e =>
    let a := e.entry.row e.row
    if e.st != .running || e.withheld.isSome || s.rowBlocked c n a.1 a.2 e.entry.rowbytes then s
    else
      match s.engRead c shuttleAgent true a.1 e.entry.rowbytes with
      | .error err => s.rowFail c n false err
      | .ok (bs, s1) =>
        match s1.engWrite c shuttleAgent true a.2 bs n with
        | .error err => s.rowFail c n true err
        | .ok s2 =>
          (s2.dropAnswers c shuttleAgent).modCore c fun k => k.modEntry n fun e => e.rowDone (bs.any fun b => b.2)

/-- SHUTTLE_ROW_COPY (R129): a running entry reads its next row and writes it. -/
def execShuttleRowCopy (core entry : Nat) (s : State) : Host.Outcome State Fault Refusal :=
  .next (if s.isGated core then s else s.rowGo core entry)

/-- Whether a copied entry's completion is the next of its bobbin (R130). -/
def Core.mayPost (k : Core) (n : Nat) (e : ShEntry) : Bool :=
  e.st == .copied &&
    (k.shuttle.take n).all fun x => !x.entry.boben || x.entry.bob != e.entry.bob || x.st == .posted

/-- SHUTTLE_COMPLETION_POST (R130, R133): a finished entry's completion goes to its bobbin once its writes have all been
performed, in schedule order. -/
def execShuttleCompletionPost (core : Nat) (s : State) : Host.Outcome State Fault Refusal :=
  let k := s.core core
  match (List.zipIdx k.shuttle).find? fun p => k.mayPost p.2 p.1 && s.partDone core shuttleAgent p.2 with
  | none => .next s
  | some (e, n) =>
    .next ((s.fillDone core shuttleAgent e.entry.bob e.err e.poison).modCore core fun k =>
      k.modEntry n fun x => { x with st := .posted })

end Sys2Proof.Machine
end

