-- ==== Sys2Proof/Machine/Eret.lean ====
section
/-! DEFINITION. The actions of ERET (R190, R191): RESUME, SUBSTITUTE and END, as they take effect at
the commit of the handler's instance. -/

namespace Sys2Proof.Machine

open Sys2Proof

/-! ### SUBSTITUTE -/

/-- Whether an instruction's result is data, and not a completion token (R191). -/
def dataForm : Instr → Bool
  | .phase _ => false
  | .shadv _ => false
  | .bobinit _ _ _ => false
  | .bobwait _ _ _ => false
  | .bobrel _ _ _ => false
  | .st _ _ => false
  | .stv _ _ => false
  | .stul _ => false
  | .fence _ _ _ => false
  | .pref _ => false
  | .tstateFill _ => false
  | .tstatePublish _ => false
  | .tstateDrain _ => false
  | .tstateRelease _ => false
  | .twait _ => false
  | .sopen _ _ => false
  | .sclose _ _ => false
  | .grows _ _ _ _ => false
  | .scat _ _ _ _ => false
  | .stld _ _ => false
  | .cred _ _ _ _ _ => false
  | .cbc _ _ _ => false
  | .cag _ _ => false
  | .ca2a _ _ => false
  | .mld _ _ _ _ _ _ _ _ _ => false
  | .mst _ _ _ _ _ _ _ _ _ => false
  | .mzero _ _ _ _ => false
  | .mma _ _ _ _ _ => false
  | .mmsp _ _ _ _ _ _ _ => false
  | .mcomp _ _ _ _ _ _ _ => false
  | .mqnt _ _ _ _ _ _ => false
  | .mdeq _ _ _ _ _ _ => false
  | .mtrn _ _ _ => false
  | .maccr _ _ _ _ w => w == 0
  | .mcor _ _ _ _ _ _ _ _ => false
  | .mtri _ _ _ _ _ => false
  | .mwy _ _ _ _ _ _ _ => false
  | .mstep _ _ _ => false
  | .mgrd _ _ => false
  | .ptset _ _ _ => false
  | .ptop _ _ _ _ _ => false
  | .ply _ _ _ _ _ _ _ => false
  | .plyc _ _ _ => false
  | .plyf _ _ => false
  | .warp _ => false
  | .reel _ _ => false
  | .camld _ _ => false
  | .camst _ _ => false
  | .camcomp _ _ _ => false
  | .pscat _ _ _ _ => false
  | .pstep _ _ => false
  | .skbind _ _ => false
  | .spin _ _ => false
  | .skwr _ _ _ => false
  | _ => true

/-- The first lane and the number of lanes of a result: those of the matched set, or of a form whose
result has its own shape. -/
def OpIn.resultShape (o : OpIn) (i : Instr) : Nat × Nat :=
  match i with
  | .mfsr _ num => (o.f.first, srLanes num.toNat)
  | .cwalk _ first cnt => (first.toNat, cnt.toNat + 1)
  | .sisect _ n _ _ => (0, n.toNat + 1)
  | .sunion _ n _ _ => (0, n.toNat + 1)
  | .sdiff _ n _ _ => (0, n.toNat + 1)
  | .smadd _ _ n _ _ => (0, n.toNat + 1)
  | .snext _ n _ => (0, n.toNat + 1)
  | .stst _ _ => (0, 1)
  | .vred _ _ => (0, 1)
  | .vrun _ count first =>
    let a := max first.toNat o.f.first
    (a, min (first.toNat + count.toNat + 1) (o.f.first + o.f.n) - a)
  | .phase _ => (o.f.first, 1)
  | .shadv _ => (o.f.first, 1)
  | .bobinit _ _ _ => (o.f.first, 1)
  | .bobwait _ _ _ => (o.f.first, 1)
  | .bobrel _ _ _ => (o.f.first, 1)
  | .spawn _ _ => (o.f.first, 1)
  | .syscall _ _ => (o.f.first, 1)
  | .brk _ _ => (o.f.first, 1)
  | .pstat _ _ _ _ => (o.f.first, 1)
  | _ => (o.f.first, o.f.n)

/-- Whether the spec gives an instruction no targets, so that it sends nothing. -/
def noResult (i : Instr) : Bool := bareForm i

/-- An operation retired without being performed (R191): its data lanes carry RESULT, a predicate is
false, a completion token holds zero. -/
def State.substitute (s : State) (o : OpIn) (v : Word) : State :=
  match o.m.instr? o.f.slot with
  | none => s.retireOp o
  | some i =>
    if noResult i then s.finishN o o.head
    else
      let sh := o.resultShape i
      let run := fun (pred : Bool) =>
        ({ first := sh.1, lanes := List.replicate sh.2
            { val := if pred || !dataForm i then 0 else v, poison := false } } : Run)
      s.finish o o.head (dataForm i) (run (predTargets i).1) (run (predTargets i).2)

/-- Whether R190 allows SUBSTITUTE for a trap. -/
def State.substOk (s : State) (c : Nat) (t : Trap) : Bool :=
  let load := match (t.firing.bind (s.opIn c)).bind fun o => o.m.instr? o.f.slot with
    | some (.ld _ _) => true
    | some (.ldv _ _ _) => true
    | some (.cwalk _ _ _) => true
    | _ => false
  t.cause == 2 || t.cause == 4 || t.cause == 0x0E || ((t.cause == 6 || t.cause == 7) && load)

/-- The trap that an instance is owed, taken once it is parked no more (R323). -/
def State.payOwed (s : State) (c iid : Nat) : State :=
  match (s.core c).inst? iid with
  | none => s
  | some i =>
    match i.owed, i.status == .parked with
    | some t, false => (s.modCore c fun k => k.modInst iid fun x => { x with owed := none }).raise c t
    | _, _ => s

/-- The oldest element of a store node retired without a write (R191, R124): its data, of KIND 4 both entries, are
dropped, and the node goes on to the next one. DEDUCED (log 159). -/
def Core.skipStore (k : Core) (n : Nat) : Core :=
  { k with nodeData := k.nodeData.drop (if (k.node n).kind = 4 then 2 else 1) }.modNode n Node.advance

/-- A parked set taken out of a parked instance. -/
def Core.dropParked (k : Core) (iid : Nat) (f : Firing) : Core :=
  k.modInst iid fun i => { i with parkedSets := delFirst (fun g => g == f) i.parkedSets }

/-- The commit effect of an MTSR, an ERET or a CALLB in a slot, which may trap at the commit. -/
def Effect.guarded (slot : Nat) : Effect → Bool
  | .mtsr k _ _ => k == slot
  | .eret k _ => k == slot
  | .push k _ _ _ => k == slot
  | _ => false

/-- The token on the switch network that a parked instance's trap of no operation is about, with its
place. -/
def State.badToken (s : State) (c iid slot : Nat) : Option (Nat × Token × OpIn) :=
  let k := s.core c
  match k.inst? iid with
  | none => none
  | some i =>
    match k.mapping? i.block with
    | none => none
    | some m =>
      (findIdx? (fun (t : Token) => t.iid == iid && m.feeds t.slot == slot && t.bad m) k.inflight 0).map fun p =>
        let idxs := (p.2.lanes m.vec).map fun l => l.1
        let f : Firing :=
          { iid := iid, slot := slot, elem := m.elem slot, first := idxs.headD 0, n := if m.vec then idxs.length else 1,
            left := [], right := [], third := [], rep := none, answered := none, opTag := none, heldAt := none,
            skip := 0 }
        (p.1, p.2, { c := c, f := f, i := i, m := m })

/-- The lanes of a slot retired, with what waits at them dropped and what comes later discarded (R95). -/
def Core.offLanes (k : Core) (iid slot : Nat) (idxs : List Nat) : Core :=
  k.modInst iid fun i => i.modSlot slot fun o =>
    { o with off := idxs.foldl addMem o.off, left := dropLanes o.left idxs, right := dropLanes o.right idxs,
             pred := dropLanes o.pred idxs }

/-- SUBSTITUTE on a trap that it is allowed for: the operation retires; a token that could not be
matched goes with it; a guarded MTSR, ERET or CALLB has no effect; a store node's element is not written. -/
def State.substTrap (s : State) (c : Nat) (t : Trap) (v : Word) : State :=
  match t.iid with
  | none => s
  | some iid =>
    (match t.firing, t.src with
      | some f, _ =>
        let s1 := s.modCore c fun k => (k.dropParked iid f).unpark iid
        match s1.opIn c { f with heldAt := none } with
        | some o => (s1.modCore c fun k => k.closeColl o).substitute o v
        | none => s1
      | none, .node n => s.modCore c fun k => (k.skipStore n).unpark iid
      | none, _ =>
        match s.badToken c iid t.slot with
        | some (n, _, o) =>
          let s1 := s.modCore c fun k =>
            ({ k with inflight := delAt k.inflight n }.unpark iid).offLanes iid t.slot o.f.idxs
          s1.substitute o v
        | none =>
          s.modCore c fun k => (k.modInst iid fun i =>
            { i with effects := delFirst (fun e => Effect.guarded t.slot e.2) i.effects }).unpark iid).payOwed c iid

/-! ### RESUME -/

/-- A block that is frozen, or that a restore has mapped from a memory that has changed, fetched and mapped again for an
instance that resumes (R108, R190, R205, R208). Where the block fails a check, the instance parks again; where there is
no room, the mapping waits (R88). -/
def State.remap (s : State) (c iid : Nat) : State :=
  let k := s.core c
  match k.inst? iid with
  | none => s
  | some i =>
    match k.mapping? i.block with
    | none => s
    | some old =>
      if !old.frozen && !old.differs then s
      else
        let again := fun (e : MapErr) => (s.mapTrap c i e).modCore c fun k1 =>
          { k1.modMapping i.block fun x => { x with frozen := true, differs := true } with mapping := k.mapping }
        match s.readBlockAt c i.block with
        | .error e => again e
        | .ok (m, cls) =>
          match m.selfRace cls with
          | some (x, y) => again (.race (s.raceLine c m x y) (s.accNow c i.tag.colour x.write x.atomic) y.slot)
          | none =>
            if !k.healthy m.size then again (.route 0 0x80000000)
            else
              let k1 := { k with mappings := k.mappings.filter fun x => x.block != i.block }
              let r := Core.makeRoom (k1.mappings.length + 1) k1 m.size m.nslot
              match r.2 with
              | none => s.setCore c { r.1 with mappings := r.1.mappings ++ [{ m with frozen := true, off := true }] }
              | some p =>
                match k.routesFor { m with x0 := p.2.1, y0 := p.2.2 } with
                | .error e => again e
                | .ok rt => s.setCore c { r.1.addMapping { m with routes := rt } p with mapping := k.mapping }

/-- The parked operation of a SYSCALL, BREAK or TRAPIF answered (R269). -/
def Core.answer (k : Core) (iid : Nat) (f : Firing) (v : Word) : Core :=
  k.modInst iid fun i =>
    { i with parkedSets := modFirst (fun g => g == f) (fun g => { g with answered := some v }) i.parkedSets }

/-- RESUME on a trap that is tied to an instance: one of its block's mapping maps the block again (R190), and a trap that
the instance is owed comes then. -/
def State.resumeInst (s : State) (c iid : Nat) (t : Trap) (v : Word) : State :=
  let s1 := match t.firing with
    | some f => if t.cause = 0x10 ∨ t.cause = 0x11 then s.modCore c fun k => k.answer iid f v else s
    | none => s
  let s2 := s1.modCore c fun k => k.unpark iid
  (if t.src = .mapping then s2.remap c iid else s2).payOwed c iid

/-- A schedule entry that a trap withheld goes on (R130, R185). -/
def Core.freeEntry (k : Core) (e : Nat) : Core := k.modEntry e fun x => { x with withheld := none }

/-- A page that a trap withheld goes on likewise. -/
def Core.freePage (k : Core) (id : Nat) : Core :=
  { k with reel := modFirst (fun m => m.id == id) (fun m => { m with withheld := none }) k.reel }

/-- A node that a trap made withhold its element reads it again (R57, R185). -/
def Core.freeNode (k : Core) (n : Nat) : Core :=
  k.modNode n fun x => if x.state = 3 ∧ x.fault = some trapHeld then { x with state := 1, fault := none } else x

/-- The access that a trap withheld, tried again (R185): the entry's row, the page, or the element, which is
performed where it meets nothing, and otherwise traps afresh. -/
def State.tryAgain (s : State) (c : Nat) (src : TrapSrc) : State :=
  match src with
  | .shuttle e => (s.modCore c fun k => k.freeEntry e).rowGo c e
  | .reel id =>
    let s1 := s.modCore c fun k => k.freePage id
    match (s1.core c).reel.find? fun m => m.id == id && m.started && !m.ended with
    | some m => s1.reelGo c m
    | none => s1
  | .node n => (s.modCore c fun k => k.freeNode n).nodeGo c n
  | _ => s

/-- RESUME (R190): what each cause's row of the table says. -/
def State.resume (s : State) (c : Nat) (t : Trap) (v : Word) : State :=
  let s1 := s.tryAgain c t.src
  match t.src, t.iid with
  | .watchdog, _ => s1.modLaunch (s1.coreLid c) fun l => { l with wdAnswered := addMem l.wdAnswered (s1.coreRank c) }
  | .queue _, _ => s1
  | .untied, _ => s1
  | _, some iid => s1.resumeInst c iid t v
  | _, none => s1

/-! ### ERET -/

/-- The ring entry that an address names (R270). -/
def Core.ringAt (k : Core) (addr : Nat) : Option (Nat × Trap) :=
  k.ring.find? fun p => k.regs.ringAddr p.1 == addr

/-- A queue whose spill write is tried again: any ERET by the supervisor lets it go on (R128). -/
def Core.retrySpill (k : Core) (t : Trap) : Core :=
  match t.src with
  | .queue q => k.modQueue q fun x => { x with spfault := false }
  | _ => k

/-- END (R191). -/
def State.endByHandler (s : State) (c code : Nat) : State := s.endLaunch (s.coreLid c) 4 (min code 0xFFEF)

/-- The action of an ERET at its commit (R191): the record's ACTION, RESULT and CODE are read as the
handler has left them, and the entry is freed. -/
def State.eretAct (s : State) (c addr : Nat) : State :=
  let k := s.core c
  match k.ringAt addr with
  | none => s
  | some (i, t) =>
    let rd := fun (o n : Nat) => ofBytes (memRead k.scratch (addr + o) n)
    let v := BitVec.ofNat 32 (rd 40 4)
    let s1 := s.setCore c { k.retrySpill t with ring := k.ring.filter fun p => p.1 != i }
    match rd 1 1 with
    | 0 => s1.resume c t v
    | 1 => if s1.substOk c t then s1.substTrap c t v else s1.endByHandler c (rd 44 2)
    | _ => s1.endByHandler c (rd 44 2)

end Sys2Proof.Machine
end

