-- ==== Sys2Proof/Machine/Arbour.lean ====
section
/-! DEFINITION. Barriers and stalls: Arbour steps (R76 to R78, R179), ARBOUR_ARRIVAL, the barrier
timeout of steps, collectives and world steps, BARRIER_TIMEOUT, and QUEUE_STALL (R120, R128). -/

namespace Sys2Proof.Machine

open Sys2Proof

/-! ### The close of a step (R76) -/

/-- The held requests of a core that meet a test, completed with a value, with `fuel` rounds. -/
def State.completeHeld (s : State) (c : Nat) (p : Held → Bool) (v : Word) : Nat → State
  | 0 => s
  | n + 1 =>
    match (s.core c).heldWhere p with
    | none => s
    | some (i, hd) =>
      (s.completeAt c i hd v fun s o => s.finishC o o.head v).completeHeld c p v n

/-- Whether a request waits on an Arbour step. -/
def Held.onStep (n : Nat) (h : Held) : Bool := h.wait == .arbour n

/-- Whether every core of a launch's set has arrived at the open step or has executed ENDL. DESIGN CHOICE: a step at
which no core arrives by a PHASE is not closed (R76, log 116). -/
def Launch.allArrived (l : Launch) : Bool :=
  !l.arrived.isEmpty && (List.range l.cores.length).all fun r => has l.arrived r || has l.ended r

/-- Whether steps of a launch go on (R78, R158): it runs, or drains for a pre-emption, and none of its cores has
begun its save. Later, arrivals and closes wait until it runs again. -/
def State.stepsOn (s : State) (l : Launch) : Bool :=
  (l.phase == .running || l.phase == .preempting) && l.cores.all fun c => (s.core c).saving.isNone

/-- ARBOUR_STEP_CLOSE (R76): with every core arrived the step closes, and every PHASE that waits on it
gets its completion token with the step's number. -/
def State.closeArbour (s : State) (lid : Nat) : State :=
  match s.launch lid with
  | none => s
  | some l =>
    if !l.allArrived || !s.stepsOn l then s
    else
      let s1 := s.modLaunch lid fun l => { l with steps := l.steps + 1, arrived := [] }
      l.cores.foldl (fun s c =>
        s.completeHeld c (Held.onStep l.steps) (BitVec.ofNat 32 l.steps) (s.core c).held.length) s1

/-! ### ARBOUR_ARRIVAL (R76, R179) -/

/-- Whether a waiting request is an access not yet performed: one that its unit has taken, and that waits for a
tile, a lock, its turn, a path, an answer, or nothing more. One that waits for earlier instances, or for the next
step, has not begun. -/
def Held.access (h : Held) : Bool :=
  let taken := h.unit == .carder || h.unit == .matrix || h.unit == .spindle
  match h.wait with
  | .fault _ => true
  | .remote => true
  | .tile _ => taken
  | .lock _ _ => taken
  | .atomic _ => taken
  | .port => taken
  | .flight => taken
  | .register => taken
  | .path => taken
  | .reel => taken
  | .stream => taken
  | _ => false

/-- Whether the accesses that a core's elements have issued have all been performed (R179): none waits, and none is
on its way to another module. -/
def State.accessesDone (s : State) (c : Nat) : Bool :=
  !((s.core c).held.any Held.access) &&
    !(s.owrites.any fun w => w.acc.any fun a => a.core == c && a.agent.module.isNone && decide (a.agent.who < 0x8000))

/-- The PHASE of a core that arrives next: the first one that fired and waits. -/
def Core.nextPhase (k : Core) : Option (Nat × Held) := k.heldWhere fun h => h.wait == .phase

/-- ARBOUR_ARRIVAL (R76, R179): a core arrives at the open step by its oldest waiting PHASE, once every
earlier instance of that PHASE's colour has committed and every access issued has been performed. -/
def execArbourArrival (core : Nat) (s : State) : Host.Outcome State Fault Refusal :=
  let k := s.core core
  match k.nextPhase, s.coreLaunch core with
  | some (n, hd), some l =>
    match k.inst? hd.firing.iid with
    | none => .next (s.takeHeld core n)
    | some i =>
      if !s.stepsOn l || k.hasEarlier i || !s.accessesDone core || s.hasArrived core || has l.ended (s.coreRank core) then .next s
      else
        let s1 := s.modCore core fun k => { k with held := setAt k.held n { hd with wait := .arbour l.steps } }
        .next ((s1.modLaunch l.lid fun l => { l with arrived := addMem l.arrived (s.coreRank core) }).closeArbour l.lid)
  | _, _ => .next s

/-! ### BARRIER_TIMEOUT (R77, R320, R369) -/

/-- A trap of a waiting request, tied to its instance; the request stays where it is (R186). -/
def State.waitTrap (s : State) (c : Nat) (hd : Held) (cause addr detail aux : Nat) : State :=
  let k := s.core c
  match k.inst? hd.firing.iid with
  | none => s
  | some i =>
    if i.status == .parked then s
    else s.raise c { Trap.ofInst k i cause addr detail aux .op with slot := hd.firing.slot, lane := hd.firing.first }

/-- Whether a pre-emption of a launch is under way. -/
def Launch.preempting (l : Launch) : Bool :=
  l.phase == .preempting || l.phase == .preempted || l.phase == .resuming

/-- The barrier timeout of an open Arbour step: every core that has arrived takes the trap. -/
def State.stepTimeout (s : State) (l : Launch) (n : Nat) : State :=
  l.cores.foldl (fun s c =>
    match (s.core c).heldWhere (Held.onStep n) with
    | some (_, hd) => s.waitTrap c hd 0x0C 0 n l.arrived.length
    | none => s) s

/-- The collective that a request has arrived at. -/
def State.collAt (s : State) (c gid : Nat) (f : Firing) : Option Coll :=
  s.colls.find? fun k => k.gid == gid &&
    k.arrived.any fun p => p.far.isNone && p.core == c && p.iid == f.iid && p.slot == f.slot && p.first == f.first

/-- The number of a request's collective in sequence, and the participants that have arrived. -/
def State.collCount (s : State) (c gid : Nat) (f : Firing) : Nat × Nat :=
  match s.collAt c gid f with
  | some k => (k.seq, k.arrived.length)
  | none => (0, 0)

/-- Whether a participant of a request's collective is absent (R183, R207): another module has said so, or it is one of a
launch of this module that is switched out. -/
def State.collAbsent (s : State) (c gid : Nat) (f : Firing) : Bool :=
  match s.collAt c gid f with
  | none => false
  | some k =>
    (s.absent.any fun p => p.2 == gid && k.group.any fun e => bits e 48 12 == p.1) ||
      k.group.any fun e => bits e 48 12 == Config.moduleId.toNat && s.launches.any fun l =>
        l.part == bits e 44 4 && l.record.lnum == bits e 0 32 && l.preempting

/-- BARRIER_TIMEOUT: the request at place `k` of a core has waited CR_ARBTO on its barrier. A
pre-emption of the launch and an absent participant suspend the timeout. DESIGN CHOICE: where cores of the set hold
different values, a step is limited by that of the core that the event names (R77, log 117). -/
def execBarrierTimeout (core k : Nat) (s : State) : Host.Outcome State Fault Refusal :=
  match (s.core core).held[k]?, s.coreLaunch core with
  | some hd, some l =>
    if (s.core core).regs.arbto = 0 ∨ l.preempting then .next s
    else
      match hd.wait with
      | .arbour n => .next (s.stepTimeout l n)
      | .collective gid =>
        let q := s.collCount core gid hd.firing
        if s.collAbsent core gid hd.firing then .next s else .next (s.waitTrap core hd 0x0C 0 q.1 q.2)
      | .worldClose id n =>
        let m := match s.store? (s.corePart core) id with
          | some t => t.arrived.length
          | none => 0
        .next (s.waitTrap core hd 0x0C 0 n m)
      | _ => .next s
  | _, _ => .next s

/-! ### QUEUE_STALL (R120, R128, R155, R307, R311, R314, R336) -/

/-- ADDR and DETAIL of a queue-stall trap (R190), where the wait is one that CR_STALLWD limits. -/
def Core.stallInfo (k : Core) (h : Held) : Option (Nat × Nat) :=
  match h.wait with
  | .tile t => some ((k.tile t).base * 64, t)
  | .twait t => some ((k.tile t).base * 64, t)
  | .lock _ a => some (a, lockBit a)
  | .queue q => some (q, q)
  | .bobbin b => some (b, b)
  | .path => if h.unit == .matrix then some (8, 8) else none
  | _ => none

/-- QUEUE_STALL: a request, or an instance whose commit is held by a full queue or buffer, has waited
CR_STALLWD cycles. A node that withholds a token for a translation fault suspends it (R58). -/
def execQueueStall (core : Nat) (what : StallAt) (s : State) : Host.Outcome State Fault Refusal :=
  let k := s.core core
  if k.regs.stallwd = 0 ∨ s.withholding core = true then .next s
  else
    match what with
    | .request n =>
      match k.held[n]? with
      | none => .next s
      | some hd =>
        match k.stallInfo hd with
        | some (a, d) => .next (s.waitTrap core hd 0x0B a d 0)
        | none => .next s
    | .commit iid =>
      match k.inst? iid with
      | none => .next s
      | some i =>
        if i.stalled && i.status == .admitted then
          let q := (i.effects.findSome? fun e => match e.2 with
            | .pushQueue slot q _ => some (slot, q)
            | .scatter t _ _ _ _ _ _ slot _ => some (slot, t)
            | _ => none).getD (0, 0)
          .next (s.raise core { Trap.ofInst k i 0x0B q.2 q.2 0 .op with slot := q.1 })
        else .next s

end Sys2Proof.Machine
end

