-- ==== Sys2Proof/Machine/Commit.lean ====
section
/-! DEFINITION. The commit of an instance (R100 to R103, R166, R176, R259, R261, R271): its
conditions, its checks, its effects, INSTANCE_COMMIT; and TRAP_DELIVERY (R188). -/

namespace Sys2Proof.Machine

open Sys2Proof

/-! ### When an instance commits (R101) -/

/-- Whether anything of an instance is still in an issue queue, in a unit or on the switch network. -/
def Core.busy (k : Core) (iid : Nat) : Bool :=
  k.issueQ.any (fun f => f.iid == iid) || k.held.any (fun h => h.firing.iid == iid) ||
    k.inflight.any (fun t => t.iid == iid)

/-- Whether an instance still has data that a store node is to pair with an address. -/
def Core.dataWaits (k : Core) (iid : Nat) : Bool := k.storeRuns && k.nodeData.any fun p => p.1 == iid

/-- What ENDL's commit needs beside R101 (R271): no spawned colour and no trap parked or waiting. -/
def Core.endlReady (k : Core) : Bool :=
  k.colours.length == 2 && k.traps.isEmpty && !(k.instances.any fun i => i.status == .parked)

/-- R101's conditions on an instance. -/
def Core.canCommit (k : Core) (i : Instance) : Bool :=
  let nout := match k.mapping? i.block with
    | some m => m.nout
    | none => 0
  i.status == .admitted && i.counted == nout && i.branchDone && !k.hasEarlier i && !k.busy i.iid &&
    !k.dataWaits i.iid && (!(i.effects.any fun e => e.2 == .endl) || k.endlReady)

/-! ### The checks (R166, R176) -/

/-- Why a commit is not made: a trap at the instance, a queue or buffer without room, the fault of a spill write, or
stores whose check another module is still to be asked for, or has been asked for and has not answered (R166, R181). -/
inductive CommitStop where
  | trap (t : Trap)
  | full (q : Option Nat)
  | spill (q : Nat) (e : XFault) (va : Nat)
  | far (p : Nat × Nat)
  | farWait
  deriving DecidableEq, Repr

/-- Whether accesses of a place are checked and recorded here: host memory has no records, and another module's are
at that module (R168). -/
def Loc.recorded : Loc → Bool
  | .scratch _ _ => true
  | .phys a => decide (a < dramEnd)

/-- A race trap at a commit. -/
def State.commitRace (s : State) (c : Nat) (i : Instance) (slot : Nat) (line : Loc) (a : Acc) : Trap :=
  { Trap.ofInst (s.core c) i 8 line.addr (raceDetail a) (s.raceAux a) .op with slot := slot }

/-- A counted writer's line in a scratchpad of its own core, in whose tiles it counts (R119). -/
def Seg.countedLine (g : Seg) (c : Nat) (counted : Bool) : Option Nat :=
  match g.loc with
  | .scratch c' l => if counted && c' == c then some l else none
  | .phys _ => none

/-- The acquires that a counted writer's write has (R177). -/
def State.acquireSeg (s : State) (c : Nat) (i : Instance) (counted : Bool) (g : Seg) : State :=
  match g.countedLine c counted with
  | some l => s.tileAcquire c (s.agent c i.tag.colour) l
  | none => s

/-- The check of one stored piece: against its line's record, and against the loads of later instances
of the colour (R176), each of them the first access of its pair. -/
def State.checkSeg (s : State) (c : Nat) (i : Instance) (slot : Nat) (atomic counted : Bool) (g : Seg) : Option Trap :=
  let line := g.loc.line
  let here := if g.loc.recorded then
      (s.acquireSeg c i counted g).raceOn line (s.accNow c i.tag.colour true atomic)
    else none
  match here with
  | some a => some (s.commitRace c i slot line a)
  | none =>
    (s.core c).instances.findSome? fun j =>
      if i.before j then
        (j.accs.find? fun a => a.line == line && !a.acc.write).map fun a => s.commitRace c i slot line a.acc
      else none

/-- The instruction in a slot of an instance. -/
def Core.slotInstr (k : Core) (i : Instance) (slot : Nat) : Option Instr :=
  (k.mapping? i.block).bind fun m => m.instr? slot

/-- Whether a slot's stores are atomics: STUL's word write is one (R136). -/
def Core.slotAtomic (k : Core) (i : Instance) (slot : Nat) : Bool :=
  match k.slotInstr i slot with
  | some (.stul _) => true
  | _ => false

/-- Whether a slot's stores are those of a counted writer (R119). -/
def Core.slotCounted (k : Core) (i : Instance) (slot : Nat) : Bool :=
  match k.slotInstr i slot with
  | some (.mst _ _ _ _ _ _ _ _ _) => true
  | _ => false

/-- The radius at which a slot's stores release: STUL's word write, an atomic, that a release or full fence of its
instance comes before by an arc (R174, R307). -/
def State.slotRelease (s : State) (c : Nat) (i : Instance) (slot : Nat) : Option Nat :=
  if (s.core c).slotAtomic i slot then
    (((s.core c).mapping? i.block).bind fun m => (s.fenceRadii m slot).max?)
  else none

/-- COUNT0 and COUNT1 of a fault on an access that a slot of an instance makes at the commit (R55). -/
def Core.slotCounts (k : Core) (i : Instance) (slot : Nat) : Nat :=
  let elem := ((k.mapping? i.block).map fun m => m.elem slot).getD 0
  elem + slot * 256 + i.tag.colour * 2 ^ 32

/-- A trap of an instance at its commit that RESUME lets it try again. -/
def State.commitTrap (s : State) (c : Nat) (i : Instance) (slot cause addr detail : Nat) : CommitStop :=
  let aux := if cause = 6 then (s.core c).slotCounts i slot else 0
  .trap { Trap.ofInst (s.core c) i cause addr detail aux .op with slot := slot }

/-- The place of another module that a piece lies at, by physical address and length (R111). -/
def Seg.far (g : Seg) : Option (Nat × Nat) :=
  match g.loc with
  | .phys a => if 0x800000000000 ≤ a then some (a, g.bytes.length) else none
  | .scratch _ _ => none

/-- Whether a request to another module is an instance's commit's. -/
def Ask.ofCommit (q : Ask) (c iid : Nat) : Bool := q.asker == .commit c iid

/-- How the check of one stored piece by the module that owns it stands (R21, R166, R181). DESIGN CHOICE: the owner
enters the store in its records as it answers, the instance commits once every check is answered, and an undeliverable
one traps with the physical address (log 124). -/
def State.farSeg (s : State) (c : Nat) (i : Instance) (slot : Nat) (g : Seg) : Option CommitStop :=
  g.far.bind fun p =>
    match (s.asks.find? fun q => q.ofCommit c i.iid && q.addr == p.1).map Ask.st with
    | none => some (.far p)
    | some (.sent _) => some .farWait
    | some (.answered _) => none
    | some (.raced _ d x) => some (.trap { Trap.ofInst (s.core c) i 8 (lineOf p.1) d x .op with slot := slot })
    | some .failed => some (s.commitTrap c i slot 6 p.1 0x13)

/-- What holds or ends a commit among an instance's stores, which are checked together (R166): of each effect the first
piece that fails here, and the pieces that another module checks. -/
def State.checkStores (s : State) (c : Nat) (i : Instance) : List CommitStop :=
  let go := fun (slot : Nat) (atomic counted : Bool) (gs : List Seg) =>
    match gs.findSome? (s.checkSeg c i slot atomic counted) with
    | some t => [CommitStop.trap t]
    | none => gs.filterMap (s.farSeg c i slot)
  i.effects.flatMap fun e => match e.2 with
    | .store slot gs => go slot ((s.core c).slotAtomic i slot) ((s.core c).slotCounted i slot) gs
    | .nodeData _ gs => go 0xFFFF false true gs
    | _ => []

/-! ### The stores performed -/

/-- One stored piece performed: recorded, as a releasing write at `rel` where it is one (R171), and counted in the tiles
of its core where its writer is a counted one. -/
def State.commitSeg (s : State) (c : Nat) (i : Instance) (atomic counted : Bool) (rel : Option Nat) (g : Seg) : State :=
  let a := s.agent c i.tag.colour
  let s0 := s.acquireSeg c i counted g
  let s1 := if rel.isSome then (s0.raiseEpoch a).1 else s0
  let x := s1.accNow c i.tag.colour true atomic
  let s2 := s1.performWrite (some x) g
  let s3 := if g.loc.recorded then s2.recordAcc g.loc.line x else s2
  let s4 := match rel with
    | some r => s3.markRelease g.loc.line { agent := a, core := c, epoch := s3.epoch a, radius := r }
    | none => s3
  match g.countedLine c counted with
  | some l => s4.countLine c a l true
  | none => s4

/-- The pieces of one store performed; a line counts once, as its last piece performs (R331). -/
def State.commitPieces (s : State) (c : Nat) (i : Instance) (atomic counted : Bool) (rel : Option Nat) : List Seg → State
  | [] => s
  | g :: r =>
    (s.commitSeg c i atomic (counted && !(r.any fun x => x.loc.line == g.loc.line)) rel g).commitPieces c i atomic counted rel r

/-- An instance's stores performed together. -/
def State.commitStores (s : State) (c : Nat) (i : Instance) : State :=
  i.effects.foldl (fun s e => match e.2 with
    | .store slot gs =>
      s.commitPieces c i ((s.core c).slotAtomic i slot) ((s.core c).slotCounted i slot) (s.slotRelease c i slot) gs
    | .nodeData _ gs => gs.foldl (fun s g => s.commitSeg c i false true none g) s
    | _ => s) s

/-! ### The other effects -/

/-- CALLB's store and the stack's move (R259): the next free entry as the stack stands at the commit. -/
def State.commitPush (s : State) (c : Nat) (i : Instance) (slot va : Nat) (loc : Loc) (ret : Nat) :
    Except CommitStop State :=
  let col := ((s.core c).colour? i.tag.colour).getD (Colour.blank i.tag.colour 0)
  let place : Except CommitStop Loc :=
    if col.top = va then .ok loc
    else if col.top = 0 ∨ col.depth = 255 then
      .error (s.commitTrap c i slot 2 (col.depth * 2 ^ 56 + col.top) 259)
    else
      match s.resolve c .write col.top with
      | .ok t => .ok t.loc
      | .error .translation => .error (s.commitTrap c i slot 6 col.top 0x13)
      | .error .protection => .error (s.commitTrap c i slot 7 col.top 0x13)
  match place with
  | .error e => .error e
  | .ok l =>
    let g : Seg := { loc := l, bytes := toBytes 8 ret, poison := false }
    match s.checkSeg c i slot false false g, s.farSeg c i slot g with
    | some t, _ => .error (.trap t)
    | none, some x => .error x
    | none, none =>
      .ok ((s.commitSeg c i false false none g).modCore c fun k => k.modColour i.tag.colour fun x =>
        { x with top := (x.top + 8) % 2 ^ 56, depth := x.depth + 1 })

/-- A token whose arrival acquires a release (R177). -/
def Token.acquiring (r : Agent × Nat) (t : Token) : Token :=
  { iid := t.iid, src := t.src, slot := t.slot, pos := t.pos, run := t.run, opTag := t.opTag, acq := some r }

/-- SRET's return token sent to the SPAWN that drew the colour, which then ends; the colour is marked
(R261). The token carries the spawner's tag, and so starts at the iteration at which its SPAWN fired; where its
tag overflows, the SPAWN takes the trap (R92). -/
def State.commitSret (s : State) (c : Nat) (i : Instance) (run : Run) : State :=
  let colour := i.tag.colour
  let a := s.agent c colour
  let r := s.raiseEpoch a
  let s1 := match (r.1.core c).heldWhere fun h => h.wait == .spawned colour with
    | none => r.1
    | some (n, hd) =>
      match r.1.opIn c hd.firing with
      | none => r.1.takeHeld c n
      | some o =>
        let ret : Run := { first := o.f.first, lanes := run.lanes }
        if r.1.tagBad o o.head.tg.toNat ret then (r.1.takeHeld c n).tagTrap o o.head.tg.toNat
        else
          let s2 := (r.1.takeHeld c n).modCore c fun k =>
            let k1 := k.sendTo o o.head.tg.toNat true ret
            let n0 := k.inflight.length
            { k1 with inflight := k1.inflight.take n0 ++ (k1.inflight.drop n0).map (Token.acquiring (a, r.2)) }
          s2.retireOp o
  s1.modCore c fun k => k.modColour colour fun x => { x with sret := true }

/-- A core's faults withdrawn with its nodes (R125). -/
def State.closeNodes (s : State) (c : Nat) : State :=
  let s1 := (s.core c).nodes.foldl (fun s p => match p.2.fault with
    | some id => s.withdrawFault id
    | none => s) s
  s1.modCore c fun k => { k with nodes := [], matPath := [] }

/-- ENDL (R271): nodes close, the colour's pending instances go, bindings drop (R373), and the core
counts as arrived at every later step (R76). -/
def State.commitEndl (s : State) (c : Nat) : State :=
  let s1 := (s.closeNodes c).modCore c fun k =>
    { k with binds := [], endl := true,
             instances := k.instances.filter fun i => !(i.tag.colour == 1 && i.status == .pending) }
  (s1.modLaunch (s.coreLid c) fun l => { l with ended := addMem l.ended (s.coreRank c) }).closeArbour (s.coreLid c)

/-- A WRITE of a queue port (R103): the push is a release (R177). -/
def State.commitPort (s : State) (c : Nat) (i : Instance) (q : Nat) (l : Lane) : Except CommitStop State :=
  if !((s.core c).queue q).hasRoom then .error (.full (some q))
  else
    let a := s.agent c i.tag.colour
    let r := s.raiseEpoch a
    match r.1.pushQueue c q { lanes := [l], preds := [false], rel := some (a, r.2), src := none } with
    | .ok s1 => .ok s1
    | .error (x, va) => .error (.spill q x va)

/-- A scatter write performed (R154): it is on its way to its die's buffer, in the step that its core's
arrivals give it (R156). -/
def State.commitScatter (s : State) (c : Nat) (i : Instance) (id : Nat) (w : SWrite) : Except CommitStop State :=
  match s.store? (s.corePart c) id with
  | none => .ok s
  | some t =>
    let room := match cellStack s.mem t.desc w.cell with
      | some st => s.bufferPlace t st
      | none => some false
    match room with
    | none => .error (.full none)
    | some area => .ok (s.modStore t.part t.id fun x =>
      { x with pending := x.pending ++ [{ w with rank := s.coreRank c, tag := i.tag,
                                                 late := has x.arrived (s.coreRank c), spilled := area }] })

/-- One effect of a commit, the stores apart. -/
def State.commitEffect (s : State) (c : Nat) (i : Instance) (e : Effect) : Except CommitStop State :=
  let k := s.core c
  match e with
  | .store _ _ => .ok s
  | .nodeData _ _ => .ok s
  | .lockClear core addr => .ok (s.modCore core fun k => { k with locks := k.locks.filter fun b => b != lockBit addr })
  | .writeReg reg lane => .ok (s.setCore c (k.modColour i.tag.colour fun x => { x with regs := setAt x.regs reg lane }))
  | .pushQueue _ q lane => s.commitPort c i q lane
  | .mtsr slot num v =>
    match k.srGuard num v with
    | some rule => .error (s.commitTrap c i slot 2 v rule)
    | none => .ok (s.setCore c (k.writeSr i.tag.colour num v))
  | .push slot va loc ret => s.commitPush c i slot va loc ret
  | .pop => .ok (s.setCore c (k.modColour i.tag.colour fun x => { x with top := wrap 56 ((x.top : Int) - 8), depth := x.depth - 1 }))
  | .sret run => .ok (s.commitSret c i run)
  | .eret slot addr =>
    match k.ringAt addr with
    | none => .error (s.commitTrap c i slot 2 addr 191)
    | some _ => .ok (s.eretAct c addr)
  | .endl => .ok (s.commitEndl c)
  | .scatter id cam t cell d w feature slot prio =>
    s.commitScatter c i id { cell := cell, core := c, rank := 0, tag := i.tag, slot := slot, t := t, d := d, w := w,
                             feature := feature, prio := prio, cam := cam, late := false, spilled := false }

/-- The effects of a commit in order, each judged as those before it leave the state: that state, and what ends or
holds the commit. -/
def State.commitEffects (c : Nat) (i : Instance) (s : State) : State × List CommitStop :=
  i.effects.foldl (fun q e =>
    match q.1.commitEffect c i e.2 with
    | .ok t => (t, q.2)
    | .error x => (q.1, q.2 ++ [x])) (s, [])

/-- Of the traps that an instance meets in one cycle, the one that is taken: that of the lowest slot (R323). -/
def lowestTrap : List Trap → Option Trap
  | [] => none
  | t :: ts =>
    match lowestTrap ts with
    | some u => some (if u.slot < t.slot then u else t)
    | none => some t

/-! ### INSTANCE_COMMIT -/

/-- The tokens that a committing instance leaves waiting (R101). -/
def Instance.leftTokens (i : Instance) : Nat :=
  ((i.ops.flatMap fun o => [o.left, o.right, o.pred, o.scale]).map fun ws => (tokenRuns ws).length).sum

/-- An instance's end: its tokens are discarded and counted, its frame is freed. -/
def Core.retireInst (k : Core) (i : Instance) : Core :=
  { k with instances := k.instances.filter (fun j => j.iid != i.iid),
           nodeData := k.nodeData.filter (fun p => p.1 != i.iid),
           regs := { k.regs with discard := satAdd k.regs.discard i.leftTokens 0xFFFF } }

/-- The trap of a stop, where it is one. -/
def CommitStop.trap? : CommitStop → Option Trap
  | .trap t => some t
  | _ => none

/-- In what order the stops of one commit count: a trap, then room, then the requests to be made to other modules, then
their answers. -/
def CommitStop.rank : CommitStop → Nat
  | .trap _ => 0
  | .full _ => 1
  | .spill _ _ _ => 1
  | .far _ => 2
  | .farWait => 3

/-- The stop that a commit meets among all it finds: of traps that of the lowest slot (R323), of others the first of the
lowest rank. -/
def firstStop (xs : List CommitStop) : Option CommitStop :=
  match lowestTrap (xs.filterMap CommitStop.trap?) with
  | some t => some (.trap t)
  | none => (List.range 3).findSome? fun r => xs.find? fun x => x.rank == r + 1

/-- The requests of an instance's commit to other modules, answered or not, are gone. -/
def State.dropCommitAsks (s : State) (c iid : Nat) : State :=
  { s with asks := s.asks.filter fun q => !q.ofCommit c iid }

/-- All that ends or holds the commit of an instance as the machine stands. -/
def State.commitStops (s : State) (c : Nat) (i : Instance) : List CommitStop :=
  s.checkStores c i ++ (State.commitEffects c i (s.commitStores c i)).2

/-- The commit of an instance, or why it is not made; nothing has changed then. -/
def State.tryCommit (s : State) (c : Nat) (i : Instance) : Except CommitStop State :=
  match firstStop (s.commitStops c i) with
  | some x => .error x
  | none =>
    .ok (((State.commitEffects c i (s.commitStores c i)).1.dropCommitAsks c i.iid).modCore c fun k => k.retireInst i)

/-- The checks of a commit's stores by other modules asked for, each as the write that the commit makes (R166, R181). -/
def State.askCommit (s : State) (c : Nat) (i : Instance) : State :=
  s.askFor (.commit c i.iid) (s.accNow c i.tag.colour true false) checkAsk none
    ((s.commitStops c i).filterMap fun x => match x with
      | .far p => some p
      | _ => none)

/-- A trap at a commit taken (R113, R259): the fault of a call stack's push posts what an access of an element
form posts. What other modules have answered is asked for again where the commit is tried again. -/
def State.raiseCommit (s0 : State) (c : Nat) (i : Instance) (t : Trap) : State :=
  let lost := s0.asks.any fun q => q.ofCommit c i.iid && q.addr == t.addr
  let s := s0.dropCommitAsks c i.iid
  let ct := (s.core c).slotCounts i t.slot
  let s1 :=
    if t.cause = 7 then
      let s2 := s.notePoisoned c t.addr
      s2.postRec { s2.coreRec c 2 with
        write := true, node := 0x13, address := t.addr, count0 := ct % 2 ^ 32, count1 := ct / 2 ^ 32 }
    else if t.cause = 6 && !lost then s.noteFar c t.addr
    else s
  s1.raise c t

/-- Whether a commit that is held has nothing more to count: it is marked, and the full queue that holds it has counted
its push, or takes nothing because of a fault (R128). -/
def Core.stallNoted (k : Core) (i : Instance) (q : Option Nat) : Bool :=
  i.stalled && match q with
    | none => true
    | some q => has i.fullAt q || (k.queue q).spfault

/-- A commit is held; a push that found its queue full is counted there once (R128). -/
def State.stallCommit (s : State) (c : Nat) (i : Instance) (q : Option Nat) : State :=
  s.modCore c fun k =>
    match q with
    | none => k.modInst i.iid fun j => { j with stalled := true }
    | some q =>
      if has i.fullAt q || (k.queue q).spfault then k.modInst i.iid fun j => { j with stalled := true }
      else (k.modInst i.iid fun j => { j with stalled := true, fullAt := q :: j.fullAt }).modQueue q fun x =>
        { x with full := satAdd x.full 1 0xFFFF }

/-- A spill write that faulted (R128): the queue takes nothing more and colour 0 has the trap, whatever
FSVC says. A write that the page forbids posts its record (R113). DESIGN CHOICE: that record gives NODE 0x13, the
Carder's (R55, log 121). -/
def State.spillFault (s : State) (c q : Nat) (e : XFault) (va : Nat) : State :=
  let s1 := s.modCore c fun k => k.modQueue q fun x => { x with spfault := true }
  let s2 := match e with
    | .translation => s1.noteFar c va
    | .protection =>
      let s3 := s1.notePoisoned c va
      s3.postRec { s3.coreRec c 2 with write := true, node := 0x13, address := va }
  s2.raise c (Trap.untied (match e with | .translation => 6 | .protection => 7) va q 0 (.queue q))

/-- The instances that may commit, the lowest colour first. -/
def Core.committers (k : Core) : List Instance :=
  (k.instances.filter k.canCommit).insertionSort fun a b => a.tag.colour ≤ b.tag.colour

/-- INSTANCE_COMMIT (R101): the instance of the lowest colour that can commit does. -/
def execInstanceCommit (core : Nat) (s : State) : Host.Outcome State Fault Refusal :=
  if (s.core core).frozen then .next s
  else
    match (s.core core).committers.find? fun i => match s.tryCommit core i with
      | .error (.full q) => !(s.core core).stallNoted i q
      | .error .farWait => false
      | _ => true with
    | none => .next s
    | some i =>
      match s.tryCommit core i with
      | .ok s1 => .next s1
      | .error (.trap t) => .next (s.raiseCommit core i t)
      | .error (.full q) => .next (s.stallCommit core i q)
      | .error (.spill q e va) => .next (s.spillFault core q e va)
      | .error (.far _) => .next (s.askCommit core i)
      | .error .farWait => .next s

/-! ### TRAP_DELIVERY (R188) -/

/-- TRAP_DELIVERY: the oldest trap that waits in a core takes the lowest free ring entry; with none free
WAITING is set and it waits. -/
def execTrapDelivery (core : Nat) (s : State) : Host.Outcome State Fault Refusal :=
  let k := s.core core
  match k.traps with
  | [] => .next s
  | t :: rest =>
    match k.freeRing with
    | none => .next (s.setCore core { k with regs := { k.regs with trapWaiting := true } })
    | some e => .next ((s.setCore core { k with traps := rest }).deliverTrap core t e)

end Sys2Proof.Machine
end

