-- ==== Sys2Proof/Machine/WorldStep.lean ====
section
/-! DEFINITION. World steps (R154 to R158): a scatter write reaches its buffer, a core arrives at the
open step, the step closes, a step is discarded; and the absence of a participant on another module
(R183, R207). -/

namespace Sys2Proof.Machine

open Sys2Proof

/-- SCATTER_WRITE_BUFFER (R146, R154): a performed scatter write, the `n`-th under way of a store,
reaches its die's buffer once its brick is found or claimed. -/
def execScatterWriteBuffer (part store n : Nat) (s : State) : Host.Outcome State Fault Refusal :=
  match s.store? part store with
  | none => .next s
  | some t =>
    match t.pending[n]? with
    | none => .next s
    | some w =>
      let s1 := s.modStore part store fun x => { x with pending := delAt x.pending n }
      match s1.store? part store with
      | none => .next s1
      | some t1 => .next (s1.bufferWrite t1 w)

/-- The store that a waiting PSTEP arrives on, where its arrival may be made (R156): every earlier
instance of its colour has committed, the core's performed writes have reached their buffers, and
the core has not arrived at the open step (R369), and its launch's steps go on (R158). -/
def State.arrivesOn (s : State) (c : Nat) (h : Held) : Option Store :=
  match h.wait, (s.core c).inst? h.firing.iid with
  | .world id, some i =>
    match s.store? (s.corePart c) id with
    | none => none
    | some t =>
      if !((s.coreLaunch c).any s.stepsOn) || (s.core c).hasEarlier i || has t.arrived (s.coreRank c) ||
          has ((s.coreLaunch c).elim [] Launch.ended) (s.coreRank c) ||
          t.pending.any (fun w => w.rank == s.coreRank c) then none
      else some t
  | _, _ => none

/-- WORLD_STEP_ARRIVAL (R156, R369): the core's first PSTEP that may arrive does, and waits for the
close of the open step. -/
def execWorldStepArrival (core : Nat) (s : State) : Host.Outcome State Fault Refusal :=
  match (s.core core).heldWhere fun h => (s.arrivesOn core h).isSome with
  | none => .next s
  | some (n, h) =>
    match s.arrivesOn core h with
    | none => .next s
    | some t =>
      let s1 := s.modCore core fun k => { k with held := setAt k.held n { h with wait := .worldClose t.id t.step } }
      .next (s1.modStore t.part t.id fun x => { x with arrived := addMem x.arrived (s.coreRank core) })

/-- Whether an open step closes (R156): every core of the bound launch's set has arrived or has
executed ENDL, and the writes of the step are buffered; a step with no arrival and no write is not closed. -/
def Store.mayClose (t : Store) (l : Launch) : Bool :=
  (!t.arrived.isEmpty || t.buffer.any fun w => !w.late) &&
    ((List.range l.cores.length).all fun r => has t.arrived r || has l.ended r) &&
    t.pending.all (fun w => w.late)

/-- WORLD_STEP_CLOSE (R156, R159): the cells of the step are resolved and written, STEP advances, and
every PSTEP that waits on the step gets its completion token with the step's number. -/
def execWorldStepClose (part store : Nat) (s : State) : Host.Outcome State Fault Refusal :=
  match s.store? part store with
  | none => .next s
  | some t =>
    match s.launch t.lid with
    | none => .next s
    | some l =>
      if !t.mayClose l || !s.stepsOn l then .next s
      else
        let done := fun (h : Held) => h.wait == .worldClose t.id t.step
        .next (l.cores.foldl
          (fun s c => s.completeHeld c done (BitVec.ofNat 32 t.step) (s.core c).held.length) (s.closeStep t))

/-- WORLD_STEP_DISCARD (R158): the open steps of a launch that ends early are discarded and its stores
are unbound; STEP and the cells stay. -/
def State.discardSteps (s : State) (lid : Nat) : State :=
  (s.stores.filter fun t => t.lid == lid).foldl (fun s t => s.unbindStore t) s

/-- PROXY_ABSENCE_RECEIVE (R207): a participating module's absence token for a collective arrives, and
the participant counts as absent and, what it had arrived at, as arrived no more. DESIGN CHOICE: the token names its
module and the collective, so that every participant of that module on the GID is meant (log 149). -/
def execProxyAbsenceReceive (module gid : Nat) (s : State) : Host.Outcome State Fault Refusal :=
  let s1 : State := { s with absent := if s.absent.contains (module, gid) then s.absent else s.absent ++ [(module, gid)] }
  .next (s1.leaveColls fun k p => k.gid == gid && p.agent.module == some module)

/-- PROXY_WITHDRAWAL_RECEIVE (R207): the withdrawal of an absence token arrives. -/
def execProxyWithdrawalReceive (module gid : Nat) (s : State) : Host.Outcome State Fault Refusal :=
  .next { s with absent := s.absent.filter fun p => p != (module, gid) }

end Sys2Proof.Machine
end

