-- ==== Sys2Proof/Machine/Pavilion.lean ====
section
/-! DEFINITION. The Pavilion's parts (R39 to R53, R59 to R66): granules and core sets, launch records and their
checks, dependences and effective priority, the completion word, and a core's state at placement. -/

namespace Sys2Proof.Machine

open Sys2Proof

/-! ### Granules and core sets (R59, R61) -/

/-- The granule of a core (R59). -/
def granuleOf (c : Nat) : Nat := 16 * (c / 128) + 4 * (c % 128 / 32) + c % 16 / 4

/-- The cores of a granule, in ascending order. -/
def granuleCores (g : Nat) : List Nat :=
  let c0 := 128 * (g / 16) + 32 * (g % 16 / 4) + 4 * (g % 4)
  (List.range 8).map fun i => c0 + 16 * (i / 4) + i % 4

/-- Whether a partition owns a granule (R60). -/
def State.owns (s : State) (p g : Nat) : Bool := s.owner.any fun x => x == (g, p)

/-- Whether a core is retired. -/
def State.isRetired (s : State) (c : Nat) : Bool := has s.retired c

/-- Whether a granule is degraded (R59). -/
def State.degraded (s : State) (g : Nat) : Bool := (granuleCores g).any fun c => s.isRetired c

/-- The granules that a partition may use, the ones that a resize releases left out (R67). -/
def State.granules (s : State) (p : Nat) : List Nat :=
  (List.range 128).filter fun g => s.owns p g && !has (s.part p).releasing g

/-- Whether a core runs a launch. -/
def State.busy (s : State) (c : Nat) : Bool := (s.core c).placed.isSome

/-- The healthy cores of a partition, in ascending order. -/
def State.partitionCores (s : State) (p : Nat) : List Nat :=
  let gs := s.granules p
  (List.range 1024).filter fun c => has gs (granuleOf c) && !s.isRetired c

/-- The cores of granules, in ascending order. -/
def coresOf (gs : List Nat) : List Nat := (List.range 1024).filter fun c => has gs (granuleOf c)

/-- `n` of the free granules: on one die if possible, otherwise the lowest (R61). -/
def chooseGranules (free : List Nat) (n : Nat) : Option (List Nat) :=
  let onDie := (List.range 8).findSome? fun d =>
    let gs := free.filter fun g => g / 16 == d
    if n ≤ gs.length then some (gs.take n) else none
  match onDie with
  | some gs => some gs
  | none => if n ≤ free.length then some (free.take n) else none

/-- The core set that R61 forms for a shape in a partition, when `busy` tells the cores that are not free. -/
def State.formSet (s : State) (p shape : Nat) (busy : Nat → Bool) : Option (List Nat) :=
  let gs := s.granules p
  let all := s.partitionCores p
  let freeGs := gs.filter fun g => (granuleCores g).all fun c => !s.isRetired c && !busy c
  match shape with
  | 0 =>
    let free := all.filter fun c => !busy c
    match free.find? fun c => (granuleCores (granuleOf c)).any busy with
    | some c => some [c]
    | none => free.head?.map fun c => [c]
  | 1 => (chooseGranules freeGs 1).map coresOf
  | 2 => (chooseGranules freeGs 4).map coresOf
  | 3 => (chooseGranules freeGs 16).map coresOf
  | _ => if all.isEmpty || all.any busy then none else some all

/-- The core set for a launch (R61, R66): a pre-empted launch takes its original cores if all of them are free and
healthy and still its partition's, and a partition-shape launch needs the size of its placement. DESIGN CHOICE: one that was sent
back from an argument fault is placed anew (log 155). -/
def State.setFor (s : State) (l : Launch) (busy : Nat → Bool) : Option (List Nat) :=
  if l.phase != .preempted then s.formSet l.part l.record.shape busy
  else
    let mine := s.partitionCores l.part
    if l.cores.all fun c => has mine c && !busy c then some l.cores
    else
      match s.formSet l.part l.record.shape busy with
      | none => none
      | some cs => if cs.length = l.placedSize then some cs else none

/-- Whether a launch's shape exceeds its partition (R47): no set could be formed with every core free. -/
def State.exceeds (s : State) (l : Launch) : Bool := (s.setFor l fun _ => false).isNone

/-! ### Launch records (R44, R45) -/

/-- Word `i` of a record. -/
def recWord (bs : List Byte) (i : Nat) : Nat := leAt bs (8 * i) 8

/-- The fields of a record (R44). -/
def LaunchRec.parse (bs : List Byte) : LaunchRec where
  lnum := bits (recWord bs 0) 32 32
  shape := bits (recWord bs 0) 28 4
  rigid := bit (recWord bs 0) 27
  msixen := bit (recWord bs 0) 26
  cspace := bit (recWord bs 0) 25
  depmode := bit (recWord bs 0) 24
  msixvec := bits (recWord bs 0) 8 11
  fmt := bits (recWord bs 0) 0 8
  entry := bits (recWord bs 1) 0 56
  argptr := bits (recWord bs 2) 0 56
  schedptr := bits (recWord bs 3) 0 56
  compladdr := recWord bs 4
  word5 := recWord bs 5
  waitval := bits (recWord bs 6) 32 32
  schedlen := bits (recWord bs 6) 16 16
  arglen := bits (recWord bs 6) 0 16
  timeout := bits (recWord bs 7) 0 32

/-- The MSI-X vectors of a partition's owning function (R33, R45). DESIGN CHOICE: check 6 of R45 counts those of the
function that owns the partition's fault queue (R56), which sends the vector (log 119). -/
def State.vectorCount (s : State) (p : Nat) : Nat := if s.ownFunc p = 0 then 2048 else 64

/-- Whether every reserved field of a record is zero (R44, R45 check 3). -/
def reservedZero (bs : List Byte) : Bool :=
  let r := LaunchRec.parse bs
  bits (recWord bs 0) 19 5 == 0 && bits (recWord bs 1) 56 8 == 0 && bits (recWord bs 2) 56 8 == 0 &&
    bits (recWord bs 3) 56 8 == 0 && (!r.depmode || bits r.word5 56 8 == 0) && (r.depmode || r.waitval == 0) &&
    bits (recWord bs 7) 32 32 == 0

/-- Whether a record's addresses are aligned (R45 check 4). -/
def alignedRec (r : LaunchRec) : Bool :=
  r.entry % 64 == 0 && r.argptr % 8 == 0 && r.schedptr % 32 == 0 && r.compladdr % 8 == 0 &&
    (!r.depmode || bits r.word5 0 56 % 4 == 0) && (!r.cspace || bits r.compladdr 56 8 == 0)

/-- The first check of R45 that a record fails, or 0. -/
def State.recordCheck (s : State) (p : Nat) (bs : List Byte) : Nat :=
  let r := LaunchRec.parse bs
  if r.fmt ≠ 1 then 1
  else if 4 < r.shape then 2
  else if !reservedZero bs then 3
  else if !alignedRec r then 4
  else if 8192 < r.arglen ∨ 4096 < r.schedlen then 5
  else if r.msixen && decide (s.vectorCount p ≤ r.msixvec) then 6
  else 0

/-! ### Accesses through the partition's page table -/

/-- A page-table access by the Pavilion or the save engine that fails (R46, R49, R51, R202): the address, whether it
is a translation fault, the entry's address where the walk met a poisoned one, and the module where the page is in
another one's memory. -/
structure PavFault where
  translation : Bool
  va : Nat
  poisoned : Option Nat
  far : Option Nat
  deriving DecidableEq, Repr

/-- A protection fault at an address. -/
def PavFault.protection (va : Nat) : PavFault := { translation := false, va := va, poisoned := none, far := none }

/-- The place of a byte for a device access (R110 to R113): the address lies in no window, and the page must
translate, and be writable for a write. -/
def State.pavPlace (s : State) (p : Nat) (write : Bool) (va : Nat) : Except PavFault Loc :=
  if windowOf 0 va != .mapped then .error (.protection va)
  else
    match s.walk p va with
    | .fault => .error { PavFault.protection va with translation := true }
    | .poisoned pa => .error { PavFault.protection va with poisoned := some pa }
    | .page e =>
      let pa := e.pa + (va - e.va)
      match s.pageTarget (if write then .write else .read) e va with
      | .ok t => .ok t.loc
      | .error .translation =>
        .error { PavFault.protection va with translation := true, far := if 0x800000000000 ≤ pa then some (bits pa 35 12) else none }
      | .error .protection => .error (.protection va)

/-- The places of [va, va + n), in pieces within one line; an access that runs into a window is a protection
fault of its first byte (R110). -/
def State.pavRange (s : State) (p : Nat) (write : Bool) (va n : Nat) : Except PavFault (List (Loc × Nat)) :=
  if n ≠ 0 ∧ windowOf 0 (wrapVa va) ≠ windowOf 0 (wrapVa (va + n - 1)) then .error (.protection (wrapVa va))
  else
    (pieces (n / 64 + 2) va n).mapM fun q =>
      match s.pavPlace p write (wrapVa q.1) with
      | .ok l => .ok (l, q.2)
      | .error e => .error e

/-- What a device access that fails leaves beside its own record: a poisoned entry's type 0x06 record (R112), and
the route that it could not be sent by (R20, R21). -/
def State.noteDevice (s : State) (p lnum : Nat) (e : PavFault) : State :=
  let s1 := match e.poisoned with
    | some pa => s.postRec { FRec.blank p p 6 with lnum := lnum, address := pa }
    | none => s
  match e.far with
  | some m => s1.checkRoute m
  | none => s1

/-- Bytes that the device reads through a partition's page table, each with its line's poison. DESIGN CHOICE: what
lies in another module's memory is read as this module knows it (log 125). -/
def State.pavRead (s : State) (p va n : Nat) : Except PavFault (List PByte) :=
  (s.pavRange p false va n).map fun ls =>
    ls.flatMap fun q => (s.readLoc q.1 q.2).map fun b => (b, s.poisoned q.1)

/-- Bytes that the device writes at places. -/
def writePieces : List (Loc × Nat) → List Byte → State → State
  | [], _, s => s
  | (l, n) :: r, bs, s => writePieces r (bs.drop n) (s.performWrite none { loc := l, bytes := bs.take n, poison := false })

/-- A serviceable fault of the Pavilion (R46, R49): the host services it even when FSVC = 1. -/
def State.pavFault (s : State) (l : Launch) (e : PavFault) (owner : FaultOwner) : State × Nat :=
  (s.noteDevice l.part l.record.lnum e).serviceFault
    { FRec.blank l.part l.part 1 with lnum := l.record.lnum, node := 0x10, address := e.va } owner

/-- The records of a protection fault of the Pavilion (R49, R112). -/
def State.pavProtection (s : State) (l : Launch) (e : PavFault) : State :=
  (s.noteDevice l.part l.record.lnum e).postRec
    { FRec.blank l.part l.part 2 with lnum := l.record.lnum, node := 0x10, address := e.va }

/-! ### The completion word (R45, R51) -/

/-- The completion word of a record (R51). -/
def completionWord (lnum status detail : Nat) : Nat :=
  lnum % 2 ^ 32 * 2 ^ 32 + detail % 2 ^ 16 * 2 ^ 16 + status % 2 ^ 16

/-- The completion word written, or left unwritten with a type 0x0C record (R51 step 2). -/
def State.writeCompletion (s : State) (p : Nat) (r : LaunchRec) (status detail : Nat) : State :=
  let w := toBytes 8 (completionWord r.lnum status detail)
  if !r.cspace then s.tellHost p (.phys (hostPhys r.compladdr)) w
  else
    match s.pavRange p true r.compladdr 8 with
    | .ok ls => ls.foldl (fun s q => s.noteHost p q.1 w) ((writePieces ls w s).clearRecs ls)
    | .error e =>
      (s.noteDevice p r.lnum e).postRec { FRec.blank p p 0x0C with lnum := r.lnum, address := r.compladdr, write := true }

/-- The MSI-X vector of a record, sent after its word (R51 step 3). -/
def State.sendVector (s : State) (p : Nat) (r : LaunchRec) : State :=
  if r.msixen && decide (r.msixvec < s.vectorCount p) then s.emit (.msix (homeLink (s.part p)) (s.ownFunc p) r.msixvec)
  else s

/-- A malformed record (R45): its completion word, where its address can be trusted, and a type 0x03 record. -/
def State.malformed (s : State) (p : Nat) (r : LaunchRec) (check : Nat) : State :=
  let trusted := r.fmt == 1 && r.compladdr % 8 == 0 && (!r.cspace || bits r.compladdr 56 8 == 0)
  let s1 := if trusted then (s.writeCompletion p r 1 check).sendVector p r else s
  s1.postRec { FRec.blank p p 3 with lnum := r.lnum, detail := check }

/-! ### Dependences and priority (R46, R63) -/

/-- Whether a launch number is named by an earlier launch of the partition that is not complete (R46). -/
def State.waitsFor (s : State) (l : Launch) (n : Nat) : Bool :=
  n != 0 && s.launches.any fun x => x.part == l.part && x.record.lnum == n && decide (x.lid < l.lid)

/-- Whether a launch's dependences are met (R46): once met they stay met. -/
def State.depsMet (s : State) (l : Launch) : Bool :=
  l.waitMet || (!l.record.depmode && !s.waitsFor l (bits l.record.word5 0 32) && !s.waitsFor l (bits l.record.word5 32 32))

/-- The effective priority (R63). -/
def State.effPrio (s : State) (l : Launch) : Nat :=
  let a := (s.part l.part).ageus
  if a = 0 then l.prio else min 15 (l.prio + l.waited / a)

/-- Whether a launch is aged (R63). -/
def State.aged (s : State) (l : Launch) : Bool := decide (l.prio < 15) && s.effPrio l == 15

/-- Whether a launch waits to be placed. -/
def Launch.waiting (l : Launch) : Bool := l.phase == .queued || l.phase == .spilled || l.phase == .preempted

/-- Whether a launch is eligible (R63). -/
def State.eligible (s : State) (l : Launch) : Bool := l.waiting && (s.depsMet l || l.phase == .preempted)

/-- Whether a launch stands at the head of its queue as a pre-emption has sent it back there (R65). -/
def Launch.sentBack (l : Launch) : Bool := l.phase == .preempted || l.back

/-- The launches that a core of a partition could be given to, in the order of R64: descending effective priority; in
one priority queue a launch that a pre-emption sent back stands at the head (R65); then ascending acceptance. DESIGN
CHOICE: a launch in the spill area has its place in the order (log 154). -/
def State.passOrder (s : State) (p : Nat) : List Launch :=
  (s.launches.filter fun l => l.part == p && s.eligible l && l.phase != .spilled).insertionSort fun a b =>
    let ea := s.effPrio a
    let eb := s.effPrio b
    if ea ≠ eb then decide (eb < ea)
    else if a.prio = b.prio && a.sentBack != b.sentBack then a.sentBack
    else decide (a.lid ≤ b.lid)

/-- Whether an aged launch of the partition, accepted before a launch, is unplaced (R64). -/
def State.behindAged (s : State) (l : Launch) : Bool :=
  s.launches.any fun x => x.part == l.part && s.eligible x && s.aged x && decide (x.lid < l.lid)

/-! ### A core at placement (R71, R187) -/

/-- A core as it is when a launch is placed on it (R71): every unit empty, its registers at reset but for
CR_TRAPVEC, CR_ATOMMODE and the retired elements and links, colours 0 and 1 in use. -/
def Core.fresh (k : Core) (supvec : Nat) (pl : Placed) : Core :=
  { Core.reset with
    placed := some pl, colours := [Colour.blank 0 pl.prio, Colour.blank 1 pl.prio], nextIid := k.nextIid,
    deadLinks := k.deadLinks, regs := { CoreRegs.reset with trapvec := supvec, atomLock := false, elret := k.regs.elret } }

/-- A core that runs no launch: only its retired elements and links and its count of instances are kept. -/
def Core.idle (k : Core) : Core :=
  { Core.reset with nextIid := k.nextIid, deadLinks := k.deadLinks, regs := { CoreRegs.reset with elret := k.regs.elret } }

/-- A launch placed on a core set (R61, R71). One that a resize or a retirement sent back to its queue runs again with
it (R67, R68). -/
def State.placeOn (s : State) (l : Launch) (cs : List Nat) : State :=
  let order := (s.launches.map fun x => x.placedOrder).foldl max 0 + 1
  let s1 := s.modLaunch l.lid fun l =>
    { l with phase := .placed, back := false, resized := false, retired := false, cores := cs, placedSize := cs.length,
             placedOrder := order, waitMet := true }
  (List.zipIdx cs).foldl (fun s q =>
    s.modCore q.1 fun k =>
      k.fresh (s.part l.part).supvec { lid := l.lid, part := l.part, rank := q.2, prio := l.prio }) s1

end Sys2Proof.Machine
end

