-- ==== Sys2Proof/Machine/Launches.lean ====
section
/-! DEFINITION. Launches (R39 to R53, R61 to R68): the launch windows, acceptance, placement, the argument copy,
completion, cancels, the watchdog, and the partitions. -/

namespace Sys2Proof.Machine

open Sys2Proof

/-! ### The end of a resize or a retirement (R67, R68) -/

/-- Whether a launch that a resize or a retirement pre-empts is held: its partition cannot hold its shape (R47, R67). -/
def State.isHeld (s : State) (l : Launch) : Bool := (l.phase == .preempted || l.phase == .queued) && s.exceeds l

/-- The end of a resize (R67): once every pre-empted launch has resumed, been held or completed, the released
granules leave the partition and BUSY clears. -/
def State.settleResize (s : State) (p : Nat) : State :=
  if !(s.part p).busy || s.launches.any (fun l => l.part == p && l.resized && !s.isHeld l) then s
  else
    let gone := (s.part p).releasing
    ({ s with owner := s.owner.filter fun x => !(x.2 == p && has gone x.1) }).modPart p fun x =>
      { x with busy := false, releasing := [] }

/-- The end of the retirements under way (R68): a core's bit is set once no launch runs on it, and BUSY clears once
the launches that ran there have resumed, been held or completed. -/
def State.settleRetire (s : State) : State :=
  let s1 := { s with retired := (s.retiring.filter fun c => !s.busy c).foldl addMem s.retired }
  if s1.launches.any fun l => l.retired && !s1.isHeld l then s1
  else { s1 with retiring := s1.retiring.filter fun c => !s1.isRetired c }

/-- Both. -/
def State.settle (s : State) (p : Nat) : State := s.settleRetire.settleResize p

/-! ### Completion (R51) -/

/-- The withdrawals of a launch's absence tokens sent (R207). -/
def State.withdrawProxies (s : State) (l : Launch) : State :=
  (l.proxies.foldl (fun s q => s.sendPacket q.1 3 3 (some l.lid) [q.1, q.2] []) s).modLaunch l.lid fun x => { x with proxies := [] }

/-- Whether a fault's owner belongs to a launch. -/
def FaultOwner.ofLaunch (l : Launch) (cores : List Nat) : FaultOwner → Bool
  | .held c _ => has cores c
  | .node c _ => has cores c
  | .shuttle c _ => has cores c
  | .reel c => has cores c
  | .frame c _ => has cores c
  | .args lid => lid == l.lid
  | .sched lid => lid == l.lid
  | .waitWord lid => lid == l.lid
  | .save lid _ => lid == l.lid
  | .restore lid _ => lid == l.lid

/-- The cores that run a launch now. -/
def State.coresRunning (s : State) (lid : Nat) : List Nat :=
  (s.cores.filter fun q => match q.2.placed with
    | some p => p.lid == lid
    | none => false).map fun q => q.1

/-- Whether an access is one of a launch of this module. -/
def Acc.ofLaunch (a : Acc) (lid : Nat) : Bool := a.agent.launch == lid && a.agent.module.isNone

/-- Whether every write of a launch is visible at system scope (R51 step 1): its ordered writes and its atomics at
other modules are acknowledged or answered. -/
def State.launchWritesDone (s : State) (lid : Nat) : Bool :=
  !(s.owrites.any fun o => match o.acc with
    | some a => a.ofLaunch lid
    | none => false) &&
  !(s.asks.any fun q => q.acc.ofLaunch lid && !q.atomic.isEmpty && (match q.st with
    | .sent _ => true
    | _ => false))

/-- The faults of a launch withdrawn (R58): their records that are still withheld are not posted. -/
def State.withdrawFaults (s : State) (l : Launch) : State :=
  let cs := s.coresRunning l.lid
  (s.outstanding.filter fun o => o.owner.ofLaunch l cs).foldl (fun s o => s.withdrawFault o.id) s

/-- A launch complete (R51): its faults are withdrawn, its images discarded, its stores unbound and its cores
freed; the completion word, then the vector; then it is complete for R46, and pre-emptions that failed may be
tried again (R203). -/
def State.finishLaunch (s : State) (l : Launch) (status detail : Nat) : State :=
  let s1 := (((s.withdrawFaults l).discardSteps l.lid).withdrawProxies l)
  let s2 : State := { s1 with
    images := s1.images.filter (fun x => x.lid != l.lid),
    asks := s1.asks.filter (fun q => !q.acc.ofLaunch l.lid) }.leaveColls fun _ a => a.ofLaunch l.lid
  let s3 := (s2.coresRunning l.lid).foldl (fun (x : State) (c : Nat) => x.modCore c Core.idle) s2
  let s4 := (s3.writeCompletion l.part l.record status detail).sendVector l.part l.record
  (({ s4 with launches := s4.launches.filter fun x => x.lid != l.lid }).modPart l.part fun x =>
    { x with noPreempt := [] }).settle l.part

/-- Whether a core has nothing of its launch's writes under way (R51 step 1). -/
def Core.quiet (k : Core) : Bool :=
  k.held.isEmpty && k.nodeData.isEmpty && !(k.shuttle.any fun e => e.st == .running || e.st == .copied)

/-- Whether a launch has come to its natural end (R51): every core has executed ENDL and every write is
performed, its world steps are closed and its ordered writes acknowledged. -/
def State.ended (s : State) (l : Launch) : Bool :=
  l.phase == .running && !l.cores.isEmpty && ((List.range l.cores.length).all fun r => has l.ended r) &&
    (l.cores.all fun c => (s.core c).quiet) && s.launchWritesDone l.lid &&
    (s.stores.all fun t => t.lid != l.lid || (t.pending.isEmpty && t.buffer.isEmpty))

/-- LAUNCH_COMPLETE (R51): a launch that has ended, by ENDL on every core or by a status, completes once its writes
are visible at system scope. -/
def execLaunchComplete (lid : Nat) (s : State) : Host.Outcome State Fault Refusal :=
  match s.launch lid with
  | none => .next s
  | some l =>
    match l.phase, l.status with
    | .ending, some (st, d) => .next (if s.launchWritesDone lid then s.finishLaunch l st d else s)
    | _, _ => .next (if s.ended l then s.finishLaunch l 0 0 else s)

/-! ### The launch windows (R40, R41) -/

/-- Whether the device is in recovery, when only BAR0 responds (R29). -/
def State.inRecovery (s : State) : Bool := s.fw.state == 2 || s.fw.state == 3

/-- A launch-window write dropped (R40, R41): a type 0x04 record, to queue 16 where EN is 0. -/
def State.rejectWindow (s : State) (p offset detail : Nat) : State :=
  let q := if (s.part p).en then p else 16
  s.postRec { FRec.blank q p 4 with write := true, address := offset, detail := detail }

/-- A write to slot space of page (p, q) (R40, R41). `offset` is its place in BAR2, `o` in the page. -/
def State.windowWrite (s : State) (p q offset o : Nat) (bytes : List Byte) : State :=
  let slot := o / 64
  if !(s.part p).en || bytes.length != 64 || o % 64 != 0 then s.rejectWindow p offset 0
  else if s.ingress.any fun x => x.part == p && x.prio == q && x.slot == slot then s.rejectWindow p offset 1
  else { s with ingress := s.ingress ++ [(Ingress.mk p q slot bytes)] }

/-- LAUNCH_WINDOW_WRITE (R41): a posted write to BAR2 of a PF, or of VF n. -/
def execLaunchWindowWrite (vf : Option Nat) (offset : Nat) (bytes : List Byte) (s : State) :
    Host.Outcome State Fault Refusal :=
  let page := offset / 4096
  if s.inRecovery then .next s
  else
    match vf with
    | none => .next (if page < 256 then s.windowWrite (page / 16) (page % 16) offset (offset % 4096) bytes else s)
    | some n => .next (if page < 16 ∧ n < 16 then s.windowWrite n page offset (offset % 4096) bytes else s)

/-! ### Acceptance (R42, R43, R45, R47) -/

/-- A launch as it is accepted. -/
def Launch.accepted (lid part prio : Nat) (r : LaunchRec) (phase : LPhase) : Launch where
  lid := lid
  part := part
  prio := prio
  record := r
  phase := phase
  waited := 0
  waitMet := false
  waitFault := none
  cores := []
  placedSize := 0
  was := []
  schedule := []
  argFault := none
  steps := 0
  arrived := []
  ended := []
  status := none
  pre := none
  again := false
  wdFired := false
  wdAnswered := []
  placedOrder := 0
  restored := []
  proxies := []

/-- Records in a hardware launch queue. -/
def State.queued (s : State) (p q : Nat) : Nat :=
  (s.launches.filter fun l => l.part == p && l.prio == q && (l.phase == .queued || l.phase == .preempted)).length

/-- Whether records of a queue stand in the spill area. -/
def State.hasSpilled (s : State) (p q : Nat) : Bool :=
  s.launches.any fun l => l.part == p && l.prio == q && l.phase == .spilled

/-- Whether the next record of a queue goes to the spill area (R43). -/
def State.mustSpill (s : State) (p q : Nat) : Bool := decide (256 ≤ s.queued p q) || s.hasSpilled p q

/-- Whether the spill area is full (R43): 1024 records to a unit of 64 KiB. -/
def State.spillFull (s : State) (p : Nat) : Bool :=
  decide ((s.part p).lspillSize * 1024 ≤ (s.launches.filter fun l => l.part == p && l.phase == .spilled).length)

/-- A record's number taken into account: COUNT advances (R42). -/
def State.countAccepted (s : State) (p q : Nat) : State :=
  s.modPart p fun x => { x with accepted := aset x.accepted q ((aget 0 x.accepted q + 1) % 2 ^ 32) }

/-- Place `i` of a partition's spill area (R43): 64 bytes from DR_LSPILL BASE on. -/
def State.spillSlot (s : State) (p i : Nat) : Loc := .phys ((s.part p).lspillBase * 65536 + 64 * i)

/-- The lowest place of a partition's spill area that holds no record. DESIGN CHOICE: a spilled record takes it; R43
orders the records and not their places (log 73). -/
def State.spillFree (s : State) (p : Nat) : Nat :=
  let used := (s.launches.filter fun l => l.part == p && l.phase == .spilled).map fun l => l.spillAt
  ((List.range (used.length + 1)).find? fun i => !has used i).getD 0

/-- A record written to its place in the spill area. -/
def State.writeSpill (s : State) (p i : Nat) (bytes : List Byte) : State :=
  let ls := [(s.spillSlot p i, 64)]
  (writePieces ls bytes s).clearRecs ls

/-- A spill write or read that meets a lasting integrity failure (R43): the record completes FAULT, DETAIL 1. -/
def State.spillBad (s : State) (l : Launch) (write : Bool) : State :=
  (s.postRec { FRec.blank l.part l.part 9 with
    lnum := l.record.lnum, write := write, address := (s.spillSlot l.part l.spillAt).addr }).endLaunch l.lid 5 1

/-- A record accepted (R42, R43, R45, R47). -/
def State.acceptRecord (s : State) (p q : Nat) (bytes : List Byte) (bad : Bool) : State :=
  let r := LaunchRec.parse bytes
  let s1 := s.countAccepted p q
  match s.recordCheck p bytes with
  | 0 =>
    let spill := s.mustSpill p q
    let at1 := if spill then s.spillFree p else 0
    let l := { Launch.accepted s.nextLid p q r (if spill then .spilled else .queued) with spillAt := at1 }
    let s0 := if spill && !bad then s1.writeSpill p at1 bytes else s1
    let s2 := { s0 with launches := s0.launches ++ [l], nextLid := s0.nextLid + 1 }
    if spill && bad then s2.spillBad l true
    else if r.rigid && s2.exceeds l then s2.endLaunch l.lid 2 0
    else s2
  | n => s1.malformed p r n

/-- LAUNCH_ACCEPT (R42): the first record of a page that waits in its slot is accepted, where there is room.
`bad` is a lasting integrity failure of the spill write. -/
def execLaunchAccept (part prio : Nat) (bad : Bool) (s : State) : Host.Outcome State Fault Refusal :=
  match s.ingress.find? fun x => x.part == part && x.prio == prio with
  | none => .next s
  | some x =>
    if s.mustSpill part prio && s.spillFull part then .next s
    else
      let s1 := { s with ingress := delFirst (fun y => y.part == part && y.prio == prio) s.ingress }
      .next (s1.acceptRecord part prio x.bytes bad)

/-- SPILL_RETURN (R43): the oldest spilled record of a queue is read from the spill area and returns to the queue as an
entry frees. `bad` is a lasting integrity failure of the read, which a poisoned line is too. -/
def execSpillReturn (part prio : Nat) (bad : Bool) (s : State) : Host.Outcome State Fault Refusal :=
  match s.launches.find? fun l => l.part == part && l.prio == prio && l.phase == .spilled with
  | none => .next s
  | some l =>
    if 256 ≤ s.queued part prio then .next s
    else
      let pl := s.spillSlot part l.spillAt
      if bad || s.poisoned pl then .next (s.spillBad l false)
      else .next (s.modLaunch l.lid fun x => { x with phase := .queued, record := LaunchRec.parse (s.readLoc pl 64) })

/-! ### Dependences and aging (R46, R63) -/

/-- WAIT_WORD_POLL (R46): the wait word is read through the partition's page table. -/
def execWaitWordPoll (lid : Nat) (s : State) : Host.Outcome State Fault Refusal :=
  match s.launch lid with
  | none => .next s
  | some l =>
    if !l.record.depmode || l.waitMet || l.waitFault.isSome || !l.waiting then .next s
    else
      match s.pavRead l.part (bits l.record.word5 0 56) 4 with
      | .ok bs =>
        let w := ofBytes (bs.map fun b => b.1)
        if (w + 2 ^ 32 - l.record.waitval) % 2 ^ 32 < 2 ^ 31 then
          .next (s.modLaunch lid fun x => { x with waitMet := true })
        else .next s
      | .error e =>
        if e.translation then
          let r := s.pavFault l e (.waitWord lid)
          .next (r.1.modLaunch lid fun x => { x with waitFault := some r.2 })
        else .next ((s.pavProtection l e).endLaunch lid 5 5)

/-- LAUNCH_AGING (R63): an eligible launch has waited `us` µs more. -/
def execLaunchAging (lid us : Nat) (s : State) : Host.Outcome State Fault Refusal :=
  match s.launch lid with
  | none => .next s
  | some l => .next (if s.eligible l then s.modLaunch lid fun x => { x with waited := x.waited + us } else s)

/-! ### Requests for a pre-emption (R52, R53, R65, R67, R68) -/

/-- The reason that a pre-emption has after another request joins it (R195). -/
def joinReason (old : Option PreReason) (new : PreReason) : PreReason :=
  match old, new with
  | some .cancel, _ => .cancel
  | some .watchdog, .cancel => .cancel
  | some .watchdog, _ => .watchdog
  | some .resize, .priority => .resize
  | some .retire, .priority => .retire
  | _, r => r

/-- A pre-emption asked for: a running launch begins it; a launch whose arguments are being copied, or that is
being restored, begins it when that is done, but one that waits for a fault of its arguments goes back to the head of
its queue at once, the fault withdrawn (R58, R65). A resize and a retirement wait for it whatever it is joined to. DESIGN
CHOICE: a launch that goes back so keeps no cores and is placed anew (log 155). -/
def State.requestPreempt (s0 : State) (lid : Nat) (r : PreReason) : State :=
  let s := s0.modLaunch lid fun x =>
    { x with resized := x.resized || r == .resize, retired := x.retired || r == .retire }
  match s.launch lid with
  | none => s
  | some l =>
    let r1 := joinReason l.pre r
    match l.phase with
    | .running => s.modLaunch lid fun x => { x with pre := some r1, phase := .preempting }
    | .preempting => s.modLaunch lid fun x => { x with pre := some r1 }
    | .resuming => s.modLaunch lid fun x => { x with pre := some r1, again := true }
    | .placed =>
      if l.argFault.isSome then
        let s1 := (s.coresRunning lid).foldl (fun s c => s.modCore c Core.idle) (s.withdrawFaults l)
        s1.modLaunch lid fun x => { x with phase := .queued, back := true, cores := [], argFault := none, pre := none }
      else s.modLaunch lid fun x => { x with pre := some r1, again := true }
    | _ => s

/-! ### Placement (R64, R65) -/

/-- Whether a launch runs and no pre-emption of it is under way or asked for (R52): it is placed, runs, or is being
restored; one whose pre-emption for a resize or a retirement has failed runs until it is tried again (R203). -/
def Launch.goesOn (l : Launch) : Bool :=
  (l.phase == .running || l.phase == .placed || l.phase == .resuming) && !l.again &&
    (l.pre.isNone || l.pre == some .resize || l.pre == some .retire)

/-- Whether a launch can be a victim of a launch with effective priority `e` (R65, R203). -/
def State.victim (s : State) (p e : Nat) (x : Launch) : Bool :=
  x.part == p && x.goesOn &&
    decide (x.prio + (s.part p).pdelta ≤ e) && !has (s.part p).noPreempt x.lid

/-- The victims of a partition in the order they are chosen: lowest base priority, then latest placement. -/
def State.victims (s : State) (p e : Nat) : List Launch :=
  (s.launches.filter (s.victim p e)).insertionSort fun a b =>
    decide (a.prio < b.prio) || (a.prio == b.prio && decide (b.placedOrder ≤ a.placedOrder))

/-- The first prefix of the victims whose cores, with the free ones and those that are being pre-empted, let
R61 form the set. -/
def State.victimSet (s : State) (l : Launch) (vs : List Launch) : Option (List Launch) :=
  let going := (s.launches.filter fun x => x.part == l.part && (x.phase == .preempting || x.again)).flatMap fun x => x.cores
  (List.range (vs.length + 1)).findSome? fun n =>
    let freed := going ++ (vs.take n).flatMap fun x => x.cores
    if (s.setFor l fun c => s.busy c && !has freed c).isSome then some (vs.take n) else none

/-- PRIORITY_PREEMPT (R65). -/
def State.priorityPreempt (s : State) (l : Launch) : State :=
  if (s.part l.part).pdelta = 0 then s
  else
    match s.victimSet l (s.victims l.part (s.effPrio l)) with
    | none => s
    | some vs => vs.foldl (fun s v => s.requestPreempt v.lid .priority) s

/-- The core that a launch has now in the place of one that it had before its resumption (R66). -/
def Launch.coreNow (l : Launch) (c : Nat) : Nat :=
  match findIdx? (fun y => y == c) l.was 0 with
  | some (r, _) => l.cores.getD r c
  | none => c

/-- Who waits for an answer, on a set of cores that has moved. -/
def Asker.moved (f : Nat → Nat) : Asker → Asker
  | .op c iid slot first => .op (f c) iid slot first
  | .engine c who => .engine (f c) who
  | .commit c iid => .commit (f c) iid

/-- A pre-empted launch given a set (R66): rank r goes to the core of rank r in it, with the requests to other modules
that it has under way. LAUNCH_RESTORE then restores each core. -/
def State.resumeOn (s : State) (l : Launch) (cs : List Nat) : State :=
  let order := (s.launches.map fun x => x.placedOrder).foldl max 0 + 1
  let f := ({ l with was := l.cores, cores := cs } : Launch).coreNow
  let go := fun (q : Ask) => if q.acc.ofLaunch l.lid then { q with asker := q.asker.moved f } else q
  let s0 : State := { s with asks := s.asks.map go }
  let s1 := s0.modLaunch l.lid fun x =>
    { x with phase := .resuming, was := x.cores, cores := cs, restored := [], placedOrder := order }
  (List.zipIdx cs).foldl (fun s q =>
    s.modCore q.1 fun k =>
      { k.fresh (s.part l.part).supvec { lid := l.lid, part := l.part, rank := q.2, prio := l.prio } with
        gated := true, frozen := true }) s1

/-- One launch of a placement pass: placed, resumed, or passed over, its victims pre-empted (R64, R65). DESIGN
CHOICE: one whose record still stands in the spill area is not placed before it returns to its queue (log 154). -/
def State.tryPlace (s : State) (lid : Nat) : State :=
  match s.launch lid with
  | none => s
  | some l =>
    if !s.eligible l || l.phase == .spilled || s.behindAged l then s
    else
      match s.setFor l s.busy with
      | some cs => if l.phase == .preempted then s.resumeOn l cs else (s.placeOn l cs).settle l.part
      | none => s.priorityPreempt l

/-- PLACEMENT_PASS (R64). -/
def execPlacementPass (part : Nat) (s : State) : Host.Outcome State Fault Refusal :=
  .next ((s.passOrder part).foldl (fun s l => s.tryPlace l.lid) s)

/-- LAUNCH_RESUME (R66): a pre-empted launch resumes, where no launch before it in the order of R64 can be
placed. -/
def execLaunchResume (lid : Nat) (s : State) : Host.Outcome State Fault Refusal :=
  match s.launch lid with
  | none => .next s
  | some l =>
    match (s.passOrder l.part).find? fun x => !s.behindAged x && (s.setFor x s.busy).isSome with
    | none => .next s
    | some x => .next (if x.lid = lid ∧ l.phase = .preempted then s.tryPlace lid else s)

/-! ### The argument copy (R48 to R50) -/

/-- The launch header of a core (R48). -/
def launchHeader (l : Launch) (c rank : Nat) : List Byte :=
  toBytes 4 l.record.lnum ++ toBytes 2 rank ++ toBytes 2 l.cores.length ++ toBytes 2 c ++ toBytes 1 l.part ++
    toBytes 1 l.prio ++ toBytes 4 (8 * l.record.arglen) ++ toBytes 8 l.record.compladdr ++ List.replicate 40 0

/-- A schedule entry from its 32 bytes (R50). -/
def SchedEntry.parse (bs : List Byte) : SchedEntry where
  src := bits (leAt bs 0 8) 0 56
  dst := bits (leAt bs 8 8) 0 56
  srcpitch := leAt bs 16 4
  dstpitch := leAt bs 20 4
  stage := leAt bs 31 1
  boben := bit (leAt bs 24 8) 48
  bob := bits (leAt bs 24 8) 44 4
  rank := bits (leAt bs 24 8) 32 12
  rowbytes := leAt bs 26 2
  rows := leAt bs 24 2

/-- Whether an entry meets the checks of R50, after one of a given stage in a set of `n` cores. -/
def schedEntryOk (bs : List Byte) (prev n : Nat) : Bool :=
  let e := SchedEntry.parse bs
  decide (prev ≤ e.stage) && decide (1 ≤ e.rows) && e.rowbytes % 8 == 0 && decide (8 ≤ e.rowbytes) &&
    decide (e.rowbytes ≤ 65528) && (decide (e.rank < n) || e.rank == 0xFFF) && bits (leAt bs 0 8) 56 8 == 0 &&
    bits (leAt bs 8 8) 56 8 == 0 && bits (leAt bs 24 8) 49 7 == 0

/-- The entries of a schedule, or the index of the first that fails. -/
def parseSched (n : Nat) : Nat → Nat → Nat → List Byte → Except Nat (List SchedEntry)
  | 0, _, _, _ => .ok []
  | fuel + 1, i, prev, bs =>
    let x := bs.take 32
    if !schedEntryOk x prev n then .error i
    else (parseSched n fuel (i + 1) (SchedEntry.parse x).stage (bs.drop 32)).map fun r => SchedEntry.parse x :: r

/-- Bytes with poison laid in a scratchpad from an address, line by line. -/
def State.layBytes (s : State) (c : Nat) : Nat → Nat → List PByte → State
  | 0, _, _ => s
  | fuel + 1, a, bs =>
    if bs.isEmpty then s
    else
      let n := min bs.length (64 - a % 64)
      let x := bs.take n
      (s.performWrite none { loc := .scratch c a, bytes := x.map fun b => b.1, poison := x.any fun b => b.2 }).layBytes c fuel
        (a + n) (bs.drop n)

/-- The header, the arguments and the schedule given to one core, and its entry block named (R48, R50, R69). -/
def State.startCore (s : State) (l : Launch) (args : List PByte) (c rank : Nat) : State :=
  let bs := (launchHeader l c rank).map (fun b => (b, false)) ++ args
  let s1 := s.layBytes c (bs.length / 64 + 1) 0 bs
  s1.modCore c fun k =>
    let mine := l.schedule.filter fun e => e.rank == rank || e.rank == 0xFFF
    let k1 := { k with shuttle := mine.map fun e =>
      { entry := e, st := .waiting, row := 0, err := false, poison := false, withheld := none } }
    (k1.nameInstance { colour := 1, fields := [] } l.record.entry false).1

/-- A read of the arguments or of the schedule that faults (R49). -/
def State.argFail (s : State) (l : Launch) (owner : FaultOwner) (detail : Nat) (e : PavFault) : State :=
  if e.translation then
    let r := s.pavFault l e owner
    r.1.modLaunch l.lid fun x => { x with argFault := some r.2 }
  else (s.pavProtection l e).endLaunch l.lid 5 detail

/-- ARGUMENT_COPY (R48 to R50): the argument buffer and the copy schedule are read and checked, and every core of
the set starts. -/
def execArgumentCopy (lid : Nat) (s : State) : Host.Outcome State Fault Refusal :=
  match s.launch lid with
  | none => .next s
  | some l =>
    if l.phase != .placed || l.argFault.isSome then .next s
    else
      match s.pavRead l.part l.record.argptr (8 * l.record.arglen) with
      | .error e => .next (s.argFail l (.args lid) 2 e)
      | .ok args =>
        match s.pavRead l.part l.record.schedptr (32 * l.record.schedlen) with
        | .error e => .next (s.argFail l (.sched lid) 3 e)
        | .ok sc =>
          match parseSched l.cores.length l.record.schedlen 0 0 (sc.map fun b => b.1) with
          | .error i => .next (s.endLaunch lid 1 (0x8000 + i))
          | .ok es =>
            let l1 := { l with schedule := es }
            let s1 := (List.zipIdx l.cores).foldl (fun s q => s.startCore l1 args q.1 q.2) s
            .next (s1.modLaunch lid fun x =>
              { x with schedule := es, again := false, phase := if x.again then .preempting else .running })

/-! ### Cancels and the watchdog (R52, R53) -/

/-- Whether a core of a launch has a save that waits for an answer (R202, R204). -/
def State.saveFaulted (s : State) (l : Launch) : Bool :=
  l.cores.any fun c => match (s.core c).saving with
    | some x => x.fault.isSome
    | none => false

/-- Whether every core of a launch has come to rest for a cancel (R204). -/
def State.allStopped (s : State) (l : Launch) : Bool := l.cores.all fun c => (s.core c).saving.isSome

/-- The status that a launch stopped for a cancel or an unanswered watchdog completes with. -/
def PreReason.status : PreReason → Option (Nat × Nat)
  | .cancel => some (3, 1)
  | .watchdog => some (5, 4)
  | _ => none

/-- A launch that is stopped without an image ends once every core has come to rest, or meets a faulted save
(R53, R204). -/
def State.stopIfDrained (s : State) (lid : Nat) : State :=
  match s.launch lid with
  | none => s
  | some l =>
    match l.pre.bind PreReason.status with
    | some (st, d) =>
      if l.phase == .preempting && (s.allStopped l || s.saveFaulted l) then (s.withdrawFaults l).endLaunch lid st d else s
    | none => s

/-- One launch stopped by a cancel or the device (R52, R53, R204): before placement it completes; a pre-empted
one too, its image discarded; a running one is pre-empted. DESIGN CHOICE: a launch that a pre-emption has sent back from
an argument fault has no image and completes like one that was not placed, with DETAIL 0 (log 153). -/
def State.stopLaunch (s : State) (r : PreReason) (lid : Nat) : State :=
  match s.launch lid with
  | none => s
  | some l =>
    match l.phase, r.status with
    | .queued, _ => s.endLaunch lid 3 0
    | .spilled, _ => s.endLaunch lid 3 0
    | .preempted, some (st, d) => s.endLaunch lid st d
    | .placed, some (st, d) => s.endLaunch lid st d
    | _, _ => (s.requestPreempt lid r).stopIfDrained lid

/-- LAUNCH_CANCEL (R52): every incomplete launch of the partition with the number is cancelled. -/
def State.cancel (s : State) (p lnum : Nat) : State :=
  (s.launches.filter fun l => l.part == p && l.record.lnum == lnum).foldl (fun s l => s.stopLaunch .cancel l.lid) s

/-- LAUNCH_CANCEL. -/
def execLaunchCancel (part lnum : Nat) (s : State) : Host.Outcome State Fault Refusal := .next (s.cancel part (lnum % 2 ^ 32))

/-- Whether a launch is on its cores. -/
def Launch.onCores (l : Launch) : Bool := l.phase == .placed || l.phase == .running || l.phase == .preempting

/-- LAUNCH_WATCHDOG_EXPIRY (R53): a type 0x0A record, and a watchdog trap on every core of the set. -/
def execLaunchWatchdogExpiry (lid : Nat) (s : State) : Host.Outcome State Fault Refusal :=
  match s.launch lid with
  | none => .next s
  | some l =>
    if l.record.timeout = 0 ∨ l.wdFired = true ∨ l.onCores = false then .next s
    else
      let s1 := s.postRec { FRec.blank l.part l.part 0x0A with lnum := l.record.lnum }
      let s2 := l.cores.foldl (fun s c => s.raise c (Trap.untied 0x12 0 l.record.lnum 0 .watchdog)) s1
      .next (s2.modLaunch lid fun x => { x with wdFired := true, wdAnswered := [] })

/-- WATCHDOG_TRAP_UNANSWERED (R53): a core has not committed an ERET for its watchdog trap in time, and the device
ends the launch. -/
def execWatchdogTrapUnanswered (lid : Nat) (s : State) : Host.Outcome State Fault Refusal :=
  match s.launch lid with
  | none => .next s
  | some l =>
    if l.wdFired && l.onCores && !((List.range l.cores.length).all fun r => has l.wdAnswered r) then
      .next (s.stopLaunch .watchdog lid)
    else .next s

/-! ### Partitions (R39, R40, R67) -/

/-- A GRANULES or EN write refused: ERR is set (R39). -/
def State.refusePart (s : State) (p : Nat) : State := s.modPart p fun x => { x with err := true }

/-- The measurement of a partition change (R30, R39). -/
def State.measurePart (s : State) (p : Nat) : State :=
  let x := s.part p
  s.extend 2 (toBytes 32 (Config.partitionDigest [p, x.granules, b2n x.en]).toNat)

/-- PARTITION_ENABLE (R39): refused while an ingress slot of the partition is occupied; the counts are cleared, and the
change is measured. -/
def State.enable (s : State) (p : Nat) : State :=
  if (s.part p).en then s
  else if s.ingress.any fun x => x.part == p then s.refusePart p
  else (s.modPart p fun x => { x with en := true, accepted := [] }).measurePart p

/-- PARTITION_DISABLE (R39): a change of EN is measured. -/
def State.disable (s : State) (p : Nat) : State :=
  if (s.part p).en then (s.modPart p fun x => { x with en := false }).measurePart p else s

/-- PARTITION_ENABLE. -/
def execPartitionEnable (part : Nat) (s : State) : Host.Outcome State Fault Refusal := .next (s.enable part)

/-- PARTITION_DISABLE. -/
def execPartitionDisable (part : Nat) (s : State) : Host.Outcome State Fault Refusal := .next (s.disable part)

/-- Granules that no partition owns, in the order a growth takes them (R67). -/
def State.freeGranules (s : State) : List Nat :=
  let free := (List.range 128).filter fun g => !(s.owner.any fun x => x.1 == g)
  (free.filter fun g => !s.degraded g) ++ free.filter fun g => s.degraded g

/-- A partition's granules in the order a shrink releases them (R67). -/
def State.shrinkOrder (s : State) (p : Nat) : List Nat :=
  let mine := ((List.range 128).filter fun g => s.owns p g).reverse
  (mine.filter fun g => s.degraded g) ++ mine.filter fun g => !s.degraded g

/-- Every RIGID launch of a partition that waits and whose shape no longer fits completes NOFIT (R47). -/
def State.noFits (s : State) (p : Nat) : State :=
  (s.launches.filter fun l => l.part == p && l.record.rigid && l.waiting && s.exceeds l).foldl
    (fun s l => s.endLaunch l.lid 2 0) s

/-- An accepted growth (R67). -/
def State.grow (s : State) (p n : Nat) : State :=
  let new := s.freeGranules.take (n - (s.part p).granules)
  (({ s with owner := s.owner ++ new.map fun g => (g, p) }).modPart p fun x => { x with granules := n }).measurePart p

/-- An accepted shrink (R67): every launch on a released granule is pre-empted. -/
def State.shrink (s : State) (p n : Nat) : State :=
  let rel := (s.shrinkOrder p).take ((s.part p).granules - n)
  let hit := s.launches.filter fun l => l.part == p && (s.coresRunning l.lid).any fun c => has rel (granuleOf c)
  let s1 := (s.modPart p fun x => { x with granules := n, busy := true, releasing := rel }).measurePart p
  ((hit.foldl (fun s l => s.requestPreempt l.lid .resize) s1).noFits p).settle p

/-- A write of GRANULES (R39, R67). -/
def State.resize (s : State) (p n : Nat) : State :=
  let cur := (s.part p).granules
  if n = cur then s
  else if (s.part p).busy ∨ s.freeGranules.length < n - cur then s.refusePart p
  else if cur < n then s.grow p n
  else s.shrink p n

/-- PARTITION_RESIZE (R67). -/
def execPartitionResize (part granules : Nat) (s : State) : Host.Outcome State Fault Refusal :=
  .next (s.resize part (granules % 256))

/-! ### Retiring a core (R68) -/

/-- A core retired (R68); a RIGID launch that waits and no longer fits completes NOFIT. `usable` tells whether the core's own units can still write an image; where they cannot,
the launch ends with ERROR, DETAIL 0xFFFE (R203). -/
def State.retireCore (s : State) (c : Nat) (usable : Bool) : State :=
  if has s.retiring c || s.isRetired c then s
  else
    let s1 := { s with retiring := s.retiring ++ [c] }
    match (s.core c).placed with
    | none => ((s1.settle (s.corePart c)).noFits (s.corePart c)).settle (s.corePart c)
    | some p =>
      if usable then (((s1.requestPreempt p.lid .retire).settle p.part).noFits p.part).settle p.part
      else (s1.modLaunch p.lid fun x => { x with retired := true }).endLaunch p.lid 4 0xFFFE

/-- CORE_RETIRE (R68): by DR_CORERET, which is ignored while a retirement is under way, or by the device, which reports
the lasting fault. -/
def execCoreRetire (core : Nat) (device usable : Bool) (s : State) : Host.Outcome State Fault Refusal :=
  let p := s.corePart core
  let q := if (s.core core).placed.isSome then p else 16
  let s1 := if device then s.postRec { FRec.blank q p 6 with lnum := s.coreLnum core, core := core } else s
  .next (if core < 1024 ∧ (device = true ∨ s.retiring = []) then s1.retireCore core (usable || !device) else s1)

end Sys2Proof.Machine
end

