-- ==== Sys2Proof/Machine/Answers.lean ====
section
/-! DEFINITION. Page-fault service (R56 to R58, R98, R125, R130): WITHHELD_FAULT_RECORD_POST,
FAULT_RESPONSE_RETRY and FAULT_RESPONSE_FAIL. -/

namespace Sys2Proof.Machine

open Sys2Proof

/-- WITHHELD_FAULT_RECORD_POST (R56): the oldest withheld record of a ring is posted once the ring is enabled
and has room. -/
def execWithheldFaultRecordPost (queue : Nat) (s : State) : Host.Outcome State Fault Refusal :=
  let q := s.fq queue
  match s.withheld.find? fun f => f.queue == queue with
  | none => .next s
  | some f =>
    if !q.en || q.isFull then .next s
    else .next (({ s with withheld := delFirst (fun x => x.queue == queue) s.withheld }).postRec f)

/-- The outstanding fault that an answer names (R57): one of the partition, and not of a save or restore. -/
def State.answered (s : State) (p id : Nat) : Option Outstanding :=
  s.outstanding.find? fun o => o.part == p && o.id == id && (match o.owner with
    | .save _ _ => false
    | .restore _ _ => false
    | _ => true)

/-- The waiting request that a fault holds. -/
def Core.faultHeld (k : Core) (id : Nat) : Option (Nat × Held) := k.heldWhere fun h => h.wait == .fault id

/-- FAULT_RESPONSE_RETRY's effect: what the fault withheld translates again. -/
def State.retryFault (s : State) (o : Outstanding) : State :=
  match o.owner with
  | .held c _ =>
    match (s.core c).faultHeld o.id with
    | some (n, h) => s.modCore c fun k => { k with held := setAt k.held n { h with wait := .flight } }
    | none => s
  | .node c i => s.modCore c fun k => k.modNode i fun x =>
      if x.state = 3 ∧ x.fault = some o.id then { x with state := 1, fault := none } else x
  | .shuttle c e => s.modCore c fun k => k.modEntry e fun x => { x with withheld := none }
  | .reel c => s.modCore c fun k =>
      { k with reel := modFirst (fun m => m.withheld == some o.id) (fun m => { m with withheld := none }) k.reel }
  | .frame c iid => s.modCore c fun k => k.modInst iid fun i => { i with frameBad := false }
  | .args lid => s.modLaunch lid fun l => { l with argFault := none }
  | .sched lid => s.modLaunch lid fun l => { l with argFault := none }
  | .waitWord lid => s.modLaunch lid fun l => { l with waitFault := none }
  | .save _ _ => s
  | .restore _ _ => s

/-- FAULT_RESPONSE_RETRY (R57): an answer that names no outstanding fault is ignored. -/
def execFaultResponseRetry (part id : Nat) (s : State) : Host.Outcome State Fault Refusal :=
  match s.answered part id with
  | none => .next s
  | some o => .next ((s.withdrawFault id).retryFault o)

/-- The trap of a held request whose fault is answered with fail: it names the first faulting lane, and its AUX is what
COUNT0 and COUNT1 of the record were (R55, R189, R190). -/
def State.heldTrap (s : State) (c : Nat) (h : Held) (va lane : Nat) : State :=
  match s.opIn c h.firing with
  | none => s
  | some o =>
    let r := s.opRec o 1 va lane false
    s.trapOp o 6 va 0x13 (r.count0 + r.count1 * 2 ^ 32) lane

/-- FAULT_RESPONSE_FAIL's effect: a translation-fault trap to the supervisor colour, or the end of the entry, the
page or the launch that waited. -/
def State.failFault (s : State) (o : Outstanding) : State :=
  match o.owner with
  | .held c lane =>
    match (s.core c).faultHeld o.id with
    | some (n, h) => (s.takeHeld c n).heldTrap c h o.va lane
    | none => s
  | .node c i =>
    let ct := ((s.core c).node i).counts
    (s.raise c (Trap.untied 6 o.va i (ct.1 + ct.2 * 2 ^ 32) (.node i))).modCore c fun k => k.modNode i fun x =>
      if x.fault = some o.id then { x with fault := some trapHeld } else x
  | .shuttle c e =>
    (s.raise c (Trap.untied 6 o.va 0x11 0 .untied)).modCore c fun k => k.modEntry e fun x => x.finished true
  | .reel c =>
    match (s.core c).reel.find? fun m => m.withheld == some o.id with
    | some m => (s.raise c (Trap.untied 6 o.va 0x11 0 .untied)).reelError c m
    | none => s
  | .frame c iid =>
    match (s.core c).inst? iid with
    | some i => s.raiseBeside c i (Trap.ofInst (s.core c) i 6 o.va 0x12 0 .op)
    | none => s
  | .args lid => (s.modLaunch lid fun l => { l with argFault := none }).endLaunch lid 5 2
  | .sched lid => (s.modLaunch lid fun l => { l with argFault := none }).endLaunch lid 5 3
  | .waitWord lid => (s.modLaunch lid fun l => { l with waitFault := none }).endLaunch lid 5 5
  | .save _ _ => s
  | .restore _ _ => s

/-- FAULT_RESPONSE_FAIL (R57). -/
def execFaultResponseFail (part id : Nat) (s : State) : Host.Outcome State Fault Refusal :=
  match s.answered part id with
  | none => .next s
  | some o => .next ((s.withdrawFault id).failFault o)

end Sys2Proof.Machine
end

