-- ==== Sys2Proof/Machine/Clock.lean ====
section
/-! DEFINITION. Clock stretching and the power cap (R15 to R18): the device steps of the supply-sag
sensors, of the package power and of the hard threshold. -/

namespace Sys2Proof.Machine

open Sys2Proof

/-- A die after one step to the next factor (R15); 4× is the last. -/
def Die.up (d : Die) : Die := { d with factor := min 5 (d.factor + 1) }

/-- A die after one step back. -/
def Die.down (d : Die) : Die := { d with factor := d.factor - 1 }

/-- Die `d` of the package. -/
def Power.die (p : Power) (d : Nat) : Die := p.dies.getD d Die.reset

/-- The package after a die has taken a new clock: an episode is counted when a die leaves 1× (R18). -/
def Power.setDie (p : Power) (d : Nat) (x : Die) : Power :=
  let leaves := (p.die d).factor == 0 && x.factor != 0
  { p with dies := setAt p.dies d x, episodes := if leaves then satAdd p.episodes 1 0xFFFF else p.episodes }

/-- SUPPLY_SAG_TRIP (R15): a sensor of a die trips, and the die's clock is stretched to the next factor. -/
def execSupplySagTrip (die : Nat) (s : State) : Host.Outcome State Fault Refusal :=
  if die < 8 then
    let d := s.power.die die
    .next { s with power := s.power.setDie die { (if d.stopped then d else d.up) with tripped := true } }
  else .next s

/-- STRETCH_STEP_UP (R15): a sensor, or the power cap, has stayed tripped for 1 µs. -/
def execStretchStepUp (die : Nat) (s : State) : Host.Outcome State Fault Refusal :=
  let d := s.power.die die
  if die < 8 ∧ (d.tripped || s.power.overCap) && !d.stopped then
    .next { s with power := s.power.setDie die d.up }
  else .next s

/-- STRETCH_STEP_DOWN (R15): no sensor has been tripped for 1 µs and power is within the cap. -/
def execStretchStepDown (die : Nat) (s : State) : Host.Outcome State Fault Refusal :=
  let d := s.power.die die
  if die < 8 ∧ d.stopped = false then
    .next { s with power := { s.power with overCap := false }.setDie die { d.down with tripped := false } }
  else .next s

/-- PACKAGE_POWER_OVER_CAP (R17): every die is stretched as for a tripped sensor. -/
def execPackagePowerOverCap (s : State) : Host.Outcome State Fault Refusal :=
  let p := { s.power with overCap := true }
  .next { s with power := (List.range 8).foldl (fun p i => if (p.die i).stopped then p else p.setDie i (p.die i).up) p }

/-- HARD_SAG_STOP (R16): a die that has been at 4× for 10 µs with the rail below its hard threshold stops;
HARDSAG is set and a power fault that names the die is posted. -/
def execHardSagStop (die : Nat) (s : State) : Host.Outcome State Fault Refusal :=
  let d := s.power.die die
  if die < 8 ∧ d.factor = 5 ∧ d.stopped = false then
    let s1 := { s with power := { s.power with hardSag := true }.setDie die { d with stopped := true } }
    .next (s1.postRec { FRec.blank 16 0 5 with detail := (Config.powerDetail die).toNat })
  else .next s

/-- HARD_SAG_RESTART (R16): the rail has been above its threshold for 10 µs; the clock restarts at 4×. -/
def execHardSagRestart (die : Nat) (s : State) : Host.Outcome State Fault Refusal :=
  let d := s.power.die die
  if die < 8 ∧ d.stopped = true then .next { s with power := s.power.setDie die { d with stopped := false } }
  else .next s

/-- The cap that a write of DR_PWRCAP takes (R17). -/
def capTaken (v : Nat) : Nat := if 15000 < v % 65536 then 15000 else if v % 65536 < 3000 then 3000 else v % 65536

/-- POWER_CAP_WRITE (R17). -/
def execPowerCapWrite (value : Word) (s : State) : Host.Outcome State Fault Refusal :=
  .next { s with power := { s.power with capw := capTaken value.toNat } }

/-- DR_SAGSTAT as it reads (R18). -/
def Power.sagstat (p : Power) : Nat :=
  let n := ((List.range 8).map fun i => if (p.die i).factor = 0 then 0 else 2 ^ i).foldl (fun a b => a + b) 0
  p.episodes * 65536 + n * 256 + b2n p.hardSag * 8 + (p.dies.map fun d => d.factor).foldl max 0

/-- The die of a core (R9). -/
def coreDie (c : Nat) : Nat := c / 128

/-- Whether the arithmetic clock of a core's die is stopped (R16). -/
def State.clockStopped (s : State) (c : Nat) : Bool := (s.power.die (coreDie c)).stopped

end Sys2Proof.Machine
end

