-- ==== Sys2Proof/Machine/Ecc.lean ====
section
/-! DEFINITION. Errors in configuration storage (R108, R208): CONFIG_ECC_ERROR and CONFIG_RELOAD. -/

namespace Sys2Proof.Machine

open Sys2Proof

/-- The waiting lanes of a position moved to the frame; poisoned where they could not be read. -/
def frameLanes (bad : Bool) (ws : List Waiting) : List Waiting :=
  ws.map fun w =>
    if w.spilled then w else { w with spilled := true, lane := { w.lane with poison := w.lane.poison || bad } }

/-- What an instance holds at an element copied to its frame (R108 step 2). `unread` are the instances and slots
whose entries cannot be read correctly. -/
def Instance.copyElem (i : Instance) (m : Mapping) (elem : Nat) (unread : List (Nat × Nat)) : Instance :=
  { i with ops := i.ops.map fun o =>
      if m.elem o.slot = elem then
        let f := frameLanes (unread.any fun u => u == (i.iid, o.slot))
        { o with left := f o.left, right := f o.right, pred := f o.pred, scale := f o.scale }
      else o }

/-- An element's matching store copied to the frames (R108 step 2), of whatever blocks its entries are. -/
def Core.copyElems (k : Core) (elem : Nat) (unread : List (Nat × Nat)) : Core :=
  { k with
    instances := k.instances.map (fun i => match k.mapping? i.block with
      | some m => i.copyElem m elem unread
      | none => i),
    regs := { k.regs with spill := satAdd k.regs.spill (k.entriesAt elem) 0xFFFF } }

/-- The first uncorrectable error of an element: the mapping freezes and the element's matching store goes
to the frames (R108 steps 1 and 2). -/
def State.freezeMapping (s : State) (c block elem : Nat) (unread : List (Nat × Nat)) : State :=
  s.modCore c fun k =>
    (k.modMapping block fun m => { m with frozen := true, eccElems := addMem m.eccElems elem }).copyElems elem unread

/-- Whether a mapping's region contains an element, by its number 8·ey + ex. -/
def Mapping.holdsElem (m : Mapping) (elem : Nat) : Bool := m.region.retired (2 ^ elem)

/-- Whether an uncorrectable error has struck an element whose mapping has not resumed (R108). -/
def Core.struck (k : Core) (elem : Nat) : Bool := k.mappings.any fun m => m.frozen && has m.eccElems elem

/-- ELEMENT_RETIRE (R108, R106): the element's bit in CR_ELRET is set, and every block whose region contains
it is unmapped. One with instances under way is kept aside, to be mapped anew. -/
def Core.retireElem (k : Core) (elem : Nat) : Core :=
  let live := fun (m : Mapping) => k.instances.any fun i => i.block == m.block && i.status != .pending
  { k with
    regs := { k.regs with elret := setBit k.regs.elret elem },
    mappings := (k.mappings.filter fun m => m.off || !m.holdsElem elem || live m).map fun m =>
      if m.holdsElem elem then { m with frozen := true, off := true } else m }

/-- CONFIG_ECC_ERROR (R108): an error in the configuration of an element, corrected in place and counted, or
uncorrectable. -/
def execConfigEccError (core block elem : Nat) (corrected : Bool) (unread : List (Nat × Nat)) (s : State) :
    Host.Outcome State Fault Refusal :=
  let k := s.core core
  match k.mapping? block with
  | none => .next s
  | some m =>
    if !m.holdsElem elem then .next s
    else if corrected then
      .next (s.setCore core { k with regs := { k.regs with cfgce := satAdd k.regs.cfgce 1 0xFF } })
    else if k.struck elem then .next (s.setCore core (k.retireElem elem))
    else .next (s.freezeMapping core block elem unread)

/-- A trap at each of some instances of a block, which RESUME maps again (R108, R208). -/
def State.trapInsts (s : State) (c block : Nat) (of : Instance → Bool) (cause addr detail : Nat) : State :=
  ((s.core c).instances.filter fun i => i.block == block && of i).foldl
    (fun s i => s.raiseBeside c i (Trap.ofInst (s.core c) i cause addr detail 0 .mapping)) s

/-- The same of a block whose mapping stays frozen until then. -/
def State.trapBlock (s : State) (c : Nat) (m : Mapping) (of : Instance → Bool) (cause addr detail : Nat) : State :=
  (s.modCore c fun k => k.modMapping m.block fun x => { x with frozen := true, differs := true }).trapInsts c m.block of
    cause addr detail

/-- The trap of a block that could not be fetched again (R112, R113). -/
def State.fetchFail (s : State) (c : Nat) (m : Mapping) (of : Instance → Bool) : XFault → Nat → State
  | .translation, va => (s.noteFar c va).trapBlock c m of 6 va 0x12
  | .protection, va =>
    ((s.notePoisoned c va).postRec { s.coreRec c 2 with node := 0x12, address := va }).trapBlock c m of 7 va 0x12

/-- The instances that R108 calls admitted: those that hold a frame, the parked ones too. -/
def Instance.hasFrame (i : Instance) : Bool := i.status == .admitted || i.frame.isSome

/-- The bytes of a block. -/
def Mapping.byteLen (m : Mapping) : Nat := 8 + 4 * m.nword + 2 * m.switchWords.length

/-- A frozen block whose signature matches: it resumes where it lies, or around retired elements, or it waits
for room, or it is rejected with a route fault (R106, R108 step 4). -/
def State.resumeMapping (s : State) (c : Nat) (m : Mapping) : State :=
  let k := s.core c
  let regs := if m.eccElems.isEmpty then k.regs else { k.regs with reload := satAdd k.regs.reload 1 0xFF }
  if !m.off && !m.region.retired k.regs.elret then
    s.setCore c { k.modMapping m.block (fun x => { x with frozen := false, eccElems := [] }) with regs := regs }
  else if !k.healthy m.size then s.trapBlock c m Instance.hasFrame 3 0 0x80000000
  else
    let k1 := { k with mappings := k.mappings.filter fun x => x.block != m.block }
    let r := Core.makeRoom (k1.mappings.length + 1) k1 m.size m.nslot
    match r.2 with
    | none => s.setCore c { r.1 with mappings := r.1.mappings ++ [{ m with off := true }] }
    | some p =>
      match k.routesFor { m with x0 := p.2.1, y0 := p.2.2 } with
      | .error (.route w d) => s.trapBlock c m Instance.hasFrame 3 w d
      | .error _ => s
      | .ok rt =>
        let m1 := { m with b := p.1, x0 := p.2.1, y0 := p.2.2, frozen := false, eccElems := [], off := false, routes := rt }
        s.setCore c ({ r.1 with mappings := r.1.mappings ++ [m1], regs := regs }.reseat m1)

/-- CONFIG_RELOAD (R108): a frozen block is fetched again and its signature recomputed. Where it matches, the
cells are rewritten and the block resumes; where it differs, every admitted instance has a
configuration-region error and a type 0x0B record is posted. -/
def execConfigReload (core block : Nat) (s : State) : Host.Outcome State Fault Refusal :=
  match (s.core core).mapping? block with
  | none => .next s
  | some m =>
    if !m.frozen || m.differs then .next s
    else
      match s.fetchBytes core m.block m.byteLen with
      | .error (.access e va) => .next (s.fetchFail core m Instance.hasFrame e va)
      | .error _ => .next s
      | .ok bs =>
        if sm3First64 bs = m.sig then .next (s.resumeMapping core m)
        else
          .next ((s.postRec { s.coreRec core 0x0B with address := m.block }).trapBlock core m
            Instance.hasFrame 0x0D m.block (Config.signatureDetail m.sig (sm3First64 bs)).toNat)

end Sys2Proof.Machine
end

