-- ==== Sys2Proof/Machine/Elem.lean ====
section
/-! DEFINITION. Element instructions (R272 to R298): integer and logic, floating point, vector
runs. -/

namespace Sys2Proof.Machine

open Sys2Proof

/-- CONST (R280): the extension word in every lane of the start token. -/
def execConst (h : OpWord) (value : BitVec 32) (s : State) : Host.Outcome State Fault Refusal :=
  elem1 h (fun _ => value) s

/-- MOV (R280): the left run unchanged. -/
def execMov (h : OpWord) (s : State) : Host.Outcome State Fault Refusal := elem1 h (fun a => a) s

/-- ADD (R276). -/
def execAdd (h : OpWord) (ty : ITy) (s : State) : Host.Outcome State Fault Refusal :=
  elem2 h (laneAdd ty) s

/-- SUB (R276). -/
def execSub (h : OpWord) (ty : ITy) (s : State) : Host.Outcome State Fault Refusal :=
  elem2 h (laneSub ty) s

/-- MUL (R276). -/
def execMul (h : OpWord) (ty : ITy) (s : State) : Host.Outcome State Fault Refusal :=
  elem2 h (laneMul ty) s

/-- MULH (R276). -/
def execMulh (h : OpWord) (ty : ITy) (s : State) : Host.Outcome State Fault Refusal :=
  elem2 h (laneMulh ty) s

/-- SHL (R276). -/
def execShl (h : OpWord) (ty : ITy) (s : State) : Host.Outcome State Fault Refusal :=
  elem2 h (laneShl ty) s

/-- SHR (R276). -/
def execShr (h : OpWord) (ty : ITy) (s : State) : Host.Outcome State Fault Refusal :=
  elem2 h (laneShr ty) s

/-- SRA (R276). -/
def execSra (h : OpWord) (ty : ITy) (s : State) : Host.Outcome State Fault Refusal :=
  elem2 h (laneSra ty) s

/-- MIN (R276). -/
def execMin (h : OpWord) (ty : ITy) (s : State) : Host.Outcome State Fault Refusal :=
  elem2 h (laneMinMax false ty) s

/-- MAX (R276). -/
def execMax (h : OpWord) (ty : ITy) (s : State) : Host.Outcome State Fault Refusal :=
  elem2 h (laneMinMax true ty) s

/-- ADDSAT (R276). -/
def execAddsat (h : OpWord) (ty : ITy) (s : State) : Host.Outcome State Fault Refusal :=
  elem2 h (laneAddsat ty) s

/-- SUBSAT (R276). -/
def execSubsat (h : OpWord) (ty : ITy) (s : State) : Host.Outcome State Fault Refusal :=
  elem2 h (laneSubsat ty) s

/-- PACKN (R284). -/
def execPackn (h : OpWord) (ty : ITy) (s : State) : Host.Outcome State Fault Refusal :=
  elem2 h (lanePackn ty) s

/-- DOTP (R286). -/
def execDotp (h : OpWord) (ty : ITy) (s : State) : Host.Outcome State Fault Refusal :=
  elem2 h (laneDotp ty) s

/-- MAD (R277), with its third operand at the partner slot. -/
def execMad (h : OpWord) (ty : ITy) (s : State) : Host.Outcome State Fault Refusal :=
  elem3 h (laneMad ty) s

/-- DIV (R278). -/
def execDiv (h : OpWord) (ty : I32Ty) (s : State) : Host.Outcome State Fault Refusal :=
  elem2 h (laneDiv ty) s

/-- REM (R278). -/
def execRem (h : OpWord) (ty : I32Ty) (s : State) : Host.Outcome State Fault Refusal :=
  elem2 h (laneRem ty) s

/-- AND (R279). -/
def execAnd (h : OpWord) (s : State) : Host.Outcome State Fault Refusal :=
  elem2 h (fun a b => a &&& b) s

/-- OR (R279). -/
def execOr (h : OpWord) (s : State) : Host.Outcome State Fault Refusal :=
  elem2 h (fun a b => a ||| b) s

/-- XOR (R279). -/
def execXor (h : OpWord) (s : State) : Host.Outcome State Fault Refusal :=
  elem2 h (fun a b => a ^^^ b) s

/-- ANDN (R279). -/
def execAndn (h : OpWord) (s : State) : Host.Outcome State Fault Refusal :=
  elem2 h (fun a b => a &&& ~~~b) s

/-- ROTL (R279). -/
def execRotl (h : OpWord) (s : State) : Host.Outcome State Fault Refusal :=
  elem2 h (laneRotl) s

/-- FRCPS (R294). -/
def execFrcps (h : OpWord) (s : State) : Host.Outcome State Fault Refusal :=
  elem2 h (laneFrcps) s

/-- FRSQS (R294). -/
def execFrsqs (h : OpWord) (s : State) : Host.Outcome State Fault Refusal :=
  elem2 h (laneFrsqs) s

/-- CLZ (R279). -/
def execClz (h : OpWord) (s : State) : Host.Outcome State Fault Refusal :=
  elem1 h laneClz s

/-- POPC (R279). -/
def execPopc (h : OpWord) (s : State) : Host.Outcome State Fault Refusal :=
  elem1 h lanePopc s

/-- ABS (R276). -/
def execAbs (h : OpWord) (ty : ITy) (s : State) : Host.Outcome State Fault Refusal :=
  elem1 h (laneAbs ty) s

/-- NEG (R276). -/
def execNeg (h : OpWord) (ty : ITy) (s : State) : Host.Outcome State Fault Refusal :=
  elem1 h (laneNeg ty) s

/-- CMP (R281). -/
def execCmp (h : OpWord) (ty : CondTy) (s : State) : Host.Outcome State Fault Refusal :=
  elemPred h (cmpHolds ty) s

/-- TST (R281). -/
def execTst (h : OpWord) (s : State) : Host.Outcome State Fault Refusal :=
  elemPred h tstHolds s

/-- SEL (R282): the lanes whose predicate is true; T0 takes the left ones, T1 the right ones. Each
result counts every operand lane's poison (R193). -/
def execSel (h : OpWord) (s : State) : Host.Outcome State Fault Refusal :=
  runOp s fun o => s.finish o h true (o.f.run (lanes2 (fun a _ => a) o.f.left o.f.right))
    (o.f.run (lanes2 (fun _ b => b) o.f.left o.f.right))

/-- EXTR (R283). -/
def execExtr (h : OpWord) (sgn : BitVec 1) (pos len : BitVec 5) (s : State) : Host.Outcome State Fault Refusal :=
  elem1 h (laneExtr sgn pos.toNat (len.toNat + 1)) s

/-- INS (R283). -/
def execIns (h : OpWord) (pos len : BitVec 5) (s : State) : Host.Outcome State Fault Refusal :=
  elem2 h (laneIns pos.toNat (len.toNat + 1)) s

/-- LEA (R283). -/
def execLea (h : OpWord) (sh : BitVec 3) (s : State) : Host.Outcome State Fault Refusal :=
  elem2 h (laneLea sh.toNat) s

/-- UNPACKN (R284). -/
def execUnpackn (h : OpWord) (ty : ITy) (half : BitVec 1) (s : State) : Host.Outcome State Fault Refusal :=
  elem1 h (laneUnpackn ty half.toNat) s

/-- UNT5 (R285): T0 the trit codes, T1 true where the byte is illegal. The strict form traps at the
first illegal lane (ADDR its value, DETAIL 0x31) and sends nothing. -/
def execUnt5 (h : OpWord) (ty : UntTy) (s : State) : Host.Outcome State Fault Refusal :=
  runOp s fun o =>
    match ty, findIdx? (fun l => unt5Illegal l.val) o.f.left 0 with
    | .strict, some (j, l) => s.trapOp o 2 l.val.toNat 0x31 0 (o.f.first + j)
    | _, _ => s.finish o h true
        (o.f.run (lanes1 (fun a => if unt5Illegal a then 0 else laneUnt5 a) o.f.left))
        (o.f.run (lanes1 (fun a => predWord (unt5Illegal a)) o.f.left))

/-- ACCT (R286). -/
def execAcct (h : OpWord) (ty : I8Ty) (s : State) : Host.Outcome State Fault Refusal :=
  elem2 h (laneAcct ty) s

/-- FADD (R287), rounded by RNE. -/
def execFadd (h : OpWord) (ty : FTy) (s : State) : Host.Outcome State Fault Refusal :=
  elem2 h (laneFadd ty .rne) s

/-- FADD (R287), rounded by the mode of its extension word. -/
def execFaddRounding (h : OpWord) (ty : FTy) (rm : Rm) (s : State) : Host.Outcome State Fault Refusal :=
  elem2 h (laneFadd ty rm) s

/-- FSUB (R287), rounded by RNE. -/
def execFsub (h : OpWord) (ty : FTy) (s : State) : Host.Outcome State Fault Refusal :=
  elem2 h (laneFsub ty .rne) s

/-- FSUB (R287), rounded by the mode of its extension word. -/
def execFsubRounding (h : OpWord) (ty : FTy) (rm : Rm) (s : State) : Host.Outcome State Fault Refusal :=
  elem2 h (laneFsub ty rm) s

/-- FMUL (R287), rounded by RNE. -/
def execFmul (h : OpWord) (ty : FTy) (s : State) : Host.Outcome State Fault Refusal :=
  elem2 h (laneFmul ty .rne) s

/-- FMUL (R287), rounded by the mode of its extension word. -/
def execFmulRounding (h : OpWord) (ty : FTy) (rm : Rm) (s : State) : Host.Outcome State Fault Refusal :=
  elem2 h (laneFmul ty rm) s

/-- FDIV (R287), rounded by RNE. -/
def execFdiv (h : OpWord) (ty : FTy) (s : State) : Host.Outcome State Fault Refusal :=
  elem2 h (laneFdiv ty .rne) s

/-- FDIV (R287), rounded by the mode of its extension word. -/
def execFdivRounding (h : OpWord) (ty : FTy) (rm : Rm) (s : State) : Host.Outcome State Fault Refusal :=
  elem2 h (laneFdiv ty rm) s

/-- FMA (R287), rounded by RNE. -/
def execFma (h : OpWord) (ty : FTy) (s : State) : Host.Outcome State Fault Refusal :=
  elem3 h (laneFma ty .rne) s

/-- FMA (R287), rounded by the mode of its extension word. -/
def execFmaRounding (h : OpWord) (ty : FTy) (rm : Rm) (s : State) : Host.Outcome State Fault Refusal :=
  elem3 h (laneFma ty rm) s

/-- FSQRT (R287), rounded by RNE. -/
def execFsqrt (h : OpWord) (ty : FTy) (s : State) : Host.Outcome State Fault Refusal :=
  elem1 h (laneFsqrt ty .rne) s

/-- FSQRT (R287), rounded by the mode of its extension word. -/
def execFsqrtRounding (h : OpWord) (ty : FTy) (rm : Rm) (s : State) : Host.Outcome State Fault Refusal :=
  elem1 h (laneFsqrt ty rm) s

/-- FMIN (R288). -/
def execFmin (h : OpWord) (ty : FTy) (s : State) : Host.Outcome State Fault Refusal :=
  elem2 h (laneFminmax false ty) s

/-- FMAX (R288). -/
def execFmax (h : OpWord) (ty : FTy) (s : State) : Host.Outcome State Fault Refusal :=
  elem2 h (laneFminmax true ty) s

/-- FSGN (R288). -/
def execFsgn (h : OpWord) (ty : FTy) (mode : FsgnMode) (s : State) : Host.Outcome State Fault Refusal :=
  elem2 h (laneFsgn ty mode) s

/-- FCMP (R289). -/
def execFcmp (h : OpWord) (ty : FTy) (cond : FcmpCond) (s : State) : Host.Outcome State Fault Refusal :=
  elemPred h (fcmpHolds ty cond) s

/-- FCLASS (R288). -/
def execFclass (h : OpWord) (ty : FTy) (s : State) : Host.Outcome State Fault Refusal :=
  elem1 h (laneFclass ty) s

/-- FCVT (R290). -/
def execFcvt (h : OpWord) (group : BitVec 3) (rm : Rm) (src dst : Fmt) (s : State) : Host.Outcome State Fault Refusal :=
  elem1 h (laneFcvt group.toNat rm src dst) s

/-- FRINT (R291). -/
def execFrint (h : OpWord) (ty : FTy) (rm : Rm) (s : State) : Host.Outcome State Fault Refusal :=
  elem1 h (laneFrint ty rm) s

/-- FEXPI (R292), rounded by RNE. -/
def execFexpi (h : OpWord) (ty : FTy) (s : State) : Host.Outcome State Fault Refusal :=
  elem2 h (laneFexpi ty .rne) s

/-- FEXPI (R292), rounded by the mode of its extension word. -/
def execFexpiRounding (h : OpWord) (ty : FTy) (rm : Rm) (s : State) : Host.Outcome State Fault Refusal :=
  elem2 h (laneFexpi ty rm) s

/-- FGETX (R292). -/
def execFgetx (h : OpWord) (ty : FTy) (s : State) : Host.Outcome State Fault Refusal :=
  elem1 h (laneFgetx ty) s

/-- FRCP (R293). -/
def execFrcp (h : OpWord) (s : State) : Host.Outcome State Fault Refusal :=
  elem1 h (fun a => BitVec.ofNat 32 (frcpBits a.toNat)) s

/-- FRSQ (R293). -/
def execFrsq (h : OpWord) (s : State) : Host.Outcome State Fault Refusal :=
  elem1 h (fun a => BitVec.ofNat 32 (frsqBits a.toNat)) s

/-- FEXP2F (R293). -/
def execFexp2f (h : OpWord) (s : State) : Host.Outcome State Fault Refusal :=
  elem1 h (fun a => BitVec.ofNat 32 (fexp2fBits a.toNat)) s

/-- FLOG2F (R293). -/
def execFlog2f (h : OpWord) (s : State) : Host.Outcome State Fault Refusal :=
  elem1 h (fun a => BitVec.ofNat 32 (flog2fBits a.toNat)) s

/-- VRUN (R296): the lanes whose index is in the range; with AR 0, zero lanes at those indices. -/
def execVrun (h : OpWord) (count first : BitVec 5) (s : State) : Host.Outcome State Fault Refusal :=
  runOp s fun o =>
    let lo := first.toNat
    let hi := lo + count.toNat + 1
    let a := if lo < o.f.first then o.f.first else lo
    let b := if hi < o.f.first + o.f.n then hi else o.f.first + o.f.n
    let ls := (o.f.left.drop (a - o.f.first)).take (b - a)
    let r : Run := { first := a, lanes := if h.ar = 0 then lanes1 (fun _ => 0) ls else ls }
    s.finish o h true r r

/-- VRED (R297): one lane at the window's base, reduced over the canonical tree. -/
def execVred (h : OpWord) (ty : VOp) (s : State) : Host.Outcome State Fault Refusal :=
  runOp s fun o =>
    let r : Run := { first := 0,
                     lanes := [{ val := vredTree ty (o.f.left.map fun l => l.val),
                                 poison := o.f.left.any fun l => l.poison }] }
    s.finish o h true r r

/-- VSCAN (R297): the inclusive left fold; lane i is poisoned if any of lanes 0 to i was. -/
def execVscan (h : OpWord) (ty : VOp) (s : State) : Host.Outcome State Fault Refusal :=
  runOp s fun o =>
    let vs := vscanLanes ty (o.f.left.map fun l => l.val)
    let ps := (List.range o.f.n).map fun j => (o.f.left.take (j + 1)).any fun l => l.poison
    let r := o.f.run (List.zipWith Lane.mk vs ps)
    s.finish o h true r r

/-- VBCAST (R298): lane J in every lane. -/
def execVbcast (h : OpWord) (j : BitVec 5) (s : State) : Host.Outcome State Fault Refusal :=
  sendData h s fun o => o.f.left.map fun _ => windowLane o.f.left j.toNat

/-- VLANE (R298): lanes moved up, down or round; a source outside the window reads zero. -/
def execVlane (h : OpWord) (mode : VlaneMode) (k : BitVec 5) (s : State) : Host.Outcome State Fault Refusal :=
  sendData h s fun o => (List.range o.f.n).map fun i =>
    match mode with
    | .up => if i < k.toNat then windowLane [] 0 else windowLane o.f.left (i - k.toNat)
    | .down => if 31 < i + k.toNat then windowLane [] 0 else windowLane o.f.left (i + k.toNat)
    | .rot => windowLane o.f.left ((i + 32 - k.toNat) % 32)

/-- VSHUF (R298): left lane (right lane i mod 32); poisoned by either. -/
def execVshuf (h : OpWord) (s : State) : Host.Outcome State Fault Refusal :=
  sendData h s fun o => o.f.right.map fun r =>
    let l := windowLane o.f.left (r.val.toNat % 32)
    { val := l.val, poison := l.poison || r.poison }

/-- VIOTA (R296): each lane's iteration number plus OFFSET. -/
def execViota (h : OpWord) (offset : BitVec 32) (s : State) : Host.Outcome State Fault Refusal :=
  sendData h s fun o => (List.range o.f.n).map fun j =>
    { val := BitVec.ofNat 32 (baseOf o.m.vec o.i.tag o.f.first + j) + offset, poison := false }

end Sys2Proof.Machine
end

