-- ==== Sys2Proof/Machine/Moves.lean ====
section
/-! DEFINITION. Moves: how a matched set comes to fire (R75, R266), is taken by the Carder or is tried
again (R120), and the fetching and decoding of its instruction from the mapped block. -/

namespace Sys2Proof.Machine

open Sys2Proof

/-! ### Fetching and decoding -/

/-- The bytes of a slot's instruction as they lie in its block (R247): the operation word and, where it
has one, the extension word. -/
def Mapping.slotBytes (m : Mapping) (slot : Nat) : List Byte :=
  match m.slots[slot]? with
  | none => []
  | some (w, x) => wordBytes w ++ (if hasExt w then wordBytes x else [])

/-- The instruction of a slot, decoded from its bytes, where it is well formed. -/
def Mapping.fetch (m : Mapping) (slot : Nat) : Option Instr :=
  match decode (m.slotBytes slot) with
  | .ok (i, _) => if i.wellFormed then some i else none
  | .error _ => none

/-! ### Issue (R75) -/

/-- The set that an element issues: the first of its queue that is not frozen, with its place. -/
def Core.issueHead (k : Core) (elem : Nat) : Option (Nat × Firing) :=
  findIdx? (fun f => f.elem == elem && !k.setFrozen f) k.issueQ 0

/-- The repetition that a REP in the slot before gives a set that fires the first time (R237, R266). -/
def Mapping.repOf (m : Mapping) (f : Firing) : Option RepState :=
  if f.slot = 0 then none
  else
    match m.fetch (f.slot - 1) with
    | some (.rep _ n stride) => some { n := n.toNat, stride := stride.toNat, left := n.toNat }
    | _ => none

/-- A repetition of no iterations: the operation only sends its completion token (R266). -/
def State.emptyRep (s : State) (c : Nat) (f : Firing) : State :=
  match s.opIn c f with
  | none => s
  | some o => s.finishM { o with f := { f with rep := none } } o.head 0

/-- The format-mismatch trap that the FB operand of a matched set has (R221): its element token's run length is not
its format's, the token's format code is another one, or the orientation is; with the format codes expected and
found. -/
def Firing.fbBad (f : Firing) (i : Instr) : Option (Nat × Nat) :=
  match fbOperand i, f.ticket.fb with
  | some (code, orient), some b =>
    let found := b.fmt.getD code
    if b.len ≠ fbLanes code ∨ found ≠ code ∨ orient.any (fun x => x != bit b.scale.val.toNat 16) then some (code, found)
    else none
  | _, _ => none

/-- A matched set made the one that is executed, and its instruction: none where the state answers by
itself. -/
def State.start (s : State) (c : Nat) (f : Firing) : State × Option Instr :=
  match s.opIn c f with
  | none => (s, none)
  | some o =>
    match o.m.fetch f.slot with
    | none => (s.raise c (Trap.ofOp (s.core c) o.i f 1 (o.m.word f.slot) 0 0 0), none)
    | some i =>
      let rep := match f.rep with
        | some r => some r
        | none => o.m.repOf f
      match f.fbBad i with
      | some (want, found) => (s.trapOp o 4 0 (Config.formatDetail want found).toNat 0 f.first, none)
      | none =>
        if (match rep with | some r => r.left == 0 | none => false) then (s.emptyRep c f, none)
        else ({ s with firing := some (c, { f with rep := rep }) }, some i)

/-- A set that issues gets its number in the order of issue (R301), and the allotment as it is now (R328). -/
def Core.stamp (k : Core) (f : Firing) : Core × Firing :=
  let allot := ((k.inst? f.iid).bind fun i => k.colour? i.tag.colour).map fun c => c.allot
  ({ k with issueSeq := k.issueSeq + 1 }, { f with ticket := { f.ticket with seq := k.issueSeq, allot := allot } })

/-- An element's issue: the set leaves its queue and fires. -/
def State.issue (s : State) (c elem : Nat) : State × Option Instr :=
  match (s.core c).issueHead elem with
  | none => (s, none)
  | some (n, f) =>
    if (s.core c).frozen then (s, none)
    else
      let r := { s.core c with issueQ := delAt (s.core c).issueQ n }.stamp { f with heldAt := none }
      (s.setCore c r.1).start c r.2

/-! ### Requests taken and tried again (R85, R120) -/

/-- The lines of an atomic's lanes, which its port's comparator holds (R134). -/
def State.atomicLines (s : State) (o : OpIn) : Option (List Loc) :=
  let lines := fun (g : BitVec 1) (hi : BitVec 16) =>
    match s.atomPlaces o o.f.first (o.f.left.map (atomAddr g hi)) with
    | .ok ts => some (ts.map fun t => t.loc.line)
    | .error _ => none
  match o.m.fetch o.f.slot with
  | some (.atom _ _ _ _ g hi) => lines g hi
  | some (.cas h _ _ g hi) => if h.ar = 1 then none else lines g hi
  | _ => none

/-- Whether an atomic that is a release must wait before it is sent to its port (R171, R306). -/
def State.mustWait (s : State) (o : OpIn) : Bool :=
  match o.m.fetch o.f.slot with
  | some (.atom _ _ ord _ _ _) => ordReleases ord && s.releaseWaits o
  | some (.cas _ ord _ _ _) => ordReleases ord && s.releaseWaits o
  | _ => false

/-- A set whose request is taken by its unit and performed later: an atomic waits at its port
(BURTEX_ATOMIC performs it), another request is in flight. -/
def State.take (s : State) (c elem : Nat) : State :=
  match (s.core c).issueHead elem with
  | none => s
  | some (n, f) =>
    match s.opIn c f with
    | none => s
    | some o =>
      match unitOf (fieldOf (o.m.word f.slot) 25 7), (s.core c).frozen with
      | some u, false =>
        let rep := match f.rep with
          | some r => some r
          | none => o.m.repOf f
        let r := { s.core c with issueQ := delAt (s.core c).issueQ n }.stamp { f with rep := rep, heldAt := none }
        let s1 := s.setCore c r.1
        let o1 := { o with f := r.2 }
        match s.atomicLines o with
        | none => s1.hold o1 u .flight
        | some ls =>
          if (s.core c).regs.atomPending.isSome then s1.hold o1 u .register
          else if s.mustWait o then s1.hold o1 u .earlier
          else
            let p := s1.reachPort o1
            p.1.hold p.2 u (.atomic ls)
      | _, _ => s

/-- Whether what a request waits for is tested by trying it again. The other waits end by the device step that
names them: a grant, a close, a comparator, a lock, an answer of the host. -/
def Wait.retries : Wait → Bool
  | .earlier => true
  | .register => true
  | .queue _ => true
  | .step => true
  | .flight => true
  | .bobbin _ => true
  | .tile _ => true
  | .twait _ => true
  | .port => true
  | .buffer _ => true
  | .collTurn _ => true
  | .path => true
  | .reel => true
  | .remote => true
  | .stream => true
  | .grant _ => false
  | .spawned _ => false
  | .phase => false
  | .arbour _ => false
  | .lock _ _ => false
  | .atomic _ => false
  | .fault _ => false
  | .world _ => false
  | .worldClose _ _ => false
  | .collective _ => false

/-- Whether a core's waiting request is one that is tried again. -/
def Core.retries (k : Core) (n : Nat) : Bool :=
  match k.held[n]? with
  | some hd => hd.wait.retries
  | none => false

/-- Whether a request waits for CR_ATOMMODE to switch (R135). -/
def Core.modeWaits (k : Core) (hd : Held) : Bool :=
  hd.wait == .register && hd.unit == .carder && k.regs.atomPending.isSome

/-- A waiting request tried again: it leaves its place, which it takes again where it must still
wait. -/
def State.retry (s : State) (c n : Nat) : State × Option Instr :=
  match (s.core c).held[n]? with
  | none => (s, none)
  | some hd =>
    if (s.core c).frozen || (s.core c).modeWaits hd then (s, none)
    else (s.takeHeld c n).start c { hd.firing with heldAt := some n }

/-! ### The next move -/

/-- The core whose units carry out a device step, where one core's do; they are still while the arithmetic
clock of its die is stopped (R16). Its limits expire all the same: their timers keep counting, and the trap of an
expiry waits for its delivery, which is such a step. -/
def coreOfEvent (i : Instr) : Option Nat :=
  match i with
  | .pageWalk c _ | .spawnGrant c | .colourRelease c _ | .blockAdmission c _ | .blockMapping c | .tokenArrival c _
  | .instanceCommit c | .arbourArrival c | .configEccError c _ _ _ _ | .configReload c _ | .nodeElementRead c _ | .shuttleEntryStart c
  | .shuttleRowCopy c _ | .shuttleCompletionPost c | .burtexAtomic c | .atommodeSwitch c | .lockGrant c
  | .reelPageFill c | .worldStepArrival c | .trapDelivery c | .quiescence c | .imageSave c
  | .launchRestore c => some c
  | _ => none

/-- The core that a move is of, where it is of one core. -/
def Move.core? (m : Move) : Option Nat :=
  match m with
  | .issue c _ => some c
  | .take c _ => some c
  | .retry c _ => some c
  | .event i => coreOfEvent i

/-- Whether a move is held because its die's arithmetic clock is stopped (R16). -/
def State.moveHeld (s : State) (m : Move) : Bool :=
  match m.core? with
  | some c => s.clockStopped c
  | none => false

/-- Whether a move is the second attempt of a hand-over. -/
def Move.isRetry : Move → Bool
  | .event (.handoverRetry _) => true
  | _ => false

/-- A move carried out as far as the machine does without an instruction; the instruction that is then
executed, if there is one. While a hand-over has failed once, nothing comes before its second attempt, so that no
value that fails both is delivered in between (R28). -/
def State.move (s : State) (m : Move) : State × Option Instr :=
  if s.moveHeld m || (!s.handovers.isEmpty && !m.isRetry) then (s, none)
  else
    match m with
    | .issue c e => s.issue c e
    | .take c e => (s.take c e, none)
    | .retry c n => if (s.core c).retries n then s.retry c n else (s, none)
    | .event i => if i.opWord?.isNone then (s, some i) else (s, none)

/-- The move that the agenda names next, or nothing. -/
def State.pick (s : State) : State × Option Instr :=
  match s.agenda with
  | [] => (s, none)
  | m :: rest => { s with agenda := rest }.move m

/-- What an instruction has left, with the frames brought up to date. -/
def settled : Host.Outcome State Fault Refusal → Host.Outcome State Fault Refusal
  | .next t => .next t.syncFrames
  | o => o

/-! ### A given instruction as the next move -/

/-- A block of one slot, with VEC and every register in WMASK. -/
def oneSlot (w x : Nat) : Mapping where
  block := 64
  size := 0
  res := false
  resOrdinary := false
  vec := true
  reent := false
  nslot := 1
  nword := 2
  nout := 128
  narg := 0
  wmask := 0xFFFFFFFF
  slots := [(w, x)]
  chans := []
  switchWords := []
  b := 0
  x0 := 0
  y0 := 0
  sig := 0
  lastUse := 0
  frozen := false
  eccElems := []
  differs := false

/-- The colour that an instruction needs to have its own effect: ERET and MTSR run in colour 0, SRET in a
spawned one. -/
def colourFor (w : Nat) : Nat :=
  let op := fieldOf w 25 7
  if op = 0x0F ∨ (op = 0x0E ∧ fieldOf w 18 3 = 3) then 0 else if op = 0x05 then 2 else 1

/-- A matched set of one zero lane at each position that a word's arity asks for. -/
def zeroSet (iid w : Nat) : Firing :=
  let ar := fieldOf w 23 2
  let z : List Lane := [{ val := 0, poison := false }]
  { iid := iid, slot := 0, elem := 0, first := 0, n := 1, left := z, right := if 2 ≤ ar then z else [],
    third := if threeOp (fieldOf w 25 7) then z else [], rep := none, answered := none, opTag := none, heldAt := none,
    skip := 0 }

/-- A live colour added where it is not live. -/
def Core.withColour (k : Core) (c : Nat) : Core :=
  match k.colour? c with
  | some _ => k
  | none => { k with colours := k.colours ++ [Colour.blank c 0] }

/-- The state in which core 0 has a mapped block of one slot with given bits, an admitted instance of it
and its matched set, whose issue is the next move. -/
def State.placeWord (s : State) (v : Nat) : State :=
  let w := v % 2 ^ 32
  let m := oneSlot w (v / 2 ^ 32)
  let col := colourFor w
  let s1 := s.modCore 0 fun k0 =>
    let k := ((k0.withColour 0).withColour 1).withColour col
    let i : Instance := { Instance.fresh k.nextIid { colour := col, fields := [] } m.block false with status := .admitted }
    { k with mappings := m :: k.mappings, instances := i :: k.instances, issueQ := zeroSet k.nextIid w :: k.issueQ,
             nextIid := k.nextIid + 1, frozen := false }
  { s1 with agenda := .issue 0 0 :: s1.agenda, handovers := [] }

end Sys2Proof.Machine
end

