-- ==== Sys2Proof/Machine/Ports.lean ====
section
/-! DEFINITION. The ports of memory: BURTEX_ATOMIC (R134), ATOMMODE_SWITCH (R135), LOCK_GRANT (R136),
PAGE_WALK (R112), TLB_INVALIDATE and its end (R114), HANDOVER_TRANSFER and HANDOVER_RETRY (R27, R28,
R141, R142). -/

namespace Sys2Proof.Machine

open Sys2Proof

/-! ### Atomics and locks at their ports -/

/-- Whether a request is an atomic that waits at its port for its line (R134). -/
def Held.atPort (h : Held) : Bool :=
  match h.wait with
  | .atomic _ => true
  | _ => false

/-- BURTEX_ATOMIC (R134): the oldest atomic of a core that waits at its port is performed. -/
def execBurtexAtomic (core : Nat) (s : State) : Host.Outcome State Fault Refusal :=
  match (s.core core).heldWhere Held.atPort with
  | none => .next s
  | some (n, _) =>
    match s.retry core n with
    | (t, some (.atom h opc ord scope g hi)) => execAtom h opc ord scope g hi t
    | (t, some (.cas h ord scope g hi)) => execCas h ord scope g hi t
    | (t, _) => .next t

/-- Whether a waiting request is an atomic in flight: it has reached its port and has not performed (R135). -/
def Core.atomInFlight (k : Core) (h : Held) : Bool :=
  let atomic := match (k.inst? h.firing.iid).bind fun i => k.slotInstr i h.firing.slot with
    | some (.atom _ _ _ _ _ _) => true
    | some (.cas _ _ _ _ _) => true
    | _ => false
  atomic && h.firing.ticket.turn.isSome

/-- ATOMMODE_SWITCH (R135): a write of CR_ATOMMODE.LOCK takes effect once every atomic in flight in the
core has performed. -/
def execAtommodeSwitch (core : Nat) (s : State) : Host.Outcome State Fault Refusal :=
  let k := s.core core
  match k.regs.atomPending with
  | none => .next s
  | some b =>
    if k.held.any k.atomInFlight then .next s
    else .next (s.setCore core { k with regs := { k.regs with atomLock := b, atomPending := none } })

/-- Whether a request waits for a lock bit that is clear, before every other waiter of any core on that bit (R136). -/
def State.lockReady (s : State) (c : Nat) (h : Held) : Bool :=
  match h.wait, s.opIn c h.firing with
  | .lock c' a, some o => !has (s.core c').locks (lockBit a) && !s.lockQueued o (.scratch c' a)
  | _, _ => false

/-- LOCK_GRANT (R136): the first waiter, in the order of first attempts, whose bit has cleared gets it. -/
def execLockGrant (core : Nat) (s : State) : Host.Outcome State Fault Refusal :=
  match (List.zipIdx (s.core core).held).find? fun p => s.lockReady core p.1 with
  | none => .next s
  | some (_, n) =>
    match s.retry core n with
    | (t, some (.ldlk h)) => execLdlk h t
    | (t, some (.atom h opc ord scope g hi)) => execAtom h opc ord scope g hi t
    | (t, some (.cas h ord scope g hi)) => execCas h ord scope g hi t
    | (t, _) => .next t

/-! ### Translations -/

/-- PAGE_WALK (R112): the walker walks an address for a core: a translation is cached, a poisoned entry
posts its record, a fault leaves nothing. -/
def execPageWalk (core va : Nat) (s : State) : Host.Outcome State Fault Refusal :=
  match s.walk (s.corePart core) (wrapVa va) with
  | .page e => .next (s.cacheTlb core e)
  | .fault => .next s
  | .poisoned pa => .next (s.postPoisonedWalk core pa)

/-- The span of an invalidation (R114): none is every translation. -/
def tlbSpan (size : Nat) : Option Nat :=
  if size = 1 then some (2 ^ 16) else if size = 2 then some (2 ^ 21) else if size = 3 then some (2 ^ 30) else none

/-- Whether a cached translation is one that an invalidation covers. -/
def TlbEntry.covered (e : TlbEntry) (size va : Nat) : Bool :=
  match tlbSpan size with
  | none => true
  | some n => overlaps e.va e.span (va / n * n) n

/-- TLB_INVALIDATE (R114): a write of DR_TLBINV with GO; one while BUSY is set is ignored. -/
def execTlbInvalidate (part size va : Nat) (s : State) : Host.Outcome State Fault Refusal :=
  if (s.part part).tlbGo.isSome then .next s
  else
    let z := size % 4
    let a := va % 2 ^ 56 / 65536 * 65536
    .next (s.modPart part fun p => { p with tlbGo := some (z, a), tlbSize := z, tlbVa := a })

/-- Whether an instance holds translated accesses that are not yet performed. -/
def Instance.holdsPhys (i : Instance) : Bool :=
  let phys := fun (l : Loc) => match l with
    | .phys _ => true
    | .scratch _ _ => false
  i.effects.any fun e => match e.2 with
    | .store _ gs => gs.any fun g => phys g.loc
    | .nodeData _ gs => gs.any fun g => phys g.loc
    | .push _ _ l _ => phys l
    | _ => false

/-- Whether an access is one of a launch of a partition. -/
def State.accOfPart (s : State) (p : Nat) (a : Acc) : Bool :=
  s.launches.any fun l => l.part == p && a.ofLaunch l.lid

/-- Whether every access of a partition to another module has been performed there. -/
def State.farDone (s : State) (p : Nat) : Bool :=
  !(s.asks.any fun q => s.accOfPart p q.acc && (match q.st with
    | .sent _ => true
    | _ => false)) &&
  !(s.owrites.any fun o => match o.acc with
    | some a => s.accOfPart p a
    | none => false)

/-- The cores whose launch belongs to a partition. -/
def State.partCores (s : State) (p : Nat) : List Nat :=
  (s.cores.filter fun c => match c.2.placed with
    | some x => x.part == p
    | none => false).map fun c => c.1

/-- TLB_INVALIDATE_DONE (R114): every cache of the partition drops what is covered, and BUSY clears, once
every access that used a translation has been performed. -/
def execTlbInvalidateDone (part : Nat) (s : State) : Host.Outcome State Fault Refusal :=
  let cs := s.partCores part
  match (s.part part).tlbGo with
  | none => .next s
  | some (z, a) =>
    if (cs.any fun c => (s.core c).instances.any Instance.holdsPhys) || !s.farDone part then .next s
    else
      let s1 := cs.foldl (fun s c => s.modCore c fun k => { k with tlb := k.tlb.filter fun e => !e.covered z a }) s
      .next (s1.modPart part fun p => { p with tlbGo := none })

/-! ### Hand-overs (R27, R28, R141, R326) -/

/-- A core's SRAM error counter (R142): 0 CE, 1 TRANS, 2 UE. -/
def CoreRegs.countMem (r : CoreRegs) (which : Nat) : CoreRegs :=
  if which = 0 then { r with memCe := satAdd r.memCe 1 0xFFFF }
  else if which = 1 then { r with memTrans := satAdd r.memTrans 1 0xFFFF }
  else { r with memUe := satAdd r.memUe 1 0xFFFF }

/-- The same three counters of a stack, in its DR_STKERR (R142). -/
def State.countStack (s : State) (pa which : Nat) : State :=
  let st := stackOf pa
  let v := aget 0 s.stkerr st
  let lo := 48 - 16 * which
  let n := bits v lo 16
  { s with stkerr := aset s.stkerr st (v - n * 2 ^ lo + satAdd n 1 0xFFFF * 2 ^ lo) }

/-- The core of an SRAM. -/
def placeCore : Place → Nat
  | .scratch c _ | .queue c _ _ | .matching c _ _ _ _ | .ma c _ _ | .md c _ _ | .acc c _ _ _ => c

/-- The number of a hand-over's row in the table of R27, that of SRAM reads after them. -/
def handRow : Handoff → Nat
  | .dramBurtex _ => 0
  | .burtexDie _ => 1
  | .dieTwinik _ => 2
  | .link _ _ => 3
  | .twinikDie _ _ => 4
  | .bridgeScratch _ _ => 5
  | .sram _ => 6

/-- Whether the sending check corrects single-bit errors: DRAM ECC and SECDED do, an integrity tag, parity and
CRC-32C do not (R27, R141). -/
def handCorrects (h : Handoff) : Bool := (handRow h) == 0 || (handRow h) == 6

/-- A transient failure counted against its hand-over (R28). -/
def State.countRow (s : State) (row : Nat) : State :=
  { s with handTrans := aset s.handTrans row (aget 0 s.handTrans row + 1) }

/-- An outcome counted (R28, R142): 0 corrected, 1 gone on the second attempt, 2 lasting. A stack's and a core's memory
have their own counters; a failure of another hand-over that is gone counts against that hand-over. -/
def State.countHand (s : State) (h : Handoff) (which : Nat) : State :=
  match h with
  | .dramBurtex a => s.countStack a which
  | .sram p => s.modCore (placeCore p) fun k => { k with regs := k.regs.countMem which }
  | .bridgeScratch c _ =>
    if which = 2 then s.modCore c fun k => { k with regs := k.regs.countMem 2 } else s.countRow (handRow h)
  | h => if which = 1 then s.countRow (handRow h) else s

/-- Lanes that wait at a position, with the lane of one index poisoned. -/
def poisonWaiting (idx : Nat) (ws : List Waiting) : List Waiting :=
  modFirst (fun w => w.idx == idx && !w.spilled) (fun w => { w with lane := { w.lane with poison := true } }) ws

/-- A slot's operands with one waiting lane poisoned: position 1 is left, 2 right, 3 the predicate, 4 the scale token.
-/
def SlotOps.strike (o : SlotOps) (pos idx : Nat) : SlotOps :=
  if pos = 1 then { o with left := poisonWaiting idx o.left }
  else if pos = 2 then { o with right := poisonWaiting idx o.right }
  else if pos = 3 then { o with pred := poisonWaiting idx o.pred }
  else { o with scale := poisonWaiting idx o.scale }

/-- An element of an accumulator's active bank with an uncorrectable error (R332): the default NaN, or the bit of its
row, and PSUM. -/
def AccReg.strike (a : AccReg) (row col : Nat) : AccReg :=
  if a.int then { a with prow := a.prow ||| 2 ^ row, psum := true }
  else
    let f := fun (i j : Nat) => if i = row ∧ j = col then fp32.defNaN else a.at i j
    { a.put ((List.range 64).map fun i => (List.range 64).map (f i)) with psum := true }

/-- A core whose SRAM holds a value that failed both attempts (R141, R332): it is poisoned. -/
def Core.strike (k : Core) : Place → Core
  | .scratch _ a => { k with scratchPoison := addMem k.scratchPoison (lineOf (a % 0x200000)) }
  | .queue _ q n =>
    let x := k.queue q
    let hit := fun (e : QEntry) => { e with lanes := e.lanes.map fun l => { l with poison := true } }
    { k with queues := aset k.queues q { x with entries := match x.entries[n]? with
        | some e => setAt x.entries n (hit e)
        | none => x.entries } }
  | .matching _ iid slot pos idx => k.modInst iid fun i => i.modSlot slot fun o => o.strike pos idx
  | .ma _ r row => k.setMa r { k.ma r with prow := (k.ma r).prow ||| 2 ^ (row % 64) }
  | .md _ r row => { k with mds := aset k.mds r { k.md r with prow := (k.md r).prow ||| 2 ^ (row % 64) } }
  | .acc _ r row col => k.setAcc r ((k.acc r).strike (row % 64) (col % 64))

/-- What a hand-over that failed both attempts delivers (R28, R141). DESIGN CHOICE: a transfer of a line of DRAM marks
the line itself, as a hand-over is a step beside the accesses that need it; on the way to a Twinik port a line of another
module's memory marks the next write of it to be sent (log 127). -/
def State.strike (s : State) : Handoff → State
  | .dramBurtex a | .burtexDie a => s.setPoison (.phys (lineOf a)) true
  | .dieTwinik a =>
    if 0x800000000000 ≤ a then { s with torn := addMem s.torn (lineOf a) } else s.setPoison (.phys (lineOf a)) true
  | .bridgeScratch c a => s.setPoison (.scratch c (lineOf (a % 0x200000))) true
  | .sram p => s.modCore (placeCore p) fun k => k.strike p
  | .link _ _ | .twinikDie _ _ => s

/-- A lasting integrity fault's record (R28, R55): tied to a launch where a core's memory is struck. -/
def State.postLasting (s : State) (h : Handoff) : State :=
  let ofCore := fun (c a : Nat) =>
    if (s.core c).placed.isSome then s.postRec { s.coreRec c 6 with address := a }
    else s.postRec { FRec.blank 16 0 6 with core := c, address := a }
  match h with
  | .dramBurtex a | .burtexDie a | .dieTwinik a => s.postRec { FRec.blank 16 0 6 with address := a }
  | .bridgeScratch c a | .sram (.scratch c a) => ofCore c a
  | .sram p => ofCore (placeCore p) 0
  | .link _ _ | .twinikDie _ _ => s

/-- A failed check at a hand-over (R27): on a Twinik link, or from its port to the die, the flit is handled by R23; at
every other hand-over the transfer is tried once more. -/
def State.handFailed (s : State) (h : Handoff) : State :=
  match h with
  | .link p q | .twinikDie p q => if (s.port p).up && !(s.port p).retired then s.checkFailed p (q % 256) else s
  | h => { s with handovers := s.handovers ++ [{ what := h }] }

/-- HANDOVER_TRANSFER (R27, R141): data passes from one protected store or link to the next. An error that the sending
check corrects is counted; where the check only detects, it has failed. -/
def execHandoverTransfer (hand : Handoff) (res : CheckResult) (s : State) : Host.Outcome State Fault Refusal :=
  match res with
  | .passed => .next s
  | .corrected => .next (if handCorrects hand then s.countHand hand 0 else s.handFailed hand)
  | .failed => .next (s.handFailed hand)

/-- HANDOVER_RETRY (R28): the oldest failed hand-over is tried a second time: gone, it is transient; a
second failure delivers the data poisoned and is reported as lasting. -/
def execHandoverRetry (passed : Bool) (s : State) : Host.Outcome State Fault Refusal :=
  match s.handovers with
  | [] => .next s
  | h :: rest =>
    let s1 := { s with handovers := rest }
    if passed then .next (s1.countHand h.what 1)
    else .next (((s1.strike h.what).countHand h.what 2).postLasting h.what)

end Sys2Proof.Machine
end

