-- ==== Sys2Proof/Machine/Image.lean ====
section
/-! DEFINITION. The image of a core (R197 to R199, R391): its sections and its header. Bytes to which the spec
gives no content are open. -/

namespace Sys2Proof.Machine

open Sys2Proof

/-- `n` bytes that the spec leaves open, the `tag`-th piece of an image whose open bytes are drawn from a
counter. -/
def openBytes (base tag n : Nat) : List Byte :=
  (List.range n).map fun j => BitVec.ofNat 8 (Config.freeNat (base + tag * 4096 + j))

/-- A section padded with zeros to a multiple of 64 bytes (R198). -/
def pad64 (bs : List Byte) : List Byte := bs ++ zeros ((64 - bs.length % 64) % 64)

/-- The lock bits, eight to a byte. -/
def lockBytes (locks : List Nat) : List Byte :=
  (List.range 256).map fun j => BitVec.ofNat 8 (maskOf ((List.range 8).map fun i => has locks (8 * j + i)))

/-- A node's position moved back by some elements (R126, R336), as an image holds it where they are those in the matrix
operand path. -/
def Node.back (n : Node) (m : Nat) : Node :=
  let c := fun (i : Nat) => max 1 (descCnt n.desc i)
  let pos := ((n.i3 * c 2 + n.i2) * c 1 + n.i1) * c 0 + n.i0 - m
  { n with i0 := pos % c 0, i1 := pos / c 0 % c 1, i2 := pos / (c 0 * c 1) % c 2, i3 := pos / (c 0 * c 1 * c 2) }

/-- The elements of a node in the matrix operand path, which no MLD has taken (R336). -/
def Core.untaken (k : Core) (i : Nat) : Nat := (k.matPath.filter fun q => q.1 == i).length

/-- A node's descriptor and position in 128 bytes; the position is that of the first element not taken (R336). -/
def Core.nodeImage (k : Core) (base i : Nat) : List Byte :=
  let n := k.node i
  ((List.range 8).flatMap fun w => toBytes 8 (n.word w)) ++ toBytes 8 (n.back (k.untaken i)).posReg ++ openBytes base (16 + i) 56

/-- The values of the core control registers, of the registers of the queues and of the matrix unit's (R329). -/
def Core.controls (k : Core) : List Nat :=
  let r := k.regs
  [b2n r.portmode, r.colLimit, r.admitAge, r.stallwd, r.arbto, r.drainmax, r.poolCount, r.poolBase, r.dramBase, r.dramCount,
    r.fabstat, r.elret, b2n r.atomLock, r.memCe, r.memTrans, r.memUe, r.trapvec, r.traparea, k.trapstat, r.spsave, r.shadv,
    r.allotSel, r.spFails, r.spDraws] ++
    ((List.range 8).flatMap fun q =>
      [(k.queue q).spillReg, (k.queue q).statReg, (k.queue q).spillHead, (k.queue q).spillCount]) ++
    (List.range 0x055).map fun j => k.readMatrix (0x014 + j)

/-- How far an entry of the copy schedule is, as a number. -/
def ShState.num : ShState → Nat
  | .waiting => 0
  | .running => 1
  | .copied => 2
  | .posted => 3

/-- Where the Shuttle stands in its entries (R131): of each, its state, its next row and its flags. -/
def Core.shuttlePos (k : Core) : List Nat := k.shuttle.flatMap fun e => [e.st.num, e.row, b2n e.err, b2n e.poison]

/-- Section 1: core state. -/
def Core.sec1 (k : Core) (base : Nat) : List Byte :=
  ((List.range 256).flatMap fun i => toBytes 8 (k.tile i).reg) ++ ((List.range 16).flatMap fun i => toBytes 8 (k.bob i).reg) ++
    ((List.range 16).flatMap fun i => k.nodeImage base i) ++ lockBytes k.locks ++
    memRead k.scratch (k.regs.ringAddr 0) 2048 ++ heldBytes 1 (k.controls ++ k.shuttlePos) 1584 ++ zeros 80

/-- A colour in 256 bytes. -/
def Colour.image (c : Colour) (base : Nat) : List Byte :=
  ((List.range 32).flatMap fun i => toBytes 4 (c.regs.getD i { val := 0, poison := false }).val.toNat) ++
    toBytes 4 (maskOf ((List.range 32).map fun i => (c.regs.getD i { val := 0, poison := false }).poison)) ++ zeros 4 ++
    toBytes 8 (shapeBits c.shape) ++ toBytes 1 c.prio ++ toBytes 1 (b2n c.sret) ++ zeros 6 ++ toBytes 8 (c.depth * 2 ^ 56 + c.top) ++
    openBytes base (64 + c.id) 96

/-- Section 2: the live colours, colour 0 first. -/
def Core.sec2 (k : Core) (base : Nat) : List Byte :=
  (k.colours.insertionSort fun a b => decide (a.id ≤ b.id)).flatMap fun c => c.image base

/-- The frame header of an instance (R96): 34 bytes have content, the branch token's layout is open. -/
def Core.frameHeader (k : Core) (i : Instance) : List Byte :=
  k.instHead i ++ k.branchToken i

/-- Where an instance stands, as byte 63 of its record names it. -/
def Instance.stateByte (i : Instance) : Nat :=
  match i.status with
  | .pending => 0
  | .admitted => 1
  | .parked => 2

/-- The ring entry of a parked instance's trap. -/
def Core.ringEntry (k : Core) (iid : Nat) : Nat :=
  match k.ring.find? fun p => p.2.iid == some iid with
  | some p => p.1
  | none => 0

/-- The instances in the order of section 3: the admitted ones as they were admitted, then the pending ones. -/
def Core.imageInsts (k : Core) : List Instance :=
  ((k.instances.filter fun i => i.frame.isSome).insertionSort fun a b => decide (a.admitNo ≤ b.admitNo)) ++
    k.instances.filter fun i => i.frame.isNone

/-- Section 3: 64 bytes for each instance. -/
def Core.sec3 (k : Core) (base : Nat) : List Byte :=
  k.imageInsts.flatMap fun i =>
    k.frameHeader i ++ openBytes base (2300 + i.iid % 512) 28 ++ toBytes 1 (k.ringEntry i.iid) ++ toBytes 1 i.stateByte

/-- Section 4: 32 bytes for each mapped block. -/
def Core.sec4 (k : Core) : List Byte :=
  k.mappings.flatMap fun m =>
    toBytes 8 m.block ++ toBytes 8 m.sig ++ toBytes 1 m.size ++ toBytes 1 (b2n m.res) ++ toBytes 1 m.b ++ toBytes 1 m.x0 ++
      toBytes 1 m.y0 ++ zeros 11

/-- 32 lanes in 128 bytes, from lane index `first` on. -/
def laneBytes (first : Nat) (ls : List Lane) : List Byte :=
  (List.range 32).flatMap fun i =>
    toBytes 4 (if i < first then 0 else (ls.getD (i - first) { val := 0, poison := false }).val.toNat)

/-- A unit as a number. -/
def HUnit.num : HUnit → Nat
  | .sequencer => 0
  | .carder => 1
  | .matrix => 2
  | .spindle => 3
  | .collective => 4

/-- What the head of a parked request holds (R199): its unit, slot, REPC, tag and its instance's place in section 3. -/
def Core.requestHead (k : Core) (h : Held) : List Nat :=
  let f := h.firing
  let repc := match f.rep with
    | some r => r.left
    | none => 0
  match k.inst? f.iid with
  | some i =>
    [h.unit.num, f.slot, repc, i.tag.encode (k.shape i.tag.colour), (k.imageInsts.findIdx? fun x => x.iid == f.iid).getD 0]
  | none => [h.unit.num, f.slot, repc, 0, 0]

/-- Section 5: 288 bytes for each parked request. -/
def Core.sec5 (k : Core) : List Byte :=
  k.held.flatMap fun h =>
    heldBytes 2 (k.requestHead h) 32 ++ laneBytes h.firing.first h.firing.left ++ laneBytes h.firing.first h.firing.right

/-! ### Sections 6 to 10 -/

/-- Section 6: the queue entries on chip. -/
def Core.sec6 (k : Core) : List Byte := (List.range 8).flatMap fun q => (k.queue q).entries.flatMap QEntry.bytes

/-- The words of a bank, all zero while it is empty. -/
def bankBytes (ws : List Word) : List Byte :=
  (List.range 4096).flatMap fun i => toBytes 4 (ws.getD i 0).toNat

/-- A list of bytes filled with zeros to a length. -/
def fillTo (n : Nat) (bs : List Byte) : List Byte := bs.take n ++ zeros (n - bs.length)

/-- Section 7: the matrix registers; a register not written since placement is left out. -/
def Core.sec7 (k : Core) : List Byte :=
  ((List.range 16).flatMap fun i => toBytes 8 (k.pt i)) ++
    ((List.range 4).flatMap fun i => toBytes 8 ((k.ss i).mode * 2 ^ 62 + (k.ss i).value.toNat)) ++
    ((List.range 4).flatMap fun i => toBytes 8 ((k.gd i).smax.toNat * 2 ^ 32 + (k.gd i).emax.toNat) ++ toBytes 8 (k.gd i).hiReg) ++
    ((List.range 8).flatMap fun i =>
      if (k.acc i).written then bankBytes (if (k.acc i).active then (k.acc i).bank1 else (k.acc i).bank0) else []) ++
    ((List.range 16).flatMap fun i => if (k.ma i).written then fillTo 8192 (k.ma i).data ++ fillTo 256 (k.ma i).scale else []) ++
    ((List.range 8).flatMap fun i => if (k.md i).written then fillTo 1024 (k.md i).data else [])

/-- A stream register's 64 bytes (R316). -/
def Stream.bytes (x : Stream) : List Byte :=
  toBytes 8 x.base ++ toBytes 4 x.len ++ toBytes 4 x.pos ++ toBytes 4 x.lastkey ++ toBytes 4 x.flags ++ zeros 40

/-- Section 8: the camera and stream registers. -/
def Core.sec8 (k : Core) : List Byte :=
  ((List.range 8).flatMap fun i => fillTo 128 (k.cam i).bytes) ++ (List.range 8).flatMap fun i => (k.stream i).bytes

/-- A binding's 256 bytes (R391). -/
def Binding.image (b : Binding) : List Byte :=
  toBytes 8 (b2n b.bound * 2 ^ 63 + b.skein) ++ toBytes 1 b.prog.length ++ toBytes 1 b.cands.length ++
    toBytes 2 (b2n b.poisoned + 2 * b2n b.nonfin) ++ toBytes 4 b.temp.toNat ++ toBytes 4 b.vocab ++ toBytes 8 b.maskptr ++
    ((List.range 8).flatMap fun i => toBytes 4 (b.ks.getD i 0).toNat) ++ fillTo 128 (b.prog.flatMap fun w => toBytes 2 w) ++ zeros 68

/-- Section 9: the Spindle. -/
def Core.sec9 (k : Core) : List Byte := (List.range 8).flatMap fun i => (k.bind i).image

/-- The local addresses below which an image carries the scratchpad (R197). -/
def CoreRegs.carried (r : CoreRegs) : Nat := min r.spsave 32 * 65536

/-- Section 10: the carried scratchpad, the frame pool left out. -/
def Core.sec10 (k : Core) : List Byte :=
  let n := k.regs.carried
  let p := k.poolRange
  memRead k.scratch 0 (min n p.1) ++ memRead k.scratch p.2 (n - p.2)

/-! ### Sections 11 to 13 -/

/-- A frame's content (R96). -/
def Core.frameImage (k : Core) (base : Nat) (i0 : Instance) : List Byte :=
  let b := base + 2 ^ 23
  let i := k.withParked i0
  k.frameHeader i ++ openBytes b (i.iid % 512) 30 ++
    ((List.range 128).flatMap fun n => (i.slotOps n).maskBytes) ++
    ((List.range 128).flatMap fun n => waitLanes (inFrame (i.slotOps n).left) ++ waitLanes (inFrame (i.slotOps n).right)) ++
    ((List.range 120).flatMap fun n => toBytes 1 (i.repcByte n)) ++ openBytes b (512 + i.iid % 512) 1864

/-- Section 11: the allocated pool frames, of a full image. -/
def Core.sec11 (k : Core) (base : Nat) : List Byte :=
  k.instances.flatMap fun i =>
    match i.frame with
    | some (.pool n) => fillTo 64 (toBytes 4 n) ++ k.frameImage base i
    | _ => []

/-- A token's 160 bytes. -/
def Core.tokenImage (k : Core) (i : Instance) (slot pos : Nat) (r : Run) : List Byte :=
  let bit := fun (f : Lane → Bool) => maskOf ((List.range 32).map fun j =>
    decide (r.first ≤ j) && f (r.lanes.getD (j - r.first) { val := 0, poison := false }))
  toBytes 8 (i.tag.encode (k.shape i.tag.colour)) ++ toBytes 8 i.block ++ toBytes 1 slot ++ toBytes 1 pos ++ toBytes 1 r.first ++
    toBytes 1 r.lanes.length ++ toBytes 4 (bit fun l => l.poison) ++
    toBytes 4 (if pos = 3 then bit fun l => l.val != 0 else 0) ++ zeros 4 ++ laneBytes r.first r.lanes

/-- The tokens that waiting lanes in the matching store make up, each lane with the token that brought it (R94). -/
def storedRuns (ws : List Waiting) : List Run :=
  let here := ws.filter fun w => !w.spilled
  (tokenRuns here).map fun q =>
    { first := q.2.1, lanes := (List.range q.2.2).map fun j => laneOf (here.filter fun w => w.tok == q.1) (q.2.1 + j) }

/-- Section 12: the tokens that wait in matching stores and issue queues. DESIGN CHOICE: a scale token stands at
position 4, of which R199 says nothing (log 128). -/
def Core.sec12 (k : Core) : List Byte :=
  (k.instances.flatMap fun i => i.ops.flatMap fun o =>
    [(1, o.left), (2, o.right), (3, o.pred), (4, o.scale)].flatMap fun p =>
      (storedRuns p.2).flatMap fun r => k.tokenImage i o.slot p.1 r) ++
    k.issueQ.flatMap fun f =>
      match k.inst? f.iid with
      | some i => (k.setTokens i f).flatMap fun p => k.tokenImage i p.1 p.2.1 p.2.2
      | none => []

/-- Section 13: the tokens on the switch network. -/
def Core.sec13 (k : Core) : List Byte :=
  k.inflight.flatMap fun t =>
    match k.inst? t.iid with
    | some i => k.tokenImage i t.slot t.pos t.run
    | none => []

/-! ### The image -/

/-- The sections 1 to 13 in order. -/
def Core.sections (k : Core) (base : Nat) (full : Bool) : List (List Byte) :=
  [k.sec1 base, k.sec2 base, k.sec3 base, k.sec4, k.sec5, k.sec6, k.sec7, k.sec8, k.sec9, k.sec10] ++
    (if full then [k.sec11 base, k.sec12, k.sec13] else [[], [], []])

/-- The directory of sections (R198): an offset and a length each. -/
def directory : Nat → List (List Byte) → List Byte
  | _, [] => []
  | off, x :: xs => toBytes 4 off ++ toBytes 4 x.length ++ directory (off + (pad64 x).length) xs

/-- MLIVE (R198). -/
def Core.mlive (k : Core) : Nat :=
  maskOf (((List.range 8).map fun i => (k.acc i).written) ++ ((List.range 16).map fun i => (k.ma i).written) ++
    (List.range 8).map fun i => (k.md i).written)

/-- What a header names of a core's launch: LNUM, RANK, SIZE, CORE, PART, PRIO and STEP. -/
structure ImageOf where
  lnum : Nat
  rank : Nat
  size : Nat
  core : Nat
  part : Nat
  prio : Nat
  steps : Nat
  deriving DecidableEq, Repr

/-- The header's MAGIC. -/
def imageMagic : Nat := 0x4D494B46

/-- The 256-byte header (R198). -/
def Core.imageHeader (k : Core) (x : ImageOf) (full inflight : Bool) (secs : List (List Byte)) : List Byte :=
  let body := secs.flatMap pad64
  toBytes 4 imageMagic ++ toBytes 2 1 ++ toBytes 2 (b2n full + 2 * b2n inflight) ++ toBytes 4 (256 + body.length) ++
    toBytes 4 x.lnum ++ toBytes 2 x.rank ++ toBytes 2 x.size ++ toBytes 2 x.core ++ toBytes 1 x.part ++ toBytes 1 x.prio ++
    toBytes 4 x.steps ++ toBytes 4 k.regs.shadv ++ toBytes 8 k.mlive ++ zeros 24 ++ directory 256 secs ++ zeros 56 ++ sm3 body

/-- The image size S (R198, R201). -/
def Core.imageSize (k : Core) (full : Bool) : Nat :=
  256 + ((k.sections 0 full).map fun x => (pad64 x).length).foldl (fun a b => a + b) 0

end Sys2Proof.Machine
end

