-- ==== Sys2Proof/Machine/Restore.lean ====
section
/-! DEFINITION. A core's state taken from the sections of its image (R205 steps 1 and 3): every section of whose bytes
the spec gives the layout is read back; the rest is kept by the device as it was saved (log 129). -/

namespace Sys2Proof.Machine

open Sys2Proof

/-- Section `k` of an image, as the directory of its header places it (R198). -/
def imageSection (bs : List Byte) (k : Nat) : List Byte :=
  slice bs (leAt bs (56 + 8 * k) 4) (leAt bs (60 + 8 * k) 4)

/-- Bytes, none where all of them are zero. -/
def orEmpty (bs : List Byte) : List Byte := if bs.all fun b => b == 0 then [] else bs

/-- Words, none where all of them are zero. -/
def wordsOf (bs : List Byte) (n : Nat) : List Word :=
  if bs.all fun b => b == 0 then [] else (List.range n).map fun j => BitVec.ofNat 32 (leAt bs (4 * j) 4)

/-! ### The records (R118, R132, R126, R316, R327, R391) -/

/-- A tile table entry read back. -/
def Tile.load (t : Tile) (w : Nat) : Tile :=
  { t with state := bits w 62 2, poison := bit w 61, valid := bit w 60, count := bits w 32 16, base := bits w 17 15,
           len := bits w 0 16 }

/-- A bobbin read back. -/
def Bobbin.load (b : Bobbin) (w : Nat) : Bobbin :=
  { b with wp := bits w 48 16, rp := bits w 32 16, slots := bits w 16 8, err := bit w 15, poison := bit w 14, infl := bits w 4 10 }

/-- A node's descriptor and position read back. -/
def Node.load (n : Node) (bs : List Byte) : Node :=
  let p := leAt bs 64 8
  { n with desc := (List.range n.desc.length).map fun i => leAt bs (8 * i) 8,
           i0 := bits p 0 16, i1 := bits p 16 16, i2 := bits p 32 16, i3 := bits p 48 16 }

/-- The lock bits that 256 bytes hold. -/
def locksOf (bs : List Byte) : List Nat := (List.range 2048).filter fun i => bit (leAt bs (i / 8) 1) (i % 8)

/-- A colour read back from its 256 bytes. -/
def Colour.load (c : Colour) (bs : List Byte) : Colour :=
  { c with
    regs := (List.range 32).map fun i => { val := BitVec.ofNat 32 (leAt bs (4 * i) 4), poison := bit (leAt bs 128 4) i },
    shape := (List.range c.shape.length).map fun j => bits (leAt bs 136 8) (5 * j) 5 + 1,
    prio := leAt bs 144 1, sret := bit (leAt bs 145 1) 0, depth := bits (leAt bs 152 8) 56 8, top := bits (leAt bs 152 8) 3 53 * 8 }

/-- A stream register read back. -/
def Stream.load (bs : List Byte) : Stream :=
  { base := leAt bs 0 8, len := leAt bs 8 4, pos := leAt bs 12 4, lastkey := leAt bs 16 4, flags := leAt bs 20 4 }

/-- A step register read back. -/
def SsReg.load (w : Nat) : SsReg := { mode := bits w 62 2, value := BitVec.ofNat 32 w }

/-- A guard register read back. -/
def GdReg.load (a b : Nat) : GdReg :=
  { emax := BitVec.ofNat 32 a, smax := BitVec.ofNat 32 (a / 2 ^ 32), nf := bit b 2, sen := bit b 1, een := bit b 0 }

/-- A binding read back; its buffer is reloaded from its table. -/
def Binding.load (b : Binding) (bs : List Byte) : Binding :=
  let w := leAt bs 0 8
  { b with bound := bit w 63, skein := bits w 0 56, prog := (List.range (leAt bs 8 1)).map fun j => leAt bs (60 + 2 * j) 2,
           cands := (List.range (leAt bs 9 1)).map fun i => b.cands.getD i { tok := 0xFFFFFFFF, val := 0 },
           poisoned := bit (leAt bs 10 2) 0, nonfin := bit (leAt bs 10 2) 1, temp := BitVec.ofNat 32 (leAt bs 12 4),
           vocab := leAt bs 16 4, maskptr := leAt bs 20 8,
           ks := (List.range 8).map fun i => BitVec.ofNat 32 (leAt bs (28 + 4 * i) 4) }

/-! ### The sections -/

/-- The numbered registers of a list read back. -/
def loadAll {α : Type} (l : List (Nat × α)) (f : Nat → α → α) : List (Nat × α) := l.map fun p => (p.1, f p.1 p.2)

/-- Section 1: tiles, bobbins, nodes, lock bits and the trap ring. -/
def Core.load1 (k : Core) (bs : List Byte) : Core :=
  { k with tiles := loadAll k.tiles fun i t => t.load (leAt bs (8 * i) 8),
           bobbins := loadAll k.bobbins fun i b => b.load (leAt bs (2048 + 8 * i) 8),
           nodes := loadAll k.nodes fun i n => n.load (slice bs (2176 + 128 * i) 128),
           locks := locksOf (slice bs 4224 256),
           scratch := memWrite k.scratch (k.regs.ringAddr 0) (slice bs 4480 2048) }

/-- Section 2: the live colours, colour 0 first. -/
def Core.load2 (k : Core) (bs : List Byte) : Core :=
  let order := (k.colours.insertionSort fun a b => decide (a.id ≤ b.id)).map fun c => c.id
  (List.zipIdx order).foldl (fun k p => k.modColour p.1 fun c => c.load (slice bs (256 * p.2) 256)) k

/-- Section 4: the address and the signature of each mapped block. -/
def Core.load4 (k : Core) (bs : List Byte) : Core :=
  { k with mappings := (List.zipIdx k.mappings).map fun p =>
      { p.1 with block := leAt bs (32 * p.2) 8, sig := leAt bs (32 * p.2 + 8) 8 } }

/-- The lanes of a run from index `first` on, read back from 128 bytes. -/
def loadLanes (first : Nat) (bs : List Byte) (ls : List Lane) : List Lane :=
  (List.zipIdx ls).map fun p => { p.1 with val := BitVec.ofNat 32 (leAt bs (4 * ((first + p.2) % 32)) 4) }

/-- Section 5: the lanes of the parked requests. -/
def Core.load5 (k : Core) (bs : List Byte) : Core :=
  { k with held := (List.zipIdx k.held).map fun p =>
      let f := p.1.firing
      let o := 288 * p.2
      { p.1 with firing := { f with left := loadLanes f.first (slice bs (o + 32) 128) f.left,
                                    right := loadLanes f.first (slice bs (o + 160) 128) f.right } } }

/-- The entries of one queue read back from an offset on. -/
def loadEntries (bs : List Byte) : Nat → List QEntry → List QEntry
  | _, [] => []
  | o, e :: es => { QEntry.ofBytes (slice bs o 256) with rel := e.rel, src := e.src } :: loadEntries bs (o + 256) es

/-- Section 6: the queue entries on chip, q0 first. -/
def Core.load6 (k : Core) (bs : List Byte) : Core :=
  let start := fun (q : Nat) => 256 * ((List.range q).map fun i => (k.queue i).entries.length).sum
  { k with queues := loadAll k.queues fun q x => { x with entries := loadEntries bs (start q) x.entries } }

/-- The offset of a register in section 7 whose place in the order of MLIVE is `n`. -/
def liveOffset (live n : Nat) : Nat :=
  224 + ((List.range n).map fun i =>
    if !bit live i then 0 else if i < 8 then 16384 else if i < 24 then 8448 else 1024).sum

/-- Section 7: the matrix registers; one that MLIVE does not mark restores as zero. -/
def Core.load7 (k : Core) (live : Nat) (bs : List Byte) : Core :=
  let at1 := fun (n len : Nat) => slice bs (liveOffset live n) len
  { k with pts := loadAll k.pts fun i _ => leAt bs (8 * i) 8,
           sss := loadAll k.sss fun i _ => SsReg.load (leAt bs (128 + 8 * i) 8),
           gds := loadAll k.gds fun i _ => GdReg.load (leAt bs (160 + 16 * i) 8) (leAt bs (168 + 16 * i) 8),
           accs := loadAll k.accs fun i a => if bit live i then a.setCur (wordsOf (at1 i 16384) 4096) else AccReg.zero,
           mas := loadAll k.mas fun i m =>
             if bit live (8 + i) then
               { m with data := orEmpty ((at1 (8 + i) 8448).take 8192), scale := orEmpty ((at1 (8 + i) 8448).drop 8192) }
             else MaReg.zero,
           mds := loadAll k.mds fun i m =>
             if bit live (24 + i) then { m with data := orEmpty (at1 (24 + i) 1024) } else MdReg.zero }

/-- Section 8: the camera and stream registers. -/
def Core.load8 (k : Core) (bs : List Byte) : Core :=
  { k with cams := loadAll k.cams fun i c => { c with bytes := orEmpty (slice bs (128 * i) 128) },
           streams := loadAll k.streams fun i _ => Stream.load (slice bs (1024 + 64 * i) 64) }

/-- Section 9: the Spindle. -/
def Core.load9 (k : Core) (bs : List Byte) : Core :=
  { k with binds := loadAll k.binds fun i b => b.load (slice bs (256 * i) 256) }

/-- Section 10: the scratchpad in the carried range, the frame pool left out. -/
def Core.load10 (k : Core) (bs : List Byte) : Core :=
  let n := k.regs.carried
  let p := k.poolRange
  let low := min n p.1
  { k with scratch := memWrite (memWrite k.scratch 0 (slice bs 0 low)) p.2 (slice bs low (n - p.2)) }

/-- The scratchpad after a restore (R197): the carried range, the rest zero and not poisoned. -/
def Core.restoreScratch (k : Core) : List Host.Cell :=
  let n := k.regs.carried
  let p := k.poolRange
  memClear (memClear k.scratch p.1 p.2) n 0x200000

/-- The poisoned lines of the scratchpad after a restore. -/
def Core.restorePoison (k : Core) : List Nat :=
  let p := k.poolRange
  k.scratchPoison.filter fun a => decide (a < k.regs.carried) && !(decide (p.1 ≤ a) && decide (a < p.2))

/-! ### Instances, frames and tokens (R205 steps 4 to 6) -/

/-- A list changed from its first element on, each element by the number of the records that come before its own; the
first component is the number behind the last. -/
def mapFrom {α : Type} (f : Nat → α → Nat × α) : Nat → List α → Nat × List α
  | n, [] => (n, [])
  | n, x :: xs =>
    let r := f n x
    let q := mapFrom f r.1 xs
    (q.1, r.2 :: q.2)

/-- An instance read back from its record: its block, the outputs counted, whether the branch is taken, and where it
stands. -/
def Instance.loadRec (i : Instance) (bs : List Byte) : Instance :=
  { i with block := leAt bs 8 8, counted := leAt bs 16 1, branchDone := leAt bs 17 1 != 0,
           status := if leAt bs 63 1 = 0 then .pending else if leAt bs 63 1 = 1 then .admitted else .parked }

/-- Section 3: the instances, in the order of admission. -/
def Core.load3 (k : Core) (bs : List Byte) : Core :=
  (List.zipIdx k.imageInsts).foldl (fun k p => k.modInst p.1.iid fun i => i.loadRec (slice bs (64 * p.2) 64)) k

/-- The lanes of a position that stand in a frame, with the values that the frame has for them; of several at one index
the frame holds the first. -/
def loadInFrame (v : Nat → Nat) (ws : List Waiting) : List Waiting :=
  (List.range 32).foldl (fun ws j => modFirst (fun w => w.spilled && w.idx == j)
    (fun w => { w with lane := { w.lane with val := BitVec.ofNat 32 (v j) } }) ws) ws

/-- The value of a lane in a frame. -/
def frameVal (bs : List Byte) (slot pos j : Nat) : Nat :=
  if pos = 3 then bits (leAt bs (0x4C + 16 * slot) 4) j 1 else leAt bs (0x840 + 256 * slot + (if pos = 2 then 128 else 0) + 4 * j) 4

/-- What an instance holds in its frame read back. -/
def Instance.loadFrame (i : Instance) (bs : List Byte) : Instance :=
  { i with ops := i.ops.map fun o =>
      { o with left := loadInFrame (frameVal bs o.slot 1) o.left, right := loadInFrame (frameVal bs o.slot 2) o.right,
               pred := loadInFrame (frameVal bs o.slot 3) o.pred } }

/-- Section 11: the allocated pool frames. -/
def Core.load11 (k : Core) (bs : List Byte) : Core :=
  { k with instances := (mapFrom (fun n i => match i.frame with
      | some (.pool _) => (n + 1, i.loadFrame (slice bs (0x9040 * n + 64) 0x9000))
      | _ => (n, i)) 0 k.instances).2 }

/-- The lane of an index in the record of a token. -/
def tokenLane (bs : List Byte) (n j : Nat) : Lane :=
  { val := BitVec.ofNat 32 (leAt bs (160 * n + 32 + 4 * j) 4), poison := bit (leAt bs (160 * n + 20) 4) j }

/-- The lanes of a run read back from the record of its token. -/
def Run.loadToken (r : Run) (bs : List Byte) (n : Nat) : Run :=
  { r with lanes := (List.range r.lanes.length).map fun j => tokenLane bs n (r.first + j) }

/-- The tokens that wait at a position outside the frame read back, from record `n` on. -/
def loadStored (bs : List Byte) (n : Nat) (ws : List Waiting) : Nat × List Waiting :=
  let rs := tokenRuns (ws.filter fun w => !w.spilled)
  (n + rs.length, (List.zipIdx rs).foldl (fun ws q => ws.map fun w =>
    if !w.spilled && w.tok == q.1.1 && decide (q.1.2.1 ≤ w.idx) && decide (w.idx < q.1.2.1 + q.1.2.2) then
      { w with lane := tokenLane bs (n + q.2) w.idx } else w) ws)

/-- What waits at a slot outside the frame read back. -/
def SlotOps.loadStored (bs : List Byte) (n : Nat) (o : SlotOps) : Nat × SlotOps :=
  let a := Machine.loadStored bs n o.left
  let b := Machine.loadStored bs a.1 o.right
  let c := Machine.loadStored bs b.1 o.pred
  let d := Machine.loadStored bs c.1 o.scale
  (d.1, { o with left := a.2, right := b.2, pred := c.2, scale := d.2 })

/-- A matched set with the lanes of one of its tokens read back. -/
def Firing.withRun (f : Firing) (slot pos : Nat) (r : Run) : Firing :=
  if pos = 1 ∧ slot = f.slot then { f with left := r.lanes }
  else if pos = 1 then { f with third := r.lanes }
  else if pos = 2 then { f with right := r.lanes }
  else f

/-- Section 12: the tokens in the matching stores, then those of the sets in the issue queues. -/
def Core.load12 (k : Core) (bs : List Byte) : Core :=
  let a := mapFrom (fun n (i : Instance) =>
    let r := mapFrom (SlotOps.loadStored bs) n i.ops
    (r.1, { i with ops := r.2 })) 0 k.instances
  let b := mapFrom (fun n (f : Firing) => match k.inst? f.iid with
    | none => (n, f)
    | some i =>
      let ts := k.setTokens i f
      (n + ts.length, (List.zipIdx ts).foldl (fun f q => f.withRun q.1.1 q.1.2.1 (q.1.2.2.loadToken bs (n + q.2))) f)) a.1 k.issueQ
  { k with instances := a.2, issueQ := b.2 }

/-- Section 13: the tokens on the switch network. -/
def Core.load13 (k : Core) (bs : List Byte) : Core :=
  { k with inflight := (mapFrom (fun n (t : Token) =>
      if (k.inst? t.iid).isSome then
        (n + 1, { t with slot := leAt bs (160 * n + 16) 1, pos := leAt bs (160 * n + 17) 1, run := t.run.loadToken bs n })
      else (n, t)) 0 k.inflight).2 }

/-- The sections that only a full image has. -/
def Core.loadFull (k : Core) (x : Nat → List Byte) : Core := ((k.load11 (x 11)).load12 (x 12)).load13 (x 13)

/-- A core's state from its image (R205): what the device keeps of it, with the sections read back. The scratchpad has
what the image carries, the trap ring among it. -/
def Core.loadImage (k0 : Core) (bs : List Byte) : Core :=
  let live := leAt bs 32 8
  let x := imageSection bs
  let k := { k0 with scratch := k0.restoreScratch, scratchPoison := k0.restorePoison }
  let k1 := (((((((k.load10 (x 10)).load1 (x 1)).load2 (x 2)).load4 (x 4)).load5 (x 5)).load6 (x 6)).load7 live (x 7)).load8 (x 8)
    |>.load9 (x 9)
  let k2 := if bit (leAt bs 6 2) 0 then k1.loadFull x else k1
  k2.load3 (x 3)

end Sys2Proof.Machine
end

