-- ==== Sys2Proof/Machine/Preempt.lean ====
section
/-! DEFINITION. Pre-emption and restore (R78, R195 to R207, R391): PREEMPT_GATING, QUIESCENCE, DRAIN_LIMIT_EXPIRY,
IMAGE_SAVE, SAVE_RESUME, SAVE_ABANDON, PREEMPT_RETRY and LAUNCH_RESTORE. -/

namespace Sys2Proof.Machine

open Sys2Proof

/-! ### Gating (R195, R207) -/

/-- Whether a launch takes part in a collective: it has arrived, or a rank of it stands in the group (R183). -/
def Launch.inColl (l : Launch) (x : Coll) : Bool :=
  x.arrived.any (CollPart.ofLaunch l.lid) ||
    x.group.any fun e => bits e 48 12 == Config.moduleId.toNat && bits e 44 4 == l.part && bits e 0 32 == l.record.lnum

/-- The modules and groups that must hear of a launch's absence: the other modules of each collective that is open and
in which the launch takes part, whether it has arrived or not (R183, R207). -/
def State.openProxies (s : State) (l : Launch) : List (Nat × Nat) :=
  (s.colls.filter l.inColl).flatMap fun x => (otherModules x.group).map fun m => (m, x.gid)

/-- PREEMPT_GATING (R195, R207): nodes, the Shuttle and admission stop on every core of the set, and the absence
tokens are sent. -/
def execPreemptGating (lid : Nat) (s : State) : Host.Outcome State Fault Refusal :=
  match s.launch lid with
  | none => .next s
  | some l =>
    if l.phase != .preempting || (l.cores.all fun c => (s.core c).gated) then .next s
    else
      let s1 := l.cores.foldl (fun s c => s.modCore c fun k => { k with gated := true }) s
      let ps := s1.openProxies l
      let s2 := ps.foldl (fun s q => s.sendPacket q.1 3 2 (some lid) [q.1, q.2] []) s1
      .next (s2.modLaunch lid fun x => { x with proxies := x.proxies ++ ps })

/-! ### The drain (R195) -/

/-- Whether a request holds up quiescence: it is in progress, and not one that waits. -/
def Held.inProgress (h : Held) : Bool :=
  match h.wait with
  | .flight => true
  | .atomic _ => true
  | .port => true
  | .grant _ => true
  | .remote => true
  | _ => false

/-- Whether a request is that of a commit on a core: a commit asks anew after a restore. -/
def Ask.byCommit (q : Ask) (c : Nat) : Bool :=
  match q.asker with
  | .commit a _ => a == c
  | _ => false

/-- Whether a core waits for another module's answer. -/
def State.asksOut (s : State) (c : Nat) : Bool :=
  s.asks.any fun q => (match q.asker with
    | .op a _ _ _ => a == c
    | .engine a _ => a == c
    | .commit a _ => a == c) && (match q.st with
    | .sent _ => true
    | _ => false)

/-- Whether a core is at rest: no token on the switch network, no set that can issue, no operation in progress. -/
def Core.atRest (k : Core) : Bool :=
  k.inflight.isEmpty && k.nothingIssues && !(k.held.any Held.inProgress)

/-- Whether no operand token waits in a matching store or a frame (R195 step 3). -/
def Core.noTokens (k : Core) : Bool :=
  k.issueQ.isEmpty && k.instances.all fun i =>
    i.parkedSets.isEmpty && i.ops.all fun o => o.left.isEmpty && o.right.isEmpty && o.pred.isEmpty && o.scale.isEmpty

/-- The virtual address of a save slot (R200). -/
def State.slotAddr (s : State) (p slot : Nat) : Nat :=
  let x := s.part p
  wrapVa (x.saveBase * 65536 + slot * x.saveSlotSz * 65536)

/-- Whether a save slot holds an image or a save under way. -/
def State.slotTaken (s : State) (p slot : Nat) : Bool :=
  (s.images.any fun x => x.part == p && x.slot == slot) ||
    s.cores.any fun q => match q.2.placed, q.2.saving with
      | some pl, some x => pl.part == p && x.slot == slot && x.slot != 65536
      | _, _ => false

/-- The lowest free slot. -/
def State.freeSlot (s : State) (p : Nat) : Option Nat :=
  (List.range (s.part p).saveSlots).find? fun i => !s.slotTaken p i

/-! ### A restored core (R197, R205, R206, R336) -/

/-- A place on another core of a set that has moved. -/
def Loc.moved (f : Nat → Nat) : Loc → Loc
  | .scratch c a => .scratch (f c) a
  | l => l

/-- An effect whose places have moved. -/
def Effect.moved (f : Nat → Nat) : Effect → Effect
  | .store slot gs => .store slot (gs.map fun g => { g with loc := g.loc.moved f })
  | .nodeData n gs => .nodeData n (gs.map fun g => { g with loc := g.loc.moved f })
  | .lockClear c a => .lockClear (f c) a
  | .push slot va l r => .push slot va (l.moved f) r
  | e => e

/-- An instance whose places have moved; its waiting lanes stand in its frame, and its sets run on the elements
of its mapping. -/
def Instance.restored (f : Nat → Nat) (elem : Nat → Nat) (i : Instance) : Instance :=
  { i with ops := i.ops.map SlotOps.spill, effects := i.effects.map (fun e => (e.1, e.2.moved f)),
           frameBad := i.frameBad && i.status == .parked,
           accs := i.accs.map (fun a => { a with line := a.line.moved f }),
           parkedSets := i.parkedSets.map fun x => { x with elem := elem x.slot } }

/-- A waiting request after a restore: what waited for an answer to a fault or for a collective is tried again, and a
lock bit is that of the core that its core's set has now. -/
def Wait.restored (f : Nat → Nat) : Wait → Wait
  | .lock c a => .lock (f c) a
  | .fault _ => .flight
  | .collective _ => .flight
  | .collTurn _ => .flight
  | .atomic _ => .flight
  | w => w

/-- A node after a restore, whose position the image has given: the elements in the matrix operand path are read again,
and a fault is met afresh. -/
def Core.restoreNode (k : Core) (p : Nat × Node) : Nat × Node :=
  let m := k.untaken p.1
  let n : Node := { p.2 with ahead := p.2.ahead - m, state := if m ≠ 0 ∧ p.2.state = 2 then 1 else p.2.state }
  (p.1, if n.state = 3 ∧ n.fault ≠ some trapHeld then { n with state := 1, fault := none } else n)

/-- What withholds an engine's entry after a restore: a trap still does, a fault of the host's is met afresh. -/
def keepTrap (w : Option Nat) : Option Nat := if w = some trapHeld then w else none

/-- The accumulator whose shadow bank an image does not carry: its words are open after a restore. -/
def AccReg.restored (base i : Nat) (a : AccReg) : AccReg :=
  let fresh := (List.range 4096).map fun j => BitVec.ofNat 32 (Config.freeNat (base + i * 4096 + j))
  if !a.written then AccReg.zero else if a.active then { a with bank0 := fresh } else { a with bank1 := fresh }

/-- A core's state from its image, on a core that may be another one (R205, R206). -/
def Core.restored (k old : Core) (f : Nat → Nat) (base : Nat) : Core :=
  let elem := fun (i : Instance) (slot : Nat) => match k.mapping? i.block with
    | some m => m.elem slot
    | none => 0
  let elemOf := fun (x : Firing) => match k.inst? x.iid with
    | some i => elem i x.slot
    | none => x.elem
  { k with
    regs := { k.regs with elret := old.regs.elret }, deadLinks := old.deadLinks,
    gated := true, frozen := true, saving := none, placed := old.placed,
    scratchRecs := [], tlb := [], matPath := [],
    instances := k.instances.map (fun i => i.restored f (elem i)),
    issueQ := k.issueQ.map (fun x => { x with elem := elemOf x }),
    held := k.held.map (fun h => { h with wait := h.wait.restored f, firing := { h.firing with elem := elemOf h.firing } }),
    nodes := k.nodes.map k.restoreNode,
    shuttle := k.shuttle.map (fun e => { e with withheld := keepTrap e.withheld }),
    reel := k.reel.map (fun m => { m with withheld := keepTrap m.withheld }),
    accs := k.accs.map (fun p => (p.1, p.2.restored base p.1)),
    nextIid := max k.nextIid old.nextIid }

/-- Open values drawn for the shadow banks of eight accumulators. -/
def State.drawBanks (s : State) : Nat × State := (s.freeCtr, { s with freeCtr := s.freeCtr + 32768 })

/-! ### Failure (R201 to R203) -/

/-- The save-area fault that colour 0 of a core has when a pre-emption fails. -/
def State.saveTrap (s : State) (addr detail c : Nat) : State := s.raise c (Trap.untied 0x0F addr detail 0 .untied)

/-- Whether a core has written a full image. -/
def Core.wroteFull (k : Core) : Bool :=
  match k.saving with
  | some x => x.full && x.complete
  | none => false

/-- A core that goes on in place after a failed pre-emption: its state is on chip, and its gating is lifted. -/
def State.goOn (s : State) (addr detail c : Nat) : State :=
  (s.modCore c fun k => { k with gated := false, frozen := false, saving := none }).saveTrap addr detail c

/-- A core that has written a full image when a pre-emption fails: it is emptied, and LAUNCH_RESTORE restores it from
that image on the same core (R201, R205). -/
def State.goBack (s : State) (l : Launch) (addr detail c : Nat) : State :=
  let s1 := s.saveTrap addr detail c
  let k := s1.core c
  let img := fun (x : Image) => if x.lid == l.lid && x.rank == s.coreRank c then { x with kept := { k with saving := none } } else x
  match k.placed with
  | none => s1
  | some p =>
    { s1.setCore c { k.fresh (s.part l.part).supvec p with gated := true, frozen := true } with images := s1.images.map img }

/-- A pre-emption that has failed (R201, R203): every core goes on in place, the ones that wrote a full image once
they are restored from it; the other images are discarded, and a pre-emption for priority is not tried again until a
launch of the partition completes or DR_SAVEAREA is written. -/
def State.failPreempt (s : State) (lid addr detail : Nat) : State :=
  match s.launch lid with
  | none => s
  | some l =>
    let s0 := { s with outstanding := s.outstanding.filter fun o => match o.owner with
      | .save x _ => x != lid
      | _ => true }
    let full := l.cores.filter fun c => (s.core c).wroteFull
    let ranks := full.map s.coreRank
    let s1 := l.cores.foldl (fun s c => if has full c then s.goBack l addr detail c else s.goOn addr detail c) s0
    let s2 := ({ s1 with images := s1.images.filter fun x => x.lid != lid || has ranks x.rank }).withdrawProxies l
    let s3 := s2.modLaunch lid fun x =>
      if full.isEmpty then { x with phase := .running }
      else { x with phase := .resuming, was := x.cores,
                    restored := (List.range x.cores.length).filter fun r => !has ranks r }
    let s4 := match l.pre with
      | some .priority =>
        (s3.modLaunch lid fun x => { x with pre := none }).modPart l.part fun x => { x with noPreempt := addMem x.noPreempt lid }
      | _ => s3
    s4.closeArbour lid

/-! ### The probe (R195, R201) -/

/-- A core that comes to rest for a cancel (R204): it stops without an image. -/
def stopped : Saving :=
  { slot := 65536, full := false, inflight := false, written := 0, fault := none, complete := true, base := 0 }

/-- SAVE_PROBE (R201): the image's size is computed and the lowest free slot taken; with no room the pre-emption
fails. -/
def State.probeSave (s : State) (c : Nat) (l : Launch) (full inflight : Bool) : State :=
  let k := s.core c
  let size := k.imageSize full
  match s.freeSlot l.part with
  | some slot =>
    if size ≤ (s.part l.part).saveSlotSz * 65536 then
      let sv : Saving := { slot := slot, full := full, inflight := inflight, written := 256, fault := none, complete := false,
                           base := s.freeCtr }
      { s.setCore c { k with saving := some sv, frozen := true } with freeCtr := s.freeCtr + 2 ^ 24 }
    else
      (s.postRec { s.coreRec c 8 with detail := size }).failPreempt l.lid (s.slotAddr l.part slot) size
  | none => (s.postRec { s.coreRec c 8 with detail := size }).failPreempt l.lid 0 size

/-- A core that has drained, or whose drain limit has expired: it stops for a cancel, or begins its save. -/
def State.drained (s : State) (c : Nat) (l : Launch) (full inflight : Bool) : State :=
  match l.pre.bind PreReason.status with
  | some _ => (s.modCore c fun k => { k with saving := some stopped, frozen := true }).stopIfDrained l.lid
  | none => s.probeSave c l full inflight

/-- The launch of a core that drains: it is being pre-empted and the core is gated and has not begun its save. -/
def State.draining (s : State) (c : Nat) : Option Launch :=
  match s.coreLaunch c with
  | some l => if l.phase == .preempting && (s.core c).gated && (s.core c).saving.isNone then some l else none
  | none => none

/-- QUIESCENCE (R195): the quiescence tree reports the set at rest, and a core chooses a short or a full image. -/
def execQuiescence (core : Nat) (s : State) : Host.Outcome State Fault Refusal :=
  match s.draining core with
  | none => .next s
  | some l =>
    if l.cores.all fun c => ((s.core c).atRest && !s.asksOut c) || (s.core c).saving.isSome then
      .next (s.drained core l (!(s.core core).noTokens) false)
    else .next s

/-- DRAIN_LIMIT_EXPIRY (R83, R195): D_max has passed, and a full image with the tokens in flight is written. -/
def execDrainLimitExpiry (core : Nat) (s : State) : Host.Outcome State Fault Refusal :=
  match s.draining core with
  | none => .next s
  | some l => .next (s.drained core l true true)

/-! ### The save (R198, R202, R391) -/

/-- Bytes written from a virtual address until a fault: the state, and the fault with its place in the bytes. -/
def saveBytes (place : State → Nat → Except PavFault Loc) (va : Nat) :
    List (Nat × Nat) → List Byte → State → State × Option (Nat × PavFault)
  | [], _, s => (s, none)
  | (a, n) :: r, bs, s =>
    match place s (wrapVa a) with
    | .error e => (s, some (a - va, e))
    | .ok l => saveBytes place va r (bs.drop n) (s.performWrite none { loc := l, bytes := bs.take n, poison := false })

/-- Bytes written from a virtual address of a partition. -/
def State.saveRange (s : State) (p va : Nat) (bs : List Byte) : State × Option (Nat × PavFault) :=
  saveBytes (fun s a => s.pavPlace p true a) va (pieces (bs.length / 64 + 2) va bs.length) bs s

/-- The place of a byte of a skein table for a core's Spindle: in the windows of the core, or through the partition's page
table (R110, R375). -/
def State.tablePlace (s : State) (c p : Nat) (write : Bool) (va : Nat) : Except PavFault Loc :=
  match windowOf (s.setSize c) va with
  | .mapped => s.pavPlace p write va
  | _ =>
    match s.resolve c (if write then .write else .read) va with
    | .ok t => .ok t.loc
    | .error _ => .error (.protection va)

/-- A save write that faults (R202): the core's fabric stays frozen and a type 0x08 record is posted, with the offset in
the image. `next` is where the save goes on. -/
def State.saveFault (s : State) (c : Nat) (l : Launch) (e : PavFault) (off next : Nat) (sv : Saving) : State :=
  let r := (s.noteDevice l.part l.record.lnum e).serviceFault
    { s.coreRec c 8 with write := true, address := e.va, count0 := off } (.save l.lid (s.coreRank c))
  r.1.modCore c fun k => { k with saving := some { sv with written := next, fault := some r.2 } }

/-- The candidate save area of a bound binding (R391): 64 entries of 8 bytes. -/
def Binding.saveArea (b : Binding) : List Byte :=
  (List.range 64).flatMap fun i => match b.cands[i]? with
    | some x => toBytes 4 x.val.toNat ++ toBytes 4 x.tok
    | none => toBytes 4 0 ++ toBytes 4 0xFFFFFFFF

/-- The pieces of a bound binding's candidate save area; one that runs from one window or rank into another is a
protection fault (R110). -/
def State.saveAreaOf (s : State) (c : Nat) (b : Binding) : Except PavFault (List (Nat × Nat)) :=
  let va := b.skein + skeinSave
  if windowOf (s.setSize c) (wrapVa va) ≠ windowOf (s.setSize c) (wrapVa (va + 511)) then .error (.protection (wrapVa va))
  else .ok (pieces 10 va 512)

/-- The buffers of the bound bindings of a core written to their tables, until a fault. -/
def saveCands (c p : Nat) : List (Nat × Binding) → State → State × Option PavFault
  | [], s => (s, none)
  | (_, b) :: r, s =>
    if !b.bound then saveCands c p r s
    else
      match s.saveAreaOf c b with
      | .error e => (s, some e)
      | .ok ps =>
        match saveBytes (fun s a => s.tablePlace c p true a) (b.skein + skeinSave) ps b.saveArea s with
        | (s1, none) => saveCands c p r s1
        | (s1, some q) => (s1, some q.2)

/-- A launch whose every core has written its image: its faults are withdrawn (R58), its cores are released and it
goes back to its queue, or completes NOFIT (R65 to R68, R78). -/
def State.releaseSaved (s : State) (lid : Nat) : State :=
  match s.launch lid with
  | none => s
  | some l =>
    let done := l.cores.all fun c => match (s.core c).saving with
      | some x => x.complete
      | none => false
    if l.phase != .preempting || !done then s
    else
      let s1 := s.withdrawFaults l
      let s2 := l.cores.foldl (fun s c => s.modCore c Core.idle) s1
      let s3 := { s2 with asks := s2.asks.filter fun q => !(l.cores.any q.byCommit) }.leaveColls fun _ a => a.ofLaunch lid
      let s4 := s3.modLaunch lid fun x => { x with phase := .preempted, pre := none }
      (s4.settleRetire.noFits l.part).settle l.part

/-- What the header of a core's image names. -/
def State.imageOf (s : State) (c : Nat) (l : Launch) : ImageOf where
  lnum := l.record.lnum
  rank := s.coreRank c
  size := l.cores.length
  core := c
  part := l.part
  prio := l.prio
  steps := l.steps

/-- IMAGE_SAVE (R198, R391): the candidate buffers, the sections from the next byte on, and the header last are
written, until a fault. -/
def execImageSave (core : Nat) (s : State) : Host.Outcome State Fault Refusal :=
  let k := s.core core
  match k.saving, s.coreLaunch core with
  | some sv, some l =>
    if sv.complete || sv.fault.isSome then .next s
    else
      let slot := s.slotAddr l.part sv.slot
      match saveCands core l.part k.binds s with
      | (s1, some e) => .next (s1.saveFault core l e sv.written sv.written sv)
      | (s1, none) =>
        let k := s1.core core
        let secs := k.sections sv.base sv.full
        let body := secs.flatMap pad64
        match s1.saveRange l.part (slot + sv.written) (body.drop (sv.written - 256)) with
        | (s2, some q) => .next (s2.saveFault core l q.2 (sv.written + q.1) (sv.written + q.1) sv)
        | (s2, none) =>
          match s2.saveRange l.part slot (k.imageHeader (s.imageOf core l) sv.full sv.inflight secs) with
          | (s3, some q) => .next (s3.saveFault core l q.2 q.1 (256 + body.length) sv)
          | (s3, none) =>
            let img : Image := { part := l.part, slot := sv.slot, lid := l.lid, rank := s.coreRank core, full := sv.full,
                                 size := 256 + body.length, kept := { s3.core core with saving := none } }
            let s4 := { s3 with images := s3.images ++ [img] }
            .next ((s4.modCore core fun k => { k with saving := some { sv with complete := true } }).releaseSaved l.lid)
  | _, _ => .next s

/-! ### Answers to save faults (R202) -/

/-- The outstanding save or restore fault that an answer names. -/
def State.saveAnswered (s : State) (p id : Nat) : Option Outstanding :=
  s.outstanding.find? fun o => o.part == p && o.id == id && (match o.owner with
    | .save _ _ => true
    | .restore _ _ => true
    | _ => false)

/-- The core of a rank of a launch. -/
def State.rankOf (s : State) (lid rank : Nat) : Option Nat := (s.launch lid).bind fun l => l.cores[rank]?

/-- SAVE_RESUME (R202): the image goes on from the recorded offset; or the image's read is tried again. -/
def execSaveResume (part id : Nat) (s : State) : Host.Outcome State Fault Refusal :=
  match s.saveAnswered part id with
  | none => .next s
  | some o =>
    let s1 := s.withdrawFault id
    match o.owner with
    | .save lid rank =>
      match s.rankOf lid rank with
      | some c => .next (s1.modCore c fun k => { k with saving := k.saving.map fun x => { x with fault := none } })
      | none => .next s1
    | _ => .next s1

/-- The address of the slot of a core's save, and the offset in its image at which the save has faulted: 0 where that
was the header, which lies at the slot's address. -/
def State.saveAt (s : State) (c va : Nat) : Nat × Nat :=
  match (s.core c).saving with
  | some x =>
    let a := s.slotAddr (s.corePart c) x.slot
    (a, if decide (a ≤ va) && decide (va < a + 256) then va - a else x.written)
  | none => (0, 0)

/-- SAVE_ABANDON (R202, R205): the pre-emption fails; or the launch whose restore is abandoned ends with ERROR,
DETAIL 0xFFFD. -/
def execSaveAbandon (part id : Nat) (s : State) : Host.Outcome State Fault Refusal :=
  match s.saveAnswered part id with
  | none => .next s
  | some o =>
    let s1 := s.withdrawFault id
    match o.owner with
    | .save lid rank =>
      match s.rankOf lid rank with
      | some c => .next (s1.failPreempt lid (s.saveAt c o.va).1 (s.saveAt c o.va).2)
      | none => .next s1
    | .restore lid _ => .next (s1.endLaunch lid 4 0xFFFD)
    | _ => .next s1

/-- PREEMPT_RETRY (R203): a failed pre-emption for a resize or a retirement is tried again. -/
def execPreemptRetry (lid : Nat) (s : State) : Host.Outcome State Fault Refusal :=
  match s.launch lid with
  | none => .next s
  | some l =>
    if l.phase == .running && (l.pre == some .resize || l.pre == some .retire) then
      .next (s.modLaunch lid fun x => { x with phase := .preempting })
    else .next s

/-! ### Restore (R205) -/

/-- An image's bytes read from its slot and checked: MAGIC, VERSION and DIGEST. -/
def imageGood (bs : List Byte) : Bool :=
  leAt bs 0 4 == imageMagic && leAt bs 4 2 == 1 && slice bs 224 32 == sm3 (bs.drop 256)

/-- A mapping placed on a restored core, with its routes (R66, R106); without room, or without a route, it stands
frozen until CONFIG_RELOAD maps it. -/
def Core.seatMapping (k : Core) (m : Mapping) : Mapping :=
  let off := { m with frozen := true, off := true, eccElems := [] }
  match k.placeFor m.size m.nslot with
  | none => off
  | some p =>
    match k.routesFor { m with x0 := p.2.1, y0 := p.2.2 } with
    | .error _ => off
    | .ok rt => { m with b := p.1, x0 := p.2.1, y0 := p.2.2, routes := rt, frozen := false, eccElems := [], off := false }

/-- A block whose signature differs from that of an image, as memory now stands (R205 step 2): mapped, where it passes its
checks; else it stands frozen for its instances' sake, and without any is mapped no more. -/
def State.seatChanged (s : State) (c : Nat) (m : Mapping) (k : Core) : List Mapping :=
  let mine := k.instances.any fun i => i.block == m.block
  match s.readBlockAt c m.block with
  | .ok (x, _) => [k.seatMapping { x with lastUse := m.lastUse, resOrdinary := m.resOrdinary, differs := mine }]
  | .error _ => if mine then [{ m with frozen := true, off := true, differs := true, eccElems := [] }] else []

/-- The mappings of a restored core (R205 step 2): each block is fetched, and mapped in a place on this core, one whose
signature differs as memory now stands. The second component lists the blocks that differ, each with its new signature,
or with the fault of its fetch. -/
def State.remapAll (s : State) (c : Nat) : List Mapping → Core → Core × List (Mapping × Except MapErr Nat)
  | [], k => (k, [])
  | m :: ms, k =>
    let sig := (s.fetchBytes c m.block m.byteLen).map sm3First64
    let same := match sig with
      | .ok x => x == m.sig
      | .error _ => false
    let placed := if same then [k.seatMapping { m with differs := false }] else s.seatChanged c m k
    let r := s.remapAll c ms { k with mappings := k.mappings ++ placed }
    (r.1, if same then r.2 else (m, sig) :: r.2)

/-- What the instances of a block meet that differs from an image's (R205 step 2). -/
def State.restoreTrap (s : State) (c : Nat) (q : Mapping × Except MapErr Nat) : State :=
  match q.2 with
  | .ok sig => s.trapInsts c q.1.block (fun _ => true) 0x0D q.1.block (Config.signatureDetail q.1.sig sig).toNat
  | .error (.access e va) => s.fetchFail c q.1 (fun _ => true) e va
  | .error _ => s

/-- The bytes of a bound binding's candidate save area. -/
def State.readSaveArea (s : State) (c p : Nat) (b : Binding) : Except PavFault (List Byte) := do
  let ps ← s.saveAreaOf c b
  let ls ← ps.mapM fun q => (s.tablePlace c p false (wrapVa q.1)).map fun l => s.readLoc l q.2
  return ls.flatten

/-- The fault of reading a candidate save area that an image names, where one cannot be read. -/
def State.candFault (s : State) (c p : Nat) (bs : List (Nat × Binding)) : Option PavFault :=
  bs.findSome? fun q =>
    if !q.2.bound then none
    else
      match s.readSaveArea c p q.2 with
      | .error e => some e
      | .ok _ => none

/-- A binding with its buffer reloaded from its table, without a check (R391). -/
def State.reloadCands (s : State) (c p : Nat) (b : Binding) : Binding :=
  if !b.bound then b
  else
    match s.readSaveArea c p b with
    | .error _ => b
    | .ok bs =>
      { b with cands := (List.range b.cands.length).map fun i =>
          { tok := leAt bs (8 * i + 4) 4, val := BitVec.ofNat 32 (leAt bs (8 * i) 4) } }

/-- The buffers of a core that has been restored reloaded, once every core of its set has its scratchpad again. -/
def State.reloadBinds (s : State) (p c : Nat) : State :=
  if (s.core c).frozen then s.modCore c fun k => { k with binds := k.binds.map fun q => (q.1, s.reloadCands c p q.2) } else s

/-- A launch whose every core is restored runs (R205, R207): the withdrawals are sent, the gating is lifted, and a
pre-emption asked for meanwhile begins. One whose pre-emption failed keeps the reason for which it is tried again. -/
def State.finishRestore (s : State) (lid : Nat) : State :=
  match s.launch lid with
  | none => s
  | some l =>
    if !((List.range l.cores.length).all fun r => has l.restored r) then s
    else
      let s0 := l.cores.foldl (fun s c => s.reloadBinds l.part c) (s.withdrawProxies l)
      let s1 := l.cores.foldl (fun s c => s.modCore c fun k => { k with gated := false, frozen := false }) s0
      ((s1.modLaunch lid fun x =>
        if x.again then { x with again := false, phase := .preempting }
        else if x.pre.isSome then { x with phase := .running }
        else { x with phase := .running, resized := false, retired := false }).settle l.part).closeArbour lid

/-- A core restored from its image (R205, R206): its state comes back, its blocks are mapped, its launch header names
the core, and every instance of a block whose signature differs traps. -/
def State.restoreCore (s : State) (c : Nat) (l : Launch) (img : Image) (bs : List Byte) : State :=
  let old := s.core c
  let f := l.coreNow
  let kept := img.kept.loadImage bs
  let m := s.remapAll c kept.mappings
    { kept with mappings := [], regs := { kept.regs with elret := old.regs.elret }, deadLinks := old.deadLinks }
  let d := s.drawBanks
  let k1 := m.1.restored old f d.1
  let k2 := { k1 with scratch := memWrite k1.scratch 8 (toBytes 2 c) }
  let s1 := { d.2.setCore c k2 with images := s.images.filter fun x => !(x.lid == l.lid && x.rank == img.rank) }
  let s2 := m.2.foldl (fun s q => s.restoreTrap c q) s1
  (s2.modLaunch l.lid fun x => { x with restored := addMem x.restored img.rank }).finishRestore l.lid

/-- Whether a restore of a rank waits for an answer. -/
def State.restoreWaits (s : State) (lid rank : Nat) : Bool := s.outstanding.any fun o => o.owner == .restore lid rank

/-- LAUNCH_RESTORE (R205): a core of a launch that resumes reads its image, checks it and is restored. DESIGN CHOICE:
a poisoned line of the image fails the check, and a candidate save area that cannot be read is met as the image's own
(log 129). -/
def execLaunchRestore (core : Nat) (s : State) : Host.Outcome State Fault Refusal :=
  match s.coreLaunch core with
  | none => .next s
  | some l =>
    let rank := s.coreRank core
    if l.phase != .resuming || has l.restored rank || s.restoreWaits l.lid rank then .next s
    else
      match s.images.find? fun x => x.lid == l.lid && x.rank == rank with
      | none => .next (s.endLaunch l.lid 4 0xFFFD)
      | some img =>
        let fail := fun (e : PavFault) =>
          ((s.noteDevice l.part l.record.lnum e).serviceFault { s.coreRec core 8 with address := e.va } (.restore l.lid rank)).1
        match s.pavRead l.part (s.slotAddr l.part img.slot) img.size with
        | .error e => .next (fail e)
        | .ok ps =>
          let bs := ps.map fun b => b.1
          if !imageGood bs || ps.any fun b => b.2 then .next (s.endLaunch l.lid 4 0xFFFD)
          else
            match s.candFault core l.part (img.kept.load9 (imageSection bs 9)).binds with
            | some e => .next (fail e)
            | none => .next (s.restoreCore core l img bs)

end Sys2Proof.Machine
end

