-- ==== Sys2Proof/Machine/HostRegs.lean ====
section
/-! DEFINITION. The host's accesses (R5, R6, R34 to R38, R41): REGISTER_WRITE, by the register maps of every device
register; what a read of a register or of a launch window returns; and BAR4_ACCESS. -/

namespace Sys2Proof.Machine

open Sys2Proof

/-! ### Register writes (R5, R6) -/

/-- The state that a device step leaves. -/
def State.after (s : State) (o : Host.Outcome State Fault Refusal) : State :=
  match o with
  | .next t => t
  | _ => s

/-- The index of a register that repeats at a stride, where an offset is one of them. -/
def regIndex (base stride n off : Nat) : Option Nat :=
  if base ≤ off ∧ (off - base) % stride = 0 ∧ (off - base) / stride < n then some ((off - base) / stride) else none

/-- DR_PARTCFG (R39): ERR is cleared by a 1; EN and GRANULES are changed, or refused. DESIGN
CHOICE: VFWIN reads back as it is taken, 6 after a write of 7 (log 152). -/
def State.writePartcfg (s : State) (p v : Nat) : State :=
  let s1 := s.modPart p fun x =>
    { x with fsvc := bit v 61, home := bit v 60, err := x.err && !bit v 47, vfwin := min 6 (bits v 44 3), ptroot := bits v 12 32 }
  let s2 := if bit v 63 then s1.enable p else s1.disable p
  s2.resize p (bits v 48 8)

/-- DR_TLBINV (R114). -/
def State.writeTlbinv (s : State) (p v : Nat) : State :=
  if bit v 63 then s.after (execTlbInvalidate p (bits v 60 2) (bits v 16 40 * 65536) s)
  else s.modPart p fun x => { x with tlbSize := bits v 60 2, tlbVa := bits v 16 40 * 65536 }

/-- DR_RACECFG (R167): ignored while any partition has EN set. -/
def State.writeRacecfg (s : State) (v : Nat) : State :=
  if s.parts.any fun p => p.2.en then s else { s with raceLimit := min 1024 (bits v 48 16), raceBase := bits v 16 32 }

/-- Whether a partition's save slots are in use (R200). -/
def State.savesBusy (s : State) (p : Nat) : Bool :=
  (s.images.any fun x => x.part == p) || (s.launches.any fun l => l.part == p && l.phase == .resuming) ||
    s.cores.any fun q => match q.2.placed with
      | some pl => pl.part == p && q.2.saving.isSome
      | none => false

/-- DR_SAVEAREA (R200, R203). -/
def State.writeSavearea (s : State) (p v : Nat) : State :=
  if s.savesBusy p then s
  else s.modPart p fun x =>
    { x with saveSlotSz := bits v 56 8, saveBase := bits v 16 40, saveSlots := bits v 0 16, noPreempt := [] }

/-- DR_SAVERESP (R202). -/
def State.writeSaveresp (s : State) (p v : Nat) : State :=
  s.after (if bit v 16 then execSaveAbandon p (bits v 0 16) s else execSaveResume p (bits v 0 16) s)

/-- DR_FAULTRESP (R57). -/
def State.writeFaultresp (s : State) (p v : Nat) : State :=
  s.after (if bit v 16 then execFaultResponseFail p (bits v 0 16) s else execFaultResponseRetry p (bits v 0 16) s)

/-- DR_FQCTL (R54). -/
def State.writeFqctl (s : State) (i v : Nat) : State :=
  s.modFq i fun q => { q with en := bit v 31, overflow := q.overflow && !bit v 30, cspace := bit v 29,
                              wfault := q.wfault && !bit v 28, log2n := bits v 16 4 }

/-- DR_CORERET (R68): a write with RETIRE set is ignored while a retirement is under way. -/
def State.writeCoreret (s : State) (v : Nat) : State :=
  if !bit v 31 then { s with retCore := bits v 0 10 }
  else if !s.retiring.isEmpty then s
  else ({ s with retCore := bits v 0 10 }).retireCore (bits v 0 10) true

/-- DR_TWSTAT (R25): RETIRE goes before RETRAIN. -/
def State.writeTwstat (s : State) (n v : Nat) : State :=
  if bit v 28 then s.retirePort n else if bit v 29 then s.after (execPortRetrain n s) else s

/-- DR_FWCTL (R32): a LOAD resets the device with the retired cores, elements and switch links that it has. -/
def State.writeFwctl (s : State) (v : Nat) : State :=
  let found : FabricFaults :=
    { elems := (s.cores.map fun q => (q.1, q.2.regs.elret)).filter fun e => e.2 != 0,
      links := s.cores.flatMap fun q => q.2.deadLinks.map fun l => (q.1, l) }
  if bit v 31 then s.after (execFirmwareLoad (bits v 0 16) s.retired found s)
  else { s with fw := { s.fw with len := bits v 0 16 } }

/-- DR_MEASCTL (R32). -/
def State.writeMeasctl (s : State) (v : Nat) : State :=
  if bit v 31 then s.after (execMeasurementExtend (bits v 0 3) s)
  else { s with attest := { s.attest with measReg := bits v 0 3 } }

/-- The device-wide registers of the first region (R17, R18, R32). -/
def State.writeDevice (s : State) (off v : Nat) : State :=
  match off with
  | 0x0C => s.writeFwctl v
  | 0x200 => { s with attest := { s.attest with dig := toBytes 32 v } }
  | 0x220 => s.writeMeasctl v
  | 0x240 => { s with attest := { s.attest with nonce := toBytes 32 v } }
  | 0x260 => if bit v 31 then s.after (execQuoteBuild s) else s
  | 0x800 => s.after (execPowerCapWrite (BitVec.ofNat 32 v) s)
  | 0x804 => { s with power := { s.power with hardSag := s.power.hardSag && !bit v 3 } }
  | _ => s

/-- The registers of a partition (R39, R43, R52, R57, R60, R62, R114, R143, R187, R200, R202): which one an
offset names, as a number of this list and the partition. -/
def partReg (off : Nat) : Option (Nat × Nat) :=
  [(0x10000, 8), (0x10080, 8), (0x10800, 4), (0x10C00, 8), (0x10D00, 8), (0x10E00, 8), (0x10E80, 8), (0x10F80, 4),
   (0x30400, 4), (0x30480, 8)].zipIdx.findSome? fun q => (regIndex q.1.1 q.1.2 16 off).map fun p => (q.2, p)

/-- A register of a partition written. -/
def State.writePartReg (s : State) (which p v : Nat) : State :=
  match which with
  | 0 => s.writePartcfg p v
  | 1 => s.modPart p fun x => { x with lspillSize := bits v 32 32, lspillBase := bits v 0 32 }
  | 2 => s.modPart p fun x => { x with pdelta := bits v 16 4, ageus := bits v 0 16 }
  | 3 => s.writeTlbinv p v
  | 4 => s.modPart p fun x => { x with storeCount := min 64 (bits v 49 7), storeBase := bits v 7 41 }
  | 5 => s.modPart p fun x => { x with supvec := bits v 6 50 }
  | 6 => s.writeSavearea p v
  | 7 => s.writeSaveresp p v
  | 8 => s.writeFaultresp p v
  | _ => s.cancel p (bits v 0 32)

/-- A fault queue's register written (R54); DR_FQHEAD is read-only. -/
def State.writeFq (s : State) (i reg v : Nat) : State :=
  match reg with
  | 0 => s.modFq i fun q => { q with base := v % 2 ^ 64 }
  | 8 => s.writeFqctl i v
  | 24 => s.modFq i fun q => { q with tail := v % 2 ^ 32 }
  | _ => s

/-- A write of one register through PF BAR0 (R34, R35), whole; offsets that name no register, and read-only
registers, ignore it (R5, R6). -/
def State.writeReg (s : State) (off v : Nat) : State :=
  if off < 0x10000 then s.writeDevice off v
  else
    match partReg off with
    | some (w, p) => s.writePartReg w p v
    | none =>
      if off = 0x10A00 then s.writeCoreret v
      else if off = 0x10C80 then s.writeRacecfg v
      else if 0x30000 ≤ off ∧ off < 0x30000 + 32 * 17 then s.writeFq ((off - 0x30000) / 32) ((off - 0x30000) % 32) v
      else if 0x101000 ≤ off ∧ off < 0x101000 + 32 * 4096 then
        (if off % 8 = 0 then s.writeRoute ((off - 0x101000) / 32) (off % 32 / 8) v else s)
      else if 0x1000000 ≤ off ∧ off < 0x4000000 then
        { s with fw := { s.fw with recovery := memWrite s.fw.recovery (off - 0x1000000) (toBytes 4 v) } }
      else
        match regIndex 0x100000 4 24 off with
        | some n => s.writeTwstat n v
        | none => s

/-- The PF register that a writable register of VF n's BAR0 is (R36). -/
def vfReg (n off : Nat) : Option Nat :=
  match off with
  | 0x200 => some (0x30000 + 32 * n)
  | 0x208 => some (0x30008 + 32 * n)
  | 0x210 => some (0x30010 + 32 * n)
  | 0x218 => some (0x30018 + 32 * n)
  | 0x300 => some (0x30400 + 4 * n)
  | 0x308 => some (0x30480 + 8 * n)
  | 0x310 => some (0x10F80 + 4 * n)
  | 0x400 => some (0x10C00 + 8 * n)
  | _ => none

/-- REGISTER_WRITE (R5): through the PF, or through VF n, where only some registers take it (R36). -/
def execRegisterWrite (vf : Option Nat) (offset value : Nat) (s : State) : Host.Outcome State Fault Refusal :=
  match vf with
  | none => .next (s.writeReg offset value)
  | some n =>
    match vfReg n offset with
    | some off => .next (if n < 16 then s.writeReg off value else s)
    | none => .next s

/-! ### Register reads (R5, R6, R35, R36, R41) -/

/-- DR_ID (R32): the part code, the stepping and the module identifier. -/
def regId : Nat := 0x1024 * 2 ^ 48 + Config.stepping.toNat * 2 ^ 40 + Config.moduleId.toNat

/-- The device-wide registers of the first region (R17, R18, R32, R142), each with its offset, its bytes and what a read
of it returns; DR_QUOTE and the 32-byte registers as little-endian numbers. -/
def State.deviceRegs (s : State) : List (Nat × Nat × Nat) :=
  let a := s.attest
  [(0x00, 8, regId), (0x08, 4, s.fw.state * 2 ^ 29 + s.fw.fail * 2 ^ 16 + s.fw.secver), (0x0C, 4, s.fw.len),
    (0x200, 32, ofBytes a.dig), (0x220, 4, a.measReg), (0x240, 32, ofBytes a.nonce),
    (0x260, 4, b2n a.qBusy * 2 ^ 30 + b2n a.qDone * 2 ^ 29), (0x400, 368, ofBytes a.quote), (0x800, 4, s.power.capw),
    (0x804, 4, s.power.sagstat)] ++
    ((List.range 8).map fun i => (0x100 + 32 * i, 32, ofBytes (a.meas.getD i []))) ++
    (List.range 16).map fun i => (0x1000 + 8 * i, 8, aget 0 s.stkerr i)

/-- DR_PARTCFG (R39). -/
def Part.cfgReg (p : Part) : Nat :=
  b2n p.en * 2 ^ 63 + b2n p.busy * 2 ^ 62 + b2n p.fsvc * 2 ^ 61 + b2n p.home * 2 ^ 60 + p.granules * 2 ^ 48 +
    b2n p.err * 2 ^ 47 + p.vfwin * 2 ^ 44 + p.ptroot * 2 ^ 12

/-- The bits of a set of numbers below 64 from `lo` on. -/
def wordFrom (p : Nat → Bool) (lo : Nat) : Nat := maskOf ((List.range 64).map fun j => p (lo + j))

/-- DR_PARTMAP (R60): word 0, then word 1. -/
def State.partmapReg (s : State) (p : Nat) : Nat := wordFrom (s.owns p) 0 + 2 ^ 64 * wordFrom (s.owns p) 64

/-- A register of the partition region (R35, R43, R60, R62, R114, R143, R167, R170, R187, R200), with its start and what
a read returns; DR_SAVERESP is write-only and reads as zero. -/
def State.readPartReg (s : State) (off : Nat) : Option (Nat × Nat) :=
  let row := fun (base stride n : Nat) (f : Nat → Nat) =>
    (regIndex base stride n (base + (off - base) / stride * stride)).bind fun i =>
      if off < base then none else some (base + stride * i, f i)
  let part := fun (base stride : Nat) (f : Part → Nat) => row base stride 16 fun p => f (s.part p)
  [part 0x10000 8 Part.cfgReg, part 0x10080 8 (fun p => p.lspillSize * 2 ^ 32 + p.lspillBase),
    part 0x10800 4 (fun p => p.pdelta * 2 ^ 16 + p.ageus), row 0x10900 16 16 s.partmapReg,
    row 0x10A00 4 1 (fun _ => b2n (!s.retiring.isEmpty) * 2 ^ 30 + s.retCore), row 0x10A40 8 16 (fun i => wordFrom s.isRetired (64 * i)),
    part 0x10C00 8 (fun p => b2n p.tlbGo.isSome * 2 ^ 62 + p.tlbSize * 2 ^ 60 + p.tlbVa),
    row 0x10C80 8 1 (fun _ => s.raceLimit * 2 ^ 48 + s.raceBase * 2 ^ 16), row 0x10CC0 4 8 (fun n => s.scopes.getD n 0),
    part 0x10D00 8 (fun p => p.storeCount * 2 ^ 49 + p.storeBase * 2 ^ 7), part 0x10E00 8 (fun p => p.supvec * 64),
    part 0x10E80 8 (fun p => p.saveSlotSz * 2 ^ 56 + p.saveBase * 2 ^ 16 + p.saveSlots)].findSome? id

/-- DR_ACCEPTED (R42). -/
def State.acceptedReg (s : State) (p q : Nat) : Nat := aget 0 (s.part p).accepted q

/-- A fault queue's four registers as one value of 32 bytes (R35, R54). -/
def FaultQ.regs (q : FaultQ) : Nat :=
  q.base + 2 ^ 64 * (b2n q.en * 2 ^ 31 + b2n q.overflow * 2 ^ 30 + b2n q.cspace * 2 ^ 29 + b2n q.wfault * 2 ^ 28 +
    q.log2n * 2 ^ 16 + q.lost) + 2 ^ 128 * q.head + 2 ^ 192 * q.tail

/-- DR_TWSTAT (R25). -/
def Port.statReg (p : Port) : Nat := b2n p.retired * 2 ^ 31 + b2n p.up * 2 ^ 30 + p.lasting * 2 ^ 16 + p.trans

/-- A route-table entry's four words as one value of 32 bytes (R26). -/
def Route.regs (r : Route) : Nat :=
  r.primary + 2 ^ 64 * r.alternate + 2 ^ 128 * (b2n r.altFail * 2 + b2n r.priFail)

/-- The register that an offset of PF BAR0 lies in (R34, R35): where it starts, and what a read of it returns. The
write-only registers DR_FAULTRESP, DR_CANCEL and DR_SAVERESP read as zero, as reserved offsets do (R5, R6). -/
def State.regAt (s : State) (off : Nat) : Nat × Nat :=
  if off < 0x10000 then
    match s.deviceRegs.find? fun r => decide (r.1 ≤ off) && decide (off < r.1 + r.2.1) with
    | some r => (r.1, r.2.2)
    | none => (off, 0)
  else if off < 0x20000 then (s.readPartReg off).getD (off, 0)
  else if off < 0x20400 then (off / 4 * 4, s.acceptedReg ((off - 0x20000) / 64) ((off - 0x20000) / 4 % 16))
  else if 0x30000 ≤ off ∧ off < 0x30000 + 32 * 17 then (off / 32 * 32, (s.fq ((off - 0x30000) / 32)).regs)
  else if 0x100000 ≤ off ∧ off < 0x100060 then (off / 4 * 4, (s.port ((off - 0x100000) / 4)).statReg)
  else if 0x100080 ≤ off ∧ off < 0x100084 then (0x100080, s.undel)
  else if 0x101000 ≤ off ∧ off < 0x101000 + 32 * 4096 then (off / 32 * 32, (s.route ((off - 0x101000) / 32)).regs)
  else if 0x1000000 ≤ off ∧ off < 0x4000000 then (off / 4 * 4, ofBytes (memRead s.fw.recovery (off / 4 * 4 - 0x1000000) 4))
  else (off, 0)

/-- A read of 4 bytes at an offset of PF BAR0 that is a multiple of 4: a wider register is read word by word. -/
def State.readReg (s : State) (off : Nat) : Nat := bits (s.regAt off).2 (8 * (off - (s.regAt off).1)) 32

/-- The PF offset of what VF `n` sees at an offset of its BAR0 (R36). -/
def vfReadOff (n off : Nat) : Option Nat :=
  [(0x000, 8, 0x10000 + 8 * n), (0x008, 8, 0x10080 + 8 * n), (0x010, 4, 0x10800 + 4 * n), (0x020, 16, 0x10900 + 16 * n),
    (0x100, 64, 0x20000 + 64 * n), (0x200, 32, 0x30000 + 32 * n), (0x300, 4, 0x30400 + 4 * n), (0x308, 8, 0x30480 + 8 * n),
    (0x310, 4, 0x10F80 + 4 * n), (0x400, 8, 0x10C00 + 8 * n), (0x500, 8, 0x10D00 + 8 * n), (0x508, 8, 0x10E80 + 8 * n),
    (0x510, 8, 0x10E00 + 8 * n)].findSome? fun r =>
      if r.1 ≤ off ∧ off < r.1 + r.2.1 then some (r.2.2 + (off - r.1)) else none

/-- A read of 4 bytes at an offset of VF `n`'s BAR0 (R36): partition n's registers, zero elsewhere. -/
def State.vfRead (s : State) (n off : Nat) : Nat :=
  match vfReadOff n off with
  | some a => s.readReg a
  | none => 0

/-- A read of 4 bytes at an offset of the launch-window page of partition `p` and priority `q` (R41). -/
def State.readWindow (s : State) (p q off : Nat) : Nat := if off = 0 then s.acceptedReg p q else 0

/-! ### BAR4 (R33, R34, R37, R168) -/

/-- The bytes of a function's BAR4 window on a link: 2^VFWIN GiB for a VF; for a PF what the host has set, 1 GiB to 1
TiB in powers of two (log 130). -/
def State.windowSize (s : State) (part link func : Nat) : Nat :=
  if func = 0 then 2 ^ 30 * 2 ^ min 10 (Config.pfWindow link) else 2 ^ 30 * 2 ^ min 6 (s.part part).vfwin

/-- BAR4_ACCESS (R34): a host's or peer's read or write through a function on a link, of the address space of partition
`part` through a PF, and of partition n through VF n, which is function n + 1. One that cannot be serviced is an
Unsupported Request, reported through AER. -/
def execBar4Access (part0 link func va : Nat) (access : HostAccess) (s : State) : Host.Outcome State Fault Refusal :=
  let part := if func = 0 then part0 else func - 1
  if s.inRecovery || decide (16 < func) then .next s
  else
    let bad := fun (read : Bool) (s : State) => (if read then s.emit .unsupported else s).emit (.aer link func)
    match access with
    | .read n =>
      if s.windowSize part link func < va + n then .next (bad true s)
      else
        match s.pavRead part va n with
        | .error e => .next (bad true (s.noteDevice part 0 e))
        | .ok bs => .next (s.emit (.readData (bs.map fun b => b.1) (bs.any fun b => b.2)))
    | .write bs =>
      if s.windowSize part link func < va + bs.length then .next (bad false s)
      else
        match s.pavRange part true va bs.length with
        | .error e => .next (bad false (s.noteDevice part 0 e))
        | .ok ls => .next ((writePieces ls bs s).clearRecs ls)

end Sys2Proof.Machine
end

