-- ==== Sys2Proof/Machine/Dispatch.lean ====
section
/-! DEFINITION. The dispatch: one arm per constructor of Instr, each a call of the instruction's
own meaning. -/

namespace Sys2Proof.Machine

open Sys2Proof

/-- What executing an instruction does to the machine. -/
def exec (i : Instr) (s : State) : Host.Outcome State Fault Refusal :=
  match i with
  | .bra h d => Sys2Proof.Machine.execBra h d s
  | .bri h => Sys2Proof.Machine.execBri h s
  | .callb h dc dr => Sys2Proof.Machine.execCallb h dc dr s
  | .retb h => Sys2Proof.Machine.execRetb h s
  | .spawn h ds => Sys2Proof.Machine.execSpawn h ds s
  | .sret h => Sys2Proof.Machine.execSret h s
  | .tagenter h width => Sys2Proof.Machine.execTagenter h width s
  | .tagleave h => Sys2Proof.Machine.execTagleave h s
  | .read h reg => Sys2Proof.Machine.execRead h reg s
  | .write h reg => Sys2Proof.Machine.execWrite h reg s
  | .phase h => Sys2Proof.Machine.execPhase h s
  | .join h => Sys2Proof.Machine.execJoin h s
  | .rep h n stride => Sys2Proof.Machine.execRep h n stride s
  | .shadv h => Sys2Proof.Machine.execShadv h s
  | .bobinit h slots bob => Sys2Proof.Machine.execBobinit h slots bob s
  | .bobwait h n bob => Sys2Proof.Machine.execBobwait h n bob s
  | .bobrel h count bob => Sys2Proof.Machine.execBobrel h count bob s
  | .syscall h code => Sys2Proof.Machine.execSyscall h code s
  | .brk h code => Sys2Proof.Machine.execBrk h code s
  | .trapif h => Sys2Proof.Machine.execTrapif h s
  | .eret h => Sys2Proof.Machine.execEret h s
  | .endl h => Sys2Proof.Machine.execEndl h s
  | .mfsr h num => Sys2Proof.Machine.execMfsr h num s
  | .mtsr h num => Sys2Proof.Machine.execMtsr h num s
  | .const h value => Sys2Proof.Machine.execConst h value s
  | .mov h => Sys2Proof.Machine.execMov h s
  | .add h ty => Sys2Proof.Machine.execAdd h ty s
  | .sub h ty => Sys2Proof.Machine.execSub h ty s
  | .mul h ty => Sys2Proof.Machine.execMul h ty s
  | .mulh h ty => Sys2Proof.Machine.execMulh h ty s
  | .mad h ty => Sys2Proof.Machine.execMad h ty s
  | .div h ty => Sys2Proof.Machine.execDiv h ty s
  | .rem h ty => Sys2Proof.Machine.execRem h ty s
  | .and h => Sys2Proof.Machine.execAnd h s
  | .or h => Sys2Proof.Machine.execOr h s
  | .xor h => Sys2Proof.Machine.execXor h s
  | .andn h => Sys2Proof.Machine.execAndn h s
  | .shl h ty => Sys2Proof.Machine.execShl h ty s
  | .shr h ty => Sys2Proof.Machine.execShr h ty s
  | .sra h ty => Sys2Proof.Machine.execSra h ty s
  | .rotl h => Sys2Proof.Machine.execRotl h s
  | .clz h => Sys2Proof.Machine.execClz h s
  | .popc h => Sys2Proof.Machine.execPopc h s
  | .min h ty => Sys2Proof.Machine.execMin h ty s
  | .max h ty => Sys2Proof.Machine.execMax h ty s
  | .abs h ty => Sys2Proof.Machine.execAbs h ty s
  | .neg h ty => Sys2Proof.Machine.execNeg h ty s
  | .addsat h ty => Sys2Proof.Machine.execAddsat h ty s
  | .subsat h ty => Sys2Proof.Machine.execSubsat h ty s
  | .cmp h ty => Sys2Proof.Machine.execCmp h ty s
  | .sel h => Sys2Proof.Machine.execSel h s
  | .tst h => Sys2Proof.Machine.execTst h s
  | .extr h sgn pos len => Sys2Proof.Machine.execExtr h sgn pos len s
  | .ins h pos len => Sys2Proof.Machine.execIns h pos len s
  | .lea h sh => Sys2Proof.Machine.execLea h sh s
  | .packn h ty => Sys2Proof.Machine.execPackn h ty s
  | .unpackn h ty half => Sys2Proof.Machine.execUnpackn h ty half s
  | .unt5 h ty => Sys2Proof.Machine.execUnt5 h ty s
  | .acct h ty => Sys2Proof.Machine.execAcct h ty s
  | .dotp h ty => Sys2Proof.Machine.execDotp h ty s
  | .fadd h ty => Sys2Proof.Machine.execFadd h ty s
  | .faddRounding h ty rm => Sys2Proof.Machine.execFaddRounding h ty rm s
  | .fsub h ty => Sys2Proof.Machine.execFsub h ty s
  | .fsubRounding h ty rm => Sys2Proof.Machine.execFsubRounding h ty rm s
  | .fmul h ty => Sys2Proof.Machine.execFmul h ty s
  | .fmulRounding h ty rm => Sys2Proof.Machine.execFmulRounding h ty rm s
  | .fma h ty => Sys2Proof.Machine.execFma h ty s
  | .fmaRounding h ty rm => Sys2Proof.Machine.execFmaRounding h ty rm s
  | .fmin h ty => Sys2Proof.Machine.execFmin h ty s
  | .fmax h ty => Sys2Proof.Machine.execFmax h ty s
  | .fsgn h ty mode => Sys2Proof.Machine.execFsgn h ty mode s
  | .fcmp h ty cond => Sys2Proof.Machine.execFcmp h ty cond s
  | .fclass h ty => Sys2Proof.Machine.execFclass h ty s
  | .fcvt h group rm src dst => Sys2Proof.Machine.execFcvt h group rm src dst s
  | .frint h ty rm => Sys2Proof.Machine.execFrint h ty rm s
  | .fexpi h ty => Sys2Proof.Machine.execFexpi h ty s
  | .fexpiRounding h ty rm => Sys2Proof.Machine.execFexpiRounding h ty rm s
  | .fgetx h ty => Sys2Proof.Machine.execFgetx h ty s
  | .fdiv h ty => Sys2Proof.Machine.execFdiv h ty s
  | .fdivRounding h ty rm => Sys2Proof.Machine.execFdivRounding h ty rm s
  | .fsqrt h ty => Sys2Proof.Machine.execFsqrt h ty s
  | .fsqrtRounding h ty rm => Sys2Proof.Machine.execFsqrtRounding h ty rm s
  | .frcp h => Sys2Proof.Machine.execFrcp h s
  | .frsq h => Sys2Proof.Machine.execFrsq h s
  | .frcps h => Sys2Proof.Machine.execFrcps h s
  | .frsqs h => Sys2Proof.Machine.execFrsqs h s
  | .fexp2f h => Sys2Proof.Machine.execFexp2f h s
  | .flog2f h => Sys2Proof.Machine.execFlog2f h s
  | .vrun h count first => Sys2Proof.Machine.execVrun h count first s
  | .vred h ty => Sys2Proof.Machine.execVred h ty s
  | .vscan h ty => Sys2Proof.Machine.execVscan h ty s
  | .vbcast h j => Sys2Proof.Machine.execVbcast h j s
  | .vlane h mode k => Sys2Proof.Machine.execVlane h mode k s
  | .vshuf h => Sys2Proof.Machine.execVshuf h s
  | .viota h offset => Sys2Proof.Machine.execViota h offset s
  | .ld h ty => Sys2Proof.Machine.execLd h ty s
  | .st h ty => Sys2Proof.Machine.execSt h ty s
  | .ldv h sh high => Sys2Proof.Machine.execLdv h sh high s
  | .stv h high => Sys2Proof.Machine.execStv h high s
  | .atom h opc ord scope g hi => Sys2Proof.Machine.execAtom h opc ord scope g hi s
  | .cas h ord scope g hi => Sys2Proof.Machine.execCas h ord scope g hi s
  | .ldlk h => Sys2Proof.Machine.execLdlk h s
  | .stul h => Sys2Proof.Machine.execStul h s
  | .fence h kind scope => Sys2Proof.Machine.execFence h kind scope s
  | .pref h => Sys2Proof.Machine.execPref h s
  | .tstateFill h => Sys2Proof.Machine.execTstateFill h s
  | .tstatePublish h => Sys2Proof.Machine.execTstatePublish h s
  | .tstateDrain h => Sys2Proof.Machine.execTstateDrain h s
  | .tstateRelease h => Sys2Proof.Machine.execTstateRelease h s
  | .twait h => Sys2Proof.Machine.execTwait h s
  | .sopen h node => Sys2Proof.Machine.execSopen h node s
  | .sclose h node => Sys2Proof.Machine.execSclose h node s
  | .grows h tile desc rowoff => Sys2Proof.Machine.execGrows h tile desc rowoff s
  | .scat h tile desc rowoff => Sys2Proof.Machine.execScat h tile desc rowoff s
  | .cwalk h first cnt => Sys2Proof.Machine.execCwalk h first cnt s
  | .stld h a => Sys2Proof.Machine.execStld h a s
  | .sisect h n b a => Sys2Proof.Machine.execSisect h n b a s
  | .sunion h n b a => Sys2Proof.Machine.execSunion h n b a s
  | .sdiff h n b a => Sys2Proof.Machine.execSdiff h n b a s
  | .smadd h fp n b a => Sys2Proof.Machine.execSmadd h fp n b a s
  | .snext h n a => Sys2Proof.Machine.execSnext h n a s
  | .stst h a => Sys2Proof.Machine.execStst h a s
  | .cred h op fmt mode scope => Sys2Proof.Machine.execCred h op fmt mode scope s
  | .cbc h scope root => Sys2Proof.Machine.execCbc h scope root s
  | .cag h scope => Sys2Proof.Machine.execCag h scope s
  | .ca2a h scope => Sys2Proof.Machine.execCa2a h scope s
  | .mld h fmt reg tile pten pt t mo kind => Sys2Proof.Machine.execMld h fmt reg tile pten pt t mo kind s
  | .mst h fmt reg tile pten pt t mo kind => Sys2Proof.Machine.execMst h fmt reg tile pten pt t mo kind s
  | .mzero h acc int empty => Sys2Proof.Machine.execMzero h acc int empty s
  | .mma h fmt acc ma mb => Sys2Proof.Machine.execMma h fmt acc ma mb s
  | .mmsp h fmt acc ma mb md pat => Sys2Proof.Machine.execMmsp h fmt acc ma mb md pat s
  | .mcomp h fmt ma ms md pat gap => Sys2Proof.Machine.execMcomp h fmt ma ms md pat gap s
  | .mqnt h fmt acc ma gap orient => Sys2Proof.Machine.execMqnt h fmt acc ma gap orient s
  | .mdeq h df sf ma ms strict => Sys2Proof.Machine.execMdeq h df sf ma ms strict s
  | .mtrn h ma ms => Sys2Proof.Machine.execMtrn h ma ms s
  | .maccr h acc row half w => Sys2Proof.Machine.execMaccr h acc row half w s
  | .mcor h acc mk mv ss gd n half => Sys2Proof.Machine.execMcor h acc mk mv ss gd n half s
  | .mtri h acc mk ss c => Sys2Proof.Machine.execMtri h acc mk ss c s
  | .mwy h acc atri mk mv gd c => Sys2Proof.Machine.execMwy h acc atri mk mv gd c s
  | .mstep h ss mode => Sys2Proof.Machine.execMstep h ss mode s
  | .mgrd h gd => Sys2Proof.Machine.execMgrd h gd s
  | .ptset h pt half => Sys2Proof.Machine.execPtset h pt half s
  | .ptop h pd pa pb op => Sys2Proof.Machine.execPtop h pd pa pb op s
  | .ply h acc mq mk mv first causal => Sys2Proof.Machine.execPly h acc mq mk mv first causal s
  | .plyc h a b => Sys2Proof.Machine.execPlyc h a b s
  | .plyf h acc => Sys2Proof.Machine.execPlyf h acc s
  | .warp h => Sys2Proof.Machine.execWarp h s
  | .reel h append => Sys2Proof.Machine.execReel h append s
  | .camld h bv => Sys2Proof.Machine.execCamld h bv s
  | .camst h bv => Sys2Proof.Machine.execCamst h bv s
  | .camcomp h bvd bvs => Sys2Proof.Machine.execCamcomp h bvd bvs s
  | .pgath h bv tile rowoff psel => Sys2Proof.Machine.execPgath h bv tile rowoff psel s
  | .pmarch h bv tile rowoff psel => Sys2Proof.Machine.execPmarch h bv tile rowoff psel s
  | .pscat h bv tile rowoff => Sys2Proof.Machine.execPscat h bv tile rowoff s
  | .pstep h store => Sys2Proof.Machine.execPstep h store s
  | .pstat h clr which bv => Sys2Proof.Machine.execPstat h clr which bv s
  | .skbind h bind => Sys2Proof.Machine.execSkbind h bind s
  | .spin h bind => Sys2Proof.Machine.execSpin h bind s
  | .draw h bind => Sys2Proof.Machine.execDraw h bind s
  | .skupd h inc bind => Sys2Proof.Machine.execSkupd h inc bind s
  | .skrd h word bind => Sys2Proof.Machine.execSkrd h word bind s
  | .skwr h word bind => Sys2Proof.Machine.execSkwr h word bind s
  | .deviceReset cores elems => Sys2Proof.Machine.execDeviceReset cores elems s
  | .supplySagTrip die => Sys2Proof.Machine.execSupplySagTrip die s
  | .stretchStepUp die => Sys2Proof.Machine.execStretchStepUp die s
  | .stretchStepDown die => Sys2Proof.Machine.execStretchStepDown die s
  | .packagePowerOverCap => Sys2Proof.Machine.execPackagePowerOverCap s
  | .hardSagStop die => Sys2Proof.Machine.execHardSagStop die s
  | .hardSagRestart die => Sys2Proof.Machine.execHardSagRestart die s
  | .powerCapWrite value => Sys2Proof.Machine.execPowerCapWrite value s
  | .twinikFlitReceive port header payload check => Sys2Proof.Machine.execTwinikFlitReceive port header payload check s
  | .twinikNakReceive port seq => Sys2Proof.Machine.execTwinikNakReceive port seq s
  | .twinikAckReceive module id => Sys2Proof.Machine.execTwinikAckReceive module id s
  | .undeliverableResponse module alternate packet => Sys2Proof.Machine.execUndeliverableResponse module alternate packet s
  | .portRetrain port => Sys2Proof.Machine.execPortRetrain port s
  | .portRetrainDone port ok => Sys2Proof.Machine.execPortRetrainDone port ok s
  | .portRetire port => Sys2Proof.Machine.execPortRetire port s
  | .routeTableWrite module word value => Sys2Proof.Machine.execRouteTableWrite module word value s
  | .handoverTransfer hand res => Sys2Proof.Machine.execHandoverTransfer hand res s
  | .handoverRetry passed => Sys2Proof.Machine.execHandoverRetry passed s
  | .firmwareLoad len cores elems => Sys2Proof.Machine.execFirmwareLoad len cores elems s
  | .measurementExtend reg => Sys2Proof.Machine.execMeasurementExtend reg s
  | .quoteBuild => Sys2Proof.Machine.execQuoteBuild s
  | .registerWrite vf offset value => Sys2Proof.Machine.execRegisterWrite vf offset value s
  | .bar4Access part link func va access => Sys2Proof.Machine.execBar4Access part link func va access s
  | .launchWindowWrite vf offset bytes => Sys2Proof.Machine.execLaunchWindowWrite vf offset bytes s
  | .launchAccept part prio bad => Sys2Proof.Machine.execLaunchAccept part prio bad s
  | .spillReturn part prio bad => Sys2Proof.Machine.execSpillReturn part prio bad s
  | .partitionEnable part => Sys2Proof.Machine.execPartitionEnable part s
  | .partitionDisable part => Sys2Proof.Machine.execPartitionDisable part s
  | .partitionResize part granules => Sys2Proof.Machine.execPartitionResize part granules s
  | .waitWordPoll lid => Sys2Proof.Machine.execWaitWordPoll lid s
  | .launchAging lid us => Sys2Proof.Machine.execLaunchAging lid us s
  | .placementPass part => Sys2Proof.Machine.execPlacementPass part s
  | .argumentCopy lid => Sys2Proof.Machine.execArgumentCopy lid s
  | .launchComplete lid => Sys2Proof.Machine.execLaunchComplete lid s
  | .launchCancel part lnum => Sys2Proof.Machine.execLaunchCancel part lnum s
  | .launchWatchdogExpiry lid => Sys2Proof.Machine.execLaunchWatchdogExpiry lid s
  | .watchdogTrapUnanswered lid => Sys2Proof.Machine.execWatchdogTrapUnanswered lid s
  | .withheldFaultRecordPost queue => Sys2Proof.Machine.execWithheldFaultRecordPost queue s
  | .faultResponseRetry part id => Sys2Proof.Machine.execFaultResponseRetry part id s
  | .faultResponseFail part id => Sys2Proof.Machine.execFaultResponseFail part id s
  | .coreRetire core device usable => Sys2Proof.Machine.execCoreRetire core device usable s
  | .launchResume lid => Sys2Proof.Machine.execLaunchResume lid s
  | .tlbInvalidate part size va => Sys2Proof.Machine.execTlbInvalidate part size va s
  | .tlbInvalidateDone part => Sys2Proof.Machine.execTlbInvalidateDone part s
  | .pageWalk core va => Sys2Proof.Machine.execPageWalk core va s
  | .spawnGrant core => Sys2Proof.Machine.execSpawnGrant core s
  | .colourRelease core colour => Sys2Proof.Machine.execColourRelease core colour s
  | .blockAdmission core cycles => Sys2Proof.Machine.execBlockAdmission core cycles s
  | .blockMapping core => Sys2Proof.Machine.execBlockMapping core s
  | .tokenArrival core n => Sys2Proof.Machine.execTokenArrival core n s
  | .instanceCommit core => Sys2Proof.Machine.execInstanceCommit core s
  | .arbourArrival core => Sys2Proof.Machine.execArbourArrival core s
  | .barrierTimeout core k => Sys2Proof.Machine.execBarrierTimeout core k s
  | .frameExhaustion core => Sys2Proof.Machine.execFrameExhaustion core s
  | .queueStall core what => Sys2Proof.Machine.execQueueStall core what s
  | .configEccError core block elem corrected unread => Sys2Proof.Machine.execConfigEccError core block elem corrected unread s
  | .configReload core block => Sys2Proof.Machine.execConfigReload core block s
  | .nodeElementRead core node => Sys2Proof.Machine.execNodeElementRead core node s
  | .shuttleEntryStart core => Sys2Proof.Machine.execShuttleEntryStart core s
  | .shuttleRowCopy core entry => Sys2Proof.Machine.execShuttleRowCopy core entry s
  | .shuttleCompletionPost core => Sys2Proof.Machine.execShuttleCompletionPost core s
  | .burtexAtomic core => Sys2Proof.Machine.execBurtexAtomic core s
  | .atommodeSwitch core => Sys2Proof.Machine.execAtommodeSwitch core s
  | .lockGrant core => Sys2Proof.Machine.execLockGrant core s
  | .reelPageFill core => Sys2Proof.Machine.execReelPageFill core s
  | .scatterWriteBuffer part store n => Sys2Proof.Machine.execScatterWriteBuffer part store n s
  | .worldStepArrival core => Sys2Proof.Machine.execWorldStepArrival core s
  | .worldStepClose part store => Sys2Proof.Machine.execWorldStepClose part store s
  | .collectiveComplete => Sys2Proof.Machine.execCollectiveComplete s
  | .proxyAbsenceReceive module gid => Sys2Proof.Machine.execProxyAbsenceReceive module gid s
  | .proxyWithdrawalReceive module gid => Sys2Proof.Machine.execProxyWithdrawalReceive module gid s
  | .trapDelivery core => Sys2Proof.Machine.execTrapDelivery core s
  | .preemptGating lid => Sys2Proof.Machine.execPreemptGating lid s
  | .quiescence core => Sys2Proof.Machine.execQuiescence core s
  | .drainLimitExpiry core => Sys2Proof.Machine.execDrainLimitExpiry core s
  | .imageSave core => Sys2Proof.Machine.execImageSave core s
  | .saveResume part id => Sys2Proof.Machine.execSaveResume part id s
  | .saveAbandon part id => Sys2Proof.Machine.execSaveAbandon part id s
  | .preemptRetry lid => Sys2Proof.Machine.execPreemptRetry lid s
  | .launchRestore core => Sys2Proof.Machine.execLaunchRestore core s
  | .quoteComplete => Sys2Proof.Machine.execQuoteComplete s

end Sys2Proof.Machine
end

