-- ==== Sys2Proof/Machine/Step.lean ====
section
/-! DEFINITION. One step of the machine, and a state that fetches a given instruction next. -/

namespace Sys2Proof.Machine

open Sys2Proof

/-- One step: the next move is made, the instruction that it comes to is executed, and the frames take what has changed
in their instances (R96). -/
def step (s : State) : Host.Outcome State Fault Refusal :=
  if s.agenda.isEmpty then .next s
  else
    match s.pick with
    | (t, none) => .next t.syncFrames
    | (t, some i) => settled (exec i t)

/-- The state with an instruction, whose bits are numbered as the opcode table numbers them, in the one
slot of a mapped block, with a matched set for it at the head of its element's queue and its issue the
next move. -/
def State.withFetchWord (s : State) (nbits w : Nat) : State := s.placeWord (w % 2 ^ nbits)

end Sys2Proof.Machine
end

