-- ==== Sys2Proof/Safety.lean ====
section
/-! DEFINITION. What counts as a safe state: every memory in its canonical form. -/

namespace Sys2Proof.Machine

/-- The canonical form of every memory of a state: physical memory, the recovery window, the scratchpads, and
those of the cores that images keep. -/
def State.memOk (s : State) : Bool :=
  Memory.wf s.mem && Memory.wf s.fw.recovery && (s.cores.all fun p => Memory.wf p.2.scratch) &&
    s.images.all fun x => Memory.wf x.kept.scratch

end Sys2Proof.Machine
end

