-- ==== Sys2Proof/Certificates/Slice0/Obligations.lean ====
section
/-! DEFINITION. What is claimed of the model, for the provers: encodings, the result and the frame of every
family of instructions, where every instruction completes, exceptions, and invariants. -/

namespace Sys2Proof.Claims

open Sys2Proof Sys2Proof.Machine

/-! ### Shared notions -/

/-- The matched set of `o` is the one being executed, `o` is its core, instance and block, and it would not pass NOUT by what
it sends to n121 (R100, R300; PrivilegedFormsTrap says what happens where it would). -/
def Fires (s : State) (o : OpIn) : Prop :=
  s.firing = some (o.c, o.f) ∧ s.opIn o.c o.f = some o ∧ o.nodeOver = false

/-- The machine after an operation: no matched set is being executed. -/
def done (t : State) : State := { t with firing := none }

/-- The tag of a result run does not overflow (R92). -/
def Fits (s : State) (o : OpIn) (h : OpWord) (r : Run) : Prop := s.tagBad o h.tg.toNat r = false

/-- A lane without poison that holds zero: what an absent lane reads as. -/
def zeroLane : Lane := { val := 0, poison := false }

/-- The tag of a result run of as many lanes as the matched set has does not overflow (R92). -/
def FitsAll (s : State) (o : OpIn) (h : OpWord) : Prop :=
  Fits s o h { first := o.f.first, lanes := List.replicate o.f.n zeroLane }

/-- A state that differs from another only in one core's tokens, result ports and instances: every memory,
every register, every other unit and every other core is as it was. -/
def OnlyTokens (c : Nat) (s t : State) : Prop :=
  (∀ d, d ≠ c → t.core d = s.core d) ∧
  { t with cores := s.cores, firing := s.firing } = s ∧
  { t.core c with inflight := (s.core c).inflight, ports := (s.core c).ports, nodeData := (s.core c).nodeData,
                  instances := (s.core c).instances, nextIid := (s.core c).nextIid,
                  issueQ := (s.core c).issueQ } = s.core c

/-- The token that a matched set sends to one place of a target with TG 0 (R92, R93): in its own instance,
from its slot. -/
def tokenTo (o : OpIn) (r : Run) (d : Nat × Nat) : Token :=
  { iid := o.i.iid, src := o.f.slot, slot := d.1, pos := d.2, run := r, opTag := none, acq := none }

/-! ### Element instructions -/

/-- The element forms of one operand, with what they compute on each lane. -/
def unary : Instr → Option (OpWord × (Word → Word))
  | .const h value => some (h, fun _ => value)
  | .mov h => some (h, fun a => a)
  | .clz h => some (h, laneClz)
  | .popc h => some (h, lanePopc)
  | .abs h ty => some (h, laneAbs ty)
  | .neg h ty => some (h, laneNeg ty)
  | .extr h sgn pos len => some (h, laneExtr sgn pos.toNat (len.toNat + 1))
  | .unpackn h ty half => some (h, laneUnpackn ty half.toNat)
  | .fsqrt h ty => some (h, laneFsqrt ty .rne)
  | .fsqrtRounding h ty rm => some (h, laneFsqrt ty rm)
  | .fclass h ty => some (h, laneFclass ty)
  | .fcvt h group rm src dst => some (h, laneFcvt group.toNat rm src dst)
  | .frint h ty rm => some (h, laneFrint ty rm)
  | .fgetx h ty => some (h, laneFgetx ty)
  | .frcp h => some (h, fun a => BitVec.ofNat 32 (frcpBits a.toNat))
  | .frsq h => some (h, fun a => BitVec.ofNat 32 (frsqBits a.toNat))
  | .fexp2f h => some (h, fun a => BitVec.ofNat 32 (fexp2fBits a.toNat))
  | .flog2f h => some (h, fun a => BitVec.ofNat 32 (flog2fBits a.toNat))
  | _ => none

/-- The element forms of two operands, with what they compute on each pair of lanes. -/
def binary : Instr → Option (OpWord × (Word → Word → Word))
  | .add h ty => some (h, laneAdd ty)
  | .sub h ty => some (h, laneSub ty)
  | .mul h ty => some (h, laneMul ty)
  | .mulh h ty => some (h, laneMulh ty)
  | .div h ty => some (h, laneDiv ty)
  | .rem h ty => some (h, laneRem ty)
  | .and h => some (h, fun a b => a &&& b)
  | .or h => some (h, fun a b => a ||| b)
  | .xor h => some (h, fun a b => a ^^^ b)
  | .andn h => some (h, fun a b => a &&& ~~~b)
  | .shl h ty => some (h, laneShl ty)
  | .shr h ty => some (h, laneShr ty)
  | .sra h ty => some (h, laneSra ty)
  | .rotl h => some (h, laneRotl)
  | .min h ty => some (h, laneMinMax false ty)
  | .max h ty => some (h, laneMinMax true ty)
  | .addsat h ty => some (h, laneAddsat ty)
  | .subsat h ty => some (h, laneSubsat ty)
  | .ins h pos len => some (h, laneIns pos.toNat (len.toNat + 1))
  | .lea h sh => some (h, laneLea sh.toNat)
  | .packn h ty => some (h, lanePackn ty)
  | .acct h ty => some (h, laneAcct ty)
  | .dotp h ty => some (h, laneDotp ty)
  | .fadd h ty => some (h, laneFadd ty .rne)
  | .faddRounding h ty rm => some (h, laneFadd ty rm)
  | .fsub h ty => some (h, laneFsub ty .rne)
  | .fsubRounding h ty rm => some (h, laneFsub ty rm)
  | .fmul h ty => some (h, laneFmul ty .rne)
  | .fmulRounding h ty rm => some (h, laneFmul ty rm)
  | .fdiv h ty => some (h, laneFdiv ty .rne)
  | .fdivRounding h ty rm => some (h, laneFdiv ty rm)
  | .fmin h ty => some (h, laneFminmax false ty)
  | .fmax h ty => some (h, laneFminmax true ty)
  | .fsgn h ty mode => some (h, laneFsgn ty mode)
  | .fexpi h ty => some (h, laneFexpi ty .rne)
  | .fexpiRounding h ty rm => some (h, laneFexpi ty rm)
  | .frcps h => some (h, laneFrcps)
  | .frsqs h => some (h, laneFrsqs)
  | .join h => some (h, fun a _ => a)
  | _ => none

/-- The three-operand forms (R236). -/
def ternary : Instr → Option (OpWord × (Word → Word → Word → Word))
  | .mad h ty => some (h, laneMad ty)
  | .fma h ty => some (h, laneFma ty .rne)
  | .fmaRounding h ty rm => some (h, laneFma ty rm)
  | _ => none

/-- The forms that send a predicate and its complement (R281, R289), with the relation they test. -/
def relation : Instr → Option (OpWord × (Word → Word → Bool))
  | .cmp h ty => some (h, cmpHolds ty)
  | .tst h => some (h, fun a b => a &&& b != 0)
  | .fcmp h ty cond => some (h, fcmpHolds ty cond)
  | _ => none

/-- The element forms: those of one, two and three operands, the relations, SEL, UNT5 and the vector-run forms. -/
def elementForm (i : Instr) : Bool :=
  (unary i).isSome || (binary i).isSome || (ternary i).isSome || (relation i).isSome ||
    match i with
    | .sel _ => true
    | .unt5 _ _ => true
    | .vrun _ _ _ => true
    | .vred _ _ => true
    | .vscan _ _ => true
    | .vbcast _ _ => true
    | .vlane _ _ _ => true
    | .vshuf _ => true
    | .viota _ _ => true
    | _ => false

/-- The lanes of one operand's result: each is poisoned where its operand is (R193). -/
def map1 (g : Word → Word) (l : List Lane) : List Lane := l.map fun a => { val := g a.val, poison := a.poison }

/-- The lanes of two operands' result: each is poisoned where either operand is (R193). -/
def map2 (g : Word → Word → Word) (l r : List Lane) : List Lane :=
  List.zipWith (fun a b => { val := g a.val b.val, poison := a.poison || b.poison }) l r

/-- The lanes of three operands' result. -/
def map3 (g : Word → Word → Word → Word) (l r t : List Lane) : List Lane :=
  List.zipWith (fun (a : Lane) (p : Lane × Lane) =>
    { val := g a.val p.1.val p.2.val, poison := a.poison || p.1.poison || p.2.poison }) l (List.zip r t)

/-- A predicate lane. -/
def truth (b : Bool) : Word := if b then 1 else 0

/-- The lane-wise integer forms of two operands in R276's table, with the integer that each gives on two
elements, before it is cut to the element's width. -/
def table276 : Instr → Option (OpWord × ITy × (Nat → Nat → Int))
  | .add h ty => some (h, ty, fun a b => a + b)
  | .sub h ty => some (h, ty, fun a b => a - b)
  | .mul h ty => some (h, ty, fun a b => a * b)
  | .mulh h ty => some (h, ty, fun a b => (ITy.val ty a * ITy.val ty b) / ((2 ^ ITy.width ty : Nat) : Int))
  | .min h ty => some (h, ty, fun a b => if ITy.val ty a < ITy.val ty b then a else b)
  | .max h ty => some (h, ty, fun a b => if ITy.val ty a < ITy.val ty b then b else a)
  | .shl h ty => some (h, ty, fun a b => a * 2 ^ (b % ITy.width ty))
  | .shr h ty => some (h, ty, fun a b => ((a / 2 ^ (b % ITy.width ty) : Nat) : Int))
  | .sra h ty => some (h, ty, fun a b => sval (ITy.width ty) a / ((2 ^ (b % ITy.width ty) : Nat) : Int))
  | .addsat h ty => some (h, ty, fun a b => clamp ty (ITy.val ty a + ITy.val ty b))
  | .subsat h ty => some (h, ty, fun a b => clamp ty (ITy.val ty a - ITy.val ty b))
  | _ => none
where
  /-- An integer held to the range of a type. -/
  clamp (ty : ITy) (x : Int) : Int :=
    let w := ITy.width ty
    if ITy.signed ty then
      (if x < -(2 ^ (w - 1) : Int) then -(2 ^ (w - 1) : Int) else if (2 ^ (w - 1) : Int) ≤ x then 2 ^ (w - 1) - 1 else x)
    else (if x < 0 then 0 else if (2 ^ w : Int) ≤ x then 2 ^ w - 1 else x)

/-- DIV and REM of R278 on two 32-bit lanes: truncation towards zero, and the corners by their values. -/
def divided (ty : I32Ty) (a b : Word) : Word :=
  if b = 0 then 0xFFFFFFFF
  else
    match ty with
    | .u32 => BitVec.ofNat 32 (a.toNat / b.toNat)
    | .s32 => if a = 0x80000000 ∧ b = 0xFFFFFFFF then 0x80000000 else BitVec.ofInt 32 (a.toInt.tdiv b.toInt)

/-- The leftOver of R278. -/
def leftOver (ty : I32Ty) (a b : Word) : Word :=
  if b = 0 then a
  else
    match ty with
    | .u32 => BitVec.ofNat 32 (a.toNat % b.toNat)
    | .s32 => if a = 0x80000000 ∧ b = 0xFFFFFFFF then 0 else BitVec.ofInt 32 (a.toInt - b.toInt * a.toInt.tdiv b.toInt)

end Sys2Proof.Claims

section

open Sys2Proof Sys2Proof.Machine Sys2Proof.Claims

/-! ### Element instructions (R272 to R298) -/

/-- Every element form of one operand completes on every matched set whose result tag fits: it sends the lanes
that its function gives, poisoned as the operand was. -/
def Obligations.UnaryFormsComplete : Prop :=
  ∀ (i : Instr) (h : OpWord) (g : Word → Word) (s : State) (o : OpIn), unary i = some (h, g) → Fires s o →
    Fits s o h { first := o.f.first, lanes := map1 g o.f.left } →
    exec i s = .next (done (s.finish o h true { first := o.f.first, lanes := map1 g o.f.left }
      { first := o.f.first, lanes := map1 g o.f.left }))

/-- Every element form of two operands completes, with each result lane poisoned where either operand was. -/
def Obligations.BinaryFormsComplete : Prop :=
  ∀ (i : Instr) (h : OpWord) (g : Word → Word → Word) (s : State) (o : OpIn), binary i = some (h, g) →
    Fires s o → Fits s o h { first := o.f.first, lanes := map2 g o.f.left o.f.right } →
    exec i s = .next (done (s.finish o h true { first := o.f.first, lanes := map2 g o.f.left o.f.right }
      { first := o.f.first, lanes := map2 g o.f.left o.f.right }))

/-- Every three-operand form completes with the partner's operand as its third; the partner's own word, which
never fires, does nothing. -/
def Obligations.TernaryFormsComplete : Prop :=
  ∀ (i : Instr) (h : OpWord) (g : Word → Word → Word → Word) (s : State) (o : OpIn),
    ternary i = some (h, g) → Fires s o →
    Fits s o h { first := o.f.first, lanes := map3 g o.f.left o.f.right o.f.third } →
    exec i s = .next (done (if h.ar = 1 then s
      else s.finish o h true { first := o.f.first, lanes := map3 g o.f.left o.f.right o.f.third }
        { first := o.f.first, lanes := map3 g o.f.left o.f.right o.f.third }))

/-- CMP, TST and FCMP send a predicate that is true where the condition holds to T0 and its complement to T1;
SEL sends the left lanes to T0 and the right lanes to T1; UNT5 its trit codes and which bytes are illegal, and in
its strict form it does so on a run without an illegal byte. -/
def Obligations.PredicateFormsComplete : Prop :=
  (∀ (i : Instr) (h : OpWord) (g : Word → Word → Bool) (s : State) (o : OpIn), relation i = some (h, g) →
    Fires s o → Fits s o h { first := o.f.first, lanes := map2 (fun a b => truth (g a b)) o.f.left o.f.right } →
    exec i s = .next (done (s.finish o h true
      { first := o.f.first, lanes := map2 (fun a b => truth (g a b)) o.f.left o.f.right }
      { first := o.f.first, lanes := map2 (fun a b => truth (!g a b)) o.f.left o.f.right }))) ∧
  (∀ (h : OpWord) (s : State) (o : OpIn), Fires s o →
    Fits s o h { first := o.f.first, lanes := map2 (fun a _ => a) o.f.left o.f.right } →
    exec (.sel h) s = .next (done (s.finish o h true
      { first := o.f.first, lanes := map2 (fun a _ => a) o.f.left o.f.right }
      { first := o.f.first, lanes := map2 (fun _ b => b) o.f.left o.f.right }))) ∧
  (∀ (h : OpWord) (ty : UntTy) (s : State) (o : OpIn), Fires s o →
    Fits s o h { first := o.f.first, lanes := map1 (fun a => a) o.f.left } →
    (ty = .strict → ∀ l ∈ o.f.left, l.val.toNat % 256 < 243) →
    exec (.unt5 h ty) s = .next (done (s.finish o h true
      { first := o.f.first, lanes := map1 (fun a => if a.toNat % 256 < 243 then laneUnt5 a else 0) o.f.left }
      { first := o.f.first, lanes := map1 (fun a => truth (decide (243 ≤ a.toNat % 256))) o.f.left })))

/-- The forms that move lanes complete: VBCAST, VSHUF, VLANE and VIOTA lane by lane, VRUN with the lanes of its
range, VRED with the window's reduction in lane 0, VSCAN with the left fold up to each lane. -/
def Obligations.VectorFormsComplete : Prop :=
  (∀ (h : OpWord) (j : BitVec 5) (s : State) (o : OpIn), Fires s o →
    Fits s o h { first := o.f.first, lanes := o.f.left.map fun _ => o.f.left.getD j.toNat zeroLane } →
    exec (.vbcast h j) s = .next (done (s.finish o h true
      { first := o.f.first, lanes := o.f.left.map fun _ => o.f.left.getD j.toNat zeroLane }
      { first := o.f.first, lanes := o.f.left.map fun _ => o.f.left.getD j.toNat zeroLane }))) ∧
  (∀ (h : OpWord) (s : State) (o : OpIn) (ls : List Lane), Fires s o →
    ls = (o.f.right.map fun r => { val := (o.f.left.getD (r.val.toNat % 32) zeroLane).val,
                                   poison := (o.f.left.getD (r.val.toNat % 32) zeroLane).poison || r.poison }) →
    Fits s o h { first := o.f.first, lanes := ls } →
    exec (.vshuf h) s = .next (done (s.finish o h true { first := o.f.first, lanes := ls }
      { first := o.f.first, lanes := ls }))) ∧
  (∀ (h : OpWord) (mode : VlaneMode) (k : BitVec 5) (s : State) (o : OpIn) (ls : List Lane), Fires s o →
    ls.length = o.f.n →
    (∀ i, i < o.f.n → ls.getD i zeroLane =
      match mode with
      | .up => if k.toNat ≤ i then o.f.left.getD (i - k.toNat) zeroLane else zeroLane
      | .down => if i + k.toNat < 32 then o.f.left.getD (i + k.toNat) zeroLane else zeroLane
      | .rot => o.f.left.getD ((i + 32 - k.toNat) % 32) zeroLane) →
    Fits s o h { first := o.f.first, lanes := ls } →
    exec (.vlane h mode k) s = .next (done (s.finish o h true { first := o.f.first, lanes := ls }
      { first := o.f.first, lanes := ls }))) ∧
  (∀ (h : OpWord) (offset : BitVec 32) (s : State) (o : OpIn) (ls : List Lane), Fires s o →
    ls.length = o.f.n →
    (∀ i, i < o.f.n → ls.getD i zeroLane =
      { val := BitVec.ofNat 32 (baseOf o.m.vec o.i.tag o.f.first + i + offset.toNat), poison := false }) →
    Fits s o h { first := o.f.first, lanes := ls } →
    exec (.viota h offset) s = .next (done (s.finish o h true { first := o.f.first, lanes := ls }
      { first := o.f.first, lanes := ls }))) ∧
  (∀ (h : OpWord) (count first : BitVec 5) (s : State) (o : OpIn) (a : Nat) (ls : List Lane), Fires s o →
    a = max first.toNat o.f.first →
    ls = (o.f.left.drop (a - o.f.first)).take (min (first.toNat + count.toNat + 1) (o.f.first + o.f.n) - a) →
    Fits s o h { first := a, lanes := ls } →
    exec (.vrun h count first) s = .next (done
      (if h.ar = 0 then s.finish o h true { first := a, lanes := map1 (fun _ => 0) ls } { first := a, lanes := map1 (fun _ => 0) ls }
       else s.finish o h true { first := a, lanes := ls } { first := a, lanes := ls }))) ∧
  (∀ (h : OpWord) (ty : VOp) (s : State) (o : OpIn) (l : Lane), Fires s o →
    l = { val := vredTree ty (o.f.left.map fun x => x.val), poison := o.f.left.any fun x => x.poison } →
    Fits s o h { first := 0, lanes := [l] } →
    exec (.vred h ty) s = .next (done (s.finish o h true { first := 0, lanes := [l] } { first := 0, lanes := [l] }))) ∧
  (∀ (h : OpWord) (ty : VOp) (s : State) (o : OpIn) (ls : List Lane), Fires s o →
    ls = List.zipWith Lane.mk (vscanLanes ty (o.f.left.map fun x => x.val))
      ((List.range o.f.n).map fun j => (o.f.left.take (j + 1)).any fun x => x.poison) →
    Fits s o h { first := o.f.first, lanes := ls } →
    exec (.vscan h ty) s = .next (done (s.finish o h true { first := o.f.first, lanes := ls }
      { first := o.f.first, lanes := ls })))

/-- R276's table: a lane-wise integer form of two operands acts on every element by itself, with the integer the
table gives cut to the element's width, and its result lane is poisoned where either operand lane was. -/
def Obligations.IntegerElements : Prop :=
  ∀ (i : Instr) (h : OpWord) (ty : ITy) (g : Nat → Nat → Int) (s : State) (o : OpIn),
    table276 i = some (h, ty, g) → Fires s o → o.f.left.length = o.f.n → o.f.right.length = o.f.n → FitsAll s o h →
    ∃ ls : List Lane, ls.length = o.f.n ∧
      (∀ (n : Nat) (a b l : Lane), o.f.left[n]? = some a → o.f.right[n]? = some b → ls[n]? = some l →
        l.poison = (a.poison || b.poison) ∧
        ∀ j, j < 32 / ITy.width ty →
          ((bits l.val.toNat (ITy.width ty * j) (ITy.width ty) : Nat) : Int) =
            g (bits a.val.toNat (ITy.width ty * j) (ITy.width ty)) (bits b.val.toNat (ITy.width ty * j) (ITy.width ty))
              % ((2 ^ ITy.width ty : Nat) : Int)) ∧
      exec i s = .next (done (s.finish o h true { first := o.f.first, lanes := ls } { first := o.f.first, lanes := ls }))

/-- R278: DIV and REM divide 32-bit lanes and truncate towards zero, with the corners of a zero divisor and of
−2³¹ by −1, and neither traps. -/
def Obligations.DivideAndRemainder : Prop :=
  ∀ (h : OpWord) (ty : I32Ty) (s : State) (o : OpIn), Fires s o →
    o.f.left.length = o.f.n → o.f.right.length = o.f.n → FitsAll s o h →
    exec (.div h ty) s = .next (done (s.finish o h true
      { first := o.f.first, lanes := map2 (divided ty) o.f.left o.f.right }
      { first := o.f.first, lanes := map2 (divided ty) o.f.left o.f.right })) ∧
    exec (.rem h ty) s = .next (done (s.finish o h true
      { first := o.f.first, lanes := map2 (leftOver ty) o.f.left o.f.right }
      { first := o.f.first, lanes := map2 (leftOver ty) o.f.left o.f.right }))

/-- What the end of an operation sends with TG 0 and outside a repetition (R92, R93, R105), where its runs stay in
the window of its set: one token to each place of T0 with the first run, then one to each place of T1 with the second,
all to its own instance; the lanes of its slot are retired, and nothing but tokens, ports and instances of its core has
changed. A run that passes lane 31 is cut there: the rest goes to the next window, from lane 0 on. -/
def Obligations.ResultTokens : Prop :=
  (∀ (colour : Nat) (outer : List Nat) (x first : Nat) (lanes : List Lane), x % 32 = 0 → first < 32 →
    32 < first + lanes.length →
    splitRun true { colour := colour, fields := outer ++ [x] } (x + first) lanes =
      [({ colour := colour, fields := outer ++ [x] }, { first := first, lanes := lanes.take (32 - first) }),
       ({ colour := colour, fields := outer ++ [x + 32] }, { first := 0, lanes := lanes.drop (32 - first) })]) ∧
  ∀ (s : State) (o : OpIn) (h : OpWord) (data : Bool) (r0 r1 : Run) (i : Instance), s.opIn o.c o.f = some o →
    h.tg = 0 → o.f.nextRep = none → r0.lanes ≠ [] → r1.lanes ≠ [] → (s.core o.c).inst? o.f.iid = some i →
    Fits s o h r0 → Fits s o h r1 →
    (o.m.vec = true → r0.first + r0.lanes.length ≤ 32 ∧ r1.first + r1.lanes.length ≤ 32) →
    (∀ d ∈ o.m.dests o.f.slot false ++ o.m.dests o.f.slot true, d.1 < 120) →
    ((s.finish o h data r0 r1).core o.c).inflight =
      (s.core o.c).inflight ++ (o.m.dests o.f.slot false).map (tokenTo o r0) ++
        (o.m.dests o.f.slot true).map (tokenTo o r1) ∧
    (∃ j, ((s.finish o h data r0 r1).core o.c).inst? o.f.iid = some j ∧
      ∀ x, x ∈ o.f.idxs ∨ has (i.slotOps o.f.slot).done x = true → has (j.slotOps o.f.slot).done x = true) ∧
    OnlyTokens o.c s (s.finish o h data r0 r1)

/-- R92: with TG 0 a result keeps its tag where its last lane does not pass the innermost field, and with TG 1 to 3 it
goes to the tag that the table names; the increments, the removal at depth 0 and the runs that R92 lists overflow. A
result whose tag overflows sends nothing: the operation takes a tag-overflow trap (CAUSE 5) with the tag as its ADDR
and TG as its DETAIL (R190). That LANE is then the first lane of the set is the model's reading of R189 (log 143). -/
def Obligations.TagArithmetic : Prop :=
  (∀ (shape : List Nat) (colour : Nat) (outer : List Nat) (x base n w : Nat), 1 ≤ n →
    shape.getD outer.length 1 = w →
    tagStep shape 0 { colour := colour, fields := outer ++ [x] } base n =
      (if base + n ≤ 2 ^ w then some ({ colour := colour, fields := outer ++ [x] }, base) else none) ∧
    tagStep shape 1 { colour := colour, fields := outer ++ [x] } base n =
      (if base + n < 2 ^ w then some ({ colour := colour, fields := outer ++ [base + 1] }, base + 1) else none) ∧
    tagStep shape 2 { colour := colour, fields := outer ++ [x] } base n =
      (if n ≤ 2 ^ w then some ({ colour := colour, fields := outer ++ [0] }, 0) else none) ∧
    tagStep shape 1 { colour := colour, fields := [] } base n = none ∧
    tagStep shape 2 { colour := colour, fields := [] } base n = some ({ colour := colour, fields := [] }, 0) ∧
    tagStep shape 3 { colour := colour, fields := [] } base n = none ∧
    tagStep shape 3 { colour := colour, fields := [x] } base n = some ({ colour := colour, fields := [] }, 0) ∧
    (∀ y v, shape.getD outer.length 1 = v →
      tagStep shape 3 { colour := colour, fields := outer ++ [y, x] } base n =
        (if y + n < 2 ^ v then some ({ colour := colour, fields := outer ++ [y + 1] }, y + 1) else none))) ∧
  (∀ (i : Instr) (h : OpWord) (g : Word → Word → Word) (s : State) (o : OpIn), binary i = some (h, g) →
    Fires s o → s.tagBad o h.tg.toNat { first := o.f.first, lanes := map2 g o.f.left o.f.right } = true →
    exec i s = .next (done (s.raise o.c (Trap.ofOp (s.core o.c) o.i o.f 5
      (o.i.tag.encode ((s.core o.c).shape o.i.tag.colour)) h.tg.toNat 0 o.f.first))))

/-- A form under REP (R266): between two iterations its data results are sent, its completion tokens are not, its
lanes do not retire, and the set fires again with one iteration fewer left: first in its element's queue, or, for a form
of a unit, at the unit's port, which it has not left (R330), or, where its instance has been parked, when that goes on
(R186). -/
def Obligations.RepetitionGoesOn : Prop :=
  ∀ (s : State) (o : OpIn) (h : OpWord) (r0 r1 : Run) (p : RepState) (i : Instance) (f : Firing),
    o.f.rep = some p → 1 < p.left → (s.core o.c).inst? o.f.iid = some i →
    f = { o.f with rep := some { p with left := p.left - 1 }, skip := 0, answered := none,
                   ticket := { o.f.ticket with got := [], turn := none } } →
    Fits s o h r0 → Fits s o h r1 →
    (i.status ≠ .parked → unitOf (fieldOf (o.m.word o.f.slot) 25 7) = none →
      s.finish o h false r0 r1 = s.modCore o.c (fun k => { k with issueQ := { f with heldAt := none } :: k.issueQ }) ∧
      ((s.finish o h true r0 r1).core o.c).issueQ = { f with heldAt := none } :: (s.core o.c).issueQ) ∧
    (∀ u, i.status ≠ .parked → unitOf (fieldOf (o.m.word o.f.slot) 25 7) = some u →
      s.finish o h false r0 r1 = s.hold { o with f := f } u .flight) ∧
    (i.status = .parked → s.finish o h false r0 r1 = s.modCore o.c fun k => k.modInst o.f.iid fun j =>
      { j with parkedSets := { f with heldAt := none } :: j.parkedSets })

/-- The frame of the element forms, in a slot that is none of a unit's: the forms of one, two and three operands, CMP,
TST, FCMP, SEL, UNT5 and the vector-run forms. Where the form takes no trap, a next state differs only in its core's
tokens, ports, issue queue and instances. No memory, no register of a colour, no control register and no other core
changes. -/
def Obligations.ElementFormsFrame : Prop :=
  ∀ (i : Instr) (s t : State) (o : OpIn), Fires s o → unitOf (fieldOf (o.m.word o.f.slot) 25 7) = none →
    elementForm i = true → o.i.status ≠ .parked → (s.core o.c).isHandler o.i = false → (s.core o.c).ring.length < 32 →
    exec i s = .next t → (t.core o.c).traps = (s.core o.c).traps → OnlyTokens o.c s t

end

namespace Sys2Proof.Claims

open Sys2Proof Sys2Proof.Machine

/-! ### Sequencer instructions -/

/-- A run of one lane that holds a value: a completion token's (R255). -/
def oneLane (first : Nat) (v : Word) : Run := { first := first, lanes := [{ val := v, poison := false }] }

/-- An instance has not taken its branch, its counted outputs leave room for one, and the successor's tag does not
overflow: it is `t` (R100, R257). -/
def MayBranch (s : State) (o : OpIn) (h : OpWord) (t : Tag) : Prop :=
  o.i.branch = none ∧ o.overCount = false ∧
    ∃ b, tagStep ((s.core o.c).shape o.colour) h.tg.toNat o.operandTag o.operandTag.inner 1 = some (t, b)

/-- A core after a branch has acted: its successor, if it has one, is named, and the instance keeps the branch's
slot and operand tag (R257). -/
def branched (o : OpIn) (next : Option (Nat × Tag)) (k : Core) : Core :=
  (match next with
   | some (block, t) => k.nameSuccessor o.colour block t
   | none => k).modInst o.f.iid fun i => { i with branch := some (o.f.slot, o.operandTag) }

/-- The block that a displacement names from a block (R256). -/
def blockAt {w : Nat} (pc : Nat) (d : BitVec w) : Nat := (((pc : Int) + 64 * d.toInt) % (2 ^ 56 : Int)).toNat

/-- The operand of a branch, a call or a trap that is read from lane 0 of the left run. -/
def left0 (o : OpIn) : Lane := o.f.left.headD zeroLane

/-- The issuing colour's record, as it stands in its core. -/
def HasColour (s : State) (o : OpIn) (c : Colour) : Prop := (s.core o.c).colour? o.i.tag.colour = some c

/-- A trap of an operation, taken (R186): what it raises, at its instance. -/
def trapped (s : State) (o : OpIn) (cause addr detail aux lane : Nat) : State :=
  done (s.raise o.c (Trap.ofOp (s.core o.c) o.i o.f cause addr detail aux lane))

end Sys2Proof.Claims

section

open Sys2Proof Sys2Proof.Machine Sys2Proof.Claims

/-! ### Sequencer instructions (R254 to R271) -/

/-- BRA, BRI, CALLB, RETB, SRET and ENDL complete: the first that fires in an instance names its successor, or notes
its effect for the commit, and retires. BRA takes D, or of its two displacements the upper where its operand is not
zero; CALLB stores a return address at the commit; RETB goes to the one at the top of its colour's stack. In colour 0
a branch to the handler block names no successor instance, any other block it does (R361). -/
def Obligations.BranchesComplete : Prop :=
  (∀ (h : OpWord) (d : BitVec 32) (s : State) (o : OpIn) (t : Tag), Fires s o → MayBranch s o h t →
    (h.ar ≠ 0 → (left0 o).poison = false) →
    exec (.bra h d) s = .next (done ((s.modCore o.c (branched o (some
      (if h.ar = 0 then blockAt o.i.block d
       else if (left0 o).val ≠ 0 then blockAt o.i.block (d.extractLsb' 16 16)
       else blockAt o.i.block (d.extractLsb' 0 16), t)))).finishN o h))) ∧
  (∀ (h : OpWord) (s : State) (o : OpIn) (t : Tag), Fires s o → MayBranch s o h t → (left0 o).poison = false →
    exec (.bri h) s = .next (done ((s.modCore o.c (branched o (some
      ((o.i.block / 2 ^ 38 * 2 ^ 38 + (left0 o).val.toNat * 64) % 2 ^ 56, t)))).finishN o h))) ∧
  (∀ (h : OpWord) (dc dr : BitVec 16) (s s1 : State) (o : OpIn) (t : Tag) (c : Colour) (x : Target × Nat)
      (ts : List (Target × Nat)), Fires s o → HasColour s o c → (h.ar = 1 → (left0 o).poison = false) →
    c.top ≠ 0 → c.depth ≠ 255 → s.hasArrived o.c = false → s.access o .write c.top 8 = .ok (x :: ts) →
    s1 = (s.noteAccess o .write c.top (x :: ts)).atCommit o (.push o.f.slot c.top x.1.loc (blockAt o.i.block dr)) →
    MayBranch s o h t →
    exec (.callb h dc dr) s = .next (done ((s1.modCore o.c (branched o (some
      (if h.ar = 0 then blockAt o.i.block dc
       else (o.i.block / 2 ^ 38 * 2 ^ 38 + (left0 o).val.toNat * 64) % 2 ^ 56, t)))).finishN o h))) ∧
  (∀ (h : OpWord) (s s1 : State) (o : OpIn) (t : Tag) (c : Colour) (bs : List Byte), Fires s o → HasColour s o c →
    s.earlier o = false → s.hasArrived o.c = false → c.depth ≠ 0 →
    s.load o (((c.top : Int) - 8) % (2 ^ 56 : Int)).toNat 8 = .ok (bs, false, s1) → MayBranch s1 o h t →
    exec (.retb h) s = .next (done (((s1.atCommit o .pop).modCore o.c
      (branched o (some (ofBytes bs % 2 ^ 56, t)))).finishN o h))) ∧
  (∀ (h : OpWord) (s : State) (o : OpIn) (t : Tag), Fires s o → MayBranch s o h t → 2 ≤ o.i.tag.colour →
    exec (.sret h) s = .next (done (((s.atCommit o (.sret { first := o.f.first, lanes := o.f.left })).modCore o.c
      (branched o none)).finishN o h))) ∧
  (∀ (h : OpWord) (s : State) (o : OpIn) (t : Tag), Fires s o → MayBranch s o h t → o.i.tag.colour = 1 →
    exec (.endl h) s = .next (done (((s.atCommit o .endl).modCore o.c (branched o none)).finishN o h))) ∧
  (∀ (k : Core) (o : OpIn) (block : Nat) (t : Tag) (c : Colour), o.i.tag.colour = 0 → k.colour? 0 = some c →
    c.sret = false →
    (block = k.regs.trapvec * 64 → branched o (some (block, t)) k = branched o none k) ∧
    (block ≠ k.regs.trapvec * 64 →
      ∃ j, j.block = block ∧ j.tag.colour = t.colour ∧ j.status = .pending ∧ j.iid = k.nextIid ∧
        branched o (some (block, t)) k =
          branched o none { k with nextIid := k.nextIid + 1, instances := k.instances ++ [j] }) ∧
    (∀ i next, k.inst? o.f.iid = some i →
      ∃ j, (branched o next k).inst? o.f.iid = some j ∧ j.branch = some (o.f.slot, o.operandTag)))

/-- SPAWN, TAGENTER and TAGLEAVE complete: SPAWN's request waits for its grant, once its block's header allows it;
TAGENTER records the width of a new innermost field, where no instance or token stands deeper with another, and sends
its lanes on with that field at 0; TAGLEAVE removes the innermost field and increments the next. -/
def Obligations.ColourAndTagFormsComplete : Prop :=
  (∀ (h : OpWord) (ds : BitVec 16) (s : State) (o : OpIn) (w : Nat), Fires s o → s.earlier o = false →
    s.fetchHeader o (blockAt o.i.block ds) = .ok w → headerOk w = true → w / 2 ^ 27 % 2 = 1 →
    o.f.n = max (w % 16) 1 → Fits s o h (oneLane o.f.first 0) →
    exec (.spawn h ds) s = .next (done (s.hold o .sequencer (.grant (w % 16))))) ∧
  (∀ (h : OpWord) (width : BitVec 5) (s : State) (o : OpIn) (shape : List Nat) (t t2 : Tag) (base : Nat),
    Fires s o → shape = (s.core o.c).shape o.i.tag.colour → t = o.operandTag → t.fields.length < 12 →
    (shape.take t.fields.length).sum + width.toNat + 1 ≤ 50 →
    (t.fields ≠ [] → t.inner + 1 < 2 ^ shape.getD (t.fields.length - 1) 1) → o.f.n ≤ 2 ^ (width.toNat + 1) →
    (∀ w', shape[t.fields.length]? = some w' → w' = width.toNat + 1 ∨
      (s.core o.c).depthInUse o.i.tag.colour t.fields.length = false) →
    tagStep (shape.take t.fields.length ++ (width.toNat + 1) :: shape.drop (t.fields.length + 1)) h.tg.toNat
      { t with fields := (t.setInner (t.inner + 1)).fields ++ [0] } 0 o.f.n = some (t2, base) →
    exec (.tagenter h width) s = .next (done ((s.modCore o.c fun k => k.modColour o.i.tag.colour fun c =>
      { c with shape := shape.take t.fields.length ++ (width.toNat + 1) :: shape.drop (t.fields.length + 1) }).sendTagged
        o t2 base))) ∧
  (∀ (h : OpWord) (s : State) (o : OpIn) (t1 t2 : Tag) (b1 b2 : Nat), Fires s o →
    tagStep ((s.core o.c).shape o.i.tag.colour) 3 o.operandTag o.operandTag.inner o.f.n = some (t1, b1) →
    tagStep ((s.core o.c).shape o.i.tag.colour) h.tg.toNat t1 b1 o.f.n = some (t2, b2) →
    exec (.tagleave h) s = .next (done (s.sendTagged o t2 b2)))

/-- READ, WRITE, MFSR and MTSR complete: READ sends the register as the instances before have left it, or the head
of its queue; WRITE and MTSR note their value for the commit; MFSR sends every lane of its register. -/
def Obligations.RegisterFormsComplete : Prop :=
  (∀ (h : OpWord) (reg : BitVec 5) (s : State) (o : OpIn) (c : Colour), Fires s o → HasColour s o c →
    (s.core o.c).regBusy o.i reg.toNat = false → (o.i.portmode = false ∨ reg.toNat < 24) →
    Fits s o h { first := o.f.first, lanes := [c.regs.getD reg.toNat zeroLane] } →
    exec (.read h reg) s = .next (done (s.finish o h true { first := o.f.first, lanes := [c.regs.getD reg.toNat zeroLane] }
      { first := o.f.first, lanes := [c.regs.getD reg.toNat zeroLane] }))) ∧
  (∀ (h : OpWord) (reg : BitVec 5) (s : State) (o : OpIn) (e : QEntry) (rest : List QEntry), Fires s o →
    (s.core o.c).regBusy o.i reg.toNat = false → o.i.portmode = true → 24 ≤ reg.toNat →
    s.queueBehind o (reg.toNat - 24) = false → ((s.core o.c).queue (reg.toNat - 24)).entries = e :: rest →
    ((s.core o.c).queue (reg.toNat - 24)).spillCount = 0 → e.rel = none → e.src = none →
    Fits s o h { first := o.f.first, lanes := e.lanes } →
    exec (.read h reg) s = .next (done ((s.modCore o.c fun k =>
      k.modQueue (reg.toNat - 24) fun q => { q with entries := rest }).finish o h true
        { first := o.f.first, lanes := e.lanes } { first := o.f.first, lanes := e.lanes }))) ∧
  (∀ (h : OpWord) (reg : BitVec 5) (s : State) (o : OpIn), Fires s o → o.f.n = 1 →
    o.m.wmask / 2 ^ reg.toNat % 2 = 1 → o.overCount = false →
    exec (.write h reg) s = .next (done ((s.atCommit o
      (if o.i.portmode = true ∧ 24 ≤ reg.toNat then .pushQueue o.f.slot (reg.toNat - 24) (left0 o)
       else .writeReg reg.toNat (left0 o))).finishN o h))) ∧
  (∀ (h : OpWord) (num : BitVec 16) (s : State) (o : OpIn) (v : Nat) (r : Run), Fires s o → s.earlier o = false →
    v = (s.core o.c).readSr s.scopes o.i.tag.colour o.i.tag.depth num.toNat →
    r = { first := o.f.first,
          lanes := (List.range (srLanes num.toNat)).map fun j =>
            { val := BitVec.ofNat 32 (v / 2 ^ (32 * j)), poison := false } } →
    Fits s o h r → exec (.mfsr h num) s = .next (done (s.finish o h true r r))) ∧
  (∀ (h : OpWord) (num : BitVec 16) (s : State) (o : OpIn), Fires s o → o.f.n = srLanes num.toNat →
    (∀ l ∈ o.f.left, l.poison = false) → (o.i.tag.colour = 0 ∨ srColour0 num.toNat = false) → o.overCount = false →
    exec (.mtsr h num) s = .next (done ((s.atCommit o (.mtsr o.f.slot num.toNat
      ((left0 o).val.toNat + 2 ^ 32 * (o.f.left.getD 1 zeroLane).val.toNat))).finishN o h)))

/-- A form of colour 0 in another colour takes a protection trap (CAUSE 7): MTSR of a register that only colour 0
writes, and ERET. ENDL outside colour 1, SRET outside a spawned colour, and a branch of a second slot of its instance
(R100) take an illegal-operand trap; in a block with VEC a further set of the slot that branched only retires, in any
other a second firing of that slot traps too. The branch is BRA with AR 0, the other branches being alike in the rule
and not stated. Any form that would pass NOUT by what it sends to n121 takes that trap before it does anything (R100,
R300). The model's choices are LANE, the first lane of the set (log 143, DEDUCED from R189), DETAIL 0x13 of a protection
trap (log 13, DEDUCED from R190's "queue or node"), and what ADDR names: the register's number, the left operand, or the
colour. -/
def Obligations.PrivilegedFormsTrap : Prop :=
  (∀ (h : OpWord) (num : BitVec 16) (s : State) (o : OpIn), Fires s o → o.f.n = srLanes num.toNat →
    (∀ l ∈ o.f.left, l.poison = false) → o.i.tag.colour ≠ 0 → srColour0 num.toNat = true →
    exec (.mtsr h num) s = .next (trapped s o 7 num.toNat 0x13 0 o.f.first)) ∧
  (∀ (h : OpWord) (s : State) (o : OpIn), Fires s o → o.i.tag.colour ≠ 0 →
    exec (.eret h) s = .next (trapped s o 7 (left0 o).val.toNat 0x13 0 o.f.first)) ∧
  (∀ (h : OpWord) (s : State) (o : OpIn), Fires s o → o.i.tag.colour ≠ 1 →
    exec (.endl h) s = .next (trapped s o 2 o.i.tag.colour 271 0 o.f.first)) ∧
  (∀ (h : OpWord) (s : State) (o : OpIn), Fires s o → o.i.tag.colour < 2 →
    exec (.sret h) s = .next (trapped s o 2 o.i.tag.colour 261 0 o.f.first)) ∧
  (∀ (h : OpWord) (d : BitVec 32) (s : State) (o : OpIn) (slot : Nat) (t : Tag), Fires s o → h.ar = 0 →
    o.i.branch = some (slot, t) →
    exec (.bra h d) s =
      (if slot = o.f.slot ∧ o.m.vec = true then .next (done (s.finishN o h))
       else .next (trapped s o 2 (left0 o).val.toNat 100 0 o.f.first))) ∧
  (∀ (i : Instr) (s : State) (o : OpIn), i.opWord? ≠ none → s.firing = some (o.c, o.f) → s.opIn o.c o.f = some o →
    o.nodeOver = true → exec i s = .next (trapped s o 2 (left0 o).val.toNat 100 0 o.f.first))

/-- R267: SHADV waits for every earlier instance of its colour and for their writes to be performed, then adds 1 to
the core's SHADV count, releases towards the Shuttle and sends the new count. -/
def Obligations.ShuttleAdvance : Prop :=
  ∀ (h : OpWord) (s s1 : State) (o : OpIn), Fires s o →
    (s.releaseWaits o = true → exec (.shadv h) s = .next (done (s.hold o .sequencer .earlier))) ∧
    (s.releaseWaits o = false → Fits s o h (oneLane o.f.first 0) →
      s1 = (s.modCore o.c fun k => { k with regs := { k.regs with shadv := (k.regs.shadv + 1) % 2 ^ 32 } }) →
      exec (.shadv h) s = .next (done (((s1.raiseEpoch (s1.agent o.c o.i.tag.colour)).1.raiseAcq
        (s1.agent o.c 0x8000) (s1.agent o.c o.i.tag.colour) (s1.epoch (s1.agent o.c o.i.tag.colour) + 1)).finish o h false
          (oneLane o.f.first (BitVec.ofNat 32 (s1.core o.c).regs.shadv))
          (oneLane o.f.first (BitVec.ofNat 32 (s1.core o.c).regs.shadv)))))

/-- PHASE, REP and the bobbin forms complete: PHASE's request waits for the Arbour, and is complete
once a close answered it while its instance was parked (R190); REP only retires; BOBINIT sets
a bobbin with no fill under way up anew; BOBWAIT answers, once more than N of its slots are filled, with how many are
and its flags; BOBREL releases COUNT of them. -/
def Obligations.StepAndBobbinFormsComplete : Prop :=
  (∀ (h : OpWord) (s : State) (o : OpIn), Fires s o → Fits s o h (oneLane o.f.first 0) →
    exec (.phase h) s = (match o.f.answered with
      | none => .next (done (s.hold o .sequencer .phase))
      | some v => .next (done (s.finish o h false (oneLane o.f.first v) (oneLane o.f.first v))))) ∧
  (∀ (h : OpWord) (n : BitVec 8) (stride : BitVec 4) (s : State) (o : OpIn), Fires s o →
    exec (.rep h n stride) s = .next (done (s.finishN o h))) ∧
  (∀ (h : OpWord) (slots : BitVec 8) (b : BitVec 4) (s : State) (o : OpIn), Fires s o →
    ((s.core o.c).bob b.toNat).infl = 0 → Fits s o h (oneLane o.f.first 0) →
    exec (.bobinit h slots b) s = .next (done ((s.modCore o.c fun k =>
      k.modBob b.toNat fun _ => { Bobbin.zero with slots := slots.toNat }).finish o h false
        (oneLane o.f.first 0) (oneLane o.f.first 0)))) ∧
  (∀ (h : OpWord) (n : BitVec 8) (b : BitVec 4) (s : State) (o : OpIn) (x : Bobbin) (v : Nat), Fires s o →
    x = (s.core o.c).bob b.toNat → n.toNat < x.avail → Fits s o h (oneLane o.f.first 0) →
    v = x.avail + (if x.poison then 2 ^ 16 else 0) + (if x.err then 2 ^ 17 else 0) →
    exec (.bobwait h n b) s = .next (done ((s.acquireAll (s.agent o.c o.i.tag.colour) x.filled).finish o h false
      (oneLane o.f.first (BitVec.ofNat 32 v)) (oneLane o.f.first (BitVec.ofNat 32 v))))) ∧
  (∀ (h : OpWord) (count : BitVec 8) (b : BitVec 4) (s : State) (o : OpIn) (x : Bobbin) (rp : Nat), Fires s o →
    s.releaseWaits o = false → x = (s.core o.c).bob b.toNat → count.toNat ≤ x.avail → Fits s o h (oneLane o.f.first 0) →
    rp = (x.rp + count.toNat) % 65536 →
    exec (.bobrel h count b) s = .next (done (((s.raiseEpoch (s.agent o.c o.i.tag.colour)).1.modCore o.c fun k =>
      k.modBob b.toNat fun y => { y with rp := rp, freed := y.freed ++
        [(rp, s.agent o.c o.i.tag.colour, s.epoch (s.agent o.c o.i.tag.colour) + 1)] }).finish o h false
          (oneLane o.f.first 0) (oneLane o.f.first 0))))

/-- SYSCALL, BREAK and TRAPIF take their traps, SYSCALL with its code and operand in DETAIL, and complete once a
RESUME has answered them; TRAPIF passes its left run where its right operand is zero; ERET notes its action for the
commit (CommitTakesEffect says what that does). That LANE is the first lane of the set is the model's reading of R189
(log 143). -/
def Obligations.SupervisorFormsComplete : Prop :=
  (∀ (h : OpWord) (code : BitVec 16) (s : State) (o : OpIn), Fires s o → o.f.answered = none →
    exec (.syscall h code) s = .next (trapped s o 0x10 0 (code.toNat * 2 ^ 32 + (left0 o).val.toNat) 0 o.f.first)) ∧
  (∀ (h : OpWord) (code : BitVec 16) (s : State) (o : OpIn) (v : Word), Fires s o → o.f.answered = some v →
    Fits s o h (oneLane o.f.first v) →
    exec (.syscall h code) s = .next (done (s.finish o h true (oneLane o.f.first v) (oneLane o.f.first v)))) ∧
  (∀ (h : OpWord) (code : BitVec 16) (s : State) (o : OpIn), Fires s o → o.f.answered = none →
    exec (.brk h code) s = .next (trapped s o 0x11 0 0
      (code.toNat + (if h.ar = 0 then 0 else (left0 o).val.toNat) * 2 ^ 32) o.f.first)) ∧
  (∀ (h : OpWord) (code : BitVec 16) (s : State) (o : OpIn) (v : Word), Fires s o → o.f.answered = some v →
    Fits s o h (oneLane o.f.first 0) →
    exec (.brk h code) s = .next (done (s.finish o h false (oneLane o.f.first 0) (oneLane o.f.first 0)))) ∧
  (∀ (h : OpWord) (s : State) (o : OpIn) (l : Lane), Fires s o → l = o.f.right.headD zeroLane → l.poison = false →
    Fits s o h { first := o.f.first, lanes := o.f.left } →
    (o.f.answered.isSome = true ∨ l.val = 0) →
    exec (.trapif h) s = .next (done (s.finish o h true { first := o.f.first, lanes := o.f.left }
      { first := o.f.first, lanes := o.f.left }))) ∧
  (∀ (h : OpWord) (s : State) (o : OpIn) (l : Lane), Fires s o → l = o.f.right.headD zeroLane → l.poison = false →
    o.f.answered = none → l.val ≠ 0 →
    exec (.trapif h) s = .next (trapped s o 0x11 0 1 ((left0 o).val.toNat * 2 ^ 32) o.f.first)) ∧
  (∀ (h : OpWord) (s : State) (o : OpIn), Fires s o → o.i.tag.colour = 0 → (left0 o).poison = false →
    o.overCount = false →
    exec (.eret h) s = .next (done ((s.atCommit o (.eret o.f.slot (left0 o).val.toNat)).finishN o h)))

end

namespace Sys2Proof.Claims

open Sys2Proof Sys2Proof.Machine

/-! ### Memory instructions -/

/-- A form of the Carder's port goes ahead: no earlier request holds the port, and a form that accesses memory is
not issued while its core has arrived at the open step (R120, R179). -/
def PortFree (s : State) (o : OpIn) (accesses : Bool) : Prop :=
  s.portBusy o .carder = false ∧ (accesses = true → s.hasArrived o.c = false)

/-- No lane of a run is poisoned. -/
def Clean (l : List Lane) : Prop := ∀ x ∈ l, x.poison = false

/-- The address that LD and LDV form in a lane (R302, R303): the left lane, with the right lane or a constant above
it. -/
def addrOf (hi lo : Nat) : Nat := hi * 2 ^ 32 + lo

/-- The stores that a set's lanes make at the commit: the places of each lane's address with its data (R302). -/
def storePieces (n : Nat) (data : List Lane) (l : List (Nat × List (Target × Nat))) : List Seg :=
  (List.zipWith (fun (d : Lane) (p : Nat × List (Target × Nat)) => segsOf p.2 (toBytes n d.val.toNat) d.poison)
    data l).flatten

/-- The completion token of a memory form (R300): each lane of the set with one value. -/
def allLanes (o : OpIn) (v : Word) : Run :=
  { first := o.f.first, lanes := (List.range o.f.n).map fun _ => { val := v, poison := false } }

/-- The end of a form with a completion token. -/
def completes (s : State) (o : OpIn) (h : OpWord) (v : Word) : State :=
  done (s.finish o h false (allLanes o v) (allLanes o v))

/-- The tag of a completion token does not overflow. -/
def TokenFits (s : State) (o : OpIn) (h : OpWord) : Prop := Fits s o h (allLanes o 0)

/-- The new word of an atomic (R304). -/
def atomic304 (op : AtomOp) (m v : Word) : Word :=
  match op with
  | .add => m + v
  | .and => m &&& v
  | .or => m ||| v
  | .xor => m ^^^ v
  | .mins => if m.toInt ≤ v.toInt then m else v
  | .maxs => if m.toInt ≤ v.toInt then v else m
  | .minu => if m.toNat ≤ v.toNat then m else v
  | .maxu => if m.toNat ≤ v.toNat then v else m
  | .swap => v
  | .fadd => BitVec.ofNat 32 (addF32 m.toNat v.toNat)

/-- The address of an atomic's lane (R299): the global window's base where G is set, HI above the lane. -/
def atomicAddr (g : BitVec 1) (hi : BitVec 16) (l : Lane) : Nat :=
  (if g = 1 then 0x00F0000000000000 else 0) + addrOf hi.toNat l.val.toNat

/-- An atomic form may be performed now: its counted output is allowed, its operands are whole and aligned, its places
are `ts`, none of its requests to another module was undeliverable, no write of CR_ATOMMODE waits that it has not
preceded at its port, nothing before it holds its port or its lock bits, and a release does not wait (R134 to R136,
R171, R306). -/
def AtomicReady (s : State) (o : OpIn) (h : OpWord) (ord : MemOrd) (scope : Nat) (addrs : List Nat)
    (operands : List Lane) (ts : List Target) : Prop :=
  PortFree s o true ∧ o.overCount = false ∧ scope ≠ 7 ∧ Clean o.f.left ∧ Clean operands ∧
    (∀ a ∈ addrs, a % 4 = 0) ∧ s.atomPlaces o o.f.first addrs = .ok ts ∧ TokenFits s o h ∧
    (∀ g ∈ o.f.ticket.got, g.2 ≠ .failed) ∧
    ((s.core o.c).regs.atomPending = none ∨ o.f.ticket.turn.isSome = true) ∧
    (ordReleases ord = true → s.releaseWaits o = false) ∧
    s.portHeld o (ts.map fun t => t.loc.line) = false ∧
    (∀ t ∈ ts, (s.core o.c).regs.atomLock = true → s.lockSet t.loc = false ∧ s.lockQueued o t.loc = false)

/-- The lanes of a set of atomics performed one after another at their ports. -/
def performed (s : State) (o : OpIn) (ord : MemOrd) (scope : Nat) (addrs : List Nat) (ts : List Target)
    (upd : Nat → Word → Word) (ask : AtomAsk) : AtomRun :=
  State.atomLanes (s.reachPort o).2
    { release := s.releaseRadius o ord scope, acquire := if ordAcquires ord then some (s.radius scope) else none,
      relaxed := ord == .relaxed } upd ask
    o.f.skip (ts.drop o.f.skip) (s.reachPort o).2.farRun (addrs.foldl (fun s a => s.cachePage o.c a) (s.reachPort o).1)

/-- A stream-register form goes ahead: its port is free, and no earlier one waits (R317). -/
def StreamFree (s : State) (o : OpIn) (accesses : Bool) : Prop :=
  PortFree s o accesses ∧ ((s.heldBefore o).any fun h => s.isStreamSet o.c h.firing) = false

/-- A row form of GROWS and SCAT goes ahead (R314): its tile is valid and in the state it waits for, its operands
are whole, its descriptor reads as `(base, rb, pitch)`, and every row is aligned and lies within the tile. -/
def RowsReady (s s1 : State) (o : OpIn) (h : OpWord) (tile desc rowoff state : Nat) (t : Tile) (bs : List Byte)
    (rb : Nat) (rows : List (Nat × Nat)) : Prop :=
  PortFree s o true ∧ t = (s.core o.c).tile tile ∧ t.valid = true ∧ t.state = state ∧ Clean o.f.left ∧
    (h.ar = 2 → Clean o.f.right) ∧ s.readBlock o .carder (desc * 64) 16 = .ok (bs, s1) ∧
    (∃ base pitch, rowDesc bs = some (base, rb, pitch) ∧ rows = o.rows h.ar.toNat base rb pitch rowoff t.base) ∧
    o.rowBad rb rowoff t.len rows = none ∧ TokenFits s o h

/-- The merging stream forms (R317). -/
def merging : Instr → Option (OpWord × MergeKind × BitVec 5 × BitVec 3 × BitVec 3)
  | .sisect h n b a => some (h, .sisect, n, b, a)
  | .sunion h n b a => some (h, .sunion, n, b, a)
  | .sdiff h n b a => some (h, .sdiff, n, b, a)
  | .smadd h fp n b a => some (h, .smadd (fp == 1), n, b, a)
  | _ => none

end Sys2Proof.Claims

section

open Sys2Proof Sys2Proof.Machine Sys2Proof.Claims

/-! ### Memory instructions (R299 to R317) -/

/-- LD, LDV and CWALK complete on whole and aligned addresses whose loads complete: the lanes that were read go to
both targets, CWALK's low halves to T0 and high halves to T1. -/
def Obligations.LoadsComplete : Prop :=
  (∀ (h : OpWord) (ty : LdTy) (s s1 : State) (o : OpIn) (addrs : List Nat) (ls : List Lane), Fires s o →
    PortFree s o true → Clean o.f.left →
    (h.ar = 1 → addrs = o.f.left.map fun l => l.val.toNat) →
    (h.ar ≠ 1 → Clean o.f.right ∧ (∀ r ∈ o.f.right, r.val.toNat < 2 ^ 24) ∧
      addrs = List.zipWith (fun l r => addrOf r.val.toNat l.val.toNat) o.f.left o.f.right) →
    (∀ a ∈ addrs, a % ldBytes ty = 0) →
    s.loadLanes o (ldBytes ty) (ldExtend ty) o.f.first addrs s = .ok (ls, s1) →
    Fits s1 o h { first := o.f.first, lanes := ls } →
    exec (.ld h ty) s = .next (done (s1.finish o h true { first := o.f.first, lanes := ls }
      { first := o.f.first, lanes := ls }))) ∧
  (∀ (h : OpWord) (sh : BitVec 3) (high : BitVec 24) (s s1 : State) (o : OpIn) (addrs : List Nat) (ls : List Lane),
    Fires s o → PortFree s o true → Clean o.f.left →
    (h.ar = 1 → addrs = o.f.left.map fun l => addrOf high.toNat l.val.toNat) →
    (h.ar ≠ 1 → Clean o.f.right ∧ addrs = List.zipWith (fun l r =>
      addrOf high.toNat ((l.val.toNat + r.val.toNat * 2 ^ sh.toNat) % 2 ^ 32)) o.f.left o.f.right) →
    (∀ a ∈ addrs, a % 4 = 0) →
    s.loadLanes o 4 (ldExtend .w32) o.f.first addrs s = .ok (ls, s1) →
    Fits s1 o h { first := o.f.first, lanes := ls } →
    exec (.ldv h sh high) s = .next (done (s1.finish o h true { first := o.f.first, lanes := ls }
      { first := o.f.first, lanes := ls }))) ∧
  (∀ (h : OpWord) (first cnt : BitVec 5) (s s1 : State) (o : OpIn) (ls : List Lane), Fires s o →
    PortFree s o true → (left0 o).poison = false → (o.m.vec = true ∨ (first = 0 ∧ cnt = 0)) →
    (left0 o).val.toNat % 4 = 0 → (left0 o).val.toNat + 4 * (cnt.toNat + 1) ≤ 0x200000 →
    s.loadLanes o 4 (ldExtend .w32) o.f.first
      ((List.range (cnt.toNat + 1)).map fun j => (left0 o).val.toNat + 4 * j) s = .ok (ls, s1) →
    Fits s1 o h { first := first.toNat, lanes := map1 (fun x => BitVec.ofNat 32 (x.toNat % 65536)) ls } →
    exec (.cwalk h first cnt) s = .next (done (s1.finish o h true
      { first := first.toNat, lanes := map1 (fun x => BitVec.ofNat 32 (x.toNat % 65536)) ls }
      { first := first.toNat, lanes := map1 (fun x => BitVec.ofNat 32 (x.toNat / 65536)) ls })))

/-- ST, STV and STUL complete on whole and aligned addresses that may be written: the bytes are noted for the commit
and the completion token goes out. STUL's lock bits are noted to be cleared with them. -/
def Obligations.StoresComplete : Prop :=
  (∀ (h : OpWord) (ty : StTy) (s : State) (o : OpIn) (l : List (Nat × List (Target × Nat))), Fires s o →
    PortFree s o true → o.overCount = false → Clean o.f.left →
    (∀ x ∈ o.f.left, x.val.toNat % stBytes ty = 0) →
    s.storeLanes o (stBytes ty) o.f.first (o.f.left.map fun x => x.val.toNat) = .ok l →
    (Clean o.f.right ∨ ∀ p ∈ l, ∀ t ∈ p.2, t.1.t3 = false) → TokenFits s o h →
    exec (.st h ty) s = .next (completes ((s.noteStores o l).atCommit o
      (.store o.f.slot (storePieces (stBytes ty) o.f.right l))) o h 0)) ∧
  (∀ (h : OpWord) (high : BitVec 24) (s : State) (o : OpIn) (l : List (Nat × List (Target × Nat))), Fires s o →
    PortFree s o true → o.overCount = false → Clean o.f.left → (∀ x ∈ o.f.left, x.val.toNat % 4 = 0) →
    s.storeLanes o 4 o.f.first (o.f.left.map fun x => addrOf high.toNat x.val.toNat) = .ok l →
    (Clean o.f.right ∨ ∀ p ∈ l, ∀ t ∈ p.2, t.1.t3 = false) → TokenFits s o h →
    exec (.stv h high) s = .next (completes ((s.noteStores o l).atCommit o
      (.store o.f.slot (storePieces 4 o.f.right l))) o h 0)) ∧
  (∀ (h : OpWord) (s s1 : State) (o : OpIn) (l : List (Nat × List (Target × Nat))), Fires s o → PortFree s o true →
    o.overCount = false → Clean o.f.left →
    (∀ x ∈ o.f.left, x.val.toNat % 4 = 0 ∧ x.val.toNat < 0x200000) →
    s.unlockLanes o o.f.first (o.f.left.map fun x => x.val.toNat) = .ok l → TokenFits s o h →
    s1 = (l.flatMap fun p => p.2).foldl (fun s t => s.modCore o.c fun k => k.modInst o.f.iid fun i =>
      { i with accs := i.accs ++ [InstAcc.mk o.f.slot t.1.loc.line (s.accNow o.c o.i.tag.colour true true) none] }) s →
    exec (.stul h) s = .next (completes ((o.f.left.map fun x => x.val.toNat).foldl
      (fun s a => s.atCommit o (.lockClear o.c a))
      (s1.atCommit o (.store o.f.slot (storePieces 4 o.f.right l)))) o h 0))

/-- The frame of ST, STV, LD and LDV where they neither trap nor wait nor go on at their port: no byte of any memory
and no register changes. A load enters race records and the core's translation cache, a store only its instance: the
bytes reach memory at the commit. Everything else is as it was: the state but for the race records and the counter of
open values, and each core but for its tokens, instances, issue queues, race records and translation cache. -/
def Obligations.LoadsAndStoresLeaveMemory : Prop :=
  ∀ (i : Instr) (s t : State) (o : OpIn) (h : OpWord),
    ((∃ ty, i = .st h ty) ∨ (∃ high, i = .stv h high) ∨ (∃ ty, i = .ld h ty) ∨ (∃ sh high, i = .ldv h sh high)) →
    Fires s o → o.i.status ≠ .parked → (s.core o.c).isHandler o.i = false → (s.core o.c).ring.length < 32 →
    exec i s = .next t → (t.core o.c).traps = (s.core o.c).traps → (t.core o.c).held = (s.core o.c).held →
    (∀ a, memByte t.mem a = memByte s.mem a) ∧
    (∀ c a, memByte (t.core c).scratch a = memByte (s.core c).scratch a) ∧
    { t with cores := s.cores, firing := s.firing, memRecs := s.memRecs, freeCtr := s.freeCtr } = s ∧
    ∀ c, { t.core c with inflight := (s.core c).inflight, ports := (s.core c).ports,
                         nodeData := (s.core c).nodeData, instances := (s.core c).instances,
                         nextIid := (s.core c).nextIid, issueQ := (s.core c).issueQ, tlb := (s.core c).tlb,
                         scratchRecs := (s.core c).scratchRecs } = s.core c

/-- ATOM and CAS complete where their lanes do: each lane's old word goes to both targets, CAS's T1 gets whether it
was the expected one. The new word is R304's, or CAS's new value where the old one was the expected one. The
partner word of CAS, which never fires, does nothing. -/
def Obligations.AtomicsComplete : Prop :=
  (∀ (h : OpWord) (op : AtomOp) (ord : MemOrd) (scope : BitVec 3) (g : BitVec 1) (hi : BitVec 16) (s : State)
      (o : OpIn) (addrs : List Nat) (ts : List Target) (r : AtomRun), Fires s o →
    addrs = o.f.left.map (atomicAddr g hi) → AtomicReady s o h ord scope.toNat addrs o.f.right ts →
    r = performed s o ord scope.toNat addrs ts (fun j m => atomic304 op m (o.f.right.getD j zeroLane).val)
      { opc := atomCode op, operands := o.f.right.map fun l => l.val.toNat } →
    r.stop = none →
    exec (.atom h op ord scope g hi) s = .next (done (r.st.finish (s.reachPort o).2 h true
      { first := o.f.first + o.f.skip, lanes := r.olds } { first := o.f.first + o.f.skip, lanes := r.olds }))) ∧
  (∀ (h : OpWord) (ord : MemOrd) (scope : BitVec 3) (g : BitVec 1) (hi : BitVec 16) (s : State)
      (o : OpIn) (addrs : List Nat) (ts : List Target) (r : AtomRun), Fires s o → h.ar ≠ 1 →
    addrs = o.f.left.map (atomicAddr g hi) →
    AtomicReady s o h ord scope.toNat addrs (orPoison o.f.right o.f.third) ts →
    r = performed s o ord scope.toNat addrs ts (fun j m =>
      if m = (o.f.right.getD j zeroLane).val then (o.f.third.getD j zeroLane).val else m)
      { opc := 16, operands := List.zipWith
          (fun (e n : Lane) => e.val.toNat + 2 ^ 32 * n.val.toNat) o.f.right o.f.third } →
    r.stop = none →
    exec (.cas h ord scope g hi) s = .next (done (r.st.finish (s.reachPort o).2 h true
      { first := o.f.first + o.f.skip, lanes := r.olds }
      { first := o.f.first + o.f.skip, lanes := (List.zipIdx r.olds o.f.skip).map fun p =>
          { val := truth (p.1.val == (o.f.right.getD p.2 zeroLane).val), poison := p.1.poison } }))) ∧
  (∀ (h : OpWord) (ord : MemOrd) (scope : BitVec 3) (g : BitVec 1) (hi : BitVec 16) (s : State) (o : OpIn),
    Fires s o → h.ar = 1 → exec (.cas h ord scope g hi) s = .next (done s)) ∧
  (∀ (h : OpWord) (s : State) (o : OpIn) (ts : List Target) (r : AtomRun), Fires s o → PortFree s o true →
    Clean o.f.left → (∀ x ∈ o.f.left, x.val.toNat % 4 = 0 ∧ x.val.toNat < 0x200000) →
    s.atomPlaces o o.f.first (o.f.left.map fun x => x.val.toNat) = .ok ts → TokenFits s o h →
    State.lockLanes o o.f.skip (ts.drop o.f.skip) s = (r, none) → r.stop = none →
    exec (.ldlk h) s = .next (done (r.st.finish o h true { first := o.f.first + o.f.skip, lanes := r.olds }
      { first := o.f.first + o.f.skip, lanes := r.olds })))

/-- A load of the core's own scratchpad reads the bytes that stand there, little-endian (R4, R110): where nothing
races and no store of its own instance covers it. An atomic of one lane at its port answers the word that stood there,
and leaves the new one in its place and every other byte of that core's scratchpad as it was (R134, R304). -/
def Obligations.LocalMemoryReadsAndWrites : Prop :=
  (∀ (s : State) (o : OpIn) (a : Nat) (i : Instance), (s.core o.c).inst? o.f.iid = some i → i.stores = [] →
    a % 4 = 0 → a + 4 ≤ 0x200000 → (s.core o.c).inPool a = false → o.i.accs = [] →
    s.raceOn (.scratch o.c (a / 64 * 64)) (s.accNow o.c o.i.tag.colour false false) = none →
    ∃ t, s.load o a 4 = .ok ((List.range 4).map fun j => memByte (s.core o.c).scratch (a + j),
        has (s.core o.c).scratchPoison (a / 64 * 64), t) ∧
      t.mem = s.mem ∧ ∀ c, (t.core c).scratch = (s.core c).scratch) ∧
  (∀ (s u : State) (o : OpIn) (t : Target) (c a : Nat) (d : Order) (old w : Lane) (upd : Word → Word),
    t.loc = .scratch c a → Memory.wf (s.core c).scratch = true → old = s.wordAt t.loc → s.rmw o t d old upd = (w, u) →
    w.val = BitVec.ofNat 32 (ofBytes (memRead (s.core c).scratch a 4)) ∧
    (∀ b, memByte (u.core c).scratch b =
      if a ≤ b ∧ b < a + 4 then BitVec.ofNat 8 ((upd w.val).toNat / 256 ^ (b - a))
      else memByte (s.core c).scratch b) ∧
    u.mem = s.mem)

/-- FENCE, PREF, TSTATE in its four events, TWAIT, SOPEN and SCLOSE complete; a TSTATE answers the new state of its
tile by R119, TWAIT its COUNT and POISON, SCLOSE how many elements its node has delivered. -/
def Obligations.OrderingAndTileFormsComplete : Prop :=
  (∀ (h : OpWord) (kind : FenceKind) (scope : BitVec 3) (s : State) (o : OpIn), Fires s o → PortFree s o false →
    scope ≠ 7 → (if kind = .acquire then s.earlier o else s.releaseWaits o) = false → TokenFits s o h →
    ∃ t, exec (.fence h kind scope) s = .next (completes t o h 0) ∧ t.cores = s.cores ∧ t.mem = s.mem ∧
      (kind = .release ∨ h.ar = 0 ∨ o.i.accs = [] → t = s)) ∧
  (∀ (h : OpWord) (s : State) (o : OpIn), Fires s o → PortFree s o false →
    exec (.pref h) s = .next (completes (o.f.left.foldl (fun s l => s.cachePage o.c l.val.toNat) s) o h 0)) ∧
  (∀ (h : OpWord) (s : State) (o : OpIn) (t : Tile), Fires s o → PortFree s o false → s.releaseWaits o = false →
    (left0 o).val.toNat < 256 → t = (s.core o.c).tile (left0 o).val.toNat → t.valid = true → TokenFits s o h →
    (t.state = 0 → exec (.tstateFill h) s = .next (completes (s.modCore o.c fun k =>
      k.modTile (left0 o).val.toNat fun x => { x with state := 1, users := [], rels := t.rels, count := 0, poison := false }) o h 1)) ∧
    (t.state = 1 → ∃ u, exec (.tstatePublish h) s = .next (completes u o h 2) ∧
      ((u.core o.c).tile (left0 o).val.toNat).state = 2) ∧
    (t.state = 2 → exec (.tstateDrain h) s = .next (completes (s.modCore o.c fun k =>
      k.modTile (left0 o).val.toNat fun x => { x with state := 3, users := [], rels := t.rels, count := 0, poison := x.poison }) o h 3)) ∧
    (t.state = 2 ∨ t.state = 3 → ∃ u, exec (.tstateRelease h) s = .next (completes u o h 0) ∧
      ((u.core o.c).tile (left0 o).val.toNat).state = 0)) ∧
  (∀ (h : OpWord) (s : State) (o : OpIn) (t : Tile), Fires s o → s.portBusy o .carder = false →
    (left0 o).val.toNat < 1024 → t = (s.core o.c).tile ((left0 o).val.toNat % 256) → t.valid = true →
    t.state = (left0 o).val.toNat / 256 → TokenFits s o h →
    exec (.twait h) s = .next (completes (if t.state = 2 then s.acquireAll (s.agent o.c o.i.tag.colour) t.rels else s) o h
      (BitVec.ofNat 32 (t.count % 65536 + if t.poison then 65536 else 0)))) ∧
  (∀ (h : OpWord) (node : BitVec 4) (s s1 : State) (o : OpIn) (bs : List Byte), Fires s o → PortFree s o true →
    s.earlier o = false → (left0 o).poison = false → (left0 o).val.toNat % 64 = 0 → (left0 o).val.toNat < 0x200000 →
    s.readBlock o .carder (left0 o).val.toNat 64 = .ok (bs, s1) → s.streamOk o.c (words64 bs) = true →
    (s.core o.c).openBad node.toNat (words64 bs) = false → TokenFits s o h →
    exec (.sopen h node) s = .next (completes (s1.modCore o.c fun k => k.modNode node.toNat fun _ =>
      { Node.zero with state := 1, desc := words64 bs, opener := o.i.tag.colour }) o h 0)) ∧
  (∀ (h : OpWord) (node : BitVec 4) (s : State) (o : OpIn) (n : Node), Fires s o → PortFree s o false →
    s.earlier o = false → TokenFits s o h → n = (s.core o.c).node node.toNat → n.fault = none →
    exec (.sclose h node) s = .next (if n.state = 0 then completes s o h 0
      else completes (s.modCore o.c fun k => { k with nodes := aset k.nodes node.toNat Node.zero,
                                                      matPath := k.matPath.filter fun p => p.1 != node.toNat }) o h
        (BitVec.ofNat 32 (n.visited - ((s.core o.c).matPath.filter fun p => p.1 == node.toNat).length))))

/-- R119: the changes of a tile's state that TSTATE makes, and no others: a fill of a tile that is not empty, a publish
of one that is not filling, a drain of one that is not ready, and a release of one that is neither ready nor draining
take an illegal-operand trap. That LANE is then the first lane of the set is the model's reading of R189 (log 143). -/
def Obligations.TileStates : Prop :=
  ∀ (ev state : Nat), tileEvent ev state =
    (if ev = 0 ∧ state = 0 then some 1 else if ev = 1 ∧ state = 1 then some 2 else if ev = 2 ∧ state = 2 then some 3
     else if ev = 3 ∧ (state = 2 ∨ state = 3) then some 0 else none) ∧
  ∀ (h : OpWord) (s : State) (o : OpIn), Fires s o → PortFree s o false → s.releaseWaits o = false →
    (left0 o).val.toNat < 256 → ((s.core o.c).tile (left0 o).val.toNat).valid = true →
    (((s.core o.c).tile (left0 o).val.toNat).state ≠ 0 →
      exec (.tstateFill h) s = .next (trapped s o 2 (left0 o).val.toNat 119 0 o.f.first)) ∧
    (((s.core o.c).tile (left0 o).val.toNat).state ≠ 1 →
      exec (.tstatePublish h) s = .next (trapped s o 2 (left0 o).val.toNat 119 0 o.f.first)) ∧
    (((s.core o.c).tile (left0 o).val.toNat).state ≠ 2 →
      exec (.tstateDrain h) s = .next (trapped s o 2 (left0 o).val.toNat 119 0 o.f.first)) ∧
    (((s.core o.c).tile (left0 o).val.toNat).state ≠ 2 → ((s.core o.c).tile (left0 o).val.toNat).state ≠ 3 →
      exec (.tstateRelease h) s = .next (trapped s o 2 (left0 o).val.toNat 119 0 o.f.first))

/-- GROWS and SCAT complete: GROWS writes its rows into the filling tile before its token, SCAT notes those of a
ready tile for the commit, each line poisoned where the one it was read from is. -/
def Obligations.RowFormsComplete : Prop :=
  (∀ (h : OpWord) (tile : BitVec 8) (desc rowoff : BitVec 12) (s s1 s2 s3 : State) (o : OpIn) (t : Tile)
      (bs : List Byte) (rb : Nat) (rows : List (Nat × Nat)) (data : List (List PByte)), Fires s o →
    RowsReady s s1 o h tile.toNat desc.toNat rowoff.toNat 1 t bs rb rows →
    s.readRows o rb o.f.first (rows.map fun p => p.1) s1 = .ok (data, s2) →
    s.writeRows o o.f.first (List.zipWith (fun (p : Nat × Nat) d => (p.2, d)) rows data) s2 = .ok s3 →
    exec (.grows h tile desc rowoff) s = .next (completes s3 o h 0)) ∧
  (∀ (h : OpWord) (tile : BitVec 8) (desc rowoff : BitVec 12) (s s1 s3 : State) (o : OpIn) (t : Tile)
      (bs : List Byte) (rb : Nat) (rows : List (Nat × Nat)) (data : List (List PByte))
      (l : List (Nat × List (Target × Nat))), Fires s o → o.overCount = false →
    RowsReady s s1 o h tile.toNat desc.toNat rowoff.toNat 2 t bs rb rows →
    s.readRows o rb o.f.first (rows.map fun p => p.2)
      (s1.acquireAll (s1.agent o.c o.i.tag.colour) ((s1.core o.c).tile tile.toNat).rels) = .ok (data, s3) →
    s.storeLanes o rb o.f.first (rows.map fun p => p.1) = .ok l →
    (∀ r ∈ rowSegs data l, ∀ g ∈ r, g.1.t3 = true → g.2.poison = false) →
    exec (.scat h tile desc rowoff) s = .next (completes ((s3.noteStores o l).atCommit o (.store o.f.slot
      ((rowSegs data l).flatten.map fun g => g.2))) o h 0))

/-- The stream forms complete: the merging ones and SNEXT with the pairs they come to and both registers moved on,
STLD with a register loaded or invalidated and its token to T0 alone, STST with the pairs left and whether the head is
END. -/
def Obligations.StreamFormsComplete : Prop :=
  (∀ (i : Instr) (h : OpWord) (m : MergeKind) (n : BitVec 5) (b a : BitVec 3) (s : State) (o : OpIn) (r : Merge),
    merging i = some (h, m, n, b, a) → Fires s o → StreamFree s o true → (o.m.vec = true ∨ n = 0) →
    s.pairsBad o h (n.toNat + 1) = false →
    merge o m (n.toNat + 1) (((s.core o.c).stream a.toNat).left + ((s.core o.c).stream b.toNat).left + 1)
      { a := (s.core o.c).stream a.toNat, b := (s.core o.c).stream b.toNat, out := [], st := s } = .ok r →
    exec i s = .next (done ((r.st.modCore o.c fun k =>
      { k with streams := aset (aset k.streams a.toNat r.a) b.toNat r.b }).sendPairs o h (n.toNat + 1) r.out))) ∧
  (∀ (h : OpWord) (n : BitVec 5) (a : BitVec 3) (s : State) (o : OpIn) (r : Merge), Fires s o → StreamFree s o true →
    (o.m.vec = true ∨ n = 0) → s.pairsBad o h (n.toNat + 1) = false →
    nextPairs o (n.toNat + 1) { a := (s.core o.c).stream a.toNat, b := Stream.zero, out := [], st := s } = .ok r →
    exec (.snext h n a) s = .next (done ((r.st.modCore o.c fun k =>
      { k with streams := aset k.streams a.toNat r.a }).sendPairs o h (n.toNat + 1) r.out))) ∧
  (∀ (h : OpWord) (a : BitVec 3) (s : State) (o : OpIn), Fires s o → StreamFree s o true → TokenFits s o h → h.ar = 0 →
    exec (.stld h a) s = .next (done ((s.modCore o.c fun k =>
      { k with streams := aset k.streams a.toNat ({ (s.core o.c).stream a.toNat with flags := 0 } : Stream) }).finish o h
        false (allLanes o 0) { first := 0, lanes := [] }))) ∧
  (∀ (h : OpWord) (a : BitVec 3) (s s1 : State) (o : OpIn) (bs : List Byte), Fires s o → StreamFree s o true →
    TokenFits s o h → h.ar ≠ 0 → (left0 o).poison = false → (left0 o).val.toNat % 16 = 0 →
    (left0 o).val.toNat < 0x200000 → s.readBlock o .carder (left0 o).val.toNat 16 = .ok (bs, s1) →
    exec (.stld h a) s = .next (done ((s1.modCore o.c fun k =>
      { k with streams := aset k.streams a.toNat (Stream.mk (leAt bs 0 7) (leAt bs 8 4) 0 0 1) }).finish o h false
        (allLanes o 0) { first := 0, lanes := [] }))) ∧
  (∀ (h : OpWord) (a : BitVec 3) (s : State) (o : OpIn) (t : Stream), Fires s o → StreamFree s o false →
    t = (s.core o.c).stream a.toNat → Fits s o h (oneLane 0 0) →
    exec (.stst h a) s = .next (done (s.finish o h true
      (oneLane 0 (if t.flags % 2 = 1 then BitVec.ofNat 32 (t.len - t.pos) else 0))
      (oneLane 0 (truth (t.flags % 2 == 0 || decide (t.len ≤ t.pos)))))))

end

namespace Sys2Proof.Claims

open Sys2Proof Sys2Proof.Machine

/-! ### The matrix unit -/

/-- The step of a repetition's last iteration where this is its first, and this iteration's otherwise (R266). -/
def lastStep (o : OpIn) : Nat :=
  match o.f.rep with
  | some r => if r.left = r.n then (r.n - 1) * r.stride else o.f.stepBy
  | none => o.f.stepBy

/-- A form of the matrix port goes ahead in an iteration whose fields are moved on by `d`: nothing before it holds
the port, its core has not arrived at the open step where it reads memory, and the registers it names lie in the
allotment that its request issued with, or in its colour's where it has none (R120, R179, R266, R328). -/
def MatReady (names : MNames) (s : State) (o : OpIn) (h : OpWord) (d : Nat) : Prop :=
  Fires s o ∧ o.head = h ∧ s.portBusy o .matrix = false ∧ (names.mem = true → s.hasArrived o.c = false) ∧
    TokenFits s o h ∧ d = o.f.stepBy ∧ names.field + lastStep o ≤ names.top ∧
    ∀ e, e = d ∨ e = lastStep o → ∀ r ∈ names.regs e, r.allowed (o.f.ticket.allot.getD (s.colourOf o).allot) = true

/-- What MLD of a kind puts in its register, from an operand. -/
def mldEffect (s : State) (o : OpIn) (fmt : Fmt) (kind : MKind) (t mo : BitVec 1) (r : Nat) (d : Operand) :
    Except State State :=
  match kind with
  | .ma => s.mldMa o fmt r (t == 1) (mo == 1) d
  | .md => s.mldMd o r d
  | .acc => s.mldAcc o (fmt == Fmt.int32) r d

/-- The rows that MST of a kind stores. -/
def mstRows (k : Core) (fmt : Fmt) (kind : MKind) (t : BitVec 1) (r : Nat) : List (Nat × List PByte) :=
  match kind with
  | .ma => maStore (k.ma r) fmt (t == 1)
  | .md => mdStore (k.md r)
  | .acc => accStore (k.acc r) (if (k.acc r).written then (k.acc r).int else fmt == Fmt.int32 || fmt == Fmt.int8) fmt

/-- Whether a register may be stored in a format (R335). -/
def mstFits (k : Core) (fmt : Fmt) (kind : MKind) (r : Nat) : Prop :=
  match kind with
  | .ma => (k.ma r).fmt = fmtCode fmt
  | .md => True
  | .acc => accStores (if (k.acc r).written then (k.acc r).int else fmt == Fmt.int32 || fmt == Fmt.int8) fmt = true

/-- The rows of A·B added to an accumulator's (R225, R226, R338). -/
def mmaRows (fmt : Fmt) (a b : MaReg) (old : List (List Nat)) : List (List Nat) :=
  if fmtInt fmt then
    intProduct old fun i j => rowPairs (((List.range 64).map (a.ints fmt)).getD i [])
      (((List.range 64).map (b.ints fmt)).getD j [])
  else
    floatProduct old fun i j => rowPairs (((List.range 64).map a.vals).getD i [])
      (((List.range 64).map b.vals).getD j [])

/-- The machine with one accumulator of a core replaced. -/
def withAcc (s : State) (o : OpIn) (i : Nat) (a : AccReg) : State := s.modCore o.c fun k => k.setAcc i a

/-- The machine with one ma register of a core replaced. -/
def withMa (s : State) (o : OpIn) (i : Nat) (m : MaReg) : State := s.modCore o.c fun k => k.setMa i m

/-- The collective forms with their parameters and scope (R318, R319). -/
def collective : Instr → Option (OpWord × CollForm × Nat)
  | .cred h .add fmt mode scope => some (h, ⟨0, 0, fmtCode fmt, mode.toNat, 0⟩, scope.toNat)
  | .cred h .min fmt mode scope => some (h, ⟨0, 1, fmtCode fmt, mode.toNat, 0⟩, scope.toNat)
  | .cred h .max fmt mode scope => some (h, ⟨0, 2, fmtCode fmt, mode.toNat, 0⟩, scope.toNat)
  | .cbc h scope root => some (h, ⟨1, 0, 0, 0, root.toNat⟩, scope.toNat)
  | .cag h scope => some (h, ⟨2, 0, 0, 0, 0⟩, scope.toNat)
  | .ca2a h scope => some (h, ⟨3, 0, 0, 0, 0⟩, scope.toNat)
  | _ => none

end Sys2Proof.Claims

section

open Sys2Proof Sys2Proof.Machine Sys2Proof.Claims

/-! ### Matrix instructions (R330 to R352) -/

/-- R121: MLD and MST under a predicate register read the bit of their tile modulo 64, and with that bit clear they
retire with no effect and their completion token, whatever their left lane is. -/
def Obligations.TilePredicate : Prop :=
  (∀ (s : State) (c pten pt tile : Nat), s.tilePred c pten pt tile =
    (pten == 0 || (((s.core c).pt pt) / 2 ^ (tile % 64) % 2 == 1))) ∧
  (∀ (h : OpWord) (fmt : Fmt) (reg : BitVec 4) (tile : BitVec 8) (pt : BitVec 4) (t mo : BitVec 1) (kind : MKind)
      (s : State) (o : OpIn) (d : Nat), MatReady (loadNames kind reg.toNat tile.toNat 1 pt.toNat) s o h d →
    ((s.core o.c).pt pt.toNat) / 2 ^ ((tile.toNat + d) % 64) % 2 = 0 →
    ((kind = .ma → (left0 o).val ≠ 0xFFFFFFFF) →
      exec (.mld h fmt reg tile 1 pt t mo kind) s = .next (completes s o h 0)) ∧
    (o.overCount = false → exec (.mst h fmt reg tile 1 pt t mo kind) s = .next (completes s o h 0)))

/-- MLD and MST complete: MLD from a ready tile, whose fill it acquires, or from the matrix operand path with 64 rows
in it, where TILE and PTEN are ignored (R336); MST into a filling tile, its lines noted for the commit. -/
def Obligations.MatrixLoadsComplete : Prop :=
  (∀ (h : OpWord) (fmt : Fmt) (reg : BitVec 4) (tile : BitVec 8) (pten : BitVec 1) (pt : BitVec 4)
      (t mo : BitVec 1) (kind : MKind) (s s2 s3 : State) (o : OpIn) (d : Nat) (tl : Tile) (x : Operand),
    MatReady (loadNames kind reg.toNat tile.toNat pten.toNat pt.toNat) s o h d → (left0 o).poison = false →
    (kind = .ma → (left0 o).val ≠ 0xFFFFFFFF) → s.tilePred o.c pten.toNat pt.toNat (tile.toNat + d) = true →
    tl = (s.core o.c).tile (tile.toNat + d) → tl.valid = true → tl.state = 2 →
    (s.acquireAll (s.agent o.c o.i.tag.colour) tl.rels).readOperand (o.afterFill tl) = .ok (x, s2) →
    mldEffect s2 (o.afterFill tl) fmt kind t mo (reg.toNat + d) x = .ok s3 →
    exec (.mld h fmt reg tile pten pt t mo kind) s = .next (completes s3 o h 0)) ∧
  (∀ (h : OpWord) (fmt : Fmt) (reg : BitVec 4) (tile : BitVec 8) (pten : BitVec 1) (pt : BitVec 4)
      (t mo : BitVec 1) (s : State) (o : OpIn) (d : Nat) (p : Nat × List Lane) (rest : List (Nat × List Lane)),
    MatReady (namesOf fun d => [.ma (reg.toNat + d)]) s o h d → (left0 o).poison = false →
    (left0 o).val = 0xFFFFFFFF → fmtFB fmt = false → fmt ≠ .tern5 → (s.core o.c).matPath = p :: rest →
    descEwords ((s.core o.c).node p.1).desc = maRowBytes fmt / 4 → 63 ≤ rest.length →
    ∃ u, exec (.mld h fmt reg tile pten pt t mo .ma) s = .next (completes u o h 0) ∧
      (u.core o.c).matPath = (p :: rest).drop 64 ∧
      ((u.core o.c).ma (reg.toNat + d)).fmt = fmtCode fmt ∧ ((u.core o.c).ma (reg.toNat + d)).written = true) ∧
  (∀ (h : OpWord) (fmt : Fmt) (reg : BitVec 4) (tile : BitVec 8) (pten : BitVec 1) (pt : BitVec 4)
      (t mo : BitVec 1) (kind : MKind) (s s1 : State) (o : OpIn) (d : Nat) (x : Operand)
      (l : List (Nat × List (Target × Nat))) (segs : List Seg),
    MatReady (loadNames kind reg.toNat tile.toNat pten.toNat pt.toNat) s o h d → o.overCount = false →
    (left0 o).poison = false → s.tilePred o.c pten.toNat pt.toNat (tile.toNat + d) = true →
    ((s.core o.c).tile (tile.toNat + d)).valid = true → ((s.core o.c).tile (tile.toNat + d)).state = 1 →
    s.readOperand o = .ok (x, s1) → mstFits (s.core o.c) fmt kind (reg.toNat + d) →
    (∀ r ∈ mstRows (s.core o.c) fmt kind t (reg.toNat + d), x.fits (r.1 + 1) r.2.length = true) →
    s1.storeRows o x (mstRows (s.core o.c) fmt kind t (reg.toNat + d)) = .ok (l, segs) →
    exec (.mst h fmt reg tile pten pt t mo kind) s =
      .next (completes ((s1.noteStores o l).atCommit o (.store o.f.slot segs)) o h 0))

/-- R337: MZERO sets the active bank of its accumulator to zero, clears its poison and sets WRITTEN; with EMPTY it
clears the next one too and writes -Inf into its column 0. The other bank and every other register are as before. -/
def Obligations.MatrixClear : Prop :=
  ∀ (h : OpWord) (acc : BitVec 3) (int empty : BitVec 1) (s : State) (o : OpIn) (d n : Nat),
    n = acc.toNat + d →
    MatReady (namesOf fun d => .acc (acc.toNat + d) :: (if empty = 1 then [.acc (acc.toNat + d + 1)] else [])) s o h d →
    ∃ l, exec (.mzero h acc int empty) s = .next (completes (s.modCore o.c fun k => { k with accs := l }) o h 0) ∧
      (∀ a, a = aget AccReg.zero l n →
        (∀ i j, i < 64 → j < 64 → a.at i j = 0) ∧ a.int = (empty == 0 && int == 1) ∧ a.written = true ∧
        a.prow = 0 ∧ a.pcol = 0 ∧ a.psum = false ∧ a.active = ((s.core o.c).acc n).active ∧
        (if a.active then a.bank0 = ((s.core o.c).acc n).bank0 else a.bank1 = ((s.core o.c).acc n).bank1)) ∧
      (empty = 1 → ∀ a, a = aget AccReg.zero l (n + 1) →
        (∀ i j, i < 64 → j < 64 → a.at i j = if j = 0 then 0xFF800000 else 0) ∧ a.int = false ∧ a.written = true ∧
        a.prow = 0 ∧ a.pcol = 0 ∧ a.psum = false) ∧
      (∀ m, m ≠ n → (empty = 1 → m ≠ n + 1) → aget AccReg.zero l m = (s.core o.c).acc m)

/-- The forms on the unit's own registers complete: MMA, MMSP, MCOMP, MQNT, MDEQ, MTRN, MACCR, PTSET and PTOP, with
the one register that each writes. That MDEQ's token holds its value in lane 0 alone is the model's (log 43). -/
def Obligations.MatrixFormsComplete : Prop :=
  (∀ (h : OpWord) (fmt : Fmt) (acc : BitVec 3) (ma mb : BitVec 4) (s : State) (o : OpIn) (d : Nat) (a b : MaReg),
    MatReady (namesOf fun d => [.acc acc.toNat, .ma (ma.toNat + d), .ma (mb.toNat + d)]) s o h d →
    (s.core o.c).productBad fmt [ma.toNat + d, mb.toNat + d] acc.toNat = none →
    a = (s.core o.c).ma (ma.toNat + d) → b = (s.core o.c).ma (mb.toNat + d) →
    exec (.mma h fmt acc ma mb) s = .next (completes (withAcc s o acc.toNat
      (((s.core o.c).acc acc.toNat).product (fmtInt fmt) (mmaRows fmt a b ((s.core o.c).acc acc.toNat).rows) a.prow b.prow))
        o h 0)) ∧
  (∀ (h : OpWord) (fmt : Fmt) (acc : BitVec 3) (ma mb : BitVec 4) (md : BitVec 3) (pat : BitVec 1) (s : State)
      (o : OpIn) (d : Nat), MatReady (namesOf fun d => [.acc acc.toNat, .ma (ma.toNat + d), .ma (mb.toNat + d),
        .ma (mb.toNat + d + 1), .md (md.toNat + d)]) s o h d →
    (s.core o.c).productBad fmt [ma.toNat + d, mb.toNat + d, mb.toNat + d + 1] acc.toNat = none →
    ((s.core o.c).md (md.toNat + d)).badMask pat.toNat = none →
    ∃ a, exec (.mmsp h fmt acc ma mb md pat) s = .next (completes (withAcc s o acc.toNat a) o h 0) ∧
      a.written = true ∧ a.int = fmtInt fmt ∧ a.active = ((s.core o.c).acc acc.toNat).active) ∧
  (∀ (h : OpWord) (fmt : Fmt) (ma ms : BitVec 4) (md : BitVec 3) (pat : BitVec 1) (gap : BitVec 3) (s : State)
      (o : OpIn) (d : Nat), MatReady (namesOf fun d => [.ma (ma.toNat + d), .ma (ms.toNat + d),
        .ma (ms.toNat + d + 1), .md (md.toNat + d)]) s o h d →
    ((s.core o.c).ma (ms.toNat + d)).heldIn fmt = true → ((s.core o.c).ma (ms.toNat + d + 1)).heldIn fmt = true →
    ∃ m x, exec (.mcomp h fmt ma ms md pat gap) s = .next (completes (s.modCore o.c fun k =>
        { k.setMa (ma.toNat + d) m with mds := aset k.mds (md.toNat + d) x }) o h 0) ∧
      m.fmt = fmtCode fmt ∧ m.orient = false ∧ m.written = true ∧ x.written = true ∧ x.prow = 0) ∧
  (∀ (h : OpWord) (fmt : Fmt) (acc : BitVec 3) (ma : BitVec 4) (gap : BitVec 3) (orient : BitVec 1) (s : State)
      (o : OpIn) (d : Nat), MatReady (namesOf fun d => [.acc (acc.toNat + d), .ma (ma.toNat + d)]) s o h d →
    exec (.mqnt h fmt acc ma gap orient) s = .next (completes (withMa s o (ma.toNat + d)
      (quantAcc fmt gap.toNat (orient == 1) ((s.core o.c).acc (acc.toNat + d)))) o h 0)) ∧
  (∀ (h : OpWord) (df sf : Fmt) (ma ms : BitVec 4) (strict : BitVec 1) (s : State) (o : OpIn) (d : Nat) (m : MaReg),
    MatReady (namesOf fun d => [.ma (ma.toNat + d), .ma (ms.toNat + d)]) s o h d →
    m = (s.core o.c).ma (ms.toNat + d) → m.fmt = fmtCode sf → (strict = 1 → sf = .tern5 → m.badBytes = []) →
    exec (.mdeq h df sf ma ms strict) s = .next (done ((withMa s o (ma.toNat + d) (maMake df false m.prow
      ((List.range 64).map fun r => List.zipWith (deqElem df sf) (m.ints sf r) (m.vals r)) [])).finishL o h
        (BitVec.ofNat 32 (if sf = .tern5 then m.badBytes.length else 0))))) ∧
  (∀ (h : OpWord) (ma ms : BitVec 4) (s : State) (o : OpIn) (d : Nat),
    MatReady (namesOf fun d => [.ma (ma.toNat + d), .ma (ms.toNat + d)]) s o h d →
    exec (.mtrn h ma ms) s = .next (completes (withMa s o (ma.toNat + d)
      ((s.core o.c).ma (ms.toNat + d)).transpose) o h 0)) ∧
  (∀ (h : OpWord) (acc : BitVec 3) (row : BitVec 6) (half : BitVec 1) (s : State) (o : OpIn) (d : Nat) (a : AccReg)
      (ls : List Lane), MatReady { regs := fun _ => [.acc acc.toNat], field := row.toNat, top := 63, mem := false } s o h d →
    o.f.n = 32 → a = (s.core o.c).acc acc.toNat →
    ls = (List.range 32).map (fun c => { val := BitVec.ofNat 32 (a.at (row.toNat + d) (32 * half.toNat + c)),
                                         poison := a.elemPoison (row.toNat + d) (32 * half.toNat + c) }) →
    exec (.maccr h acc row half 0) s =
        .next (done (s.finish o h true { first := 0, lanes := ls } { first := 0, lanes := ls })) ∧
      exec (.maccr h acc row half 1) s =
        .next (completes (withAcc s o acc.toNat (a.writeHalf (row.toNat + d) half.toNat o.f.left)) o h 0)) ∧
  (∀ (h : OpWord) (pt : BitVec 4) (half : BitVec 1) (s : State) (o : OpIn) (d v : Nat),
    MatReady (namesOf fun _ => [.pt pt.toNat]) s o h d → (left0 o).poison = false → v = (s.core o.c).pt pt.toNat →
    exec (.ptset h pt half) s = .next (completes (s.modCore o.c fun k =>
      { k with pts := aset k.pts pt.toNat (if half = 0 then v / 2 ^ 32 * 2 ^ 32 + (left0 o).val.toNat
          else v % 2 ^ 32 + (left0 o).val.toNat * 2 ^ 32) }) o h 0)) ∧
  (∀ (h : OpWord) (pd pa pb : BitVec 4) (op : PtOp) (s : State) (o : OpIn) (d : Nat),
    MatReady (namesOf fun _ => [.pt pd.toNat, .pt pa.toNat, .pt pb.toNat]) s o h d →
    exec (.ptop h pd pa pb op) s = .next (completes (s.modCore o.c fun k =>
      { k with pts := aset k.pts pd.toNat (match op with
        | .and => (s.core o.c).pt pa.toNat &&& (s.core o.c).pt pb.toNat
        | .or => (s.core o.c).pt pa.toNat ||| (s.core o.c).pt pb.toNat
        | .xor => (s.core o.c).pt pa.toNat ^^^ (s.core o.c).pt pb.toNat
        | .andn => (s.core o.c).pt pa.toNat &&& ((s.core o.c).pt pb.toNat ^^^ (2 ^ 64 - 1))) }) o h 0))

/-- R343: MTRN sets element (r, c) of its result to element (c, r) of its source. The held format is kept and ORIENT is
flipped; the row poison becomes every row where any source row was poisoned. For the formats of up to 16 bits. And
MACCR's 32 lanes written to one half of a row (R344) are what it then reads from there, and every other element of
the active bank is as before. -/
def Obligations.TransposedAndHalfRow : Prop :=
  (∀ (m : MaReg) (f : Fmt), fmtOf m.fmt = some f → f ≠ .tern5 → fmtBits f ≤ 16 → m.written = true →
    (∀ r c, r < 64 → c < 64 → (m.transpose.codes f r)[c]? = (m.codes f c)[r]?) ∧
    m.transpose.fmt = m.fmt ∧ m.transpose.orient = !m.orient ∧ m.transpose.scale = m.scale ∧
    m.transpose.prow = if m.prow = 0 then 0 else 2 ^ 64 - 1) ∧
  (∀ (a : AccReg) (row half : Nat) (ls : List Lane), row < 64 → half < 2 → ls.length = 32 →
    (∀ x ∈ ls, x.poison = false) → ∀ i j, i < 64 → j < 64 →
    (a.writeHalf row half ls).at i j =
      if i = row ∧ 32 * half ≤ j ∧ j < 32 * half + 32 then (ls.getD (j - 32 * half) zeroLane).val.toNat else a.at i j)

/-- The correcting forms and the Ply complete: MSTEP and MGRD set their registers; MCOR, MTRI, MWY, PLY, PLYC and
PLYF write their accumulators as FP32, where no guard is violated. PSUM after PLYC is the model's (log 145). -/
def Obligations.CorrectingFormsComplete : Prop :=
  (∀ (h : OpWord) (ss : BitVec 2) (mode : BitVec 1) (s : State) (o : OpIn) (d : Nat),
    MatReady (namesOf fun _ => [.ss ss.toNat]) s o h d → (left0 o).poison = false →
    (mode = 1 → (left0 o).val.toNat % 4 = 0 ∧ (left0 o).val.toNat + 256 ≤ 0x200000) →
    exec (.mstep h ss mode) s = .next (completes (s.modCore o.c fun k =>
      { k with sss := aset k.sss ss.toNat { mode := mode.toNat, value := (left0 o).val } }) o h 0)) ∧
  (∀ (h : OpWord) (gd : BitVec 2) (s s1 : State) (o : OpIn) (d : Nat) (bs : List Byte),
    MatReady (memNames fun _ => [.gd gd.toNat]) s o h d → s.paramBlock o 16 8 345 = .ok (bs, s1) →
    leAt bs 8 8 < 8 → badBound (leAt bs 0 4) = false → badBound (leAt bs 4 4) = false →
    exec (.mgrd h gd) s = .next (completes (s1.modCore o.c fun k =>
      { k with gds := aset k.gds gd.toNat (GdReg.mk (BitVec.ofNat 32 (leAt bs 0 4)) (BitVec.ofNat 32 (leAt bs 4 4)) (bit (leAt bs 8 8) 2)
        (bit (leAt bs 8 8) 1) (bit (leAt bs 8 8) 0)) }) o h 0)) ∧
  (∀ (h : OpWord) (acc : BitVec 3) (mk mv : BitVec 4) (ss gd : BitVec 2) (n : BitVec 5) (half : BitVec 1)
      (s s1 : State) (o : OpIn) (d : Nat) (k v : MaReg) (a : AccReg) (rs bs : List Nat) (p : Bool)
      (m : List (List Nat)),
    MatReady (memNames fun d => [.acc acc.toNat, .ma (mk.toNat + d), .ma (mv.toNat + d), .ss ss.toNat, .gd gd.toNat])
      s o h d →
    k = (s.core o.c).ma (mk.toNat + d) → v = (s.core o.c).ma (mv.toNat + d) → a = (s.core o.c).acc acc.toNat →
    (k.fmt = 1 ∨ k.fmt = 2) → v.fmt = k.fmt → (a.written = true → a.int = false) →
    rs = (List.range (n.toNat + 1)).map (fun t => 32 * half.toNat + t) →
    s.betas o ((s.core o.c).ss ss.toNat) rs = .ok (bs, p, s1) →
    deltaRun ((s.core o.c).gd gd.toNat) 0 (List.zipWith (fun b r => (b, k.f32Row r, v.f32Row r)) bs rs) a.rows = .ok m →
    exec (.mcor h acc mk mv ss gd n half) s = .next (completes (withAcc s1 o acc.toNat
      { a.asFloat.flip m with psum := a.psum || (p || k.marked rs || v.marked rs) }) o h 0)) ∧
  (∀ (h : OpWord) (acc : BitVec 3) (mk : BitVec 4) (ss : BitVec 2) (c : BitVec 6) (s s1 : State) (o : OpIn)
      (d : Nat) (k : MaReg) (bs : List Nat) (p : Bool),
    MatReady (memNames fun _ => [.acc acc.toNat, .ma mk.toNat, .ss ss.toNat]) s o h d →
    k = (s.core o.c).ma mk.toNat → (k.fmt = 1 ∨ k.fmt = 2) →
    s.betas o ((s.core o.c).ss ss.toNat) (List.range (c.toNat + 1)) = .ok (bs, p, s1) →
    ∃ a, exec (.mtri h acc mk ss c) s = .next (completes (withAcc s1 o acc.toNat a) o h 0) ∧
      a.int = false ∧ a.written = true) ∧
  (∀ (h : OpWord) (acc atri : BitVec 3) (mk mv : BitVec 4) (gd : BitVec 2) (c : BitVec 6) (s : State) (o : OpIn)
      (d : Nat) (k v : MaReg), MatReady (namesOf fun _ =>
        [.acc acc.toNat, .acc atri.toNat, .ma mk.toNat, .ma mv.toNat, .gd gd.toNat]) s o h d →
    k = (s.core o.c).ma mk.toNat → v = (s.core o.c).ma mv.toNat → (k.fmt = 1 ∨ k.fmt = 2) → v.fmt = k.fmt →
    ((s.core o.c).acc acc.toNat).floatOk = true → ((s.core o.c).acc atri.toNat).floatOk = true →
    ((s.core o.c).gd gd.toNat).een = false → ((s.core o.c).gd gd.toNat).sen = false →
    ((s.core o.c).gd gd.toNat).nf = false →
    ∃ a, exec (.mwy h acc atri mk mv gd c) s = .next (completes (withAcc s o acc.toNat a) o h 0) ∧
      a.int = false ∧ a.written = true ∧ a.active = !((s.core o.c).acc acc.toNat).active) ∧
  (∀ (h : OpWord) (acc : BitVec 3) (mq mk mv : BitVec 4) (first causal : BitVec 1) (s s1 : State) (o : OpIn)
      (d : Nat) (bs : List Byte) (b : PlyBlock), MatReady (memNames fun _ =>
        [.acc acc.toNat, .acc (acc.toNat + 1), .ma mq.toNat, .ma mk.toNat, .ma mv.toNat]) s o h d →
    s.paramBlock o 32 32 351 = .ok (bs, s1) → plyBlock bs (causal == 1) = some b →
    plyBad ((s.core o.c).ma mq.toNat) ((s.core o.c).ma mk.toNat) ((s.core o.c).ma mv.toNat) = none →
    ((s.core o.c).acc acc.toNat).floatOk = true → ((s.core o.c).acc (acc.toNat + 1)).floatOk = true →
    ∃ a a1, exec (.ply h acc mq mk mv first causal) s =
        .next (completes (withAcc (withAcc s1 o acc.toNat a) o (acc.toNat + 1) a1) o h 0) ∧
      a.int = false ∧ a.written = true ∧ a1.int = false ∧ a1.written = true) ∧
  (∀ (h : OpWord) (x y : BitVec 3) (s : State) (o : OpIn) (d : Nat), MatReady (namesOf fun _ =>
        [.acc x.toNat, .acc (x.toNat + 1), .acc y.toNat, .acc (y.toNat + 1)]) s o h d →
    (∀ i ∈ [x.toNat, x.toNat + 1, y.toNat, y.toNat + 1], ((s.core o.c).acc i).floatOk = true) →
    ∃ a a1, exec (.plyc h x y) s =
        .next (completes (withAcc (withAcc s o x.toNat a) o (x.toNat + 1) a1) o h 0) ∧
      a.int = false ∧ a.written = true ∧ a1.int = false ∧ a1.written = true ∧
      ∀ i, i < 64 → plycRow (((s.core o.c).acc (x.toNat + 1)).at i 0) (((s.core o.c).acc (x.toNat + 1)).at i 1)
          (((s.core o.c).acc x.toNat).row i) (((s.core o.c).acc (y.toNat + 1)).at i 0)
          (((s.core o.c).acc (y.toNat + 1)).at i 1) (((s.core o.c).acc y.toNat).row i) = none →
        ∀ j, j < 64 → a.at i j = ((s.core o.c).acc x.toNat).at i j ∧
          a1.at i j = ((s.core o.c).acc (x.toNat + 1)).at i j) ∧
  (∀ (h : OpWord) (acc : BitVec 3) (s : State) (o : OpIn) (d : Nat),
    MatReady (namesOf fun _ => [.acc acc.toNat, .acc (acc.toNat + 1)]) s o h d →
    ((s.core o.c).acc acc.toNat).floatOk = true → ((s.core o.c).acc (acc.toNat + 1)).floatOk = true →
    exec (.plyf h acc) s = .next (completes (withAcc s o acc.toNat
      (((s.core o.c).acc acc.toNat).asFloat.put ((List.range 64).map fun i =>
        (((s.core o.c).acc acc.toNat).row i).map fun x =>
          if absF32 (((s.core o.c).acc (acc.toNat + 1)).at i 1) = 0 then 0
          else divF32 x (((s.core o.c).acc (acc.toNat + 1)).at i 1)))) o h 0))

/-- WARP, and REEL in both its forms, complete: WARP's plan is noted for the commit, a chain command joins the Reel's
queue, an append answers its result and slot, once every write of it has been performed (R355), or 3 where the free
list is empty, and drops the answers that other modules gave it. The other lanes of that token, and what a plan names past the last page, are the model's (logs 43,
59, 95). -/
def Obligations.WarperAndReelComplete : Prop :=
  (∀ (h : OpWord) (s s1 s2 : State) (o : OpIn) (d lens n c plan : Nat) (bs lb out : List Byte) (pages : List Nat)
      (ts : List (Target × Nat)),
    MatReady (memNames fun _ => []) s o h d → o.overCount = false → s.paramBlock o 32 32 353 = .ok (bs, s1) →
    lens = leAt bs 0 8 → n = leAt bs 8 2 → c = leAt bs 10 2 → plan = leAt bs 16 8 →
    lens < 2 ^ 56 → lens % 4 = 0 → n ≠ 0 → c ≠ 0 → c ≤ 4096 → leAt bs 8 8 < 2 ^ 32 → plan < 2 ^ 56 → plan % 16 = 0 →
    leAt bs 24 8 = 0 → s1.load o lens (4 * n) = .ok (lb, false, s2) →
    pages = (List.range n).map (fun i => (leAt lb (4 * i) 4 + 63) / 64) → pages.sum < 2 ^ 32 →
    out = (List.range c).flatMap (planEntry pages c s2.drawFree.1) ++ toBytes 8 pages.sum →
    s2.drawFree.2.access o .write plan (16 * c + 8) = .ok ts →
    exec (.warp h) s = .next (completes ((s2.drawFree.2.noteAccess o .write plan ts).atCommit o
      (.store o.f.slot (segsOf ts out false))) o h 0)) ∧
  (∀ (h : OpWord) (s s1 : State) (o : OpIn) (d : Nat) (bs : List Byte) (m : ReelCmd),
    MatReady (memNames fun _ => []) s o h d → o.f.answered = none → s.paramBlock o 64 64 354 = .ok (bs, s1) →
    reelCmd (((s.core o.c).reel.map fun m => m.id).foldl max 0 + 1) o.i.tag.colour (words64 bs) = some m →
    (s.core o.c).reel.length < 4 →
    exec (.reel h 0) s = .next (completes (s1.modCore o.c fun k => { k with reel := k.reel ++ [m] }) o h 0)) ∧
  (∀ (h : OpWord) (s s1 s2 s3 : State) (o : OpIn) (d : Nat) (bs : List Byte) (w : List Nat) (kr vr : List PByte),
    MatReady (memNames fun _ => []) s o h d → o.f.answered = none → s.paramBlock o 64 64 354 = .ok (bs, s1) →
    (s.core o.c).reel.length < 4 → w = words64 bs →
    w.getD 0 0 < 2 ^ 56 → w.getD 1 0 + 256 ≤ 0x200000 → w.getD 2 0 + 256 ≤ 0x200000 → w.getD 3 0 < 2 ^ 56 →
    (∀ x ∈ w.drop 4, x = 0) → s1.kvRow o (w.getD 1 0) = .ok (kr, s2) → s2.kvRow o (w.getD 2 0) = .ok (vr, s3) →
    (∀ res slot s4, s3.append o.c (w.getD 0 0) (w.getD 3 0) kr vr = .ok (res, slot, s4) →
      (s4.dropAnswers o.c reelAgent).partDone o.c reelAgent 0 = true → exec (.reel h 1) s =
        .next (done ((s4.dropAnswers o.c reelAgent).finishL o h (BitVec.ofNat 32 (res + 256 * slot))))) ∧
    (s3.append o.c (w.getD 0 0) (w.getD 3 0) kr vr = .error .empty →
      exec (.reel h 1) s = .next (done ((s1.dropAnswers o.c reelAgent).finishL o h 3)))) ∧
  (∀ (h : OpWord) (app : BitVec 1) (s : State) (o : OpIn) (d : Nat) (v : Word), MatReady (memNames fun _ => []) s o h d →
    o.f.answered = some v → s.partDone o.c reelAgent 0 = true → exec (.reel h app) s = .next (done (s.finishL o h v)))

/-! ### Collectives (R318 to R320) -/

/-- The collective forms complete: with their checks met, the writes of the instances before them performed, and no
earlier one of their GID uncompleted, the participant arrives as a release at the form's scope, with the number that
its collective has on that GID, and the request waits for the collective. -/
def Obligations.CollectivesArrive : Prop :=
  ∀ (i : Instr) (h : OpWord) (m : CollForm) (scope : Nat) (s s1 s2 s3 : State) (o : OpIn) (bs : List Byte)
      (src : List PByte) (group : List Nat) (d : List Nat) (gid seq : Nat) (p : CollPart), collective i = some (h, m, scope) →
    Fires s o → o.f.answered = none → s.hasArrived o.c = false → s.releaseWaits o = false →
    (left0 o).poison = false → scope ≠ 7 →
    (left0 o).val.toNat % 64 = 0 → (left0 o).val.toNat < 0x200000 →
    s.readBlock o .collective (left0 o).val.toNat 64 = .ok (bs, s1) → d = words64 bs →
    s1.readGroup o (d.getD 3 0 % 2 ^ 56) = .ok (group, s2) → gid = d.getD 2 0 / 2 ^ 32 % 2 ^ 32 →
    s.collOk o.c m d group (s.scopes.getD scope 0) = true → TokenFits s o h →
    s.collBusy o gid = false →
    seq = (match (s.core o.c).collOpen.find? fun x => x.gid == gid with
      | some x => if x.iid = o.f.iid ∧ x.slot = o.f.slot ∧ x.first = o.f.first then x.seq else aget 0 (s.core o.c).collSeq gid
      | none => aget 0 (s.core o.c).collSeq gid) →
    s2.arrivalBlock o m group (d.getD 2 0 % 2 ^ 32) (d.getD 0 0) = .ok (src, s3) →
    p = { idx := group.findIdx (fun e => e == s.ownEntry o.c), core := o.c, iid := o.i.iid, slot := o.f.slot,
          agent := s.agent o.c o.i.tag.colour,
          epoch := (s3.raiseEpoch (s3.agent o.c o.i.tag.colour)).2, radius := s.scopes.getD scope 0,
          params := [m.form, m.op, m.fmt, m.mode, m.root, d.getD 2 0 % 2 ^ 32, group.length],
          src := d.getD 0 0, dst := d.getD 1 0, first := o.f.first } →
    exec i s = .next (done ((((((s3.raiseEpoch (s3.agent o.c o.i.tag.colour)).1.modCore o.c fun k =>
        k.openColl o gid seq).joinColl gid seq (s.ownEntry o.c) group p).tellArrival gid seq group p src).hold o .collective
          (.collective gid))))

end

namespace Sys2Proof.Claims

open Sys2Proof Sys2Proof.Machine

/-! ### Projective forms and the Spindle -/

/-- The gather forms: whether they march, their camera, tile, row offset and PSEL (R366, R367). -/
def gathers : Instr → Option (OpWord × Bool × Nat × Nat × Nat × PSel)
  | .pgath h bv tile rowoff psel => some (h, false, bv.toNat, tile.toNat, rowoff.toNat, psel)
  | .pmarch h bv tile rowoff psel => some (h, true, bv.toNat, tile.toNat, rowoff.toNat, psel)
  | _ => none

/-- The lanes of a gather. -/
def gathered (s : State) (o : OpIn) (v : View) (march : Bool) : List GLane :=
  (List.range o.f.n).map fun j =>
    s.gatherLane v march (o.f.left.getD j zeroLane).val.toNat (o.f.right.getD j zeroLane).val.toNat

/-- The rows that a gather writes into its tile. -/
def gatherRows (o : OpIn) (t : Tile) (rowoff : Nat) (gs : List GLane) : List (Nat × List PByte) :=
  (List.zipIdx gs).map fun p =>
    (t.base * 64 + (rowoff + o.rowIdx p.2) * 256, p.1.row.map fun b => (b, p.1.rowPoison))

/-- A form of the Spindle's port goes ahead on a binding (R373, R383): nothing before it holds the port, its core has
not arrived at the open step, and, where it waits, no earlier instance of its colour is left. -/
def SpindleReady (s : State) (o : OpIn) (h : OpWord) (waits : Bool) : Prop :=
  Fires s o ∧ o.head = h ∧ s.portBusy o .spindle = false ∧ s.hasArrived o.c = false ∧
    (waits = true → s.earlier o = false) ∧ TokenFits s o h

/-- The colour's writes handed to the Spindle as it takes a form, and the form's own to the colour (R373). -/
def taken (s : State) (o : OpIn) : State := s.handOver (s.agent o.c o.i.tag.colour) (s.agent o.c spindleAgent)

/-- The release to the colour, once the form is done with what other modules answered it. -/
def given (s : State) (o : OpIn) : State :=
  (s.dropAnswers o.c spindleAgent).handOver (s.agent o.c spindleAgent) (s.agent o.c o.i.tag.colour)

end Sys2Proof.Claims

section

open Sys2Proof Sys2Proof.Machine Sys2Proof.Claims

/-! ### Projective and world-store instructions (R362 to R370) -/

/-- CAMLD, CAMST and CAMCOMP complete: a register loaded from its block, stored at the commit, or composed. -/
def Obligations.CameraFormsComplete : Prop :=
  (∀ (h : OpWord) (bv : BitVec 3) (s s1 s2 : State) (o : OpIn) (b : List Byte), Fires s o → PortFree s o true →
    TokenFits s o h → s.camBlock o 128 64 = .ok (b, s1) → s1.writeCamera o.c bv.toNat b = .ok s2 →
    exec (.camld h bv) s = .next (completes s2 o h 0)) ∧
  (∀ (h : OpWord) (bv : BitVec 3) (s : State) (o : OpIn) (a : Nat) (ts : List (Target × Nat)), Fires s o →
    PortFree s o true → TokenFits s o h → o.overCount = false → ((s.core o.c).cam bv.toNat).loaded = true →
    (left0 o).poison = false → a = (left0 o).val.toNat → a % 64 = 0 → a + 128 ≤ 0x200000 →
    s.access o .write a 128 = .ok ts →
    exec (.camst h bv) s = .next (completes ((s.noteAccess o .write a ts).atCommit o
      (.store o.f.slot (segsOf ts ((s.core o.c).cam bv.toNat).bytes false))) o h 0)) ∧
  (∀ (h : OpWord) (bvd bvs : BitVec 3) (s s1 s2 : State) (o : OpIn) (m p : List Byte), Fires s o →
    PortFree s o true → TokenFits s o h → ((s.core o.c).cam bvs.toNat).loaded = true →
    m = ((s.core o.c).cam bvs.toNat).bytes → s.camBlock o 64 16 = .ok (p, s1) →
    s1.writeCamera o.c bvd.toNat (composeM m p ++ slice m 64 20 ++ List.replicate 12 0 ++ slice m 96 32) = .ok s2 →
    exec (.camcomp h bvd bvs) s = .next (completes s2 o h 0))

/-- PGATH and PMARCH complete: each lane's row goes into the filling tile, its depth to T0 and whether its case is
PSEL's to T1, and the camera counts the lanes outside and unseen. -/
def Obligations.GathersComplete : Prop :=
  ∀ (i : Instr) (h : OpWord) (march : Bool) (bv tile rowoff : Nat) (psel : PSel) (s s1 : State) (o : OpIn) (t : Tile)
      (v : View) (gs : List GLane), gathers i = some (h, march, bv, tile, rowoff, psel) → Fires s o →
    PortFree s o true → TokenFits s o h → t = (s.core o.c).tile tile → t.valid = true → t.state = 1 →
    s.view o.c bv = some v → o.rowsPass rowoff 256 t.len = false → o.poisonLane false = none →
    gs = gathered s o v march →
    s.writeRows o o.f.first (gatherRows o t rowoff gs) (s.countCases o.c bv gs) = .ok s1 →
    exec i s = .next (done (s1.finish o h true
      { first := o.f.first, lanes := gs.map fun g => g.depth }
      { first := o.f.first, lanes := gs.map fun g =>
          { val := truth (g.case == (match psel with | .hit => 0 | .unseen => 1 | .outside => 2)), poison := false } }))

/-- PSCAT, PSTEP and PSTAT complete: PSCAT's lanes that land are noted for the commit, the others are counted and
marked on T1; PSTEP waits for its store's world step, and is complete once a close answered it while its instance was
parked (R190); PSTAT sends its counter, and clears the camera's own. -/
def Obligations.ScatterAndWorldFormsComplete : Prop :=
  (∀ (h : OpWord) (bv : BitVec 3) (tile : BitVec 8) (rowoff : BitVec 12) (s s1 : State) (o : OpIn) (t : Tile)
      (v : View) (rows : List (List PByte)) (ls : List PLane), Fires s o → PortFree s o true →
    TokenFits s o h → s.view o.c bv.toNat = some v → o.overCount = false → t = (s.core o.c).tile tile.toNat →
    t.valid = true → t.state = 2 → o.rowsPass rowoff.toNat 320 t.len = false → o.poisonLane true = none →
    s.readRows (o.afterFill t) 320 o.f.first
      ((List.range o.f.n).map fun j => t.base * 64 + (rowoff.toNat + o.rowIdx j) * 320)
      (s.acquireAll (s.agent o.c o.i.tag.colour) t.rels) = .ok (rows, s1) →
    ls = o.scatterLanes rows → (∀ p ∈ ls, p.poison = false) →
    (camStrict v.b = true → ∀ p ∈ ls, (p.cell v).isSome = true) →
    exec (.pscat h bv tile rowoff) s = .next (done (((s1.bumpCamera o.c bv.toNat 0
      (ls.filter fun p => (p.cell v).isNone).length).noteScatter o bv.toNat v ls).finish o h false (allLanes o 0)
        { first := o.f.first, lanes := ls.map fun p => { val := truth (p.cell v).isNone, poison := false } }))) ∧
  (∀ (h : OpWord) (store : BitVec 6) (s : State) (o : OpIn), Fires s o → PortFree s o false → TokenFits s o h →
    store.toNat < (s.part (s.corePart o.c)).storeCount → s.boundElsewhere o.c store.toNat = false →
    descOk (s.descOf (s.corePart o.c) store.toNat) = true →
    exec (.pstep h store) s = (match o.f.answered with
      | none => .next (done ((s.bindStore o.c store.toNat).hold o .carder (.world store.toNat)))
      | some v => .next (done (s.finish o h false (oneLane o.f.first v) (oneLane o.f.first v))))) ∧
  (∀ (h : OpWord) (clr : BitVec 1) (which : PWhich) (bv : BitVec 3) (s : State) (o : OpIn) (m : Camera) (v : Word),
    Fires s o → PortFree s o false → m = (s.core o.c).cam bv.toNat → m.loaded = true →
    Fits s o h (oneLane o.f.first 0) →
    (which = .lostbrick → v = BitVec.ofNat 32 (w32 (s.descOf (s.corePart o.c) (camStore m.bytes)) 64)) →
    (which = .blendovf → v = BitVec.ofNat 32 (w32 (s.descOf (s.corePart o.c) (camStore m.bytes)) 68)) →
    (which = .clipped → v = BitVec.ofNat 32 (m.count 0)) → (which = .unseen → v = BitVec.ofNat 32 (m.count 1)) →
    (which = .conflost → v = BitVec.ofNat 32 (m.count 2)) →
    ∃ t, exec (.pstat h clr which bv) s = .next (done (t.finish o h true (oneLane o.f.first v) (oneLane o.f.first v))) ∧
      (clr = 0 → t = s) ∧ (which = .lostbrick ∨ which = .blendovf → t = s) ∧
      (clr = 1 → which = .clipped → t = s.modCore o.c fun c =>
        { c with cams := aset c.cams bv.toNat ({ m with bytes := patch m.bytes 84 (toBytes 4 0) } : Camera) }))

/-! ### Spindle instructions (R373 to R387) -/

/-- SKBIND, SPIN and DRAW complete: SKBIND binds a skein whose header and program it has read, or, with skein 0,
unbinds; SPIN offers its logits; DRAW answers the token drawn, or the fail token where it failed before or has no
candidate, and empties its binding. The token of an unbinding holds a free value (log 55). Any other binding that holds
the table bound is unbound, which is the model's reading of "only the later binding takes effect" (R384, log 144). -/
def Obligations.SpindleFormsComplete : Prop :=
  (∀ (h : OpWord) (bind : BitVec 3) (s s1 : State) (o : OpIn) (bs : List Byte), SpindleReady s o h true →
    (left0 o).poison = false → (left0 o).val.toNat % 16 = 0 → (left0 o).val.toNat < 0x200000 →
    s.readBlock o .spindle (left0 o).val.toNat 16 = .ok (bs, s1) → leAt bs 12 4 < 128 → leAt bs 0 8 = 0 →
    ∃ v, exec (.skbind h bind) s = .next (completes (given ((taken s1.drawFree.2 o).modCore o.c fun k =>
      { k with binds := aset k.binds bind.toNat Binding.zero }) o) o h v)) ∧
  (∀ (h : OpWord) (bind : BitVec 3) (s s1 s2 s3 : State) (o : OpIn) (bs pb : List Byte) (skein prog n : Nat)
      (ws : List Nat) (hw : List Nat), SpindleReady s o h true →
    (left0 o).poison = false → (left0 o).val.toNat % 16 = 0 → (left0 o).val.toNat < 0x200000 →
    s.readBlock o .spindle (left0 o).val.toNat 16 = .ok (bs, s1) → leAt bs 12 4 < 128 → skein = leAt bs 0 8 →
    prog = leAt bs 8 4 → n = leAt bs 12 4 → skein ≠ 0 → skein < 2 ^ 56 → skein % 64 = 0 → prog % 2 = 0 → n ≠ 0 →
    n ≤ 64 → prog < 0x200000 → s1.readBlock o .spindle prog (2 * n) = .ok (pb, s2) →
    keepProg ((List.range n).map fun i => leAt pb (2 * i) 2) = some ws →
    (taken s2 o).headerWords o.c skein [2, 4, 5, 7, 8, 9, 16, 17, 18, 19, 20, 21, 22, 23] = .ok (hw, false, s3) →
    tempOk (hw.getD 1 0) = true → hw.getD 2 0 < 128 → hw.getD 3 0 ≠ 0 →
    hw.getD 4 0 + hw.getD 5 0 * 2 ^ 32 < 2 ^ 56 →
    ∃ (b : Binding) (u : State), exec (.skbind h bind) s = .next (completes (given (u.modCore o.c fun k =>
        { k with binds := aset k.binds bind.toNat b }) o) o h (BitVec.ofNat 32 (hw.getD 0 0))) ∧
      b.bound = true ∧ b.skein = skein ∧ b.prog = ws ∧ b.temp = BitVec.ofNat 32 (hw.getD 1 0) ∧
      b.vocab = hw.getD 3 0 ∧ b.maskptr = hw.getD 4 0 + hw.getD 5 0 * 2 ^ 32 ∧
      b.ks = (hw.drop 6).map (BitVec.ofNat 32) ∧ b.cands = [] ∧ b.poisoned = false ∧ b.nonfin = false ∧
      { u with cores := s3.cores } = s3 ∧ (∀ c, { u.core c with binds := (s3.core c).binds } = s3.core c) ∧
      (∀ c, c ≠ o.c → u.core c = s3.core c) ∧
      ∀ j, (u.core o.c).bind j = if ((s3.core o.c).bind j).bound = true ∧
          s3.sameTable o.c ((s3.core o.c).bind j).skein skein = true then Binding.zero else (s3.core o.c).bind j) ∧
  (∀ (h : OpWord) (bind : BitVec 3) (s s1 : State) (o : OpIn) (b : Binding) (ls : List LLane),
    SpindleReady s o h false → b = (s.core o.c).bind bind.toNat → b.bound = true →
    s.lwRun o.c b b.prog (o.logitLanes b.vocab) = .ok (ls, s1) →
    exec (.spin h bind) s = .next (completes ((s1.dropAnswers o.c spindleAgent).modCore o.c fun k =>
      { k with binds := aset k.binds bind.toNat (ls.foldl Binding.offer b) }) o h 0)) ∧
  (∀ (h : OpWord) (bind : BitVec 3) (s s1 s2 : State) (o : OpIn) (b : Binding) (hw : List Nat) (failed : Bool)
      (win : Nat), SpindleReady s o h true → b = (s.core o.c).bind bind.toNat → b.bound = true →
    (taken s o).headerWords o.c b.skein [0, 1, 2, 3, 5, 6] = .ok (hw, false, s1) → 1 ≤ hw.getD 4 0 →
    hw.getD 4 0 ≤ 64 → fp32.lt 0 (hw.getD 5 0) = true → fp32.le (hw.getD 5 0) 0x3F800000 = true →
    failed = (hw.getD 3 0 / 4 % 2 == 1 || b.poisoned || b.cands.isEmpty) →
    win = drawWin b (hw.getD 4 0) (hw.getD 5 0) (BitVec.ofNat 32 (hw.getD 0 0)) (BitVec.ofNat 32 (hw.getD 1 0))
      (BitVec.ofNat 32 (hw.getD 2 0)) →
    s1.drawHeader o.c b (if failed then none else some win) = .ok s2 →
    ∃ u tok, exec (.draw h bind) s = .next (done ((given u o).finish o h true (allLanes o tok) (allLanes o (truth failed)))) ∧
      (failed = true → tok = 0xFFFFFFFF) ∧
      (failed = false → tok = BitVec.ofNat 32 (b.cands.getD win { tok := 0, val := 0 }).tok) ∧
      ((u.core o.c).bind bind.toNat) = { b with cands := [], poisoned := false, nonfin := false } ∧ u.mem = s2.mem)

/-- SKUPD, SKRD and SKWR complete on a bound binding: SKUPD answers the count that its token then has, SKRD the word
of the header, and SKWR writes it and what the binding keeps of it. -/
def Obligations.SkeinFormsComplete : Prop :=
  (∀ (h : OpWord) (inc : BitVec 8) (bind : BitVec 3) (s : State) (o : OpIn) (b : Binding),
    SpindleReady s o h true → b = (s.core o.c).bind bind.toNat → b.bound = true → (left0 o).poison = false →
    ((left0 o).val = 0xFFFFFFFF → exec (.skupd h inc bind) s =
      .next (done ((given (taken s o) o).finish o h true (allLanes o 0) (allLanes o 0)))) ∧
    ((left0 o).val ≠ 0xFFFFFFFF → ∀ u s1,
      (taken s o).updateCount o.c b.skein (left0 o).val.toNat inc.toNat = .ok (u, s1) → u.poison = false →
      exec (.skupd h inc bind) s = .next (done ((given (s1.modCore o.c fun k =>
        { k with binds := aset k.binds bind.toNat b }) o).finish o h true (allLanes o (BitVec.ofNat 32 u.count))
          (allLanes o (BitVec.ofNat 32 u.count)))))) ∧
  (∀ (h : OpWord) (word : BitVec 5) (bind : BitVec 3) (s s1 : State) (o : OpIn) (b : Binding) (x : Nat),
    SpindleReady s o h true → b = (s.core o.c).bind bind.toNat → b.bound = true →
    (taken s o).engLoad o.c spindleAgent (b.skein + 4 * word.toNat) 4 = .ok (x, false, s1) →
    exec (.skrd h word bind) s = .next (done ((given s1 o).finish o h true (allLanes o (BitVec.ofNat 32 x))
      (allLanes o (BitVec.ofNat 32 x))))) ∧
  (∀ (h : OpWord) (word : BitVec 5) (bind : BitVec 3) (s s1 : State) (o : OpIn) (b : Binding),
    SpindleReady s o h true → b = (s.core o.c).bind bind.toNat → b.bound = true → (left0 o).poison = false →
    (taken s o).headerRmw o.c b.skein word.toNat [8, (left0 o).val.toNat] (fun _ => (left0 o).val.toNat) = .ok s1 →
    exec (.skwr h word bind) s = .next (completes (given (s1.modCore o.c fun k =>
      { k with binds := aset k.binds bind.toNat (b.cache word.toNat (left0 o).val) }) o) o h 0))

end

namespace Sys2Proof.Claims

open Sys2Proof Sys2Proof.Machine

/-! ### Device steps -/

/-- A state in which one die has taken a new clock: the other dies, the cap and everything outside power control are
as before, and an episode is counted when the die leaves 1x (R18). -/
def DieTook (s t : State) (die : Nat) (x : Die) : Prop :=
  t.power.die die = x ∧ (∀ e, e ≠ die → t.power.die e = s.power.die e) ∧
    t.power.episodes = (if (s.power.die die).factor = 0 ∧ x.factor ≠ 0 then satAdd s.power.episodes 1 0xFFFF
      else s.power.episodes) ∧
    t.power.capw = s.power.capw ∧ { t with power := s.power } = s

/-- Register `i` of the measurements. -/
def measured (t : State) (i : Nat) : List Byte := t.attest.meas.getD i []

end Sys2Proof.Claims

section

open Sys2Proof Sys2Proof.Machine Sys2Proof.Claims

/-! ### Clock, power and boot steps (R15 to R18, R29 to R32) -/

/-- The clock steps complete, for a die of the package: a tripped sensor, or one still tripped after 1 µs, takes the
die to the next factor, a quiet one takes it back, and the hard threshold stops and restarts it; power over the cap
stretches every running die; a write of the cap is clamped. That a step down clears the die's mark and the package's is
the model's reading of R15 (log 71), and the record's detail word is the model's (log 21). -/
def Obligations.ClockStepsComplete : Prop :=
  ∀ (s : State) (die : Nat) (d : Die), s.power.dies.length = 8 → die < 8 → s.power.die die = d →
    (d.stopped = false → ∃ t, exec (.supplySagTrip die) s = .next t ∧
      DieTook s t die { factor := min 5 (d.factor + 1), tripped := true, stopped := false }) ∧
    (d.stopped = false → d.tripped = true ∨ s.power.overCap = true → ∃ t, exec (.stretchStepUp die) s = .next t ∧
      DieTook s t die { factor := min 5 (d.factor + 1), tripped := d.tripped, stopped := false }) ∧
    (d.stopped = false → ∃ t, exec (.stretchStepDown die) s = .next t ∧
      DieTook s t die { factor := d.factor - 1, tripped := false, stopped := false } ∧ t.power.overCap = false) ∧
    (d.factor = 5 → d.stopped = false → ∃ t, exec (.hardSagStop die) s =
        .next (t.postRec { FRec.blank 16 0 5 with detail := (Config.powerDetail die).toNat }) ∧
      DieTook s t die { factor := 5, tripped := d.tripped, stopped := true } ∧ t.power.hardSag = true) ∧
    (d.stopped = true → ∃ t, exec (.hardSagRestart die) s = .next t ∧
      DieTook s t die { factor := d.factor, tripped := d.tripped, stopped := false }) ∧
    (∃ t, exec .packagePowerOverCap s = .next t ∧ t.power.overCap = true ∧ { t with power := s.power } = s ∧
      (t.power.die die).factor = (if d.stopped then d.factor else min 5 (d.factor + 1))) ∧
    (∀ (v : Word) (p : Power), p = { s.power with capw := max 3000 (min 15000 (v.toNat % 65536)) } →
      exec (.powerCapWrite v) s = .next { s with power := p })

/-- The boot and attestation steps complete: a reset runs an image that passes and measures it, with memory kept, no
launch left and the retired cores, elements and switch links that it finds; a load that is taken stores and runs such
an image, and otherwise keeps the old one; a measurement register takes the digest of its old value and DR_DIG; a
quote is built over the latest nonce. That memory stays, the opaque enables and keys, SM3 as its standard gives it,
that a quote holds the measurements as they are at its completion, and that a reset takes what it finds retired as
parameters are the model's (logs 7, 8, 65, 66, 67, 68, 118, 137). -/
def Obligations.BootStepsComplete : Prop :=
  (∀ (s : State) (cores : List Nat) (elems : FabricFaults), ∃ t,
    exec (.deviceReset cores elems) s = .next t ∧ t.mem = s.mem ∧ t.launches = [] ∧ t.parts = [] ∧
    t.retired = cores.foldl addMem [] ∧ (∀ p ∈ elems.links, p ∈ (t.core p.1).deadLinks.map fun l => (p.1, l)) ∧
    (∀ c, (t.core c).regs.elret = (((elems.elems.find? fun p => p.1 == c).map fun p => p.2).getD 0) % 2 ^ 64) ∧
    t.fw.fail = imageFail s.fw.image ∧
    (imageFail s.fw.image = 0 → t.fw.state = 1 ∧ t.fw.secver = (Config.imageVersion s.fw.image).toNat ∧
      measured t 0 = sm3 (zero32 ++ sm3 s.fw.image)) ∧
    (imageFail s.fw.image ≠ 0 → t.fw.state = 2 ∧ measured t 0 = zero32)) ∧
  (∀ (s : State) (len : Nat) (cores : List Nat) (elems : FabricFaults)
      (img : List Byte), s.loadTaken = true →
    0 < len → len ≤ 12288 → img = memRead s.fw.recovery 0 (4096 * len) → ∃ t,
      exec (.firmwareLoad len cores elems) s = .next t ∧ t.mem = s.mem ∧ t.fw.fail = imageFail img ∧
      (imageFail img = 0 → t.fw.image = img ∧ t.fw.state = 1 ∧ t.launches = []) ∧
      (imageFail img ≠ 0 → t.fw.image = s.fw.image ∧ t.fw.state = 2 ∧ t.launches = s.launches)) ∧
  (∀ (s : State) (reg : BitVec 3), s.attest.meas.length = 8 → 4 ≤ reg.toNat → ∃ t,
    exec (.measurementExtend reg.toNat) s = .next t ∧ t.attest.measReg = reg.toNat ∧
    measured t reg.toNat = sm3 (measured s reg.toNat ++ s.attest.dig) ∧
    ∀ i, i ≠ reg.toNat → measured t i = measured s i) ∧
  (∀ s : State, ∃ t, exec .quoteBuild s = .next t ∧ t.attest.qBusy = true ∧ t.attest.qDone = false) ∧
  (∀ (s : State) (b : List Byte), s.attest.qBusy = true → b = toBytes 4 1 ++ toBytes 4 Config.moduleId.toNat ++
      s.attest.nonce ++ s.attest.meas.flatten ++ toBytes 4 s.fw.secver ++ toBytes 4 0 →
    ∃ t, exec .quoteComplete s = .next t ∧ t.attest.qBusy = false ∧ t.attest.qDone = true ∧
      t.attest.quote = b ++ toBytes 64 (Config.quoteSignature b).toNat)

end

namespace Sys2Proof.Claims

open Sys2Proof Sys2Proof.Machine

/-- An ack or a nak as it leaves a port (R19, R23): its KIND and SEQ, as many buffer credits as the port owes its peer,
up to 127, a payload of 64 bytes and the check word over both. -/
def controlFlit (port kind seq owed : Nat) : WireFlit :=
  let h := kind * 2 ^ 29 + seq * 2 ^ 15 + min 127 owed * 2 ^ 8
  let bs := (List.range 64).map (Config.controlByte kind seq)
  { port := port, header := h, payload := bs, check := crc32c (toBytes 4 h ++ bs) }

/-- The flits that a port sends for flits of its replay buffer (R19, R23): each with its check word, and with the
credits that the port owes its peer, 127 at most to a flit. -/
def resent (port : Nat) : Nat → List Flit → List WireFlit
  | _, [] => []
  | owed, f :: fs =>
    let h := f.header + min 127 owed * 2 ^ 8
    { port := port, header := h, payload := f.payload, check := crc32c (toBytes 4 h ++ f.payload) } ::
      resent port (owed - min 127 owed) fs

end Sys2Proof.Claims

section

open Sys2Proof Sys2Proof.Machine Sys2Proof.Claims

/-! ### Link steps (R19 to R26) -/

/-- The flit steps complete. A flit with a good check and the SEQ that is due is acknowledged and taken: one of a
packet whose route ends here delivers it, which for an ordered write performs it and acknowledges it end to end, for a
request serves it, and for a response answers its request; a head is kept. A flit that fails its check, or has KIND 7,
is for the first time answered by a nak. A first nak has the flits from the one it names on sent again; an ack ends a
write, and those behind it may go. An ordered write of another module is performed in this module's exported window:
its bytes stand there afterwards, and its acknowledgement goes back to the module it came from (R22, R181). CRC-32C,
the bytes of an ack, the CREDIT values of the flits sent, the fields of a packet and where the window lies are the
model's (logs 7, 70, 123, 124, 138, 140). -/
def Obligations.FlitStepsComplete : Prop :=
  (∀ (s : State) (port : Nat) (header check : Word) (payload : List Byte), (s.port port).carries = true →
    check = crc32c (toBytes 4 header.toNat ++ payload) → hdrKind header.toNat = 4 →
    hdrSeq header.toNat = (s.port port).rxSeq → s.badHop (leAt payload 0 8) (hdrHop header.toNat) = false →
    hdrHop header.toNat = routeHops (leAt payload 0 8) → ∃ u : State,
      exec (.twinikFlitReceive port header payload check) s = .next (match hdrClass header.toNat with
        | 0 => if Config.packetField 4 payload = 0 then u.serveRead payload else u.serveAtomic payload
        | 1 => u.takeResponse payload
        | 2 => u.takeWrite payload
        | _ => u) ∧
      (u.port port).rxSeq = ((s.port port).rxSeq + 1) % 256 ∧ u.mem = s.mem ∧ u.owrites = s.owrites ∧
      u.sent = s.sent ++ [controlFlit port 5 (hdrSeq header.toNat) ((s.port port).owed + 1)] ∧
      u.delivered = s.delivered ++ [(Packet.mk port header.toNat payload)]) ∧
  (∀ (s : State) (port : Nat) (header check : Word) (payload : List Byte), (s.port port).carries = true →
    check = crc32c (toBytes 4 header.toNat ++ payload) → hdrKind header.toNat = 1 →
    hdrSeq header.toNat = (s.port port).rxSeq → ∃ t,
      exec (.twinikFlitReceive port header payload check) s = .next t ∧
      (t.port port).rxPart = some (header.toNat, payload) ∧ t.delivered = s.delivered ∧
      t.sent = s.sent ++ [controlFlit port 5 (hdrSeq header.toNat) ((s.port port).owed + 1)]) ∧
  (∀ (s : State) (port : Nat) (header check : Word) (payload : List Byte), (s.port port).carries = true →
    (check ≠ crc32c (toBytes 4 header.toNat ++ payload) ∨ hdrKind header.toNat = 7) → stageOf (hdrSeq header.toNat) (s.port port).rxFailing = none →
    ∃ t, exec (.twinikFlitReceive port header payload check) s = .next t ∧
      (t.port port).rxSeq = (s.port port).rxSeq ∧
      stageOf (hdrSeq header.toNat) (t.port port).rxFailing = some .replayed ∧ t.delivered = s.delivered ∧
      t.sent = s.sent ++ [controlFlit port 6 (hdrSeq header.toNat) (s.port port).owed]) ∧
  (∀ (s : State) (port : Nat) (seq : BitVec 8) (f : Flit) (fs : List Flit), (s.port port).retired = false →
    fromSeq seq.toNat (s.port port).replay = f :: fs → stageOf seq.toNat (s.port port).failing = none → ∃ t,
      exec (.twinikNakReceive port seq.toNat) s = .next t ∧ stageOf seq.toNat (t.port port).failing = some .replayed ∧
      (t.port port).replay = (s.port port).replay ∧ t.sent = s.sent ++ resent port (s.port port).owed (f :: fs)) ∧
  (∀ (s : State) (module id : Nat) (rest : List OrderedWrite),
    rest = s.owrites.filter (fun o => !(o.dest == module && o.id == id && o.st == OwState.outstanding)) →
    exec (.twinikAckReceive module id) s = .next ({ s with owrites := rest }.failover module) ∧
      ((∀ o ∈ rest, o.dest ≠ module) → ({ s with owrites := rest }.failover module) = { s with owrites := rest })) ∧
  (∀ (s : State) (q bs : List Byte) (a : Nat), bs = Config.packetData q →
    a = (Config.exportBase + Config.packetField 2 q % 2 ^ 35) % dramEnd → Memory.wf s.mem = true →
    ∃ v : State, s.takeWrite q =
        v.sendPacket (Config.packetField 0 q % 4096) 1 6 none [Config.moduleId.toNat, Config.packetField 1 q] [] ∧
      memRead v.mem a bs.length = bs ∧ ∀ b, b < a ∨ a + bs.length ≤ b → memByte v.mem b = memByte s.mem b)

/-- The route and port steps complete: an undeliverable response marks its route failed and has its write wait to be
sent again, by the other route where that one stands; a port whose replay buffer is full, or which carries no flits,
sends nothing; retraining stops a port's traffic and, done, has the replay buffer sent again; a retired port stays down;
a write of a route-table word takes a new route, checked for its hop count, and is measured. That
the whole buffer is sent again, the CREDIT values of its flits, SM3 and the digest that is measured are the model's
(logs 7, 8, 123, 151). -/
def Obligations.RouteAndPortStepsComplete : Prop :=
  (∀ (s : State) (module : Nat) (alternate : Bool),
    exec (.undeliverableResponse module alternate none) s =
      .next ((s.modRoute module fun r => r.fail alternate).failover module)) ∧
  (∀ (s : State) (o : OrderedWrite) (p : Nat), s.owrites = [o] → s.asks = [] → o.st = .outstanding → o.alt = false →
    (s.route o.dest).priFail = false → (s.route o.dest).altFail = false →
    p = routePort (s.route o.dest).alternate 0 → (s.port p).carries = true → (s.port p).replay.length < 128 → ∃ t,
    exec (.undeliverableResponse o.dest false (some o.id)) s = .next t ∧ (t.route o.dest).priFail = true ∧
      t.owrites = [(OrderedWrite.mk o.dest o.id o.addr o.bytes (s.goesPoisoned o) o.acc true .outstanding o.part)] ∧
      ((s.port p).waiting = [] → s.sent.length < t.sent.length)) ∧
  (∀ (s : State) (port cls hop : Nat) (payload : List Byte) (origin : Origin),
    ((s.port port).carries = false ∨ 128 ≤ (s.port port).replay.length) →
    (s.sendOn port cls hop payload origin).sent = s.sent ∧
    (s.port port).waiting.length < ((s.sendOn port cls hop payload origin).port port).waiting.length) ∧
  (∀ (s : State) (port : Nat), (s.port port).retired = false → port < 24 → ∃ t,
    exec (.portRetrain port) s = .next t ∧ (t.port port).retraining = true ∧ (t.port port).up = false ∧
    t.sent = s.sent) ∧
  (∀ (s : State) (port : Nat), (s.port port).retraining = true → (s.port port).waiting = [] → ∃ t,
    exec (.portRetrainDone port true) s = .next t ∧ (t.port port).retraining = false ∧ (t.port port).up = true ∧
    t.sent = s.sent ++ resent port (s.port port).owed (s.port port).replay) ∧
  (∀ (s : State) (port : Nat), (s.port port).retraining = true → (s.port port).retired = false → port < 24 → ∃ t,
    exec (.portRetrainDone port false) s = .next t ∧ (t.port port).retired = true) ∧
  (∀ (s : State) (port : Nat), (s.port port).retired = false → port < 24 → ∃ t,
    exec (.portRetire port) s = .next t ∧ (t.port port).retired = true ∧ (t.port port).up = false) ∧
  (∀ (s : State) (module value : Nat), s.attest.meas.length = 8 → module < 4096 → value < 2 ^ 64 → ∃ t,
    exec (.routeTableWrite module 0 value) s = .next t ∧ (t.route module).primary = value ∧
    (t.route module).priFail = !(decide (1 ≤ value / 2 ^ 60) && decide (value / 2 ^ 60 ≤ 12)) ∧
    (t.route module).alternate = (s.route module).alternate ∧ (t.route module).altFail = (s.route module).altFail ∧
    measured t 3 = sm3 (measured s 3 ++
      toBytes 32 (Config.routeDigest [module, 0, value, (s.route module).alternate]).toNat))

/-- The hand-over, host-access and absence steps complete: an error that the sending check corrects is counted, one
that it only detects has failed; a failed check is retried once and then delivers the line poisoned, but on a Twinik
link the flit is handled there; register writes take their fields (here DR_SUPVEC and DR_FQCTL, through the PF and
through a VF) and read-only registers stay; a BAR4 read answers the bytes, a write stores them and takes the line's
record; absence tokens are kept and withdrawn, and the arrivals of an absent module at that collective are given up. A read through BAR0 gives a register's fields, reserved bits and
write-only registers zero: DR_ID the part code, the stepping and the module, DR_ACCEPTED its counts, through the PF,
VF n and the launch-window page (R5, R6, R32, R35, R36, R41). The queue of a lasting fault's record, that such a fault
marks the line, and the window of the PF are the model's (logs 64, 127, 130). -/
def Obligations.HostStepsComplete : Prop :=
  (∀ (s : State) (h : Handoff) (a : Nat) (p : Place),
    exec (.handoverTransfer h .passed) s = .next s ∧
    exec (.handoverTransfer (.dramBurtex a) .corrected) s = .next (s.countStack a 0) ∧
    exec (.handoverTransfer (.sram p) .corrected) s =
      .next (s.modCore (placeCore p) fun k => { k with regs := { k.regs with memCe := satAdd k.regs.memCe 1 0xFFFF } }) ∧
    exec (.handoverTransfer (.burtexDie a) .corrected) s =
      .next { s with handovers := s.handovers ++ [(Handover.mk (.burtexDie a))] } ∧
    ((∀ port q, h ≠ .link port q ∧ h ≠ .twinikDie port q) →
      exec (.handoverTransfer h .failed) s = .next { s with handovers := s.handovers ++ [(Handover.mk h)] }) ∧
    ∀ port q, (s.port port).up = true → (s.port port).retired = false →
      exec (.handoverTransfer (.link port q) .failed) s = .next (s.checkFailed port (q % 256))) ∧
  (∀ (s : State) (a : Nat) (rest : List Handover), s.handovers = Handover.mk (.dramBurtex a) :: rest →
    exec (.handoverRetry true) s = .next ({ s with handovers := rest }.countStack a 1) ∧
    ∃ t : State, exec (.handoverRetry false) s = .next (({ t with handovers := rest }.countStack a 2).postLasting (.dramBurtex a)) ∧
      t.poisoned (.phys a) = true ∧ t.mem = s.mem) ∧
  (∀ (s : State) (c a : Nat) (rest : List Handover), s.handovers = Handover.mk (.sram (.scratch c a)) :: rest →
    a < 0x200000 → ∃ t : State, exec (.handoverRetry false) s = .next (t.postLasting (.sram (.scratch c a))) ∧
      t.poisoned (.scratch c a) = true ∧ (t.core c).regs.memUe = satAdd (s.core c).regs.memUe 1 0xFFFF ∧
      (t.core c).scratch = (s.core c).scratch) ∧
  (∀ (s : State) (p : Fin 16) (value : Nat), exec (.registerWrite none (0x10E00 + 8 * p.val) value) s =
    .next (s.modPart p.val (fun x => { x with supvec := value / 64 % 2 ^ 50 }))) ∧
  (∀ (s : State) (p : Fin 16) (value : Nat),
    exec (.registerWrite none (0x30008 + 32 * p.val) value) s = .next (s.writeFqctl p.val value) ∧
    exec (.registerWrite (some p.val) 0x208 value) s = .next (s.writeFqctl p.val value) ∧
    exec (.registerWrite none (0x30010 + 32 * p.val) value) s = .next s ∧
    exec (.registerWrite (some p.val) 0x10E00 value) s = .next s) ∧
  (∀ (s : State) (part link func va n : Nat) (bs : List PByte), s.inRecovery = false → func ≤ 16 →
    (func = 0 ∨ func = part + 1) → va + n ≤ s.windowSize part link func → s.pavRead part va n = .ok bs →
    exec (.bar4Access part link func va (.read n)) s =
      .next (s.emit (.readData (bs.map fun b => b.1) (bs.any fun b => b.2)))) ∧
  (∀ (s : State) (part link func va : Nat) (bs : List Byte) (ls : List (Loc × Nat)), s.inRecovery = false → func ≤ 16 →
    (func = 0 ∨ func = part + 1) → va + bs.length ≤ s.windowSize part link func → s.pavRange part true va bs.length = .ok ls →
    exec (.bar4Access part link func va (.write bs)) s = .next ((writePieces ls bs s).clearRecs ls)) ∧
  (∀ (s : State) (module gid : Nat), ∃ t, exec (.proxyAbsenceReceive module gid) s = .next t ∧
    (module, gid) ∈ t.absent ∧ { t with absent := s.absent, colls := s.colls } = s ∧
    ∀ k ∈ t.colls, k.gid = gid → ∀ p ∈ k.arrived, p.agent.module ≠ some module) ∧
  (∀ (s : State) (module gid : Nat), ∃ t, exec (.proxyWithdrawalReceive module gid) s = .next t ∧
    (module, gid) ∉ t.absent ∧ { t with absent := s.absent } = s) ∧
  (∀ (s : State) (p q : Fin 16) (v : Nat),
    s.readReg 0 = Config.moduleId.toNat ∧ s.readReg 4 = 0x1024 * 2 ^ 16 + Config.stepping.toNat * 2 ^ 8 ∧
    s.readReg (0x20000 + 4 * (16 * p.val + q.val)) = aget 0 (s.part p.val).accepted q.val % 2 ^ 32 ∧
    s.vfRead p.val (0x100 + 4 * q.val) = aget 0 (s.part p.val).accepted q.val % 2 ^ 32 ∧
    s.readWindow p.val q.val 0 = aget 0 (s.part p.val).accepted q.val ∧
    (∀ o, o ≠ 0 → s.readWindow p.val q.val o = 0) ∧
    (s.writeReg (0x10E00 + 8 * p.val) v).readReg (0x10E00 + 8 * p.val) = v % 2 ^ 32 / 64 * 64 ∧
    (s.writeReg (0x10800 + 4 * p.val) v).readReg (0x10800 + 4 * p.val) = v % 2 ^ 16 + v / 2 ^ 16 % 16 * 2 ^ 16 ∧
    s.readReg (0x30400 + 4 * p.val) = 0 ∧ s.readReg (0x30480 + 8 * p.val) = 0 ∧ s.readReg (0x10F80 + 4 * p.val) = 0 ∧
    s.vfRead p.val 0x010 = s.readReg (0x10800 + 4 * p.val) ∧
    ∀ o, o < 0x100000 → 0x600 ≤ o → s.vfRead p.val o = 0)

end

section

open Sys2Proof Sys2Proof.Machine Sys2Proof.Claims

/-! ### Launch, partition and translation steps (R39 to R53, R61 to R68, R112, R114) -/

/-- The steps of the launch windows, queues and partitions complete: a record written to a free slot of an enabled
partition waits in it; one that passes the checks enters its queue, or the spill area where the queue is full, whose
memory then holds it, and returns from there as that memory gives it; a partition is enabled with its counts cleared,
disabled, each measured, and grows or shrinks. Which place of the area a record takes, and the digest of a partition,
are the model's (logs 8, 73). -/
def Obligations.LaunchQueueStepsComplete : Prop :=
  (∀ (s : State) (p q : Fin 16) (slot : Fin 64) (bytes : List Byte), s.inRecovery = false → (s.part p.val).en = true →
    bytes.length = 64 → (∀ x ∈ s.ingress, (x.part, x.prio, x.slot) ≠ (p.val, q.val, slot.val)) →
    exec (.launchWindowWrite none (65536 * p.val + 4096 * q.val + 64 * slot.val) bytes) s =
      .next { s with ingress := s.ingress ++ [(Ingress.mk p.val q.val slot.val bytes)] } ∧
    exec (.launchWindowWrite (some p.val) (4096 * q.val + 64 * slot.val) bytes) s =
      .next { s with ingress := s.ingress ++ [(Ingress.mk p.val q.val slot.val bytes)] }) ∧
  (∀ (s : State) (part prio : Nat) (bad spill : Bool) (x : Ingress) (r : LaunchRec),
    s.ingress.find? (fun y => y.part == part && y.prio == prio) = some x → r = LaunchRec.parse x.bytes →
    s.recordCheck part x.bytes = 0 → r.rigid = false → s.mustSpill part prio = spill →
    (spill = true → s.spillFull part = false ∧ bad = false) → ∃ t,
    exec (.launchAccept part prio bad) s = .next t ∧ t.nextLid = s.nextLid + 1 ∧
    t.launches = s.launches ++ [{ Launch.accepted s.nextLid part prio r (if spill then .spilled else .queued) with
      spillAt := if spill then s.spillFree part else 0 }] ∧
    (spill = true → Memory.wf s.mem = true → x.bytes.length = 64 →
      memRead t.mem ((s.part part).lspillBase * 65536 + 64 * s.spillFree part) 64 = x.bytes) ∧
    t.ingress = delFirst (fun y => y.part == part && y.prio == prio) s.ingress ∧
    aget 0 (t.part part).accepted prio = (aget 0 (s.part part).accepted prio + 1) % 2 ^ 32) ∧
  (∀ (s : State) (part prio : Nat) (l : Launch),
    s.launches.find? (fun l => l.part == part && l.prio == prio && l.phase == .spilled) = some l →
    s.queued part prio < 256 → s.poisoned (s.spillSlot part l.spillAt) = false →
    exec (.spillReturn part prio false) s = .next (s.modLaunch l.lid fun x =>
      { x with phase := .queued,
               record := LaunchRec.parse (memRead s.mem ((s.part part).lspillBase * 65536 + 64 * l.spillAt) 64) })) ∧
  (∀ (s : State) (part : Nat), (s.part part).en = false → (∀ x ∈ s.ingress, x.part ≠ part) →
    exec (.partitionEnable part) s =
      .next ((s.modPart part fun x => { x with en := true, accepted := [] }).measurePart part)) ∧
  (∀ (s : State) (part : Nat), (s.part part).en = true →
    exec (.partitionDisable part) s = .next ((s.modPart part fun x => { x with en := false }).measurePart part)) ∧
  (∀ (s : State) (part n : Nat), n < 256 → (s.part part).busy = false → (s.part part).granules < n →
    n ≤ (s.part part).granules + s.freeGranules.length → ∃ t, exec (.partitionResize part n) s = .next t ∧
    (t.part part).granules = n ∧ (t.part part).busy = false ∧ t.launches = s.launches ∧
    t.owner = s.owner ++ (s.freeGranules.take (n - (s.part part).granules)).map fun g => (g, part)) ∧
  (∀ (s : State) (part n : Nat), (s.part part).busy = false → n < (s.part part).granules →
    (s.part part).granules < 256 → ∃ t, exec (.partitionResize part n) s = .next t ∧ (t.part part).granules = n)

/-- The steps that take a launch to its cores complete: a wait word that is met, waiting time, a placement on the set
that R61 forms with every core fresh, the argument copy that starts it, a resumption on a set, a core's retirement,
and the invalidation of translations and the page walk. -/
def Obligations.LaunchRunStepsComplete : Prop :=
  (∀ (s : State) (l : Launch) (bs : List PByte), s.launch l.lid = some l → l.record.depmode = true →
    l.waitMet = false → l.waitFault = none → l.waiting = true →
    s.pavRead l.part (bits l.record.word5 0 56) 4 = .ok bs →
    (ofBytes (bs.map fun b => b.1) + 2 ^ 32 - l.record.waitval) % 2 ^ 32 < 2 ^ 31 →
    exec (.waitWordPoll l.lid) s = .next (s.modLaunch l.lid fun x => { x with waitMet := true })) ∧
  (∀ (s : State) (l : Launch) (us : Nat), s.launch l.lid = some l → s.eligible l = true →
    exec (.launchAging l.lid us) s = .next (s.modLaunch l.lid fun x => { x with waited := x.waited + us })) ∧
  (∀ (s : State) (l : Launch) (c : Nat), s.launch l.lid = some l → s.passOrder l.part = [l] →
    s.behindAged l = false → l.phase ≠ .preempted → s.setFor l s.busy = some [c] → ∃ t,
    exec (.placementPass l.part) s = .next t ∧ (t.launch l.lid).map (fun x => (x.phase, x.cores)) = some (.placed, [c]) ∧
    t.core c = (s.core c).fresh (s.part l.part).supvec { lid := l.lid, part := l.part, rank := 0, prio := l.prio } ∧
    ∀ d, d ≠ c → t.core d = s.core d) ∧
  (∀ (s : State) (l : Launch) (args sc : List PByte) (es : List SchedEntry), s.launch l.lid = some l →
    l.phase = .placed → l.argFault = none → l.again = false →
    s.pavRead l.part l.record.argptr (8 * l.record.arglen) = .ok args →
    s.pavRead l.part l.record.schedptr (32 * l.record.schedlen) = .ok sc →
    parseSched l.cores.length l.record.schedlen 0 0 (sc.map fun b => b.1) = .ok es → ∃ t,
    exec (.argumentCopy l.lid) s = .next t ∧
    t.launch l.lid = some { l with schedule := es, phase := .running }) ∧
  (∀ (s : State) (l : Launch) (cs : List Nat), s.launch l.lid = some l → l.phase = .preempted →
    (s.passOrder l.part).find? (fun x => !s.behindAged x && (s.setFor x s.busy).isSome) = some l →
    s.setFor l s.busy = some cs → exec (.launchResume l.lid) s = .next (s.resumeOn l cs)) ∧
  (∀ (s : State) (core : Nat) (usable : Bool), core < 1024 → s.retiring = [] → s.isRetired core = false →
    (s.core core).placed = none → ∃ t, exec (.coreRetire core false usable) s = .next t ∧
    t.isRetired core = true ∧ ∀ c, c ≠ core → t.isRetired c = s.isRetired c) ∧
  (∀ (s : State) (core : Nat) (p : Placed), core < 1024 → s.retiring = [] → s.isRetired core = false →
    (s.core core).placed = some p → exec (.coreRetire core false true) s =
      .next (({ s with retiring := [core] }.requestPreempt p.lid .retire).settle p.part)) ∧
  (∀ (s : State) (part size va : Nat), (s.part part).tlbGo = none → size < 4 → va < 2 ^ 56 → va % 65536 = 0 →
    exec (.tlbInvalidate part size va) s =
      .next (s.modPart part fun p => { p with tlbGo := some (size, va), tlbSize := size, tlbVa := va })) ∧
  (∀ (s : State) (part size va : Nat), (s.part part).tlbGo = some (size, va) →
    (∀ c ∈ s.partCores part, ∀ i ∈ (s.core c).instances, i.holdsPhys = false) → s.farDone part = true → ∃ t,
    exec (.tlbInvalidateDone part) s = .next t ∧ (t.part part).tlbGo = none ∧
    ∀ c ∈ s.partCores part, (t.core c).tlb = (s.core c).tlb.filter fun e => !e.covered size va) ∧
  (∀ (s : State) (core va : Nat) (e : TlbEntry), s.walk (s.corePart core) (wrapVa va) = .page e →
    exec (.pageWalk core va) s = .next (s.cacheTlb core e))

end

section

open Sys2Proof Sys2Proof.Machine Sys2Proof.Claims

/-! ### The end of a launch, and page-fault service (R51 to R57) -/

/-- The steps that end a launch complete, and the answers to faults: a launch that has ended leaves the list with its
completion word written, once its writes are visible at system scope, a cancel ends a launch that waits, the watchdog
posts its record and traps every core, and ends a launch that does not answer; a withheld record is posted; RETRY and
FAIL withdraw the fault, and what it withheld goes on or fails. -/
def Obligations.LaunchEndStepsComplete : Prop :=
  (∀ (s : State) (l : Launch) (st d : Nat), s.launch l.lid = some l →
    (l.phase = .ending ∧ l.status = some (st, d) ∧ s.launchWritesDone l.lid = true) ∨
      (s.ended l = true ∧ st = 0 ∧ d = 0) →
    exec (.launchComplete l.lid) s = .next (s.finishLaunch l st d) ∧
    (∀ x ∈ (s.finishLaunch l st d).launches, x.lid ≠ l.lid)) ∧
  (∀ (s : State) (l : Launch), s.launch l.lid = some l → l.phase = .ending → s.launchWritesDone l.lid = false →
    exec (.launchComplete l.lid) s = .next s) ∧
  (∀ (s : State) (p n : Nat) (l : Launch), n < 2 ^ 32 → s.launch l.lid = some l →
    s.launches.filter (fun l => l.part == p && l.record.lnum == n) = [l] → l.phase = .queued ∨ l.phase = .spilled →
    exec (.launchCancel p n) s = .next (s.endLaunch l.lid 3 0)) ∧
  (∀ (s : State) (p n : Nat) (l : Launch), n < 2 ^ 32 → s.launch l.lid = some l →
    s.launches.filter (fun l => l.part == p && l.record.lnum == n) = [l] → l.phase = .running →
    exec (.launchCancel p n) s = .next ((s.requestPreempt l.lid .cancel).stopIfDrained l.lid)) ∧
  (∀ (s : State) (l : Launch), s.launch l.lid = some l → l.record.timeout ≠ 0 → l.wdFired = false →
    l.onCores = true → exec (.launchWatchdogExpiry l.lid) s =
      .next ((l.cores.foldl (fun s c => s.raise c (Trap.untied 0x12 0 l.record.lnum 0 .watchdog))
        (s.postRec { FRec.blank l.part l.part 0x0A with lnum := l.record.lnum })).modLaunch l.lid fun x =>
          { x with wdFired := true, wdAnswered := [] })) ∧
  (∀ (s : State) (l : Launch) (r : Nat), s.launch l.lid = some l → l.wdFired = true → l.onCores = true →
    r < l.cores.length → has l.wdAnswered r = false → l.phase = .placed →
    exec (.watchdogTrapUnanswered l.lid) s = .next (s.endLaunch l.lid 5 4)) ∧
  (∀ (s : State) (queue : Nat) (f : FRec), s.withheld.find? (fun f => f.queue == queue) = some f →
    (s.fq queue).en = true → (s.fq queue).isFull = false → exec (.withheldFaultRecordPost queue) s =
      .next ({ s with withheld := delFirst (fun x => x.queue == queue) s.withheld }.postRec f)) ∧
  (∀ (s : State) (part id : Nat) (o : Outstanding), s.answered part id = some o → ∃ t u,
    exec (.faultResponseRetry part id) s = .next t ∧ t = (s.withdrawFault id).retryFault o ∧
    exec (.faultResponseFail part id) s = .next u ∧ u = (s.withdrawFault id).failFault o ∧
    (∀ x ∈ t.outstanding, x.id ≠ id) ∧
    (∀ lid l, o.owner = .args lid → s.launch lid = some l → l.phase ≠ .ending →
      t.launch lid = some { l with argFault := none } ∧
      u.launch lid = some { l with argFault := none, phase := .ending, status := some (5, 2) })) ∧
  (∀ (s : State) (part id : Nat), s.answered part id = none →
    exec (.faultResponseRetry part id) s = .next s ∧ exec (.faultResponseFail part id) s = .next s)

end

namespace Sys2Proof.Claims

open Sys2Proof Sys2Proof.Machine

/-- What the commit of an instance leaves as it was, whatever its effects on its own core: the other cores and the
state outside the cores, but for the requests that the commit had made, which go. -/
def CommitFrame (s t : State) (core : Nat) (i : Instance) : Prop :=
  (∀ c, c ≠ core → t.core c = s.core c) ∧ { t with cores := s.cores, asks := s.asks } = s ∧
    t.asks = s.asks.filter fun q => !q.ofCommit core i.iid

/-- `n` bytes of a ring record at an offset, as the handler has left them (R189). -/
def ringByte (s : State) (core addr off n : Nat) : Nat := ofBytes (memRead (s.core core).scratch (addr + off) n)

/-- The run that SUBSTITUTE sends to a target (R191): RESULT in every data lane; zero in a predicate and in a completion
token. -/
def replaced (o : OpIn) (m : Instr) (v : Word) (pred : Bool) : Run :=
  { first := (o.resultShape m).1,
    lanes := List.replicate (o.resultShape m).2
      { val := if pred = true ∨ dataForm m = false then 0 else v, poison := false } }

end Sys2Proof.Claims

section

open Sys2Proof Sys2Proof.Machine Sys2Proof.Claims

/-! ### Steps of one core (R70 to R109, R186 to R190) -/

/-- The steps of a core's sequencer and fabric complete: a SPAWN is granted the lowest free colour and its block is
named there, a colour marked by SRET ends, the pending instance that arbitration picks is admitted with a frame or
begins the mapping of its block, a checked block is placed, a token is delivered, an instance commits and is gone, and
a core arrives at its step. -/
def Obligations.CoreStepsComplete : Prop :=
  (∀ (h : OpWord) (ds : BitVec 16) (s : State) (o : OpIn) (w c : Nat), Fires s o → s.earlier o = false →
    s.fetchHeader o (blockAt o.i.block ds) = .ok w → headerOk w = true → w / 2 ^ 27 % 2 = 1 →
    o.f.n = max (w % 16) 1 → Fits s o h (oneLane o.f.first 0) → o.f.heldAt = none → (s.core o.c).held = [] →
    o.m.instr? o.f.slot = some (.spawn h ds) → (s.core o.c).freeColour = some c → ∃ t u,
    exec (.spawn h ds) s = .next t ∧ exec (.spawnGrant o.c) t = .next u ∧
    (u.core o.c).colours = (s.core o.c).colours ++ [{ Colour.blank c (s.colourOf o).prio with
      allot := (s.colourOf o).allot }] ∧
    (∃ j ∈ (u.core o.c).instances, j.tag = { colour := c, fields := [] } ∧ j.block = blockAt o.i.block ds ∧
      j.status = .pending)) ∧
  (∀ (s : State) (core : Nat) (x : Colour), (s.core core).colour? x.id = some x → x.sret = true →
    (∀ i ∈ (s.core core).instances, i.tag.colour = x.id → i.status = .pending) →
    (∀ t ∈ (s.core core).inflight, ∀ i, (s.core core).inst? t.iid = some i → i.tag.colour ≠ x.id) →
    (∀ t ∈ (s.core core).held, ∀ i, (s.core core).inst? t.firing.iid = some i → i.tag.colour ≠ x.id) → ∃ t,
    exec (.colourRelease core x.id) s = .next t ∧ (t.core core).colour? x.id = none ∧
    ∀ y, y ≠ x.id → (t.core core).colour? y = (s.core core).colour? y) ∧
  (∀ (s : State) (core cycles : Nat) (i : Instance) (k : Core), k = (s.core core).waits cycles → k.gated = false →
    k.frozen = false → k.noAdmit = false → k.chosen = some i →
    (∀ j ∈ k.contenders, j.iid ≠ i.iid → k.arbBefore i j = true) ∧
    (k.mapping? i.block = none →
      exec (.blockAdmission core cycles) s = .next (s.setCore core { k with mapping := some i.iid })) ∧
    (∀ m f, k.mapping? i.block = some m → (k.isHandler i = true → m.reent = true ∧ m.narg = 1) →
      k.frameFor i = some f → exec (.blockAdmission core cycles) s =
        .next (s.setCore core (k.admitInst i m f)))) ∧
  (∀ (s : State) (core : Nat) (i : Instance) (m : Mapping) (cls : List ((Nat × Bool) × Nat)) (k : Core)
    (p : Nat × Nat × Nat) (rt : List (Nat × Nat × Nat × Nat)), (s.core core).mapping.bind (s.core core).inst? = some i →
    s.readBlockAt core i.block = .ok (m, cls) → m.selfRace cls = none → (s.core core).healthy m.size = true →
    ((s.core core).isHandler i = true → m.reent = true ∧ m.narg = 1) →
    Core.makeRoom ((s.core core).mappings.length + 1) (s.core core) m.size m.nslot = (k, some p) →
    (s.core core).routesFor { m with x0 := p.2.1, y0 := p.2.2 } = .ok rt →
    exec (.blockMapping core) s = .next (s.setCore core (k.addMapping { m with routes := rt } p))) ∧
  (∀ (s : State) (core n : Nat) (t : Token) (i : Instance) (m : Mapping), (s.core core).inflight[n]? = some t →
    (s.core core).inst? t.iid = some i → (s.core core).mapping? i.block = some m → (s.core core).frozen = false →
    (s.core core).mayArrive n t i m = true → t.bad m = false →
    exec (.tokenArrival core n) s = .next (s.deliver core n t i m)) ∧
  (∀ (s t : State) (core : Nat) (i : Instance) (rest : List Instance), (s.core core).frozen = false →
    (s.core core).committers = i :: rest → s.tryCommit core i = .ok t →
    exec (.instanceCommit core) s = .next t ∧ (t.core core).inst? i.iid = none) ∧
  (∀ (s : State) (core n : Nat) (hd : Held) (l : Launch) (i : Instance), (s.core core).nextPhase = some (n, hd) →
    s.coreLaunch core = some l → (s.core core).inst? hd.firing.iid = some i → (s.core core).hasEarlier i = false →
    s.accessesDone core = true → s.stepsOn l = true → s.hasArrived core = false →
    has l.ended (s.coreRank core) = false → exec (.arbourArrival core) s =
      .next (((s.modCore core fun k => { k with held := setAt k.held n { hd with wait := .arbour l.steps } }).modLaunch
        l.lid fun l => { l with arrived := addMem l.arrived (s.coreRank core) }).closeArbour l.lid))

/-- What a commit does with a WRITE's value, with a store to the core's own scratchpad and with an ERET, where that is the
instance's one effect. The register holds the value, or the bytes read as stored; no other register of a colour, no
other byte, no other core and no other part of the device changes, but for the race records and epochs of the store and
what goes with the instance. ERET frees the ring entry that it names (R191), and with ACTION 0 (RESUME) the parked
instance goes on: its sets fire again, after SYSCALL or BREAK answered with RESULT (R190); with ACTION 1 (SUBSTITUTE),
where R190 allows it, the operation retires with RESULT in every data lane and zero in a predicate or a completion token;
with any other, or where it is not allowed, the launch ends with status ERROR and CODE, 0xFFEF at most. An ERET of an
entry not in use traps before it commits, with rule number 191 as its DETAIL. The bytes of ACTION, RESULT and CODE are
R189's, and what a predicate or a completion token then holds is the model's (log 62). -/
def Obligations.CommitTakesEffect : Prop :=
  (∀ (s : State) (core reg n : Nat) (i : Instance) (c : Colour) (l : Lane),
    i.effects = [(n, .writeReg reg l)] → (s.core core).colour? i.tag.colour = some c → reg < c.regs.length →
    ∃ t : State, s.tryCommit core i = .ok t ∧
    (t.core core).colour? i.tag.colour = some { c with regs := c.regs.set reg l } ∧
    (∀ d, d ≠ i.tag.colour → (t.core core).colour? d = (s.core core).colour? d) ∧ CommitFrame s t core i ∧
    { t.core core with colours := (s.core core).colours, instances := (s.core core).instances,
                       nodeData := (s.core core).nodeData, regs := (s.core core).regs } = s.core core) ∧
  (∀ (s t : State) (core slot a n : Nat) (i : Instance) (bs : List Byte), s.tryCommit core i = .ok t →
    Memory.wf (s.core core).scratch = true → (s.core core).slotCounted i slot = false →
    i.effects = [(n, .store slot [(Seg.mk (.scratch core a) bs false)])] →
    memRead (t.core core).scratch a bs.length = bs ∧
    (∀ b, b < a ∨ a + bs.length ≤ b → memByte (t.core core).scratch b = memByte (s.core core).scratch b) ∧
    CommitFrame { s with epochs := t.epochs, acquired := t.acquired } t core i ∧
    { t.core core with scratch := (s.core core).scratch, scratchPoison := (s.core core).scratchPoison,
                       scratchRecs := (s.core core).scratchRecs, instances := (s.core core).instances,
                       nodeData := (s.core core).nodeData, regs := (s.core core).regs } = s.core core) ∧
  (∀ (s : State) (core addr e n slot j : Nat) (i y : Instance) (x : Trap), i.effects = [(n, .eret slot addr)] →
    (s.core core).ringAt addr = some (e, x) → ringByte s core addr 1 1 = 0 → x.src = .op → x.iid = some j → j ≠ i.iid →
    (s.core core).inst? j = some y → y.owed = none → ∃ t : State, s.tryCommit core i = .ok t ∧
    (t.core core).ring = (s.core core).ring.filter (fun p => p.1 != e) ∧
    (t.core core).scratch = (s.core core).scratch ∧ CommitFrame s t core i ∧
    (∃ z, (t.core core).inst? j = some z ∧ z.parkedSets = [] ∧
      z.status = (if y.frame.isSome then .admitted else .pending)) ∧
    (x.cause ≠ 0x10 → x.cause ≠ 0x11 → (t.core core).issueQ = (s.core core).issueQ ++ y.parkedSets) ∧
    ∀ f, x.firing = some f → x.cause = 0x10 ∨ x.cause = 0x11 → (t.core core).issueQ = (s.core core).issueQ ++
      modFirst (fun g => g == f) (fun g => { g with answered := some (BitVec.ofNat 32 (ringByte s core addr 40 4)) })
        y.parkedSets) ∧
  (∀ (s u : State) (core addr e n slot j : Nat) (i : Instance) (x : Trap) (f : Firing) (o : OpIn) (m : Instr) (v : Word),
    i.effects = [(n, .eret slot addr)] → (s.core core).ringAt addr = some (e, x) → ringByte s core addr 1 1 = 1 →
    s.substOk core x = true → x.iid = some j → x.firing = some f → v = BitVec.ofNat 32 (ringByte s core addr 40 4) →
    u = s.modCore core (fun k =>
      ({ k.retrySpill x with ring := k.ring.filter fun p => p.1 != e }.dropParked j f).unpark j) →
    u.opIn core { f with heldAt := none } = some o → o.m.instr? o.f.slot = some m → noResult m = false →
    s.tryCommit core i = .ok ((((((u.modCore core fun k => k.closeColl o).finish o o.head (dataForm m)
      (replaced o m v (predTargets m).1) (replaced o m v (predTargets m).2)).payOwed core j).dropCommitAsks core
        i.iid).modCore core fun k => k.retireInst i))) ∧
  (∀ (s : State) (core addr e n slot : Nat) (i : Instance) (x : Trap) (l : Launch), i.effects = [(n, .eret slot addr)] →
    (s.core core).ringAt addr = some (e, x) →
    2 ≤ ringByte s core addr 1 1 ∨ (ringByte s core addr 1 1 = 1 ∧ s.substOk core x = false) →
    s.launch (s.coreLid core) = some l → l.phase ≠ .ending → ∃ t : State, s.tryCommit core i = .ok t ∧
    (t.core core).ring = (s.core core).ring.filter (fun p => p.1 != e) ∧
    t.launch (s.coreLid core) = some { l with phase := .ending,
                                              status := some (4, min 0xFFEF (ringByte s core addr 44 2)) }) ∧
  (∀ (s : State) (core addr n slot : Nat) (i : Instance), i.effects = [(n, .eret slot addr)] →
    (s.core core).ringAt addr = none → s.tryCommit core i = .error (.trap
      { Trap.ofInst (s.core core) i 2 addr 191 0 .op with slot := slot }))

/-- A trap is delivered to the lowest free ring entry (R188): its record, with SEQ, is written there (R189) and its
line is not poisoned (R141), SEQ advances, and the handler block is named in colour 0 at tag 0 with the record's
address as its argument. With the ring full WAITING is set and the trap waits. -/
def Obligations.TrapsDelivered : Prop :=
  ∀ (s : State) (core : Nat) (x : Trap) (rest : List Trap), (s.core core).traps = x :: rest →
    Memory.wf (s.core core).scratch = true →
    ((s.core core).freeRing = none → ∃ t, exec (.trapDelivery core) s = .next t ∧ (t.core core).traps = x :: rest ∧
      (t.core core).regs.trapWaiting = true ∧ (t.core core).scratch = (s.core core).scratch) ∧
    (∀ e a, (s.core core).freeRing = some e → a = (s.core core).regs.traparea * 2048 + 64 * e → ∃ t j,
      exec (.trapDelivery core) s = .next t ∧ (t.core core).traps = rest ∧
      memRead (t.core core).scratch a 64 = x.bytes (s.core core).regs.trapSeq ∧
      lineOf a ∉ (t.core core).scratchPoison ∧
      (∀ b, b < a ∨ a + 64 ≤ b → memByte (t.core core).scratch b = memByte (s.core core).scratch b) ∧
      (t.core core).ring = (s.core core).ring ++ [(e, x)] ∧
      (t.core core).regs.trapSeq = ((s.core core).regs.trapSeq + 1) % 65536 ∧
      (t.core core).instances = (s.core core).instances ++ [j] ∧ j.tag = { colour := 0, fields := [] } ∧
      j.block = 64 * (s.core core).regs.trapvec ∧ j.status = .pending ∧
      (t.core core).inflight = (s.core core).inflight ++ 
        [Token.mk j.iid 0 0 1 (oneLane 0 (BitVec.ofNat 32 a)) none none none false])

/-- The timeouts, stalls and configuration errors of a core take the traps that the spec names for them (barrier
timeout 0x0C, frame exhaustion 0x0A, queue stall 0x0B), and an error in configuration storage is counted, freezes its
mapping, or, where the element has been struck before, retires it with every mapping on it, until the block is fetched
again and resumes. ADDR and DETAIL of a queue stall, which units suspend a limit, and whose CR_ARBTO limits a step are
the model's (logs 41, 92, 117). -/
def Obligations.StallStepsComplete : Prop :=
  (∀ (s : State) (core k n : Nat) (hd : Held) (l : Launch), (s.core core).held[k]? = some hd →
    s.coreLaunch core = some l → (s.core core).regs.arbto ≠ 0 → l.preempting = false →
    (hd.wait = .arbour n → exec (.barrierTimeout core k) s = .next (s.stepTimeout l n)) ∧
    (∀ id, hd.wait = .worldClose id n → exec (.barrierTimeout core k) s = .next (s.waitTrap core hd 0x0C 0 n
      (((s.store? (s.corePart core) id).map fun t => t.arrived.length).getD 0))) ∧
    (∀ gid, hd.wait = .collective gid → s.collAbsent core gid hd.firing = false → exec (.barrierTimeout core k) s =
      .next (s.waitTrap core hd 0x0C 0 (s.collCount core gid hd.firing).1 (s.collCount core gid hd.firing).2))) ∧
  (∀ (s : State) (core : Nat), (s.core core).regs.stallwd ≠ 0 → (s.core core).instances ≠ [] →
    (s.core core).nothingIssues = true → s.withholding core = false → exec (.frameExhaustion core) s =
      .next (s.raise core (Trap.untied 0x0A 0 (s.core core).freeFrames.length 0 .untied))) ∧
  (∀ (s : State) (core n a d : Nat) (hd : Held), (s.core core).regs.stallwd ≠ 0 → s.withholding core = false →
    (s.core core).held[n]? = some hd → (s.core core).stallInfo hd = some (a, d) →
    exec (.queueStall core (.request n)) s = .next (s.waitTrap core hd 0x0B a d 0)) ∧
  (∀ (s : State) (core q slot k : Nat) (l : Lane) (i : Instance), (s.core core).regs.stallwd ≠ 0 →
    s.withholding core = false → (s.core core).inst? i.iid = some i → i.stalled = true → i.status = .admitted →
    i.effects = [(k, .pushQueue slot q l)] → exec (.queueStall core (.commit i.iid)) s =
      .next (s.raise core { Trap.ofInst (s.core core) i 0x0B q q 0 .op with slot := slot })) ∧
  (∀ (s : State) (core elem : Nat) (m : Mapping) (unread : List (Nat × Nat)), (s.core core).mapping? m.block = some m →
    m.holdsElem elem = true → (∃ t, exec (.configEccError core m.block elem true unread) s = .next t ∧
      (t.core core).regs.cfgce = satAdd (s.core core).regs.cfgce 1 0xFF ∧
      (t.core core).mappings = (s.core core).mappings) ∧
    ((s.core core).struck elem = false → ∃ t, exec (.configEccError core m.block elem false unread) s = .next t ∧
      ∃ x, (t.core core).mapping? m.block = some x ∧ x.frozen = true ∧ x.eccElems = addMem m.eccElems elem) ∧
    ((s.core core).struck elem = true → ∃ t, exec (.configEccError core m.block elem false unread) s = .next t ∧
      (t.core core).regs.elret = setBit (s.core core).regs.elret elem ∧
      ∀ x ∈ (t.core core).mappings, x.holdsElem elem = true → x.off = true)) ∧
  (∀ (s : State) (core : Nat) (m : Mapping) (bs : List Byte), (s.core core).mapping? m.block = some m →
    m.frozen = true → m.differs = false → m.off = false → s.fetchBytes core m.block m.byteLen = .ok bs →
    sm3First64 bs = m.sig → m.region.retired (s.core core).regs.elret = false → ∃ t,
    exec (.configReload core m.block) s = .next t ∧
    (t.core core).mapping? m.block = some { m with frozen := false, eccElems := [] } ∧
    (m.eccElems ≠ [] → (t.core core).regs.reload = satAdd (s.core core).regs.reload 1 0xFF))

end

section

open Sys2Proof Sys2Proof.Machine Sys2Proof.Claims

/-! ### Steps of the engines and of groups of cores (R122 to R160, R318 to R320, R354) -/

/-- The steps of the address-generator nodes, the Shuttle, the memory ports and the Reel complete: a node's next element
reaches its destination and the node advances, a store node pairs its address with data, an entry starts, copies a row
and, once its writes have been performed, posts its completion, an atomic at its port and the waiter on a free lock are performed, CR_ATOMMODE switches, and
a page of a chain that is not its last is copied to its slot, and its completion is posted once its writes have been
performed (R130, R163). -/
def Obligations.EngineStepsComplete : Prop :=
  (∀ (s s1 : State) (core node : Nat) (n : Node) (x : Nat × QEntry) (out : NodeOut),
    (s.core core).node node = n →
    n.state = 1 → n.badElem = none → s.isGated core = false → descStore n.desc = false ∨ n.kind = 5 →
    (s.core core).nodeRoom n = true → s.nodeElem core node n = .ok (x :: out, s1) →
    exec (.nodeElementRead core node) s = .next ((s1.dropAnswers core n.opener).modCore core fun k =>
      (k.placeElem node (x :: out)).modNode node fun y => { y.advance with ahead := y.ahead + 1 })) ∧
  (∀ (s : State) (core node : Nat) (n : Node), (s.core core).node node = n → n.state = 1 → n.badElem = none →
    s.isGated core = false → descStore n.desc = true → n.kind ≠ 5 →
    exec (.nodeElementRead core node) s = .next (s.nodeStore core node n)) ∧
  (∀ (s : State) (core n : Nat) (e : ShEntry),
    findIdx? (fun (e : ShEntry) => e.st == .waiting) (s.core core).shuttle 0 = some (n, e) →
    e.entry.stage < (s.core core).regs.shadv → s.isGated core = false → (s.core core).endl = false →
    e.entry.boben = false → s.inProgress core ≤ 3 →
    exec (.shuttleEntryStart core) s = .next (s.modCore core fun k =>
      k.modEntry n fun e => { e with st := .running })) ∧
  (∀ (s s1 s2 : State) (core n src dst : Nat) (e : ShEntry) (bs : List PByte), (s.core core).shuttle[n]? = some e →
    src = (e.entry.src + e.row * e.entry.srcpitch) % 2 ^ 56 → dst = (e.entry.dst + e.row * e.entry.dstpitch) % 2 ^ 56 →
    e.st = .running → e.withheld = none → s.isGated core = false →
    s.rowBlocked core n src dst e.entry.rowbytes = false →
    s.engRead core shuttleAgent true src e.entry.rowbytes = .ok (bs, s1) →
    s1.engWrite core shuttleAgent true dst bs n = .ok s2 →
    exec (.shuttleRowCopy core n) s = .next ((s2.dropAnswers core shuttleAgent).modCore core fun k =>
      k.modEntry n fun e => e.rowDone (bs.any fun b => b.2))) ∧
  (∀ (s : State) (core n : Nat) (e : ShEntry),
    (List.zipIdx (s.core core).shuttle).find? (fun p =>
      (s.core core).mayPost p.2 p.1 && s.partDone core shuttleAgent p.2) = some (e, n) →
    exec (.shuttleCompletionPost core) s = .next ((s.fillDone core shuttleAgent e.entry.bob e.err e.poison).modCore core
      fun k => k.modEntry n fun x => { x with st := .posted })) ∧
  (∀ (s t : State) (core n : Nat) (hd : Held) (i : Instr), (s.core core).heldWhere Held.atPort = some (n, hd) →
    s.retry core n = (t, some i) → (∃ h opc ord scope g hi, i = .atom h opc ord scope g hi) ∨
      (∃ h ord scope g hi, i = .cas h ord scope g hi) →
    ∃ u, exec (.burtexAtomic core) s = .next u ∧ exec i t = .next u) ∧
  (∀ (s t : State) (core n : Nat) (hd : Held) (i : Instr),
    (List.zipIdx (s.core core).held).find? (fun p => s.lockReady core p.1) = some (hd, n) →
    s.retry core n = (t, some i) → (∃ h, i = .ldlk h) ∨ (∃ h opc ord scope g hi, i = .atom h opc ord scope g hi) ∨
      (∃ h ord scope g hi, i = .cas h ord scope g hi) →
    ∃ u, exec (.lockGrant core) s = .next u ∧ exec i t = .next u) ∧
  (∀ (s : State) (core : Nat) (b : Bool), (s.core core).regs.atomPending = some b →
    (∀ h ∈ (s.core core).held, (s.core core).atomInFlight h = false) → ∃ t, exec (.atommodeSwitch core) s = .next t ∧
    (t.core core).regs.atomLock = b ∧ (t.core core).regs.atomPending = none ∧ t.mem = s.mem) ∧
  (∀ (s s0 s1 s2 : State) (core q : Nat) (bad poison : Bool) (m : ReelCmd) (bs : List PByte) (raw : List Byte),
    s0 = s.reelFlush core → (s0.core core).reel.find? (fun m => m.withheld.isNone && !m.ended) = some m →
    m.started = true → m.lost = false → m.stage = .copy q bad → m.ended = false →
    s0.engRead core reelAgent true q 0x8040 = .ok (bs, s1) → raw = bs.map (fun b => b.1) →
    s1.engWrite core reelAgent true (m.slotbase + m.k % m.nslot * 0x8040) bs m.id = .ok s2 →
    poison = (bad || bit (leAt raw 8 8) 1 || bs.any fun b => b.2) →
    leAt raw 0 7 ≠ 0 → 64 ≤ leAt raw 9 1 → (m.maxpages = 0 ∨ m.k + 1 < m.maxpages) → exec (.reelPageFill core) s =
      .next ((s2.dropAnswers core reelAgent).reelDone core { m with
        k := m.k + 1, started := false, poison := m.poison || poison, link := q, posts := m.posts ++ [(false, poison)],
        stage := .follow }))

/-- The steps of world stores and collectives complete: a scatter write reaches its buffer, a core arrives at the open
step and waits for its close, a step whose cores have all arrived closes and completes every PSTEP that waits on it
with the step's number, and a collective whose participants have all arrived with the same parameters is performed;
what a ROOT that names no participant gives is a free value (log 34). -/
def Obligations.GroupStepsComplete : Prop :=
  (∀ (s : State) (part store n : Nat) (t : Store) (w : SWrite), s.store? part store = some t →
    t.pending[n]? = some w → ∃ u, exec (.scatterWriteBuffer part store n) s = .next u ∧
    u = (s.modStore part store fun x => { x with pending := delAt x.pending n }).bufferWrite
      { t with pending := delAt t.pending n } w) ∧
  (∀ (s : State) (core n : Nat) (h : Held) (t : Store),
    (s.core core).heldWhere (fun h => (s.arrivesOn core h).isSome) = some (n, h) → s.arrivesOn core h = some t →
    exec (.worldStepArrival core) s = .next ((s.modCore core fun k =>
      { k with held := setAt k.held n { h with wait := .worldClose t.id t.step } }).modStore t.part t.id fun x =>
        { x with arrived := addMem x.arrived (s.coreRank core) })) ∧
  (∀ (s : State) (part store : Nat) (t : Store) (l : Launch), s.store? part store = some t →
    s.launch t.lid = some l → t.mayClose l = true → s.stepsOn l = true → exec (.worldStepClose part store) s =
      .next (l.cores.foldl (fun s c => s.completeHeld c (fun h => h.wait == .worldClose t.id t.step)
        (BitVec.ofNat 32 t.step) (s.core c).held.length) (s.closeStep t))) ∧
  (∀ (s s1 s2 : State) (k : Coll) (p : CollPart) (ps : List CollPart) (blocks : List (List PByte)),
    s.colls.find? s.collReady = some k → k.arrived = p :: ps → (∀ q ∈ ps, q.params = p.params) →
    s.collReads k (s.collParts k) s = .ok (blocks, s1) →
    s.collWrites k (k.blocks blocks) (fun j => Config.freeNat (s1.drawFree.1 + j)) (s.collParts k) s1.drawFree.2 = .ok s2 →
    exec .collectiveComplete s = .next (k.arrived.foldl (fun s p => s.collDone k p) (s2.endColl k)))

end

section

open Sys2Proof Sys2Proof.Machine Sys2Proof.Claims

/-! ### Pre-emption steps (R195 to R207) -/

/-- The steps of a pre-emption complete: every core of the set is gated, a core that has come to rest, or whose drain
limit has passed, begins its save and stops, the image is written with its header last and kept in its slot, a save
that faulted goes on or is abandoned, a failed pre-emption is tried again, and a core is restored from an image whose
header and digest are good and whose candidates can be read back. What is kept beside an image's bytes, and that a poisoned line of it fails the check, are
the model's (logs 18, 129). -/
def Obligations.PreemptionStepsComplete : Prop :=
  (∀ (s : State) (l : Launch), s.launch l.lid = some l → l.phase = .preempting →
    (∃ c ∈ l.cores, (s.core c).gated = false) → ∃ t, exec (.preemptGating l.lid) s = .next t ∧
    ∀ c ∈ l.cores, (t.core c).gated = true) ∧
  (∀ (s : State) (core slot size : Nat) (full : Bool) (l : Launch), s.draining core = some l →
    (∀ r, l.pre = some r → r.status = none) → s.freeSlot l.part = some slot → full = !(s.core core).noTokens →
    size = (s.core core).imageSize full → size ≤ (s.part l.part).saveSlotSz * 65536 →
    (∀ c ∈ l.cores, ((s.core c).atRest = true ∧ s.asksOut c = false) ∨ (s.core c).saving.isSome = true) →
    ∃ t, exec (.quiescence core) s = .next t ∧ (t.core core).frozen = true ∧
      ∃ x, (t.core core).saving = some x ∧ x.slot = slot ∧ x.full = full ∧ x.inflight = false ∧ x.written = 256) ∧
  (∀ (s : State) (core slot size : Nat) (l : Launch), s.draining core = some l →
    (∀ r, l.pre = some r → r.status = none) → s.freeSlot l.part = some slot →
    size = (s.core core).imageSize true → size ≤ (s.part l.part).saveSlotSz * 65536 →
    ∃ t, exec (.drainLimitExpiry core) s = .next t ∧ (t.core core).frozen = true ∧
      ∃ x, (t.core core).saving = some x ∧ x.slot = slot ∧ x.full = true ∧ x.inflight = true ∧ x.written = 256) ∧
  (∀ (s s1 s2 s3 : State) (core slot : Nat) (sv : Saving) (l : Launch) (secs : List (List Byte)) (body : List Byte),
    (s.core core).saving = some sv → s.coreLaunch core = some l → sv.complete = false → sv.fault = none →
    slot = s.slotAddr l.part sv.slot → saveCands core l.part (s.core core).binds s = (s1, none) →
    secs = (s1.core core).sections sv.base sv.full → body = secs.flatMap pad64 →
    s1.saveRange l.part (slot + sv.written) (body.drop (sv.written - 256)) = (s2, none) →
    s2.saveRange l.part slot ((s1.core core).imageHeader (s.imageOf core l) sv.full sv.inflight secs) = (s3, none) →
    exec (.imageSave core) s = .next ((({ s3 with images := s3.images ++ [(Image.mk l.part sv.slot l.lid (s.coreRank core)
      sv.full (256 + body.length) { s3.core core with saving := none })] }).modCore core fun k =>
        { k with saving := some { sv with complete := true } }).releaseSaved l.lid)) ∧
  (∀ (s : State) (part id lid rank c : Nat) (o : Outstanding), s.saveAnswered part id = some o →
    o.owner = .save lid rank → s.rankOf lid rank = some c →
    exec (.saveResume part id) s = .next ((s.withdrawFault id).modCore c fun k =>
      { k with saving := k.saving.map fun x => { x with fault := none } }) ∧
    exec (.saveAbandon part id) s = .next ((s.withdrawFault id).failPreempt lid (s.saveAt c o.va).1 (s.saveAt c o.va).2)) ∧
  (∀ (s : State) (part id lid rank : Nat) (o : Outstanding), s.saveAnswered part id = some o →
    o.owner = .restore lid rank → exec (.saveResume part id) s = .next (s.withdrawFault id) ∧
    exec (.saveAbandon part id) s = .next ((s.withdrawFault id).endLaunch lid 4 0xFFFD)) ∧
  (∀ (s : State) (l : Launch), s.launch l.lid = some l → l.phase = .running →
    l.pre = some .resize ∨ l.pre = some .retire →
    exec (.preemptRetry l.lid) s = .next (s.modLaunch l.lid fun x => { x with phase := .preempting })) ∧
  (∀ (s : State) (core : Nat) (l : Launch) (img : Image) (bs : List PByte), s.coreLaunch core = some l →
    l.phase = .resuming → has l.restored (s.coreRank core) = false → s.restoreWaits l.lid (s.coreRank core) = false →
    s.images.find? (fun x => x.lid == l.lid && x.rank == s.coreRank core) = some img →
    s.pavRead l.part (s.slotAddr l.part img.slot) img.size = .ok bs →
    (imageGood (bs.map fun b => b.1) = true → bs.any (fun b => b.2) = false →
      s.candFault core l.part (img.kept.load9 (imageSection (bs.map fun b => b.1) 9)).binds = none →
      exec (.launchRestore core) s = .next (s.restoreCore core l img (bs.map fun b => b.1))) ∧
    (imageGood (bs.map fun b => b.1) = false → exec (.launchRestore core) s = .next (s.endLaunch l.lid 4 0xFFFD)))

end

section

open Sys2Proof Sys2Proof.Machine Sys2Proof.Claims

/-! ### Encoding, fetching and reset (R231 to R246, R75) -/

/-- Words that the spec writes out, with their extension words, decode to the instructions they stand for. -/
def Obligations.DecodeWords : Prop :=
  decodeWords 0x1A081200 0x00000003 = .ok (.bobwait { ar := 0, tg := 0, t0 := 9, t1 := 0 } 0 3) ∧
  decodeWords 0x00800000 0xFFFF0001 = .ok (.bra { ar := 1, tg := 0, t0 := 0, t1 := 0 } 0xFFFF0001) ∧
  decodeWords 0x75004A32 0 = .ok (.fmul { ar := 2, tg := 0, t0 := 37, t1 := 50 } .f32) ∧
  decodeWords 0x71182200 0x00000001 = .ok (.faddRounding { ar := 2, tg := 0, t0 := 17, t1 := 0 } .bf16 .rz) ∧
  decodeWords 0x53084627 0 = .ok (.cmp { ar := 2, tg := 0, t0 := 35, t1 := 39 } .lt) ∧
  decodeWords 0xB3082200 0 = .ok (.st { ar := 2, tg := 0, t0 := 17, t1 := 0 } .w16) ∧
  decodeWords 0xB9002A00 0x0D800012 = .ok (.atom { ar := 2, tg := 0, t0 := 21, t1 := 0 } .add .acqRel 3 0 0x12) ∧
  decodeWords 0xD2803A22 0x00000611 = .ok (.sisect { ar := 1, tg := 0, t0 := 29, t1 := 34 } 3 2 1) ∧
  decodeWords 0xE8803A00 0x72044000 = .ok (.mmsp { ar := 1, tg := 0, t0 := 29, t1 := 0 } .fb4 1 0 2 1 0) ∧
  decodeWords 0xFE804A00 0x008A28FC = .ok (.mcor { ar := 1, tg := 0, t0 := 37, t1 := 0 } 1 4 5 0 1 31 0) ∧
  decodeWords 0xF2843A00 0x20E04000 = .ok (.pmarch { ar := 1, tg := 0, t0 := 29, t1 := 0 } 1 7 32 .hit) ∧
  decodeWords 0xFA881A00 0x00000019 = .ok (.skwr { ar := 1, tg := 0, t0 := 13, t1 := 0 } 3 1)

/-- Decoding the encoding of a well-formed instruction gives it back, with every operand at every value that its
encoding admits, and leaves the bytes behind it. -/
def Obligations.DecodeEncode : Prop :=
  ∀ (i : Instr) (rest : List Byte), i.wellFormed = true → i.opWord? ≠ none →
    decode (encode i ++ rest) = .ok (i, rest)

/-- A step runs the decoded instruction. Where the next move is the issue of an element, the head of its queue leaves
the queue and the instruction that its slot's bytes decode to is executed on it, under the repetition that a REP in
the slot before asks for (R237, R266); a request is tried again in its place; a device step is executed as it is;
a die whose arithmetic clock is stopped does nothing (R16), and while a hand-over has failed once nothing comes before
its second attempt, which is the model's order (log 131). With every move the frames take what has changed in their
instances (R96), which leaves a state without frames as it is. That the next move is plain data in the agenda, and that
an empty agenda changes nothing, is the model's (log 3). -/
def Obligations.StepRunsDecoded : Prop :=
  (∀ s : State, s.agenda = [] → step s = .next s) ∧
  (∀ (s t : State) (c e n : Nat) (f g : Firing) (k : Core) (o : OpIn) (i : Instr) (bs : List Byte) (rest : List Move),
    s.agenda = .issue c e :: rest → s.clockStopped c = false → s.handovers = [] → (s.core c).frozen = false →
    (s.core c).issueHead e = some (n, f) → f.rep = none →
    (k, g) = { s.core c with issueQ := delAt (s.core c).issueQ n }.stamp { f with heldAt := none } →
    t = ({ s with agenda := rest }).setCore c k → t.opIn c g = some o → g.fbBad i = none →
    decode (o.m.slotBytes f.slot) = .ok (i, bs) → i.wellFormed = true →
    ((f.slot = 0 ∨ ∀ h m stride, o.m.fetch (f.slot - 1) ≠ some (.rep h m stride)) →
      step s = settled (exec i { t with firing := some (c, g) })) ∧
    (∀ h m stride, f.slot ≠ 0 → o.m.fetch (f.slot - 1) = some (.rep h m stride) → m ≠ 0 →
      step s = settled (exec i { t with firing := some (c, { g with rep := some (RepState.mk m.toNat stride.toNat m.toNat) }) }))) ∧
  (∀ (s t : State) (c n : Nat) (hd : Held) (g : Firing) (o : OpIn) (i : Instr) (bs : List Byte) (rest : List Move),
    s.agenda = .retry c n :: rest → s.clockStopped c = false → s.handovers = [] → (s.core c).frozen = false →
    (s.core c).held[n]? = some hd → hd.wait = .flight ∨ hd.wait = .earlier →
    t = ({ s with agenda := rest }).takeHeld c n → g = { hd.firing with heldAt := some n } → t.opIn c g = some o →
    g.fbBad i = none → decode (o.m.slotBytes g.slot) = .ok (i, bs) → i.wellFormed = true → g.slot = 0 → g.rep = none →
    step s = settled (exec i { t with firing := some (c, g) })) ∧
  (∀ (s : State) (i : Instr) (rest : List Move), s.agenda = .event i :: rest → i.opWord? = none →
    (s.handovers = [] ∨ ∃ r, i = .handoverRetry r) →
    (∀ c, coreOfEvent i = some c → s.clockStopped c = false) → step s = settled (exec i { s with agenda := rest })) ∧
  (∀ (s : State) (m : Move) (rest : List Move), s.agenda = m :: rest →
    (∃ c, m.core? = some c ∧ s.clockStopped c = true) ∨ (s.handovers ≠ [] ∧ ∀ r, m ≠ .event (.handoverRetry r)) →
    step s = .next ({ s with agenda := rest } : State).syncFrames) ∧
  (∀ t : State, (∀ p ∈ t.cores, ∀ i ∈ p.2.instances, i.frame = none) → t.syncFrames = t)

/-- What reset leaves, by the reset values that the spec gives the device's registers and a core's, and that every
memory is then in its canonical form. Memory's own contents are the model's (log 1). -/
def Obligations.ResetState : Prop :=
  State.reset.memOk = true ∧ State.reset.power.capw = 0x3A98 ∧ State.reset.power.episodes = 0 ∧
  State.reset.raceLimit = 0x03C0 ∧ State.reset.raceBase = 0x00F00000 ∧ State.reset.launches = [] ∧
  (∀ p, (State.reset.part p).en = false ∧ (State.reset.part p).granules = 0 ∧ (State.reset.part p).ageus = 0x64 ∧
    (State.reset.part p).supvec = 0) ∧
  (∀ n, (State.reset.port n).retired = false ∧ (State.reset.port n).lasting = 0) ∧
  (∀ c, (State.reset.core c).placed = none ∧ (State.reset.core c).instances = [] ∧
    (State.reset.core c).regs.colLimit = 0x3FE ∧ (State.reset.core c).regs.admitAge = 0x0400 ∧
    (State.reset.core c).regs.stallwd = 0x00100000 ∧ (State.reset.core c).regs.arbto = 0x01000000 ∧
    (State.reset.core c).regs.drainmax = 0x1000 ∧ (State.reset.core c).regs.poolCount = 8 ∧
    (State.reset.core c).regs.poolBase = 0x1B8 ∧ (State.reset.core c).regs.traparea = 0x36F ∧
    (State.reset.core c).regs.trapSeq = 0 ∧ (State.reset.core c).regs.atomLock = true)

/-- Every step keeps every memory in its canonical form: physical memory, the recovery window, each scratchpad, and
the scratchpads that images keep. -/
def Obligations.MemOkKept : Prop :=
  ∀ s t : State, s.memOk = true → step s = .next t → t.memOk = true

end
end

