-- ==== Sys2Proof/Laws/Mem.lean ====
section
/-! SUPPORT. Memory: a read after a write, and that every operation keeps the canonical form. -/

namespace Sys2Proof.Machine

open Sys2Proof

theorem memWfFrom_weaken (m : List Host.Cell) (a b : Nat) (h : a ≤ b) (w : memWfFrom b m = true) :
    memWfFrom a m = true := by
  cases m with
  | nil => rfl
  | cons p r =>
    obtain ⟨k, v⟩ := p
    simp only [memWfFrom, Bool.and_eq_true, decide_eq_true_eq] at *
    exact ⟨⟨by omega, w.1.2⟩, w.2⟩

theorem memWfFrom_memSet (m : List Host.Cell) (lo a : Nat) (v : Byte) (h : lo ≤ a)
    (w : memWfFrom lo m = true) : memWfFrom lo (memSet m a v) = true := by
  induction m generalizing lo with
  | nil => by_cases hv : v = 0#8 <;> simp [memSet, memWfFrom, hv, h]
  | cons p r ih =>
    obtain ⟨k, x⟩ := p
    simp only [memWfFrom, Bool.and_eq_true, decide_eq_true_eq] at w
    obtain ⟨⟨hk, hx⟩, hr⟩ := w
    simp only [memSet]
    by_cases h1 : k = a
    · subst h1
      by_cases hv : v = 0#8
      · simpa [hv] using memWfFrom_weaken r lo (k + 1) (by omega) hr
      · simp [memWfFrom, hv, h, hr]
    · by_cases h2 : a < k
      · by_cases hv : v = 0#8
        · simp [h1, h2, hv, memWfFrom, hk, hr]
          simpa using hx
        · have h3 : a + 1 ≤ k := by omega
          simp [h1, h2, hv, memWfFrom, h, h3, hr]
          simpa using hx
      · simp only [h1, h2, if_false, memWfFrom, Bool.and_eq_true, decide_eq_true_eq]
        exact ⟨⟨hk, hx⟩, ih (k + 1) (by omega) hr⟩

/-- A byte written keeps the canonical form. -/
theorem Memory.wf_memSet (m : List Host.Cell) (a : Nat) (v : Byte) (w : Memory.wf m = true) :
    Memory.wf (memSet m a v) = true := memWfFrom_memSet m 0 a v (Nat.zero_le a) w

/-- Bytes written keep the canonical form. -/
theorem Memory.wf_memWrite (m : List Host.Cell) (a : Nat) (bs : List Byte) (w : Memory.wf m = true) :
    Memory.wf (memWrite m a bs) = true := by
  induction bs generalizing m a with
  | nil => exact w
  | cons b r ih => exact ih _ _ (Memory.wf_memSet m a b w)

theorem memWfFrom_filter (p : Host.Cell → Bool) (m : List Host.Cell) (lo : Nat) (w : memWfFrom lo m = true) :
    memWfFrom lo (m.filter p) = true := by
  induction m generalizing lo with
  | nil => rfl
  | cons q r ih =>
    obtain ⟨k, v⟩ := q
    simp only [memWfFrom, Bool.and_eq_true, decide_eq_true_eq] at w
    by_cases hp : p (k, v) = true
    · simp only [List.filter_cons, hp, if_true, memWfFrom, Bool.and_eq_true, decide_eq_true_eq]
      exact ⟨w.1, ih _ w.2⟩
    · simp only [List.filter_cons, hp]
      exact memWfFrom_weaken _ lo (k + 1) (by omega) (ih _ w.2)

/-- A range cleared keeps the canonical form. -/
theorem Memory.wf_memClear (m : List Host.Cell) (lo hi : Nat) (w : Memory.wf m = true) :
    Memory.wf (memClear m lo hi) = true := memWfFrom_filter _ m 0 w

theorem memByte_below (m : List Host.Cell) (lo a : Nat) (w : memWfFrom lo m = true) (h : a < lo) :
    memByte m a = 0 := by
  cases m with
  | nil => rfl
  | cons p r =>
    obtain ⟨k, v⟩ := p
    simp only [memWfFrom, Bool.and_eq_true, decide_eq_true_eq] at w
    have h1 : k ≠ a := by omega
    have h2 : a < k := by omega
    simp [memByte, h1, h2]

theorem memByte_memSet_from (m : List Host.Cell) (lo a b : Nat) (v : Byte) (w : memWfFrom lo m = true) :
    memByte (memSet m a v) b = if b = a then v else memByte m b := by
  induction m generalizing lo with
  | nil =>
    by_cases hb : b = a
    · subst hb
      by_cases hv : v = 0#8 <;> simp [memSet, memByte, hv]
    · by_cases hv : v = 0#8 <;> simp [memSet, memByte, hv, hb, Ne.symm hb]
  | cons p r ih =>
    obtain ⟨k, x⟩ := p
    simp only [memWfFrom, Bool.and_eq_true, decide_eq_true_eq] at w
    have hr := w.2
    by_cases h1 : k = a
    · subst h1
      by_cases hv : v = 0#8
      · subst hv
        by_cases hb : b = k
        · subst hb
          simp [memSet, memByte_below r (b + 1) b hr (by omega)]
        · by_cases hl : b < k
          · simp [memSet, memByte, hb, Ne.symm hb, hl, memByte_below r (k + 1) b hr (by omega)]
          · simp [memSet, memByte, hb, Ne.symm hb, hl]
      · by_cases hb : b = k
        · subst hb; simp [memSet, memByte, hv]
        · simp [memSet, memByte, hv, hb, Ne.symm hb]
    · by_cases h2 : a < k
      · by_cases hv : v = 0#8
        · subst hv
          by_cases hb : b = a
          · subst hb
            simp [memSet, memByte, h1, h2]
          · simp [memSet, h1, h2, hb]
        · by_cases hb : b = a
          · subst hb; simp [memSet, memByte, h1, h2, hv]
          · by_cases hl : b < a
            · have h3 : k ≠ b := by omega
              have h4 : b < k := by omega
              simp [memSet, memByte, h1, h2, hv, hb, Ne.symm hb, hl, h3, h4]
            · simp [memSet, memByte, h1, h2, hv, hb, Ne.symm hb, hl]
      · by_cases hk : k = b
        · subst hk
          simp [memSet, memByte, h1, h2]
        · by_cases hl : b < k
          · have hb : b ≠ a := by omega
            simp [memSet, memByte, h1, h2, hk, hl, hb]
          · simp [memSet, memByte, h1, h2, hk, hl, ih _ hr]

/-- A read after a write of one byte. -/
theorem memByte_memSet (m : List Host.Cell) (a b : Nat) (v : Byte) (w : Memory.wf m = true) :
    memByte (memSet m a v) b = if b = a then v else memByte m b := memByte_memSet_from m 0 a b v w

/-- A byte outside the bytes written is unchanged. -/
theorem memByte_memWrite_other (m : List Host.Cell) (a b : Nat) (bs : List Byte) (w : Memory.wf m = true)
    (h : b < a ∨ a + bs.length ≤ b) : memByte (memWrite m a bs) b = memByte m b := by
  induction bs generalizing m a with
  | nil => rfl
  | cons x r ih =>
    simp only [List.length_cons] at h
    have hb : b ≠ a := by omega
    rw [memWrite, ih _ _ (Memory.wf_memSet m a x w) (by omega), memByte_memSet m a b x w]
    simp [hb]

/-- A byte among the bytes written reads as written. -/
theorem memByte_memWrite_same (m : List Host.Cell) (a i : Nat) (bs : List Byte) (w : Memory.wf m = true)
    (h : i < bs.length) : memByte (memWrite m a bs) (a + i) = bs[i] := by
  induction bs generalizing m a i with
  | nil => simp at h
  | cons x r ih =>
    cases i with
    | zero =>
      rw [memWrite, memByte_memWrite_other _ _ _ _ (Memory.wf_memSet m a x w) (by omega),
        memByte_memSet m a _ x w]
      simp
    | succ j =>
      have hj : j < r.length := by simpa using h
      have e : a + (j + 1) = a + 1 + j := by omega
      rw [memWrite, e, ih _ _ _ (Memory.wf_memSet m a x w) hj]
      simp

@[simp] theorem length_memRead (m : List Host.Cell) (a n : Nat) : (memRead m a n).length = n := by
  induction n generalizing a with
  | zero => rfl
  | succ n ih => simp [memRead, ih]

end Sys2Proof.Machine
end

