-- ==== Sys2Proof/Laws/State.lean ====
section
/-! SUPPORT. What each update of the state leaves as it was, field by field, and what reading a part after
an update gives. -/

namespace Sys2Proof.Machine

open Sys2Proof

/-! ### Association lists -/

@[simp] theorem aget_aset_same {α : Type} (d : α) (l : List (Nat × α)) (i : Nat) (v : α) :
    aget d (aset l i v) i = v := by
  induction l with
  | nil => simp [aset, aget]
  | cons p r ih =>
    obtain ⟨k, w⟩ := p
    by_cases h : k = i <;> simp [aset, aget, h, ih]

theorem aget_aset_other {α : Type} (d : α) (l : List (Nat × α)) (i j : Nat) (v : α) (h : j ≠ i) :
    aget d (aset l i v) j = aget d l j := by
  induction l with
  | nil => simp [aset, aget, Ne.symm h]
  | cons p r ih =>
    obtain ⟨k, w⟩ := p
    by_cases hk : k = i
    · subst hk; simp [aset, aget, Ne.symm h]
    · by_cases hj : k = j
      · subst hj; simp [aset, aget, hk]
      · simp [aset, aget, hk, hj, ih]

theorem aset_aset {α : Type} (l : List (Nat × α)) (i : Nat) (v w : α) : aset (aset l i v) i w = aset l i w := by
  induction l with
  | nil => simp [aset]
  | cons p r ih =>
    obtain ⟨k, x⟩ := p
    by_cases h : k = i <;> simp [aset, h, ih]

/-! ### Reading a part after an update -/

@[simp] theorem State.core_setCore_same (s : State) (c : Nat) (k : Core) : (s.setCore c k).core c = k := by
  simp [State.core, State.setCore]

theorem State.core_setCore_other (s : State) (c d : Nat) (k : Core) (h : d ≠ c) :
    (s.setCore c k).core d = s.core d := by
  simp [State.core, State.setCore, aget_aset_other _ _ _ _ _ h]

@[simp] theorem State.core_modCore_same (s : State) (c : Nat) (f : Core → Core) :
    (s.modCore c f).core c = f (s.core c) := by simp [State.modCore]

theorem State.core_modCore_other (s : State) (c d : Nat) (f : Core → Core) (h : d ≠ c) :
    (s.modCore c f).core d = s.core d := by simp [State.modCore, State.core_setCore_other _ _ _ _ h]

theorem State.modCore_modCore (s : State) (c : Nat) (f g : Core → Core) :
    (s.modCore c f).modCore c g = s.modCore c (fun k => g (f k)) := by
  simp [State.modCore, State.core, State.setCore, aset_aset]

@[simp] theorem State.part_modPart_same (s : State) (p : Nat) (f : Part → Part) :
    (s.modPart p f).part p = f (s.part p) := by simp [State.part, State.modPart]

theorem State.part_modPart_other (s : State) (p q : Nat) (f : Part → Part) (h : q ≠ p) :
    (s.modPart p f).part q = s.part q := by simp [State.part, State.modPart, aget_aset_other _ _ _ _ _ h]

@[simp] theorem State.fq_modFq_same (s : State) (i : Nat) (f : FaultQ → FaultQ) :
    (s.modFq i f).fq i = f (s.fq i) := by simp [State.fq, State.modFq]

theorem State.fq_modFq_other (s : State) (i j : Nat) (f : FaultQ → FaultQ) (h : j ≠ i) :
    (s.modFq i f).fq j = s.fq j := by simp [State.fq, State.modFq, aget_aset_other _ _ _ _ _ h]

@[simp] theorem State.port_modPort_same (s : State) (n : Nat) (f : Port → Port) :
    (s.modPort n f).port n = f (s.port n) := by simp [State.port, State.modPort]

theorem State.port_modPort_other (s : State) (n m : Nat) (f : Port → Port) (h : m ≠ n) :
    (s.modPort n f).port m = s.port m := by simp [State.port, State.modPort, aget_aset_other _ _ _ _ _ h]

/-! ### A core replaced -/

@[simp] theorem State.setCore_power (s : State) (c : Nat) (k : Core) : (s.setCore c k).power = s.power := rfl
@[simp] theorem State.setCore_fw (s : State) (c : Nat) (k : Core) : (s.setCore c k).fw = s.fw := rfl
@[simp] theorem State.setCore_attest (s : State) (c : Nat) (k : Core) : (s.setCore c k).attest = s.attest := rfl
@[simp] theorem State.setCore_ports (s : State) (c : Nat) (k : Core) : (s.setCore c k).ports = s.ports := rfl
@[simp] theorem State.setCore_routes (s : State) (c : Nat) (k : Core) : (s.setCore c k).routes = s.routes := rfl
@[simp] theorem State.setCore_undel (s : State) (c : Nat) (k : Core) : (s.setCore c k).undel = s.undel := rfl
@[simp] theorem State.setCore_owrites (s : State) (c : Nat) (k : Core) : (s.setCore c k).owrites = s.owrites := rfl
@[simp] theorem State.setCore_nextOw (s : State) (c : Nat) (k : Core) : (s.setCore c k).nextOw = s.nextOw := rfl
@[simp] theorem State.setCore_asks (s : State) (c : Nat) (k : Core) : (s.setCore c k).asks = s.asks := rfl
@[simp] theorem State.setCore_nextParcel (s : State) (c : Nat) (k : Core) : (s.setCore c k).nextParcel = s.nextParcel := rfl
@[simp] theorem State.setCore_nextTurn (s : State) (c : Nat) (k : Core) : (s.setCore c k).nextTurn = s.nextTurn := rfl
@[simp] theorem State.setCore_sent (s : State) (c : Nat) (k : Core) : (s.setCore c k).sent = s.sent := rfl
@[simp] theorem State.setCore_delivered (s : State) (c : Nat) (k : Core) : (s.setCore c k).delivered = s.delivered := rfl
@[simp] theorem State.setCore_handovers (s : State) (c : Nat) (k : Core) : (s.setCore c k).handovers = s.handovers := rfl
@[simp] theorem State.setCore_handTrans (s : State) (c : Nat) (k : Core) : (s.setCore c k).handTrans = s.handTrans := rfl
@[simp] theorem State.setCore_parts (s : State) (c : Nat) (k : Core) : (s.setCore c k).parts = s.parts := rfl
@[simp] theorem State.setCore_owner (s : State) (c : Nat) (k : Core) : (s.setCore c k).owner = s.owner := rfl
@[simp] theorem State.setCore_retired (s : State) (c : Nat) (k : Core) : (s.setCore c k).retired = s.retired := rfl
@[simp] theorem State.setCore_retiring (s : State) (c : Nat) (k : Core) : (s.setCore c k).retiring = s.retiring := rfl
@[simp] theorem State.setCore_retCore (s : State) (c : Nat) (k : Core) : (s.setCore c k).retCore = s.retCore := rfl
@[simp] theorem State.setCore_fqs (s : State) (c : Nat) (k : Core) : (s.setCore c k).fqs = s.fqs := rfl
@[simp] theorem State.setCore_withheld (s : State) (c : Nat) (k : Core) : (s.setCore c k).withheld = s.withheld := rfl
@[simp] theorem State.setCore_outstanding (s : State) (c : Nat) (k : Core) : (s.setCore c k).outstanding = s.outstanding := rfl
@[simp] theorem State.setCore_nextFault (s : State) (c : Nat) (k : Core) : (s.setCore c k).nextFault = s.nextFault := rfl
@[simp] theorem State.setCore_raceLimit (s : State) (c : Nat) (k : Core) : (s.setCore c k).raceLimit = s.raceLimit := rfl
@[simp] theorem State.setCore_raceBase (s : State) (c : Nat) (k : Core) : (s.setCore c k).raceBase = s.raceBase := rfl
@[simp] theorem State.setCore_scopes (s : State) (c : Nat) (k : Core) : (s.setCore c k).scopes = s.scopes := rfl
@[simp] theorem State.setCore_stkerr (s : State) (c : Nat) (k : Core) : (s.setCore c k).stkerr = s.stkerr := rfl
@[simp] theorem State.setCore_ingress (s : State) (c : Nat) (k : Core) : (s.setCore c k).ingress = s.ingress := rfl
@[simp] theorem State.setCore_launches (s : State) (c : Nat) (k : Core) : (s.setCore c k).launches = s.launches := rfl
@[simp] theorem State.setCore_nextLid (s : State) (c : Nat) (k : Core) : (s.setCore c k).nextLid = s.nextLid := rfl
@[simp] theorem State.setCore_mem (s : State) (c : Nat) (k : Core) : (s.setCore c k).mem = s.mem := rfl
@[simp] theorem State.setCore_memPoison (s : State) (c : Nat) (k : Core) : (s.setCore c k).memPoison = s.memPoison := rfl
@[simp] theorem State.setCore_torn (s : State) (c : Nat) (k : Core) : (s.setCore c k).torn = s.torn := rfl
@[simp] theorem State.setCore_memRecs (s : State) (c : Nat) (k : Core) : (s.setCore c k).memRecs = s.memRecs := rfl
@[simp] theorem State.setCore_epochs (s : State) (c : Nat) (k : Core) : (s.setCore c k).epochs = s.epochs := rfl
@[simp] theorem State.setCore_acquired (s : State) (c : Nat) (k : Core) : (s.setCore c k).acquired = s.acquired := rfl
@[simp] theorem State.setCore_collAcq (s : State) (c : Nat) (k : Core) : (s.setCore c k).collAcq = s.collAcq := rfl
@[simp] theorem State.setCore_stores (s : State) (c : Nat) (k : Core) : (s.setCore c k).stores = s.stores := rfl
@[simp] theorem State.setCore_colls (s : State) (c : Nat) (k : Core) : (s.setCore c k).colls = s.colls := rfl
@[simp] theorem State.setCore_absent (s : State) (c : Nat) (k : Core) : (s.setCore c k).absent = s.absent := rfl
@[simp] theorem State.setCore_images (s : State) (c : Nat) (k : Core) : (s.setCore c k).images = s.images := rfl
@[simp] theorem State.setCore_hostOut (s : State) (c : Nat) (k : Core) : (s.setCore c k).hostOut = s.hostOut := rfl
@[simp] theorem State.setCore_agenda (s : State) (c : Nat) (k : Core) : (s.setCore c k).agenda = s.agenda := rfl
@[simp] theorem State.setCore_firing (s : State) (c : Nat) (k : Core) : (s.setCore c k).firing = s.firing := rfl
@[simp] theorem State.setCore_freeCtr (s : State) (c : Nat) (k : Core) : (s.setCore c k).freeCtr = s.freeCtr := rfl

/-! ### A core changed -/

@[simp] theorem State.modCore_power (s : State) (c : Nat) (f : Core → Core) : (s.modCore c f).power = s.power := rfl
@[simp] theorem State.modCore_fw (s : State) (c : Nat) (f : Core → Core) : (s.modCore c f).fw = s.fw := rfl
@[simp] theorem State.modCore_attest (s : State) (c : Nat) (f : Core → Core) : (s.modCore c f).attest = s.attest := rfl
@[simp] theorem State.modCore_ports (s : State) (c : Nat) (f : Core → Core) : (s.modCore c f).ports = s.ports := rfl
@[simp] theorem State.modCore_routes (s : State) (c : Nat) (f : Core → Core) : (s.modCore c f).routes = s.routes := rfl
@[simp] theorem State.modCore_undel (s : State) (c : Nat) (f : Core → Core) : (s.modCore c f).undel = s.undel := rfl
@[simp] theorem State.modCore_owrites (s : State) (c : Nat) (f : Core → Core) : (s.modCore c f).owrites = s.owrites := rfl
@[simp] theorem State.modCore_nextOw (s : State) (c : Nat) (f : Core → Core) : (s.modCore c f).nextOw = s.nextOw := rfl
@[simp] theorem State.modCore_asks (s : State) (c : Nat) (f : Core → Core) : (s.modCore c f).asks = s.asks := rfl
@[simp] theorem State.modCore_nextParcel (s : State) (c : Nat) (f : Core → Core) : (s.modCore c f).nextParcel = s.nextParcel := rfl
@[simp] theorem State.modCore_nextTurn (s : State) (c : Nat) (f : Core → Core) : (s.modCore c f).nextTurn = s.nextTurn := rfl
@[simp] theorem State.modCore_sent (s : State) (c : Nat) (f : Core → Core) : (s.modCore c f).sent = s.sent := rfl
@[simp] theorem State.modCore_delivered (s : State) (c : Nat) (f : Core → Core) : (s.modCore c f).delivered = s.delivered := rfl
@[simp] theorem State.modCore_handovers (s : State) (c : Nat) (f : Core → Core) : (s.modCore c f).handovers = s.handovers := rfl
@[simp] theorem State.modCore_handTrans (s : State) (c : Nat) (f : Core → Core) : (s.modCore c f).handTrans = s.handTrans := rfl
@[simp] theorem State.modCore_parts (s : State) (c : Nat) (f : Core → Core) : (s.modCore c f).parts = s.parts := rfl
@[simp] theorem State.modCore_owner (s : State) (c : Nat) (f : Core → Core) : (s.modCore c f).owner = s.owner := rfl
@[simp] theorem State.modCore_retired (s : State) (c : Nat) (f : Core → Core) : (s.modCore c f).retired = s.retired := rfl
@[simp] theorem State.modCore_retiring (s : State) (c : Nat) (f : Core → Core) : (s.modCore c f).retiring = s.retiring := rfl
@[simp] theorem State.modCore_retCore (s : State) (c : Nat) (f : Core → Core) : (s.modCore c f).retCore = s.retCore := rfl
@[simp] theorem State.modCore_fqs (s : State) (c : Nat) (f : Core → Core) : (s.modCore c f).fqs = s.fqs := rfl
@[simp] theorem State.modCore_withheld (s : State) (c : Nat) (f : Core → Core) : (s.modCore c f).withheld = s.withheld := rfl
@[simp] theorem State.modCore_outstanding (s : State) (c : Nat) (f : Core → Core) : (s.modCore c f).outstanding = s.outstanding := rfl
@[simp] theorem State.modCore_nextFault (s : State) (c : Nat) (f : Core → Core) : (s.modCore c f).nextFault = s.nextFault := rfl
@[simp] theorem State.modCore_raceLimit (s : State) (c : Nat) (f : Core → Core) : (s.modCore c f).raceLimit = s.raceLimit := rfl
@[simp] theorem State.modCore_raceBase (s : State) (c : Nat) (f : Core → Core) : (s.modCore c f).raceBase = s.raceBase := rfl
@[simp] theorem State.modCore_scopes (s : State) (c : Nat) (f : Core → Core) : (s.modCore c f).scopes = s.scopes := rfl
@[simp] theorem State.modCore_stkerr (s : State) (c : Nat) (f : Core → Core) : (s.modCore c f).stkerr = s.stkerr := rfl
@[simp] theorem State.modCore_ingress (s : State) (c : Nat) (f : Core → Core) : (s.modCore c f).ingress = s.ingress := rfl
@[simp] theorem State.modCore_launches (s : State) (c : Nat) (f : Core → Core) : (s.modCore c f).launches = s.launches := rfl
@[simp] theorem State.modCore_nextLid (s : State) (c : Nat) (f : Core → Core) : (s.modCore c f).nextLid = s.nextLid := rfl
@[simp] theorem State.modCore_mem (s : State) (c : Nat) (f : Core → Core) : (s.modCore c f).mem = s.mem := rfl
@[simp] theorem State.modCore_memPoison (s : State) (c : Nat) (f : Core → Core) : (s.modCore c f).memPoison = s.memPoison := rfl
@[simp] theorem State.modCore_torn (s : State) (c : Nat) (f : Core → Core) : (s.modCore c f).torn = s.torn := rfl
@[simp] theorem State.modCore_memRecs (s : State) (c : Nat) (f : Core → Core) : (s.modCore c f).memRecs = s.memRecs := rfl
@[simp] theorem State.modCore_epochs (s : State) (c : Nat) (f : Core → Core) : (s.modCore c f).epochs = s.epochs := rfl
@[simp] theorem State.modCore_acquired (s : State) (c : Nat) (f : Core → Core) : (s.modCore c f).acquired = s.acquired := rfl
@[simp] theorem State.modCore_collAcq (s : State) (c : Nat) (f : Core → Core) : (s.modCore c f).collAcq = s.collAcq := rfl
@[simp] theorem State.modCore_stores (s : State) (c : Nat) (f : Core → Core) : (s.modCore c f).stores = s.stores := rfl
@[simp] theorem State.modCore_colls (s : State) (c : Nat) (f : Core → Core) : (s.modCore c f).colls = s.colls := rfl
@[simp] theorem State.modCore_absent (s : State) (c : Nat) (f : Core → Core) : (s.modCore c f).absent = s.absent := rfl
@[simp] theorem State.modCore_images (s : State) (c : Nat) (f : Core → Core) : (s.modCore c f).images = s.images := rfl
@[simp] theorem State.modCore_hostOut (s : State) (c : Nat) (f : Core → Core) : (s.modCore c f).hostOut = s.hostOut := rfl
@[simp] theorem State.modCore_agenda (s : State) (c : Nat) (f : Core → Core) : (s.modCore c f).agenda = s.agenda := rfl
@[simp] theorem State.modCore_firing (s : State) (c : Nat) (f : Core → Core) : (s.modCore c f).firing = s.firing := rfl
@[simp] theorem State.modCore_freeCtr (s : State) (c : Nat) (f : Core → Core) : (s.modCore c f).freeCtr = s.freeCtr := rfl

/-! ### A partition changed -/

@[simp] theorem State.modPart_power (s : State) (p : Nat) (f : Part → Part) : (s.modPart p f).power = s.power := rfl
@[simp] theorem State.modPart_fw (s : State) (p : Nat) (f : Part → Part) : (s.modPart p f).fw = s.fw := rfl
@[simp] theorem State.modPart_attest (s : State) (p : Nat) (f : Part → Part) : (s.modPart p f).attest = s.attest := rfl
@[simp] theorem State.modPart_ports (s : State) (p : Nat) (f : Part → Part) : (s.modPart p f).ports = s.ports := rfl
@[simp] theorem State.modPart_routes (s : State) (p : Nat) (f : Part → Part) : (s.modPart p f).routes = s.routes := rfl
@[simp] theorem State.modPart_undel (s : State) (p : Nat) (f : Part → Part) : (s.modPart p f).undel = s.undel := rfl
@[simp] theorem State.modPart_owrites (s : State) (p : Nat) (f : Part → Part) : (s.modPart p f).owrites = s.owrites := rfl
@[simp] theorem State.modPart_nextOw (s : State) (p : Nat) (f : Part → Part) : (s.modPart p f).nextOw = s.nextOw := rfl
@[simp] theorem State.modPart_asks (s : State) (p : Nat) (f : Part → Part) : (s.modPart p f).asks = s.asks := rfl
@[simp] theorem State.modPart_nextParcel (s : State) (p : Nat) (f : Part → Part) : (s.modPart p f).nextParcel = s.nextParcel := rfl
@[simp] theorem State.modPart_nextTurn (s : State) (p : Nat) (f : Part → Part) : (s.modPart p f).nextTurn = s.nextTurn := rfl
@[simp] theorem State.modPart_sent (s : State) (p : Nat) (f : Part → Part) : (s.modPart p f).sent = s.sent := rfl
@[simp] theorem State.modPart_delivered (s : State) (p : Nat) (f : Part → Part) : (s.modPart p f).delivered = s.delivered := rfl
@[simp] theorem State.modPart_handovers (s : State) (p : Nat) (f : Part → Part) : (s.modPart p f).handovers = s.handovers := rfl
@[simp] theorem State.modPart_handTrans (s : State) (p : Nat) (f : Part → Part) : (s.modPart p f).handTrans = s.handTrans := rfl
@[simp] theorem State.modPart_owner (s : State) (p : Nat) (f : Part → Part) : (s.modPart p f).owner = s.owner := rfl
@[simp] theorem State.modPart_retired (s : State) (p : Nat) (f : Part → Part) : (s.modPart p f).retired = s.retired := rfl
@[simp] theorem State.modPart_retiring (s : State) (p : Nat) (f : Part → Part) : (s.modPart p f).retiring = s.retiring := rfl
@[simp] theorem State.modPart_retCore (s : State) (p : Nat) (f : Part → Part) : (s.modPart p f).retCore = s.retCore := rfl
@[simp] theorem State.modPart_fqs (s : State) (p : Nat) (f : Part → Part) : (s.modPart p f).fqs = s.fqs := rfl
@[simp] theorem State.modPart_withheld (s : State) (p : Nat) (f : Part → Part) : (s.modPart p f).withheld = s.withheld := rfl
@[simp] theorem State.modPart_outstanding (s : State) (p : Nat) (f : Part → Part) : (s.modPart p f).outstanding = s.outstanding := rfl
@[simp] theorem State.modPart_nextFault (s : State) (p : Nat) (f : Part → Part) : (s.modPart p f).nextFault = s.nextFault := rfl
@[simp] theorem State.modPart_raceLimit (s : State) (p : Nat) (f : Part → Part) : (s.modPart p f).raceLimit = s.raceLimit := rfl
@[simp] theorem State.modPart_raceBase (s : State) (p : Nat) (f : Part → Part) : (s.modPart p f).raceBase = s.raceBase := rfl
@[simp] theorem State.modPart_scopes (s : State) (p : Nat) (f : Part → Part) : (s.modPart p f).scopes = s.scopes := rfl
@[simp] theorem State.modPart_stkerr (s : State) (p : Nat) (f : Part → Part) : (s.modPart p f).stkerr = s.stkerr := rfl
@[simp] theorem State.modPart_ingress (s : State) (p : Nat) (f : Part → Part) : (s.modPart p f).ingress = s.ingress := rfl
@[simp] theorem State.modPart_launches (s : State) (p : Nat) (f : Part → Part) : (s.modPart p f).launches = s.launches := rfl
@[simp] theorem State.modPart_nextLid (s : State) (p : Nat) (f : Part → Part) : (s.modPart p f).nextLid = s.nextLid := rfl
@[simp] theorem State.modPart_mem (s : State) (p : Nat) (f : Part → Part) : (s.modPart p f).mem = s.mem := rfl
@[simp] theorem State.modPart_memPoison (s : State) (p : Nat) (f : Part → Part) : (s.modPart p f).memPoison = s.memPoison := rfl
@[simp] theorem State.modPart_torn (s : State) (p : Nat) (f : Part → Part) : (s.modPart p f).torn = s.torn := rfl
@[simp] theorem State.modPart_memRecs (s : State) (p : Nat) (f : Part → Part) : (s.modPart p f).memRecs = s.memRecs := rfl
@[simp] theorem State.modPart_epochs (s : State) (p : Nat) (f : Part → Part) : (s.modPart p f).epochs = s.epochs := rfl
@[simp] theorem State.modPart_acquired (s : State) (p : Nat) (f : Part → Part) : (s.modPart p f).acquired = s.acquired := rfl
@[simp] theorem State.modPart_collAcq (s : State) (p : Nat) (f : Part → Part) : (s.modPart p f).collAcq = s.collAcq := rfl
@[simp] theorem State.modPart_stores (s : State) (p : Nat) (f : Part → Part) : (s.modPart p f).stores = s.stores := rfl
@[simp] theorem State.modPart_colls (s : State) (p : Nat) (f : Part → Part) : (s.modPart p f).colls = s.colls := rfl
@[simp] theorem State.modPart_absent (s : State) (p : Nat) (f : Part → Part) : (s.modPart p f).absent = s.absent := rfl
@[simp] theorem State.modPart_images (s : State) (p : Nat) (f : Part → Part) : (s.modPart p f).images = s.images := rfl
@[simp] theorem State.modPart_hostOut (s : State) (p : Nat) (f : Part → Part) : (s.modPart p f).hostOut = s.hostOut := rfl
@[simp] theorem State.modPart_cores (s : State) (p : Nat) (f : Part → Part) : (s.modPart p f).cores = s.cores := rfl
@[simp] theorem State.modPart_agenda (s : State) (p : Nat) (f : Part → Part) : (s.modPart p f).agenda = s.agenda := rfl
@[simp] theorem State.modPart_firing (s : State) (p : Nat) (f : Part → Part) : (s.modPart p f).firing = s.firing := rfl
@[simp] theorem State.modPart_freeCtr (s : State) (p : Nat) (f : Part → Part) : (s.modPart p f).freeCtr = s.freeCtr := rfl

/-! ### A fault queue changed -/

@[simp] theorem State.modFq_power (s : State) (i : Nat) (f : FaultQ → FaultQ) : (s.modFq i f).power = s.power := rfl
@[simp] theorem State.modFq_fw (s : State) (i : Nat) (f : FaultQ → FaultQ) : (s.modFq i f).fw = s.fw := rfl
@[simp] theorem State.modFq_attest (s : State) (i : Nat) (f : FaultQ → FaultQ) : (s.modFq i f).attest = s.attest := rfl
@[simp] theorem State.modFq_ports (s : State) (i : Nat) (f : FaultQ → FaultQ) : (s.modFq i f).ports = s.ports := rfl
@[simp] theorem State.modFq_routes (s : State) (i : Nat) (f : FaultQ → FaultQ) : (s.modFq i f).routes = s.routes := rfl
@[simp] theorem State.modFq_undel (s : State) (i : Nat) (f : FaultQ → FaultQ) : (s.modFq i f).undel = s.undel := rfl
@[simp] theorem State.modFq_owrites (s : State) (i : Nat) (f : FaultQ → FaultQ) : (s.modFq i f).owrites = s.owrites := rfl
@[simp] theorem State.modFq_nextOw (s : State) (i : Nat) (f : FaultQ → FaultQ) : (s.modFq i f).nextOw = s.nextOw := rfl
@[simp] theorem State.modFq_asks (s : State) (i : Nat) (f : FaultQ → FaultQ) : (s.modFq i f).asks = s.asks := rfl
@[simp] theorem State.modFq_nextParcel (s : State) (i : Nat) (f : FaultQ → FaultQ) : (s.modFq i f).nextParcel = s.nextParcel := rfl
@[simp] theorem State.modFq_nextTurn (s : State) (i : Nat) (f : FaultQ → FaultQ) : (s.modFq i f).nextTurn = s.nextTurn := rfl
@[simp] theorem State.modFq_sent (s : State) (i : Nat) (f : FaultQ → FaultQ) : (s.modFq i f).sent = s.sent := rfl
@[simp] theorem State.modFq_delivered (s : State) (i : Nat) (f : FaultQ → FaultQ) : (s.modFq i f).delivered = s.delivered := rfl
@[simp] theorem State.modFq_handovers (s : State) (i : Nat) (f : FaultQ → FaultQ) : (s.modFq i f).handovers = s.handovers := rfl
@[simp] theorem State.modFq_handTrans (s : State) (i : Nat) (f : FaultQ → FaultQ) : (s.modFq i f).handTrans = s.handTrans := rfl
@[simp] theorem State.modFq_parts (s : State) (i : Nat) (f : FaultQ → FaultQ) : (s.modFq i f).parts = s.parts := rfl
@[simp] theorem State.modFq_owner (s : State) (i : Nat) (f : FaultQ → FaultQ) : (s.modFq i f).owner = s.owner := rfl
@[simp] theorem State.modFq_retired (s : State) (i : Nat) (f : FaultQ → FaultQ) : (s.modFq i f).retired = s.retired := rfl
@[simp] theorem State.modFq_retiring (s : State) (i : Nat) (f : FaultQ → FaultQ) : (s.modFq i f).retiring = s.retiring := rfl
@[simp] theorem State.modFq_retCore (s : State) (i : Nat) (f : FaultQ → FaultQ) : (s.modFq i f).retCore = s.retCore := rfl
@[simp] theorem State.modFq_withheld (s : State) (i : Nat) (f : FaultQ → FaultQ) : (s.modFq i f).withheld = s.withheld := rfl
@[simp] theorem State.modFq_outstanding (s : State) (i : Nat) (f : FaultQ → FaultQ) : (s.modFq i f).outstanding = s.outstanding := rfl
@[simp] theorem State.modFq_nextFault (s : State) (i : Nat) (f : FaultQ → FaultQ) : (s.modFq i f).nextFault = s.nextFault := rfl
@[simp] theorem State.modFq_raceLimit (s : State) (i : Nat) (f : FaultQ → FaultQ) : (s.modFq i f).raceLimit = s.raceLimit := rfl
@[simp] theorem State.modFq_raceBase (s : State) (i : Nat) (f : FaultQ → FaultQ) : (s.modFq i f).raceBase = s.raceBase := rfl
@[simp] theorem State.modFq_scopes (s : State) (i : Nat) (f : FaultQ → FaultQ) : (s.modFq i f).scopes = s.scopes := rfl
@[simp] theorem State.modFq_stkerr (s : State) (i : Nat) (f : FaultQ → FaultQ) : (s.modFq i f).stkerr = s.stkerr := rfl
@[simp] theorem State.modFq_ingress (s : State) (i : Nat) (f : FaultQ → FaultQ) : (s.modFq i f).ingress = s.ingress := rfl
@[simp] theorem State.modFq_launches (s : State) (i : Nat) (f : FaultQ → FaultQ) : (s.modFq i f).launches = s.launches := rfl
@[simp] theorem State.modFq_nextLid (s : State) (i : Nat) (f : FaultQ → FaultQ) : (s.modFq i f).nextLid = s.nextLid := rfl
@[simp] theorem State.modFq_mem (s : State) (i : Nat) (f : FaultQ → FaultQ) : (s.modFq i f).mem = s.mem := rfl
@[simp] theorem State.modFq_memPoison (s : State) (i : Nat) (f : FaultQ → FaultQ) : (s.modFq i f).memPoison = s.memPoison := rfl
@[simp] theorem State.modFq_torn (s : State) (i : Nat) (f : FaultQ → FaultQ) : (s.modFq i f).torn = s.torn := rfl
@[simp] theorem State.modFq_memRecs (s : State) (i : Nat) (f : FaultQ → FaultQ) : (s.modFq i f).memRecs = s.memRecs := rfl
@[simp] theorem State.modFq_epochs (s : State) (i : Nat) (f : FaultQ → FaultQ) : (s.modFq i f).epochs = s.epochs := rfl
@[simp] theorem State.modFq_acquired (s : State) (i : Nat) (f : FaultQ → FaultQ) : (s.modFq i f).acquired = s.acquired := rfl
@[simp] theorem State.modFq_collAcq (s : State) (i : Nat) (f : FaultQ → FaultQ) : (s.modFq i f).collAcq = s.collAcq := rfl
@[simp] theorem State.modFq_stores (s : State) (i : Nat) (f : FaultQ → FaultQ) : (s.modFq i f).stores = s.stores := rfl
@[simp] theorem State.modFq_colls (s : State) (i : Nat) (f : FaultQ → FaultQ) : (s.modFq i f).colls = s.colls := rfl
@[simp] theorem State.modFq_absent (s : State) (i : Nat) (f : FaultQ → FaultQ) : (s.modFq i f).absent = s.absent := rfl
@[simp] theorem State.modFq_images (s : State) (i : Nat) (f : FaultQ → FaultQ) : (s.modFq i f).images = s.images := rfl
@[simp] theorem State.modFq_hostOut (s : State) (i : Nat) (f : FaultQ → FaultQ) : (s.modFq i f).hostOut = s.hostOut := rfl
@[simp] theorem State.modFq_cores (s : State) (i : Nat) (f : FaultQ → FaultQ) : (s.modFq i f).cores = s.cores := rfl
@[simp] theorem State.modFq_agenda (s : State) (i : Nat) (f : FaultQ → FaultQ) : (s.modFq i f).agenda = s.agenda := rfl
@[simp] theorem State.modFq_firing (s : State) (i : Nat) (f : FaultQ → FaultQ) : (s.modFq i f).firing = s.firing := rfl
@[simp] theorem State.modFq_freeCtr (s : State) (i : Nat) (f : FaultQ → FaultQ) : (s.modFq i f).freeCtr = s.freeCtr := rfl

/-! ### A port changed -/

@[simp] theorem State.modPort_power (s : State) (n : Nat) (f : Port → Port) : (s.modPort n f).power = s.power := rfl
@[simp] theorem State.modPort_fw (s : State) (n : Nat) (f : Port → Port) : (s.modPort n f).fw = s.fw := rfl
@[simp] theorem State.modPort_attest (s : State) (n : Nat) (f : Port → Port) : (s.modPort n f).attest = s.attest := rfl
@[simp] theorem State.modPort_routes (s : State) (n : Nat) (f : Port → Port) : (s.modPort n f).routes = s.routes := rfl
@[simp] theorem State.modPort_undel (s : State) (n : Nat) (f : Port → Port) : (s.modPort n f).undel = s.undel := rfl
@[simp] theorem State.modPort_owrites (s : State) (n : Nat) (f : Port → Port) : (s.modPort n f).owrites = s.owrites := rfl
@[simp] theorem State.modPort_nextOw (s : State) (n : Nat) (f : Port → Port) : (s.modPort n f).nextOw = s.nextOw := rfl
@[simp] theorem State.modPort_asks (s : State) (n : Nat) (f : Port → Port) : (s.modPort n f).asks = s.asks := rfl
@[simp] theorem State.modPort_nextParcel (s : State) (n : Nat) (f : Port → Port) : (s.modPort n f).nextParcel = s.nextParcel := rfl
@[simp] theorem State.modPort_nextTurn (s : State) (n : Nat) (f : Port → Port) : (s.modPort n f).nextTurn = s.nextTurn := rfl
@[simp] theorem State.modPort_sent (s : State) (n : Nat) (f : Port → Port) : (s.modPort n f).sent = s.sent := rfl
@[simp] theorem State.modPort_delivered (s : State) (n : Nat) (f : Port → Port) : (s.modPort n f).delivered = s.delivered := rfl
@[simp] theorem State.modPort_handovers (s : State) (n : Nat) (f : Port → Port) : (s.modPort n f).handovers = s.handovers := rfl
@[simp] theorem State.modPort_handTrans (s : State) (n : Nat) (f : Port → Port) : (s.modPort n f).handTrans = s.handTrans := rfl
@[simp] theorem State.modPort_parts (s : State) (n : Nat) (f : Port → Port) : (s.modPort n f).parts = s.parts := rfl
@[simp] theorem State.modPort_owner (s : State) (n : Nat) (f : Port → Port) : (s.modPort n f).owner = s.owner := rfl
@[simp] theorem State.modPort_retired (s : State) (n : Nat) (f : Port → Port) : (s.modPort n f).retired = s.retired := rfl
@[simp] theorem State.modPort_retiring (s : State) (n : Nat) (f : Port → Port) : (s.modPort n f).retiring = s.retiring := rfl
@[simp] theorem State.modPort_retCore (s : State) (n : Nat) (f : Port → Port) : (s.modPort n f).retCore = s.retCore := rfl
@[simp] theorem State.modPort_fqs (s : State) (n : Nat) (f : Port → Port) : (s.modPort n f).fqs = s.fqs := rfl
@[simp] theorem State.modPort_withheld (s : State) (n : Nat) (f : Port → Port) : (s.modPort n f).withheld = s.withheld := rfl
@[simp] theorem State.modPort_outstanding (s : State) (n : Nat) (f : Port → Port) : (s.modPort n f).outstanding = s.outstanding := rfl
@[simp] theorem State.modPort_nextFault (s : State) (n : Nat) (f : Port → Port) : (s.modPort n f).nextFault = s.nextFault := rfl
@[simp] theorem State.modPort_raceLimit (s : State) (n : Nat) (f : Port → Port) : (s.modPort n f).raceLimit = s.raceLimit := rfl
@[simp] theorem State.modPort_raceBase (s : State) (n : Nat) (f : Port → Port) : (s.modPort n f).raceBase = s.raceBase := rfl
@[simp] theorem State.modPort_scopes (s : State) (n : Nat) (f : Port → Port) : (s.modPort n f).scopes = s.scopes := rfl
@[simp] theorem State.modPort_stkerr (s : State) (n : Nat) (f : Port → Port) : (s.modPort n f).stkerr = s.stkerr := rfl
@[simp] theorem State.modPort_ingress (s : State) (n : Nat) (f : Port → Port) : (s.modPort n f).ingress = s.ingress := rfl
@[simp] theorem State.modPort_launches (s : State) (n : Nat) (f : Port → Port) : (s.modPort n f).launches = s.launches := rfl
@[simp] theorem State.modPort_nextLid (s : State) (n : Nat) (f : Port → Port) : (s.modPort n f).nextLid = s.nextLid := rfl
@[simp] theorem State.modPort_mem (s : State) (n : Nat) (f : Port → Port) : (s.modPort n f).mem = s.mem := rfl
@[simp] theorem State.modPort_memPoison (s : State) (n : Nat) (f : Port → Port) : (s.modPort n f).memPoison = s.memPoison := rfl
@[simp] theorem State.modPort_torn (s : State) (n : Nat) (f : Port → Port) : (s.modPort n f).torn = s.torn := rfl
@[simp] theorem State.modPort_memRecs (s : State) (n : Nat) (f : Port → Port) : (s.modPort n f).memRecs = s.memRecs := rfl
@[simp] theorem State.modPort_epochs (s : State) (n : Nat) (f : Port → Port) : (s.modPort n f).epochs = s.epochs := rfl
@[simp] theorem State.modPort_acquired (s : State) (n : Nat) (f : Port → Port) : (s.modPort n f).acquired = s.acquired := rfl
@[simp] theorem State.modPort_collAcq (s : State) (n : Nat) (f : Port → Port) : (s.modPort n f).collAcq = s.collAcq := rfl
@[simp] theorem State.modPort_stores (s : State) (n : Nat) (f : Port → Port) : (s.modPort n f).stores = s.stores := rfl
@[simp] theorem State.modPort_colls (s : State) (n : Nat) (f : Port → Port) : (s.modPort n f).colls = s.colls := rfl
@[simp] theorem State.modPort_absent (s : State) (n : Nat) (f : Port → Port) : (s.modPort n f).absent = s.absent := rfl
@[simp] theorem State.modPort_images (s : State) (n : Nat) (f : Port → Port) : (s.modPort n f).images = s.images := rfl
@[simp] theorem State.modPort_hostOut (s : State) (n : Nat) (f : Port → Port) : (s.modPort n f).hostOut = s.hostOut := rfl
@[simp] theorem State.modPort_cores (s : State) (n : Nat) (f : Port → Port) : (s.modPort n f).cores = s.cores := rfl
@[simp] theorem State.modPort_agenda (s : State) (n : Nat) (f : Port → Port) : (s.modPort n f).agenda = s.agenda := rfl
@[simp] theorem State.modPort_firing (s : State) (n : Nat) (f : Port → Port) : (s.modPort n f).firing = s.firing := rfl
@[simp] theorem State.modPort_freeCtr (s : State) (n : Nat) (f : Port → Port) : (s.modPort n f).freeCtr = s.freeCtr := rfl

/-! ### A launch changed -/

@[simp] theorem State.modLaunch_power (s : State) (l : Nat) (f : Launch → Launch) : (s.modLaunch l f).power = s.power := rfl
@[simp] theorem State.modLaunch_fw (s : State) (l : Nat) (f : Launch → Launch) : (s.modLaunch l f).fw = s.fw := rfl
@[simp] theorem State.modLaunch_attest (s : State) (l : Nat) (f : Launch → Launch) : (s.modLaunch l f).attest = s.attest := rfl
@[simp] theorem State.modLaunch_ports (s : State) (l : Nat) (f : Launch → Launch) : (s.modLaunch l f).ports = s.ports := rfl
@[simp] theorem State.modLaunch_routes (s : State) (l : Nat) (f : Launch → Launch) : (s.modLaunch l f).routes = s.routes := rfl
@[simp] theorem State.modLaunch_undel (s : State) (l : Nat) (f : Launch → Launch) : (s.modLaunch l f).undel = s.undel := rfl
@[simp] theorem State.modLaunch_owrites (s : State) (l : Nat) (f : Launch → Launch) : (s.modLaunch l f).owrites = s.owrites := rfl
@[simp] theorem State.modLaunch_nextOw (s : State) (l : Nat) (f : Launch → Launch) : (s.modLaunch l f).nextOw = s.nextOw := rfl
@[simp] theorem State.modLaunch_asks (s : State) (l : Nat) (f : Launch → Launch) : (s.modLaunch l f).asks = s.asks := rfl
@[simp] theorem State.modLaunch_nextParcel (s : State) (l : Nat) (f : Launch → Launch) : (s.modLaunch l f).nextParcel = s.nextParcel := rfl
@[simp] theorem State.modLaunch_nextTurn (s : State) (l : Nat) (f : Launch → Launch) : (s.modLaunch l f).nextTurn = s.nextTurn := rfl
@[simp] theorem State.modLaunch_sent (s : State) (l : Nat) (f : Launch → Launch) : (s.modLaunch l f).sent = s.sent := rfl
@[simp] theorem State.modLaunch_delivered (s : State) (l : Nat) (f : Launch → Launch) : (s.modLaunch l f).delivered = s.delivered := rfl
@[simp] theorem State.modLaunch_handovers (s : State) (l : Nat) (f : Launch → Launch) : (s.modLaunch l f).handovers = s.handovers := rfl
@[simp] theorem State.modLaunch_handTrans (s : State) (l : Nat) (f : Launch → Launch) : (s.modLaunch l f).handTrans = s.handTrans := rfl
@[simp] theorem State.modLaunch_parts (s : State) (l : Nat) (f : Launch → Launch) : (s.modLaunch l f).parts = s.parts := rfl
@[simp] theorem State.modLaunch_owner (s : State) (l : Nat) (f : Launch → Launch) : (s.modLaunch l f).owner = s.owner := rfl
@[simp] theorem State.modLaunch_retired (s : State) (l : Nat) (f : Launch → Launch) : (s.modLaunch l f).retired = s.retired := rfl
@[simp] theorem State.modLaunch_retiring (s : State) (l : Nat) (f : Launch → Launch) : (s.modLaunch l f).retiring = s.retiring := rfl
@[simp] theorem State.modLaunch_retCore (s : State) (l : Nat) (f : Launch → Launch) : (s.modLaunch l f).retCore = s.retCore := rfl
@[simp] theorem State.modLaunch_fqs (s : State) (l : Nat) (f : Launch → Launch) : (s.modLaunch l f).fqs = s.fqs := rfl
@[simp] theorem State.modLaunch_withheld (s : State) (l : Nat) (f : Launch → Launch) : (s.modLaunch l f).withheld = s.withheld := rfl
@[simp] theorem State.modLaunch_outstanding (s : State) (l : Nat) (f : Launch → Launch) : (s.modLaunch l f).outstanding = s.outstanding := rfl
@[simp] theorem State.modLaunch_nextFault (s : State) (l : Nat) (f : Launch → Launch) : (s.modLaunch l f).nextFault = s.nextFault := rfl
@[simp] theorem State.modLaunch_raceLimit (s : State) (l : Nat) (f : Launch → Launch) : (s.modLaunch l f).raceLimit = s.raceLimit := rfl
@[simp] theorem State.modLaunch_raceBase (s : State) (l : Nat) (f : Launch → Launch) : (s.modLaunch l f).raceBase = s.raceBase := rfl
@[simp] theorem State.modLaunch_scopes (s : State) (l : Nat) (f : Launch → Launch) : (s.modLaunch l f).scopes = s.scopes := rfl
@[simp] theorem State.modLaunch_stkerr (s : State) (l : Nat) (f : Launch → Launch) : (s.modLaunch l f).stkerr = s.stkerr := rfl
@[simp] theorem State.modLaunch_ingress (s : State) (l : Nat) (f : Launch → Launch) : (s.modLaunch l f).ingress = s.ingress := rfl
@[simp] theorem State.modLaunch_nextLid (s : State) (l : Nat) (f : Launch → Launch) : (s.modLaunch l f).nextLid = s.nextLid := rfl
@[simp] theorem State.modLaunch_mem (s : State) (l : Nat) (f : Launch → Launch) : (s.modLaunch l f).mem = s.mem := rfl
@[simp] theorem State.modLaunch_memPoison (s : State) (l : Nat) (f : Launch → Launch) : (s.modLaunch l f).memPoison = s.memPoison := rfl
@[simp] theorem State.modLaunch_torn (s : State) (l : Nat) (f : Launch → Launch) : (s.modLaunch l f).torn = s.torn := rfl
@[simp] theorem State.modLaunch_memRecs (s : State) (l : Nat) (f : Launch → Launch) : (s.modLaunch l f).memRecs = s.memRecs := rfl
@[simp] theorem State.modLaunch_epochs (s : State) (l : Nat) (f : Launch → Launch) : (s.modLaunch l f).epochs = s.epochs := rfl
@[simp] theorem State.modLaunch_acquired (s : State) (l : Nat) (f : Launch → Launch) : (s.modLaunch l f).acquired = s.acquired := rfl
@[simp] theorem State.modLaunch_collAcq (s : State) (l : Nat) (f : Launch → Launch) : (s.modLaunch l f).collAcq = s.collAcq := rfl
@[simp] theorem State.modLaunch_stores (s : State) (l : Nat) (f : Launch → Launch) : (s.modLaunch l f).stores = s.stores := rfl
@[simp] theorem State.modLaunch_colls (s : State) (l : Nat) (f : Launch → Launch) : (s.modLaunch l f).colls = s.colls := rfl
@[simp] theorem State.modLaunch_absent (s : State) (l : Nat) (f : Launch → Launch) : (s.modLaunch l f).absent = s.absent := rfl
@[simp] theorem State.modLaunch_images (s : State) (l : Nat) (f : Launch → Launch) : (s.modLaunch l f).images = s.images := rfl
@[simp] theorem State.modLaunch_hostOut (s : State) (l : Nat) (f : Launch → Launch) : (s.modLaunch l f).hostOut = s.hostOut := rfl
@[simp] theorem State.modLaunch_cores (s : State) (l : Nat) (f : Launch → Launch) : (s.modLaunch l f).cores = s.cores := rfl
@[simp] theorem State.modLaunch_agenda (s : State) (l : Nat) (f : Launch → Launch) : (s.modLaunch l f).agenda = s.agenda := rfl
@[simp] theorem State.modLaunch_firing (s : State) (l : Nat) (f : Launch → Launch) : (s.modLaunch l f).firing = s.firing := rfl
@[simp] theorem State.modLaunch_freeCtr (s : State) (l : Nat) (f : Launch → Launch) : (s.modLaunch l f).freeCtr = s.freeCtr := rfl

/-! ### A message to the host -/

@[simp] theorem State.emit_power (s : State) (m : HostMsg) : (s.emit m).power = s.power := rfl
@[simp] theorem State.emit_fw (s : State) (m : HostMsg) : (s.emit m).fw = s.fw := rfl
@[simp] theorem State.emit_attest (s : State) (m : HostMsg) : (s.emit m).attest = s.attest := rfl
@[simp] theorem State.emit_ports (s : State) (m : HostMsg) : (s.emit m).ports = s.ports := rfl
@[simp] theorem State.emit_routes (s : State) (m : HostMsg) : (s.emit m).routes = s.routes := rfl
@[simp] theorem State.emit_undel (s : State) (m : HostMsg) : (s.emit m).undel = s.undel := rfl
@[simp] theorem State.emit_owrites (s : State) (m : HostMsg) : (s.emit m).owrites = s.owrites := rfl
@[simp] theorem State.emit_nextOw (s : State) (m : HostMsg) : (s.emit m).nextOw = s.nextOw := rfl
@[simp] theorem State.emit_asks (s : State) (m : HostMsg) : (s.emit m).asks = s.asks := rfl
@[simp] theorem State.emit_nextParcel (s : State) (m : HostMsg) : (s.emit m).nextParcel = s.nextParcel := rfl
@[simp] theorem State.emit_nextTurn (s : State) (m : HostMsg) : (s.emit m).nextTurn = s.nextTurn := rfl
@[simp] theorem State.emit_sent (s : State) (m : HostMsg) : (s.emit m).sent = s.sent := rfl
@[simp] theorem State.emit_delivered (s : State) (m : HostMsg) : (s.emit m).delivered = s.delivered := rfl
@[simp] theorem State.emit_handovers (s : State) (m : HostMsg) : (s.emit m).handovers = s.handovers := rfl
@[simp] theorem State.emit_handTrans (s : State) (m : HostMsg) : (s.emit m).handTrans = s.handTrans := rfl
@[simp] theorem State.emit_parts (s : State) (m : HostMsg) : (s.emit m).parts = s.parts := rfl
@[simp] theorem State.emit_owner (s : State) (m : HostMsg) : (s.emit m).owner = s.owner := rfl
@[simp] theorem State.emit_retired (s : State) (m : HostMsg) : (s.emit m).retired = s.retired := rfl
@[simp] theorem State.emit_retiring (s : State) (m : HostMsg) : (s.emit m).retiring = s.retiring := rfl
@[simp] theorem State.emit_retCore (s : State) (m : HostMsg) : (s.emit m).retCore = s.retCore := rfl
@[simp] theorem State.emit_fqs (s : State) (m : HostMsg) : (s.emit m).fqs = s.fqs := rfl
@[simp] theorem State.emit_withheld (s : State) (m : HostMsg) : (s.emit m).withheld = s.withheld := rfl
@[simp] theorem State.emit_outstanding (s : State) (m : HostMsg) : (s.emit m).outstanding = s.outstanding := rfl
@[simp] theorem State.emit_nextFault (s : State) (m : HostMsg) : (s.emit m).nextFault = s.nextFault := rfl
@[simp] theorem State.emit_raceLimit (s : State) (m : HostMsg) : (s.emit m).raceLimit = s.raceLimit := rfl
@[simp] theorem State.emit_raceBase (s : State) (m : HostMsg) : (s.emit m).raceBase = s.raceBase := rfl
@[simp] theorem State.emit_scopes (s : State) (m : HostMsg) : (s.emit m).scopes = s.scopes := rfl
@[simp] theorem State.emit_stkerr (s : State) (m : HostMsg) : (s.emit m).stkerr = s.stkerr := rfl
@[simp] theorem State.emit_ingress (s : State) (m : HostMsg) : (s.emit m).ingress = s.ingress := rfl
@[simp] theorem State.emit_launches (s : State) (m : HostMsg) : (s.emit m).launches = s.launches := rfl
@[simp] theorem State.emit_nextLid (s : State) (m : HostMsg) : (s.emit m).nextLid = s.nextLid := rfl
@[simp] theorem State.emit_mem (s : State) (m : HostMsg) : (s.emit m).mem = s.mem := rfl
@[simp] theorem State.emit_memPoison (s : State) (m : HostMsg) : (s.emit m).memPoison = s.memPoison := rfl
@[simp] theorem State.emit_torn (s : State) (m : HostMsg) : (s.emit m).torn = s.torn := rfl
@[simp] theorem State.emit_memRecs (s : State) (m : HostMsg) : (s.emit m).memRecs = s.memRecs := rfl
@[simp] theorem State.emit_epochs (s : State) (m : HostMsg) : (s.emit m).epochs = s.epochs := rfl
@[simp] theorem State.emit_acquired (s : State) (m : HostMsg) : (s.emit m).acquired = s.acquired := rfl
@[simp] theorem State.emit_collAcq (s : State) (m : HostMsg) : (s.emit m).collAcq = s.collAcq := rfl
@[simp] theorem State.emit_stores (s : State) (m : HostMsg) : (s.emit m).stores = s.stores := rfl
@[simp] theorem State.emit_colls (s : State) (m : HostMsg) : (s.emit m).colls = s.colls := rfl
@[simp] theorem State.emit_absent (s : State) (m : HostMsg) : (s.emit m).absent = s.absent := rfl
@[simp] theorem State.emit_images (s : State) (m : HostMsg) : (s.emit m).images = s.images := rfl
@[simp] theorem State.emit_cores (s : State) (m : HostMsg) : (s.emit m).cores = s.cores := rfl
@[simp] theorem State.emit_agenda (s : State) (m : HostMsg) : (s.emit m).agenda = s.agenda := rfl
@[simp] theorem State.emit_firing (s : State) (m : HostMsg) : (s.emit m).firing = s.firing := rfl
@[simp] theorem State.emit_freeCtr (s : State) (m : HostMsg) : (s.emit m).freeCtr = s.freeCtr := rfl

/-! ### An instance changed -/

@[simp] theorem Core.modInst_placed (k : Core) (n : Nat) (f : Instance → Instance) : (k.modInst n f).placed = k.placed := rfl
@[simp] theorem Core.modInst_endl (k : Core) (n : Nat) (f : Instance → Instance) : (k.modInst n f).endl = k.endl := rfl
@[simp] theorem Core.modInst_gated (k : Core) (n : Nat) (f : Instance → Instance) : (k.modInst n f).gated = k.gated := rfl
@[simp] theorem Core.modInst_frozen (k : Core) (n : Nat) (f : Instance → Instance) : (k.modInst n f).frozen = k.frozen := rfl
@[simp] theorem Core.modInst_noAdmit (k : Core) (n : Nat) (f : Instance → Instance) : (k.modInst n f).noAdmit = k.noAdmit := rfl
@[simp] theorem Core.modInst_regs (k : Core) (n : Nat) (f : Instance → Instance) : (k.modInst n f).regs = k.regs := rfl
@[simp] theorem Core.modInst_scratch (k : Core) (n : Nat) (f : Instance → Instance) : (k.modInst n f).scratch = k.scratch := rfl
@[simp] theorem Core.modInst_scratchPoison (k : Core) (n : Nat) (f : Instance → Instance) : (k.modInst n f).scratchPoison = k.scratchPoison := rfl
@[simp] theorem Core.modInst_scratchRecs (k : Core) (n : Nat) (f : Instance → Instance) : (k.modInst n f).scratchRecs = k.scratchRecs := rfl
@[simp] theorem Core.modInst_colours (k : Core) (n : Nat) (f : Instance → Instance) : (k.modInst n f).colours = k.colours := rfl
@[simp] theorem Core.modInst_nextIid (k : Core) (n : Nat) (f : Instance → Instance) : (k.modInst n f).nextIid = k.nextIid := rfl
@[simp] theorem Core.modInst_admitSeq (k : Core) (n : Nat) (f : Instance → Instance) : (k.modInst n f).admitSeq = k.admitSeq := rfl
@[simp] theorem Core.modInst_mappings (k : Core) (n : Nat) (f : Instance → Instance) : (k.modInst n f).mappings = k.mappings := rfl
@[simp] theorem Core.modInst_mapping (k : Core) (n : Nat) (f : Instance → Instance) : (k.modInst n f).mapping = k.mapping := rfl
@[simp] theorem Core.modInst_inflight (k : Core) (n : Nat) (f : Instance → Instance) : (k.modInst n f).inflight = k.inflight := rfl
@[simp] theorem Core.modInst_issueQ (k : Core) (n : Nat) (f : Instance → Instance) : (k.modInst n f).issueQ = k.issueQ := rfl
@[simp] theorem Core.modInst_held (k : Core) (n : Nat) (f : Instance → Instance) : (k.modInst n f).held = k.held := rfl
@[simp] theorem Core.modInst_ports (k : Core) (n : Nat) (f : Instance → Instance) : (k.modInst n f).ports = k.ports := rfl
@[simp] theorem Core.modInst_nodeData (k : Core) (n : Nat) (f : Instance → Instance) : (k.modInst n f).nodeData = k.nodeData := rfl
@[simp] theorem Core.modInst_matPath (k : Core) (n : Nat) (f : Instance → Instance) : (k.modInst n f).matPath = k.matPath := rfl
@[simp] theorem Core.modInst_nextTok (k : Core) (n : Nat) (f : Instance → Instance) : (k.modInst n f).nextTok = k.nextTok := rfl
@[simp] theorem Core.modInst_issueSeq (k : Core) (n : Nat) (f : Instance → Instance) : (k.modInst n f).issueSeq = k.issueSeq := rfl
@[simp] theorem Core.modInst_traps (k : Core) (n : Nat) (f : Instance → Instance) : (k.modInst n f).traps = k.traps := rfl
@[simp] theorem Core.modInst_ring (k : Core) (n : Nat) (f : Instance → Instance) : (k.modInst n f).ring = k.ring := rfl
@[simp] theorem Core.modInst_tiles (k : Core) (n : Nat) (f : Instance → Instance) : (k.modInst n f).tiles = k.tiles := rfl
@[simp] theorem Core.modInst_nodes (k : Core) (n : Nat) (f : Instance → Instance) : (k.modInst n f).nodes = k.nodes := rfl
@[simp] theorem Core.modInst_queues (k : Core) (n : Nat) (f : Instance → Instance) : (k.modInst n f).queues = k.queues := rfl
@[simp] theorem Core.modInst_bobbins (k : Core) (n : Nat) (f : Instance → Instance) : (k.modInst n f).bobbins = k.bobbins := rfl
@[simp] theorem Core.modInst_locks (k : Core) (n : Nat) (f : Instance → Instance) : (k.modInst n f).locks = k.locks := rfl
@[simp] theorem Core.modInst_shuttle (k : Core) (n : Nat) (f : Instance → Instance) : (k.modInst n f).shuttle = k.shuttle := rfl
@[simp] theorem Core.modInst_reel (k : Core) (n : Nat) (f : Instance → Instance) : (k.modInst n f).reel = k.reel := rfl
@[simp] theorem Core.modInst_streams (k : Core) (n : Nat) (f : Instance → Instance) : (k.modInst n f).streams = k.streams := rfl
@[simp] theorem Core.modInst_mas (k : Core) (n : Nat) (f : Instance → Instance) : (k.modInst n f).mas = k.mas := rfl
@[simp] theorem Core.modInst_accs (k : Core) (n : Nat) (f : Instance → Instance) : (k.modInst n f).accs = k.accs := rfl
@[simp] theorem Core.modInst_mds (k : Core) (n : Nat) (f : Instance → Instance) : (k.modInst n f).mds = k.mds := rfl
@[simp] theorem Core.modInst_sss (k : Core) (n : Nat) (f : Instance → Instance) : (k.modInst n f).sss = k.sss := rfl
@[simp] theorem Core.modInst_gds (k : Core) (n : Nat) (f : Instance → Instance) : (k.modInst n f).gds = k.gds := rfl
@[simp] theorem Core.modInst_pts (k : Core) (n : Nat) (f : Instance → Instance) : (k.modInst n f).pts = k.pts := rfl
@[simp] theorem Core.modInst_cams (k : Core) (n : Nat) (f : Instance → Instance) : (k.modInst n f).cams = k.cams := rfl
@[simp] theorem Core.modInst_binds (k : Core) (n : Nat) (f : Instance → Instance) : (k.modInst n f).binds = k.binds := rfl
@[simp] theorem Core.modInst_collSeq (k : Core) (n : Nat) (f : Instance → Instance) : (k.modInst n f).collSeq = k.collSeq := rfl
@[simp] theorem Core.modInst_collOpen (k : Core) (n : Nat) (f : Instance → Instance) : (k.modInst n f).collOpen = k.collOpen := rfl
@[simp] theorem Core.modInst_tlb (k : Core) (n : Nat) (f : Instance → Instance) : (k.modInst n f).tlb = k.tlb := rfl
@[simp] theorem Core.modInst_saving (k : Core) (n : Nat) (f : Instance → Instance) : (k.modInst n f).saving = k.saving := rfl
@[simp] theorem Core.modInst_deadLinks (k : Core) (n : Nat) (f : Instance → Instance) : (k.modInst n f).deadLinks = k.deadLinks := rfl

/-! ### A token sent -/

@[simp] theorem Core.sendToken_placed (k : Core) (t : Token) : (k.sendToken t).placed = k.placed := rfl
@[simp] theorem Core.sendToken_endl (k : Core) (t : Token) : (k.sendToken t).endl = k.endl := rfl
@[simp] theorem Core.sendToken_gated (k : Core) (t : Token) : (k.sendToken t).gated = k.gated := rfl
@[simp] theorem Core.sendToken_frozen (k : Core) (t : Token) : (k.sendToken t).frozen = k.frozen := rfl
@[simp] theorem Core.sendToken_noAdmit (k : Core) (t : Token) : (k.sendToken t).noAdmit = k.noAdmit := rfl
@[simp] theorem Core.sendToken_regs (k : Core) (t : Token) : (k.sendToken t).regs = k.regs := rfl
@[simp] theorem Core.sendToken_scratch (k : Core) (t : Token) : (k.sendToken t).scratch = k.scratch := rfl
@[simp] theorem Core.sendToken_scratchPoison (k : Core) (t : Token) : (k.sendToken t).scratchPoison = k.scratchPoison := rfl
@[simp] theorem Core.sendToken_scratchRecs (k : Core) (t : Token) : (k.sendToken t).scratchRecs = k.scratchRecs := rfl
@[simp] theorem Core.sendToken_colours (k : Core) (t : Token) : (k.sendToken t).colours = k.colours := rfl
@[simp] theorem Core.sendToken_nextIid (k : Core) (t : Token) : (k.sendToken t).nextIid = k.nextIid := rfl
@[simp] theorem Core.sendToken_admitSeq (k : Core) (t : Token) : (k.sendToken t).admitSeq = k.admitSeq := rfl
@[simp] theorem Core.sendToken_instances (k : Core) (t : Token) : (k.sendToken t).instances = k.instances := rfl
@[simp] theorem Core.sendToken_mappings (k : Core) (t : Token) : (k.sendToken t).mappings = k.mappings := rfl
@[simp] theorem Core.sendToken_mapping (k : Core) (t : Token) : (k.sendToken t).mapping = k.mapping := rfl
@[simp] theorem Core.sendToken_issueQ (k : Core) (t : Token) : (k.sendToken t).issueQ = k.issueQ := rfl
@[simp] theorem Core.sendToken_held (k : Core) (t : Token) : (k.sendToken t).held = k.held := rfl
@[simp] theorem Core.sendToken_ports (k : Core) (t : Token) : (k.sendToken t).ports = k.ports := rfl
@[simp] theorem Core.sendToken_nodeData (k : Core) (t : Token) : (k.sendToken t).nodeData = k.nodeData := rfl
@[simp] theorem Core.sendToken_matPath (k : Core) (t : Token) : (k.sendToken t).matPath = k.matPath := rfl
@[simp] theorem Core.sendToken_nextTok (k : Core) (t : Token) : (k.sendToken t).nextTok = k.nextTok := rfl
@[simp] theorem Core.sendToken_issueSeq (k : Core) (t : Token) : (k.sendToken t).issueSeq = k.issueSeq := rfl
@[simp] theorem Core.sendToken_traps (k : Core) (t : Token) : (k.sendToken t).traps = k.traps := rfl
@[simp] theorem Core.sendToken_ring (k : Core) (t : Token) : (k.sendToken t).ring = k.ring := rfl
@[simp] theorem Core.sendToken_tiles (k : Core) (t : Token) : (k.sendToken t).tiles = k.tiles := rfl
@[simp] theorem Core.sendToken_nodes (k : Core) (t : Token) : (k.sendToken t).nodes = k.nodes := rfl
@[simp] theorem Core.sendToken_queues (k : Core) (t : Token) : (k.sendToken t).queues = k.queues := rfl
@[simp] theorem Core.sendToken_bobbins (k : Core) (t : Token) : (k.sendToken t).bobbins = k.bobbins := rfl
@[simp] theorem Core.sendToken_locks (k : Core) (t : Token) : (k.sendToken t).locks = k.locks := rfl
@[simp] theorem Core.sendToken_shuttle (k : Core) (t : Token) : (k.sendToken t).shuttle = k.shuttle := rfl
@[simp] theorem Core.sendToken_reel (k : Core) (t : Token) : (k.sendToken t).reel = k.reel := rfl
@[simp] theorem Core.sendToken_streams (k : Core) (t : Token) : (k.sendToken t).streams = k.streams := rfl
@[simp] theorem Core.sendToken_mas (k : Core) (t : Token) : (k.sendToken t).mas = k.mas := rfl
@[simp] theorem Core.sendToken_accs (k : Core) (t : Token) : (k.sendToken t).accs = k.accs := rfl
@[simp] theorem Core.sendToken_mds (k : Core) (t : Token) : (k.sendToken t).mds = k.mds := rfl
@[simp] theorem Core.sendToken_sss (k : Core) (t : Token) : (k.sendToken t).sss = k.sss := rfl
@[simp] theorem Core.sendToken_gds (k : Core) (t : Token) : (k.sendToken t).gds = k.gds := rfl
@[simp] theorem Core.sendToken_pts (k : Core) (t : Token) : (k.sendToken t).pts = k.pts := rfl
@[simp] theorem Core.sendToken_cams (k : Core) (t : Token) : (k.sendToken t).cams = k.cams := rfl
@[simp] theorem Core.sendToken_binds (k : Core) (t : Token) : (k.sendToken t).binds = k.binds := rfl
@[simp] theorem Core.sendToken_collSeq (k : Core) (t : Token) : (k.sendToken t).collSeq = k.collSeq := rfl
@[simp] theorem Core.sendToken_collOpen (k : Core) (t : Token) : (k.sendToken t).collOpen = k.collOpen := rfl
@[simp] theorem Core.sendToken_tlb (k : Core) (t : Token) : (k.sendToken t).tlb = k.tlb := rfl
@[simp] theorem Core.sendToken_saving (k : Core) (t : Token) : (k.sendToken t).saving = k.saving := rfl
@[simp] theorem Core.sendToken_deadLinks (k : Core) (t : Token) : (k.sendToken t).deadLinks = k.deadLinks := rfl

/-! ### A colour changed -/

@[simp] theorem Core.modColour_placed (k : Core) (n : Nat) (f : Colour → Colour) : (k.modColour n f).placed = k.placed := rfl
@[simp] theorem Core.modColour_endl (k : Core) (n : Nat) (f : Colour → Colour) : (k.modColour n f).endl = k.endl := rfl
@[simp] theorem Core.modColour_gated (k : Core) (n : Nat) (f : Colour → Colour) : (k.modColour n f).gated = k.gated := rfl
@[simp] theorem Core.modColour_frozen (k : Core) (n : Nat) (f : Colour → Colour) : (k.modColour n f).frozen = k.frozen := rfl
@[simp] theorem Core.modColour_noAdmit (k : Core) (n : Nat) (f : Colour → Colour) : (k.modColour n f).noAdmit = k.noAdmit := rfl
@[simp] theorem Core.modColour_regs (k : Core) (n : Nat) (f : Colour → Colour) : (k.modColour n f).regs = k.regs := rfl
@[simp] theorem Core.modColour_scratch (k : Core) (n : Nat) (f : Colour → Colour) : (k.modColour n f).scratch = k.scratch := rfl
@[simp] theorem Core.modColour_scratchPoison (k : Core) (n : Nat) (f : Colour → Colour) : (k.modColour n f).scratchPoison = k.scratchPoison := rfl
@[simp] theorem Core.modColour_scratchRecs (k : Core) (n : Nat) (f : Colour → Colour) : (k.modColour n f).scratchRecs = k.scratchRecs := rfl
@[simp] theorem Core.modColour_nextIid (k : Core) (n : Nat) (f : Colour → Colour) : (k.modColour n f).nextIid = k.nextIid := rfl
@[simp] theorem Core.modColour_admitSeq (k : Core) (n : Nat) (f : Colour → Colour) : (k.modColour n f).admitSeq = k.admitSeq := rfl
@[simp] theorem Core.modColour_instances (k : Core) (n : Nat) (f : Colour → Colour) : (k.modColour n f).instances = k.instances := rfl
@[simp] theorem Core.modColour_mappings (k : Core) (n : Nat) (f : Colour → Colour) : (k.modColour n f).mappings = k.mappings := rfl
@[simp] theorem Core.modColour_mapping (k : Core) (n : Nat) (f : Colour → Colour) : (k.modColour n f).mapping = k.mapping := rfl
@[simp] theorem Core.modColour_inflight (k : Core) (n : Nat) (f : Colour → Colour) : (k.modColour n f).inflight = k.inflight := rfl
@[simp] theorem Core.modColour_issueQ (k : Core) (n : Nat) (f : Colour → Colour) : (k.modColour n f).issueQ = k.issueQ := rfl
@[simp] theorem Core.modColour_held (k : Core) (n : Nat) (f : Colour → Colour) : (k.modColour n f).held = k.held := rfl
@[simp] theorem Core.modColour_ports (k : Core) (n : Nat) (f : Colour → Colour) : (k.modColour n f).ports = k.ports := rfl
@[simp] theorem Core.modColour_nodeData (k : Core) (n : Nat) (f : Colour → Colour) : (k.modColour n f).nodeData = k.nodeData := rfl
@[simp] theorem Core.modColour_matPath (k : Core) (n : Nat) (f : Colour → Colour) : (k.modColour n f).matPath = k.matPath := rfl
@[simp] theorem Core.modColour_nextTok (k : Core) (n : Nat) (f : Colour → Colour) : (k.modColour n f).nextTok = k.nextTok := rfl
@[simp] theorem Core.modColour_issueSeq (k : Core) (n : Nat) (f : Colour → Colour) : (k.modColour n f).issueSeq = k.issueSeq := rfl
@[simp] theorem Core.modColour_traps (k : Core) (n : Nat) (f : Colour → Colour) : (k.modColour n f).traps = k.traps := rfl
@[simp] theorem Core.modColour_ring (k : Core) (n : Nat) (f : Colour → Colour) : (k.modColour n f).ring = k.ring := rfl
@[simp] theorem Core.modColour_tiles (k : Core) (n : Nat) (f : Colour → Colour) : (k.modColour n f).tiles = k.tiles := rfl
@[simp] theorem Core.modColour_nodes (k : Core) (n : Nat) (f : Colour → Colour) : (k.modColour n f).nodes = k.nodes := rfl
@[simp] theorem Core.modColour_queues (k : Core) (n : Nat) (f : Colour → Colour) : (k.modColour n f).queues = k.queues := rfl
@[simp] theorem Core.modColour_bobbins (k : Core) (n : Nat) (f : Colour → Colour) : (k.modColour n f).bobbins = k.bobbins := rfl
@[simp] theorem Core.modColour_locks (k : Core) (n : Nat) (f : Colour → Colour) : (k.modColour n f).locks = k.locks := rfl
@[simp] theorem Core.modColour_shuttle (k : Core) (n : Nat) (f : Colour → Colour) : (k.modColour n f).shuttle = k.shuttle := rfl
@[simp] theorem Core.modColour_reel (k : Core) (n : Nat) (f : Colour → Colour) : (k.modColour n f).reel = k.reel := rfl
@[simp] theorem Core.modColour_streams (k : Core) (n : Nat) (f : Colour → Colour) : (k.modColour n f).streams = k.streams := rfl
@[simp] theorem Core.modColour_mas (k : Core) (n : Nat) (f : Colour → Colour) : (k.modColour n f).mas = k.mas := rfl
@[simp] theorem Core.modColour_accs (k : Core) (n : Nat) (f : Colour → Colour) : (k.modColour n f).accs = k.accs := rfl
@[simp] theorem Core.modColour_mds (k : Core) (n : Nat) (f : Colour → Colour) : (k.modColour n f).mds = k.mds := rfl
@[simp] theorem Core.modColour_sss (k : Core) (n : Nat) (f : Colour → Colour) : (k.modColour n f).sss = k.sss := rfl
@[simp] theorem Core.modColour_gds (k : Core) (n : Nat) (f : Colour → Colour) : (k.modColour n f).gds = k.gds := rfl
@[simp] theorem Core.modColour_pts (k : Core) (n : Nat) (f : Colour → Colour) : (k.modColour n f).pts = k.pts := rfl
@[simp] theorem Core.modColour_cams (k : Core) (n : Nat) (f : Colour → Colour) : (k.modColour n f).cams = k.cams := rfl
@[simp] theorem Core.modColour_binds (k : Core) (n : Nat) (f : Colour → Colour) : (k.modColour n f).binds = k.binds := rfl
@[simp] theorem Core.modColour_collSeq (k : Core) (n : Nat) (f : Colour → Colour) : (k.modColour n f).collSeq = k.collSeq := rfl
@[simp] theorem Core.modColour_collOpen (k : Core) (n : Nat) (f : Colour → Colour) : (k.modColour n f).collOpen = k.collOpen := rfl
@[simp] theorem Core.modColour_tlb (k : Core) (n : Nat) (f : Colour → Colour) : (k.modColour n f).tlb = k.tlb := rfl
@[simp] theorem Core.modColour_saving (k : Core) (n : Nat) (f : Colour → Colour) : (k.modColour n f).saving = k.saving := rfl
@[simp] theorem Core.modColour_deadLinks (k : Core) (n : Nat) (f : Colour → Colour) : (k.modColour n f).deadLinks = k.deadLinks := rfl

end Sys2Proof.Machine
end

