-- ==== Sys2Proof/Laws/Ops.lean ====
section
/-! SUPPORT. What the shared operations of a core can do, said once for each. -/

namespace Sys2Proof.Machine

open Sys2Proof

/-! ### The frame of an operation -/

/-- An operation on its matched set. -/
theorem runOp_next (s : State) (o : OpIn) (g : OpIn → State) (hf : s.firing = some (o.c, o.f))
    (ho : s.opIn o.c o.f = some o) (hv : o.nodeOver = false) : runOp s g = .next { g o with firing := none } := by
  simp only [runOp, hf, ho, hv]; rfl

/-- An operation that would pass NOUT by what it sends to n121 traps (R100, R300). -/
theorem runOp_over (s : State) (o : OpIn) (g : OpIn → State) (hf : s.firing = some (o.c, o.f))
    (ho : s.opIn o.c o.f = some o) (hv : o.nodeOver = true) :
    runOp s g = .next { s.illegal o o.value 100 with firing := none } := by
  simp only [runOp, hf, ho, hv]; rfl

/-- Everything an operation can do: it runs on its matched set, traps where that would pass NOUT, drops a set whose
instance or block is gone, or, where no set is executed, faults. -/
theorem runOp_cases (s : State) (g : OpIn → State) :
    (s.firing = none ∧ runOp s g = .fault .noOperands) ∨
    (∃ c f, s.firing = some (c, f) ∧ s.opIn c f = none ∧ runOp s g = .next { s with firing := none }) ∨
    (∃ c f o, s.firing = some (c, f) ∧ s.opIn c f = some o ∧
      runOp s g = .next { (if o.nodeOver then s.illegal o o.value 100 else g o) with firing := none }) := by
  cases hf : s.firing with
  | none => simp [runOp, hf]
  | some p =>
    obtain ⟨c, f⟩ := p
    cases ho : s.opIn c f with
    | none => exact .inr (.inl ⟨c, f, rfl, ho, by simp only [runOp, hf, ho]⟩)
    | some o => exact .inr (.inr ⟨c, f, o, rfl, ho, by simp only [runOp, hf, ho]⟩)

/-- The surroundings of a matched set are its core, its set and its instance's block. -/
theorem State.opIn_eq (s : State) (c : Nat) (f : Firing) (o : OpIn) (h : s.opIn c f = some o) :
    o.c = c ∧ o.f = f ∧ (s.core c).inst? f.iid = some o.i ∧ (s.core c).mapping? o.i.block = some o.m := by
  simp only [State.opIn] at h
  split at h
  · cases h
  · split at h
    · cases h
    · cases h; exact ⟨rfl, rfl, ‹_›, ‹_›⟩

/-- A form of the Carder's port that goes ahead. -/
theorem carderOp_go (s : State) (acc : Bool) (o : OpIn) (g : OpIn → State)
    (hf : s.firing = some (o.c, o.f)) (ho : s.opIn o.c o.f = some o) (hv : o.nodeOver = false) (hb : s.portBusy o .carder = false)
    (ha : acc = true → s.hasArrived o.c = false) : carderOp s acc g = .next { g o with firing := none } := by
  rw [carderOp, runOp_next s o _ hf ho hv, hb]
  cases acc with
  | false => rfl
  | true => rw [ha rfl]; rfl

/-- A form of the Carder's port behind an earlier request that holds it (R120). -/
theorem carderOp_port (s : State) (acc : Bool) (o : OpIn) (g : OpIn → State)
    (hf : s.firing = some (o.c, o.f)) (ho : s.opIn o.c o.f = some o) (hv : o.nodeOver = false) (hb : s.portBusy o .carder = true) :
    carderOp s acc g = .next { s.hold o .carder .port with firing := none } := by
  rw [carderOp, runOp_next s o _ hf ho hv, hb]; rfl

/-- A form that accesses memory while its core has arrived at the open step (R179). -/
theorem carderOp_step (s : State) (o : OpIn) (g : OpIn → State) (hf : s.firing = some (o.c, o.f))
    (ho : s.opIn o.c o.f = some o) (hv : o.nodeOver = false) (hb : s.portBusy o .carder = false) (ha : s.hasArrived o.c = true) :
    carderOp s true g = .next { s.hold o .carder .step with firing := none } := by
  rw [carderOp, runOp_next s o _ hf ho hv, hb, ha]; rfl

/-- A form of the Spindle's port that goes ahead. -/
theorem spindleOp_go (s : State) (waits : Bool) (o : OpIn) (g : OpIn → State)
    (hf : s.firing = some (o.c, o.f)) (ho : s.opIn o.c o.f = some o) (hv : o.nodeOver = false) (hb : s.portBusy o .spindle = false)
    (ha : s.hasArrived o.c = false) (he : waits = true → s.earlier o = false)
    (ht : s.tagBadM o o.head = false) : spindleOp waits s g = .next { g o with firing := none } := by
  rw [spindleOp, runOp_next s o _ hf ho hv, hb, ha, ht]
  cases waits with
  | false => rfl
  | true => rw [he rfl]; rfl

/-- A form of the matrix port that goes ahead, outside a repetition. -/
theorem matOp_go (s : State) (names : MNames) (o : OpIn) (g : OpIn → Nat → State)
    (hf : s.firing = some (o.c, o.f)) (ho : s.opIn o.c o.f = some o) (hv : o.nodeOver = false) (hr : o.f.rep = none)
    (hb : s.portBusy o .matrix = false) (ha : names.mem = true → s.hasArrived o.c = false)
    (ht : s.tagBadM o o.head = false) (hn : names.field ≤ names.top)
    (hl : ∀ r ∈ names.regs 0, r.allowed (o.f.ticket.allot.getD (s.colourOf o).allot) = true) :
    matOp names s g = .next { g o 0 with firing := none } := by
  have h1 : (names.mem && s.hasArrived o.c) = false := by
    cases hm : names.mem with
    | false => rfl
    | true => rw [ha hm]; rfl
  have h2 : ((names.regs 0 ++ names.regs 0).find? fun r => !r.allowed (o.f.ticket.allot.getD (s.colourOf o).allot)) = none := by
    simp only [List.find?_eq_none, List.mem_append, or_self]
    intro r hr'; simp [hl r hr']
  have h3 : ¬ names.top < names.field := by omega
  simp only [matOp, runOp_next s o _ hf ho hv, hb, h1, ht, hr, Firing.stepBy, Nat.add_zero, h3, h2]
  rfl

/-! ### Lists of lanes -/

theorem anyPoison_false (l : List Lane) (h : ∀ x ∈ l, x.poison = false) : anyPoison l = false := by
  simp only [anyPoison, List.any_eq_false]
  intro x hx; simp [h x hx]

theorem firstIdx_none {α : Type} (p : α → Bool) (l : List α) (h : ∀ x ∈ l, p x = false) :
    findIdx? p l 0 = none := by
  suffices ∀ n, findIdx? p l n = none from this 0
  induction l with
  | nil => intro n; rfl
  | cons a t ih =>
    intro n
    simp only [findIdx?, h a (by simp)]
    exact ih (fun x hx => h x (by simp [hx])) (n + 1)

/-! ### Result tokens: only tokens, ports and instances of the core change -/

/-- One core is another with other tokens, port data and instances. -/
def Core.SameButTokens (k k' : Core) : Prop :=
  { k' with inflight := k.inflight, ports := k.ports, nodeData := k.nodeData, instances := k.instances,
            nextIid := k.nextIid } = k

theorem Core.SameButTokens.refl (k : Core) : k.SameButTokens k := rfl

theorem Core.SameButTokens.trans {a b c : Core} (h : a.SameButTokens b) (h2 : b.SameButTokens c) :
    a.SameButTokens c := by
  unfold Core.SameButTokens at *; rw [← h, ← h2]

theorem Core.SameButTokens.foldl {α : Type} (f : Core → α → Core) (hf : ∀ (k : Core) a, k.SameButTokens (f k a))
    (l : List α) (k : Core) : k.SameButTokens (l.foldl f k) := by
  induction l generalizing k with
  | nil => exact rfl
  | cons a t ih => exact (hf k a).trans (ih _)

theorem Core.SameButTokens.issueQ {k k' : Core} (h : k.SameButTokens k') : k'.issueQ = k.issueQ := by
  unfold Core.SameButTokens at h; rw [← h]

theorem Core.sendRun_frame (k : Core) (o : OpIn) (iid : Nat) (d : Nat × Nat) (r : Run) (ot : Option Tag) :
    k.SameButTokens (k.sendRun o iid d r ot) := by
  unfold Core.sendRun; split
  · split <;> rfl
  · split <;> rfl

theorem Core.instanceFor_frame (k : Core) (o : OpIn) (t : Tag) : k.SameButTokens (k.instanceFor o t).1 := by
  unfold Core.instanceFor; split
  · rfl
  · split
    · rfl
    · split <;> rfl

theorem Core.sendPiece_frame (k : Core) (o : OpIn) (second : Bool) (p : Tag × Run) (ot : Option Tag) :
    k.SameButTokens (k.sendPiece o second p ot) := by
  unfold Core.sendPiece
  dsimp only
  split
  · exact (k.instanceFor_frame o p.1).trans (.foldl _ (fun k _ => k.sendRun_frame _ _ _ _ _) _ _)
  · exact .foldl _ (fun k _ => k.sendRun_frame _ _ _ _ _) _ _

theorem Core.sendTo_frame (k : Core) (o : OpIn) (tg : Nat) (second : Bool) (r : Run) :
    k.SameButTokens (k.sendTo o tg second r) := by
  unfold Core.sendTo; split
  · rfl
  · split
    · exact k.sendPiece_frame _ _ _ _
    · split
      · rfl
      · exact .foldl _ (fun k _ => k.sendPiece_frame _ _ _ _) _ _

/-! ### The end of an operation -/

/-- A set that does not repeat, with result tags that fit: both runs are sent and its lanes retire. -/
theorem State.finish_sends (s : State) (o : OpIn) (h : OpWord) (data : Bool) (r0 r1 : Run)
    (h0 : s.tagBad o h.tg.toNat r0 = false) (h1 : s.tagBad o h.tg.toNat r1 = false) (hn : o.f.nextRep = none) :
    s.finish o h data r0 r1 =
      (s.modCore o.c fun k => (k.sendTo o h.tg.toNat false r0).sendTo o h.tg.toNat true r1).retireOp o := by
  simp [State.finish, h0, h1, hn]

/-- A result tag that overflows traps, and nothing is sent (R92, R273). -/
theorem State.finish_traps (s : State) (o : OpIn) (h : OpWord) (data : Bool) (r0 r1 : Run)
    (hb : s.tagBad o h.tg.toNat r0 = true) : s.finish o h data r0 r1 = s.tagTrap o h.tg.toNat := by
  simp [State.finish, hb]

/-- Without tag arithmetic a result fits where its last lane's iteration does (R92, R93). -/
theorem State.tagBad_zero (s : State) (o : OpIn) (r : Run)
    (h0 : o.i.tag.depth = 0 → baseOf o.m.vec o.i.tag r.first + r.lanes.length ≤ 32)
    (h1 : o.i.tag.depth ≠ 0 → baseOf o.m.vec o.i.tag r.first + r.lanes.length - 1 ≤
      fieldTop (((s.core o.c).shape o.colour).getD (o.i.tag.depth - 1) 1)) : s.tagBad o 0 r = false := by
  by_cases h : o.i.tag.depth = 0
  · simp [State.tagBad, tagStep, h, h0 h]
  · have := h1 h
    simp only [State.tagBad, tagStep, h, ite_false, this, decide_true, ite_true, Option.isNone_some, Bool.and_false]

theorem State.tagBad_empty (s : State) (o : OpIn) (tg first : Nat) :
    s.tagBad o tg { first := first, lanes := [] } = false := by simp [State.tagBad]

/-- The tag of a run depends on how many lanes it has and where they begin, not on their values. -/
theorem State.tagBad_lanes (s : State) (o : OpIn) (tg first : Nat) (a b : List Lane) (h : a.length = b.length) :
    s.tagBad o tg { first := first, lanes := a } = s.tagBad o tg { first := first, lanes := b } := by
  have : a.isEmpty = b.isEmpty := by cases a <;> cases b <;> simp_all
  simp [State.tagBad, h, this]

/-! ### Taking an exception -/

/-- A trap of an instance that is not parked, not a handler's, with room for its record: the instance is parked and
the trap waits for its delivery (R186). -/
theorem State.raise_queues (s : State) (c : Nat) (t : Trap) (i : Instance) (iid : Nat) (ht : t.iid = some iid)
    (hi : (s.core c).inst? iid = some i) (hs : (i.status == .parked) = false) (hh : (s.core c).isHandler i = false)
    (hr : (i.tag.colour == 0 && decide (32 ≤ (s.core c).ring.length)) = false) :
    s.raise c t = (s.setCore c ((s.core c).park i.iid t.firing)).modCore c fun k =>
      { k with traps := k.traps ++ [t] } := by
  simp [State.raise, ht, hi, State.raiseAt, hs, hh, hr]

/-- A trap tied to no instance only waits for its delivery. -/
theorem State.raise_untied (s : State) (c : Nat) (t : Trap) (h : t.iid = none) :
    s.raise c t = s.modCore c fun k => { k with traps := k.traps ++ [t] } := by simp [State.raise, h]

end Sys2Proof.Machine
end

