-- ==== Sys2Proof/Laws/PerInstr.lean ====
section
/-! SUPPORT. A law of every instruction, constructor by constructor: how many words it has. -/

namespace Sys2Proof.Laws.EncodingLength

/-- An instruction has at most two words (R235), each of four bytes, and only a device step has none. -/
def Statement (i : Instr) : Prop :=
  (encodeWords i).length ≤ 2 ∧ (encode i).length = 4 * (encodeWords i).length ∧
    ((encodeWords i).isEmpty = i.opWord?.isNone)

/-- The bytes of words. -/
theorem length_flatMap_wordBytes (ws : List Nat) : (ws.flatMap wordBytes).length = 4 * ws.length := by
  induction ws with
  | nil => rfl
  | cons w ws ih => simp [wordBytes, ih]; omega

/-- The law from the number of words and whether there are any. -/
theorem of_words (i : Instr) (n : Nat) (h : (encodeWords i).length = n) (hn : n ≤ 2)
    (he : (encodeWords i).isEmpty = i.opWord?.isNone) : Statement i :=
  ⟨h ▸ hn, length_flatMap_wordBytes _, he⟩

theorem bra (h : OpWord) (d : BitVec 32) : Statement (.bra h d) := of_words _ 2 rfl (by decide) rfl
theorem bri (h : OpWord) : Statement (.bri h) := of_words _ 1 rfl (by decide) rfl
theorem callb (h : OpWord) (dc : BitVec 16) (dr : BitVec 16) : Statement (.callb h dc dr) := of_words _ 2 rfl (by decide) rfl
theorem retb (h : OpWord) : Statement (.retb h) := of_words _ 1 rfl (by decide) rfl
theorem spawn (h : OpWord) (ds : BitVec 16) : Statement (.spawn h ds) := of_words _ 2 rfl (by decide) rfl
theorem sret (h : OpWord) : Statement (.sret h) := of_words _ 1 rfl (by decide) rfl
theorem tagenter (h : OpWord) (width : BitVec 5) : Statement (.tagenter h width) := of_words _ 2 rfl (by decide) rfl
theorem tagleave (h : OpWord) : Statement (.tagleave h) := of_words _ 1 rfl (by decide) rfl
theorem read (h : OpWord) (reg : BitVec 5) : Statement (.read h reg) := of_words _ 2 rfl (by decide) rfl
theorem write (h : OpWord) (reg : BitVec 5) : Statement (.write h reg) := of_words _ 2 rfl (by decide) rfl
theorem phase (h : OpWord) : Statement (.phase h) := of_words _ 1 rfl (by decide) rfl
theorem join (h : OpWord) : Statement (.join h) := of_words _ 1 rfl (by decide) rfl
theorem rep (h : OpWord) (n : BitVec 8) (stride : BitVec 4) : Statement (.rep h n stride) := of_words _ 2 rfl (by decide) rfl
theorem shadv (h : OpWord) : Statement (.shadv h) := of_words _ 1 rfl (by decide) rfl
theorem bobinit (h : OpWord) (slots : BitVec 8) (bob : BitVec 4) : Statement (.bobinit h slots bob) := of_words _ 2 rfl (by decide) rfl
theorem bobwait (h : OpWord) (n : BitVec 8) (bob : BitVec 4) : Statement (.bobwait h n bob) := of_words _ 2 rfl (by decide) rfl
theorem bobrel (h : OpWord) (count : BitVec 8) (bob : BitVec 4) : Statement (.bobrel h count bob) := of_words _ 2 rfl (by decide) rfl
theorem syscall (h : OpWord) (code : BitVec 16) : Statement (.syscall h code) := of_words _ 2 rfl (by decide) rfl
theorem brk (h : OpWord) (code : BitVec 16) : Statement (.brk h code) := of_words _ 2 rfl (by decide) rfl
theorem trapif (h : OpWord) : Statement (.trapif h) := of_words _ 1 rfl (by decide) rfl
theorem eret (h : OpWord) : Statement (.eret h) := of_words _ 1 rfl (by decide) rfl
theorem endl (h : OpWord) : Statement (.endl h) := of_words _ 1 rfl (by decide) rfl
theorem mfsr (h : OpWord) (num : BitVec 16) : Statement (.mfsr h num) := of_words _ 2 rfl (by decide) rfl
theorem mtsr (h : OpWord) (num : BitVec 16) : Statement (.mtsr h num) := of_words _ 2 rfl (by decide) rfl
theorem const (h : OpWord) (value : BitVec 32) : Statement (.const h value) := of_words _ 2 rfl (by decide) rfl
theorem mov (h : OpWord) : Statement (.mov h) := of_words _ 1 rfl (by decide) rfl
theorem add (h : OpWord) (ty : ITy) : Statement (.add h ty) := of_words _ 1 rfl (by decide) rfl
theorem sub (h : OpWord) (ty : ITy) : Statement (.sub h ty) := of_words _ 1 rfl (by decide) rfl
theorem mul (h : OpWord) (ty : ITy) : Statement (.mul h ty) := of_words _ 1 rfl (by decide) rfl
theorem mulh (h : OpWord) (ty : ITy) : Statement (.mulh h ty) := of_words _ 1 rfl (by decide) rfl
theorem mad (h : OpWord) (ty : ITy) : Statement (.mad h ty) := of_words _ 1 rfl (by decide) rfl
theorem div (h : OpWord) (ty : I32Ty) : Statement (.div h ty) := of_words _ 1 rfl (by decide) rfl
theorem rem (h : OpWord) (ty : I32Ty) : Statement (.rem h ty) := of_words _ 1 rfl (by decide) rfl
theorem and (h : OpWord) : Statement (.and h) := of_words _ 1 rfl (by decide) rfl
theorem or (h : OpWord) : Statement (.or h) := of_words _ 1 rfl (by decide) rfl
theorem xor (h : OpWord) : Statement (.xor h) := of_words _ 1 rfl (by decide) rfl
theorem andn (h : OpWord) : Statement (.andn h) := of_words _ 1 rfl (by decide) rfl
theorem shl (h : OpWord) (ty : ITy) : Statement (.shl h ty) := of_words _ 1 rfl (by decide) rfl
theorem shr (h : OpWord) (ty : ITy) : Statement (.shr h ty) := of_words _ 1 rfl (by decide) rfl
theorem sra (h : OpWord) (ty : ITy) : Statement (.sra h ty) := of_words _ 1 rfl (by decide) rfl
theorem rotl (h : OpWord) : Statement (.rotl h) := of_words _ 1 rfl (by decide) rfl
theorem clz (h : OpWord) : Statement (.clz h) := of_words _ 1 rfl (by decide) rfl
theorem popc (h : OpWord) : Statement (.popc h) := of_words _ 1 rfl (by decide) rfl
theorem min (h : OpWord) (ty : ITy) : Statement (.min h ty) := of_words _ 1 rfl (by decide) rfl
theorem max (h : OpWord) (ty : ITy) : Statement (.max h ty) := of_words _ 1 rfl (by decide) rfl
theorem abs (h : OpWord) (ty : ITy) : Statement (.abs h ty) := of_words _ 1 rfl (by decide) rfl
theorem neg (h : OpWord) (ty : ITy) : Statement (.neg h ty) := of_words _ 1 rfl (by decide) rfl
theorem addsat (h : OpWord) (ty : ITy) : Statement (.addsat h ty) := of_words _ 1 rfl (by decide) rfl
theorem subsat (h : OpWord) (ty : ITy) : Statement (.subsat h ty) := of_words _ 1 rfl (by decide) rfl
theorem cmp (h : OpWord) (ty : CondTy) : Statement (.cmp h ty) := of_words _ 1 rfl (by decide) rfl
theorem sel (h : OpWord) : Statement (.sel h) := of_words _ 1 rfl (by decide) rfl
theorem tst (h : OpWord) : Statement (.tst h) := of_words _ 1 rfl (by decide) rfl
theorem extr (h : OpWord) (sgn : BitVec 1) (pos : BitVec 5) (len : BitVec 5) : Statement (.extr h sgn pos len) := of_words _ 2 rfl (by decide) rfl
theorem ins (h : OpWord) (pos : BitVec 5) (len : BitVec 5) : Statement (.ins h pos len) := of_words _ 2 rfl (by decide) rfl
theorem lea (h : OpWord) (sh : BitVec 3) : Statement (.lea h sh) := of_words _ 2 rfl (by decide) rfl
theorem packn (h : OpWord) (ty : ITy) : Statement (.packn h ty) := of_words _ 1 rfl (by decide) rfl
theorem unpackn (h : OpWord) (ty : ITy) (half : BitVec 1) : Statement (.unpackn h ty half) := of_words _ 2 rfl (by decide) rfl
theorem unt5 (h : OpWord) (ty : UntTy) : Statement (.unt5 h ty) := of_words _ 1 rfl (by decide) rfl
theorem acct (h : OpWord) (ty : I8Ty) : Statement (.acct h ty) := of_words _ 1 rfl (by decide) rfl
theorem dotp (h : OpWord) (ty : ITy) : Statement (.dotp h ty) := of_words _ 1 rfl (by decide) rfl
theorem fadd (h : OpWord) (ty : FTy) : Statement (.fadd h ty) := of_words _ 1 rfl (by decide) rfl
theorem faddRounding (h : OpWord) (ty : FTy) (rm : Rm) : Statement (.faddRounding h ty rm) := of_words _ 2 rfl (by decide) rfl
theorem fsub (h : OpWord) (ty : FTy) : Statement (.fsub h ty) := of_words _ 1 rfl (by decide) rfl
theorem fsubRounding (h : OpWord) (ty : FTy) (rm : Rm) : Statement (.fsubRounding h ty rm) := of_words _ 2 rfl (by decide) rfl
theorem fmul (h : OpWord) (ty : FTy) : Statement (.fmul h ty) := of_words _ 1 rfl (by decide) rfl
theorem fmulRounding (h : OpWord) (ty : FTy) (rm : Rm) : Statement (.fmulRounding h ty rm) := of_words _ 2 rfl (by decide) rfl
theorem fma (h : OpWord) (ty : FTy) : Statement (.fma h ty) := of_words _ 1 rfl (by decide) rfl
theorem fmaRounding (h : OpWord) (ty : FTy) (rm : Rm) : Statement (.fmaRounding h ty rm) := by
  refine ⟨?_, length_flatMap_wordBytes _, ?_⟩ <;> (simp only [encodeWords]; split <;> simp [Instr.opWord?])
theorem fmin (h : OpWord) (ty : FTy) : Statement (.fmin h ty) := of_words _ 1 rfl (by decide) rfl
theorem fmax (h : OpWord) (ty : FTy) : Statement (.fmax h ty) := of_words _ 1 rfl (by decide) rfl
theorem fsgn (h : OpWord) (ty : FTy) (mode : FsgnMode) : Statement (.fsgn h ty mode) := of_words _ 2 rfl (by decide) rfl
theorem fcmp (h : OpWord) (ty : FTy) (cond : FcmpCond) : Statement (.fcmp h ty cond) := of_words _ 2 rfl (by decide) rfl
theorem fclass (h : OpWord) (ty : FTy) : Statement (.fclass h ty) := of_words _ 1 rfl (by decide) rfl
theorem fcvt (h : OpWord) (group : BitVec 3) (rm : Rm) (src : Fmt) (dst : Fmt) : Statement (.fcvt h group rm src dst) := of_words _ 2 rfl (by decide) rfl
theorem frint (h : OpWord) (ty : FTy) (rm : Rm) : Statement (.frint h ty rm) := of_words _ 2 rfl (by decide) rfl
theorem fexpi (h : OpWord) (ty : FTy) : Statement (.fexpi h ty) := of_words _ 1 rfl (by decide) rfl
theorem fexpiRounding (h : OpWord) (ty : FTy) (rm : Rm) : Statement (.fexpiRounding h ty rm) := of_words _ 2 rfl (by decide) rfl
theorem fgetx (h : OpWord) (ty : FTy) : Statement (.fgetx h ty) := of_words _ 1 rfl (by decide) rfl
theorem fdiv (h : OpWord) (ty : FTy) : Statement (.fdiv h ty) := of_words _ 1 rfl (by decide) rfl
theorem fdivRounding (h : OpWord) (ty : FTy) (rm : Rm) : Statement (.fdivRounding h ty rm) := of_words _ 2 rfl (by decide) rfl
theorem fsqrt (h : OpWord) (ty : FTy) : Statement (.fsqrt h ty) := of_words _ 1 rfl (by decide) rfl
theorem fsqrtRounding (h : OpWord) (ty : FTy) (rm : Rm) : Statement (.fsqrtRounding h ty rm) := of_words _ 2 rfl (by decide) rfl
theorem frcp (h : OpWord) : Statement (.frcp h) := of_words _ 1 rfl (by decide) rfl
theorem frsq (h : OpWord) : Statement (.frsq h) := of_words _ 1 rfl (by decide) rfl
theorem frcps (h : OpWord) : Statement (.frcps h) := of_words _ 1 rfl (by decide) rfl
theorem frsqs (h : OpWord) : Statement (.frsqs h) := of_words _ 1 rfl (by decide) rfl
theorem fexp2f (h : OpWord) : Statement (.fexp2f h) := of_words _ 1 rfl (by decide) rfl
theorem flog2f (h : OpWord) : Statement (.flog2f h) := of_words _ 1 rfl (by decide) rfl
theorem vrun (h : OpWord) (count : BitVec 5) (first : BitVec 5) : Statement (.vrun h count first) := of_words _ 2 rfl (by decide) rfl
theorem vred (h : OpWord) (ty : VOp) : Statement (.vred h ty) := of_words _ 1 rfl (by decide) rfl
theorem vscan (h : OpWord) (ty : VOp) : Statement (.vscan h ty) := of_words _ 1 rfl (by decide) rfl
theorem vbcast (h : OpWord) (j : BitVec 5) : Statement (.vbcast h j) := of_words _ 2 rfl (by decide) rfl
theorem vlane (h : OpWord) (mode : VlaneMode) (k : BitVec 5) : Statement (.vlane h mode k) := of_words _ 2 rfl (by decide) rfl
theorem vshuf (h : OpWord) : Statement (.vshuf h) := of_words _ 1 rfl (by decide) rfl
theorem viota (h : OpWord) (offset : BitVec 32) : Statement (.viota h offset) := of_words _ 2 rfl (by decide) rfl
theorem ld (h : OpWord) (ty : LdTy) : Statement (.ld h ty) := of_words _ 1 rfl (by decide) rfl
theorem st (h : OpWord) (ty : StTy) : Statement (.st h ty) := of_words _ 1 rfl (by decide) rfl
theorem ldv (h : OpWord) (sh : BitVec 3) (high : BitVec 24) : Statement (.ldv h sh high) := of_words _ 2 rfl (by decide) rfl
theorem stv (h : OpWord) (high : BitVec 24) : Statement (.stv h high) := of_words _ 2 rfl (by decide) rfl
theorem atom (h : OpWord) (opc : AtomOp) (ord : MemOrd) (scope : BitVec 3) (g : BitVec 1) (hi : BitVec 16) : Statement (.atom h opc ord scope g hi) := of_words _ 2 rfl (by decide) rfl
theorem cas (h : OpWord) (ord : MemOrd) (scope : BitVec 3) (g : BitVec 1) (hi : BitVec 16) : Statement (.cas h ord scope g hi) := by
  refine ⟨?_, length_flatMap_wordBytes _, ?_⟩ <;> (simp only [encodeWords]; split <;> simp [Instr.opWord?])
theorem ldlk (h : OpWord) : Statement (.ldlk h) := of_words _ 1 rfl (by decide) rfl
theorem stul (h : OpWord) : Statement (.stul h) := of_words _ 1 rfl (by decide) rfl
theorem fence (h : OpWord) (kind : FenceKind) (scope : BitVec 3) : Statement (.fence h kind scope) := of_words _ 2 rfl (by decide) rfl
theorem pref (h : OpWord) : Statement (.pref h) := of_words _ 1 rfl (by decide) rfl
theorem tstateFill (h : OpWord) : Statement (.tstateFill h) := of_words _ 1 rfl (by decide) rfl
theorem tstatePublish (h : OpWord) : Statement (.tstatePublish h) := of_words _ 1 rfl (by decide) rfl
theorem tstateDrain (h : OpWord) : Statement (.tstateDrain h) := of_words _ 1 rfl (by decide) rfl
theorem tstateRelease (h : OpWord) : Statement (.tstateRelease h) := of_words _ 1 rfl (by decide) rfl
theorem twait (h : OpWord) : Statement (.twait h) := of_words _ 1 rfl (by decide) rfl
theorem sopen (h : OpWord) (node : BitVec 4) : Statement (.sopen h node) := of_words _ 2 rfl (by decide) rfl
theorem sclose (h : OpWord) (node : BitVec 4) : Statement (.sclose h node) := of_words _ 2 rfl (by decide) rfl
theorem grows (h : OpWord) (tile : BitVec 8) (desc : BitVec 12) (rowoff : BitVec 12) : Statement (.grows h tile desc rowoff) := of_words _ 2 rfl (by decide) rfl
theorem scat (h : OpWord) (tile : BitVec 8) (desc : BitVec 12) (rowoff : BitVec 12) : Statement (.scat h tile desc rowoff) := of_words _ 2 rfl (by decide) rfl
theorem cwalk (h : OpWord) (first : BitVec 5) (cnt : BitVec 5) : Statement (.cwalk h first cnt) := of_words _ 2 rfl (by decide) rfl
theorem stld (h : OpWord) (a : BitVec 3) : Statement (.stld h a) := of_words _ 2 rfl (by decide) rfl
theorem sisect (h : OpWord) (n : BitVec 5) (b : BitVec 3) (a : BitVec 3) : Statement (.sisect h n b a) := of_words _ 2 rfl (by decide) rfl
theorem sunion (h : OpWord) (n : BitVec 5) (b : BitVec 3) (a : BitVec 3) : Statement (.sunion h n b a) := of_words _ 2 rfl (by decide) rfl
theorem sdiff (h : OpWord) (n : BitVec 5) (b : BitVec 3) (a : BitVec 3) : Statement (.sdiff h n b a) := of_words _ 2 rfl (by decide) rfl
theorem smadd (h : OpWord) (fp : BitVec 1) (n : BitVec 5) (b : BitVec 3) (a : BitVec 3) : Statement (.smadd h fp n b a) := of_words _ 2 rfl (by decide) rfl
theorem snext (h : OpWord) (n : BitVec 5) (a : BitVec 3) : Statement (.snext h n a) := of_words _ 2 rfl (by decide) rfl
theorem stst (h : OpWord) (a : BitVec 3) : Statement (.stst h a) := of_words _ 2 rfl (by decide) rfl
theorem cred (h : OpWord) (op : CredOp) (fmt : Fmt) (mode : BitVec 1) (scope : BitVec 3) : Statement (.cred h op fmt mode scope) := of_words _ 2 rfl (by decide) rfl
theorem cbc (h : OpWord) (scope : BitVec 3) (root : BitVec 12) : Statement (.cbc h scope root) := of_words _ 2 rfl (by decide) rfl
theorem cag (h : OpWord) (scope : BitVec 3) : Statement (.cag h scope) := of_words _ 2 rfl (by decide) rfl
theorem ca2a (h : OpWord) (scope : BitVec 3) : Statement (.ca2a h scope) := of_words _ 2 rfl (by decide) rfl
theorem mld (h : OpWord) (fmt : Fmt) (reg : BitVec 4) (tile : BitVec 8) (pten : BitVec 1) (pt : BitVec 4) (t : BitVec 1) (mo : BitVec 1) (kind : MKind) : Statement (.mld h fmt reg tile pten pt t mo kind) := of_words _ 2 rfl (by decide) rfl
theorem mst (h : OpWord) (fmt : Fmt) (reg : BitVec 4) (tile : BitVec 8) (pten : BitVec 1) (pt : BitVec 4) (t : BitVec 1) (mo : BitVec 1) (kind : MKind) : Statement (.mst h fmt reg tile pten pt t mo kind) := of_words _ 2 rfl (by decide) rfl
theorem mzero (h : OpWord) (acc : BitVec 3) (int : BitVec 1) (empty : BitVec 1) : Statement (.mzero h acc int empty) := of_words _ 2 rfl (by decide) rfl
theorem mma (h : OpWord) (fmt : Fmt) (acc : BitVec 3) (ma : BitVec 4) (mb : BitVec 4) : Statement (.mma h fmt acc ma mb) := of_words _ 2 rfl (by decide) rfl
theorem mmsp (h : OpWord) (fmt : Fmt) (acc : BitVec 3) (ma : BitVec 4) (mb : BitVec 4) (md : BitVec 3) (pat : BitVec 1) : Statement (.mmsp h fmt acc ma mb md pat) := of_words _ 2 rfl (by decide) rfl
theorem mcomp (h : OpWord) (fmt : Fmt) (ma : BitVec 4) (ms : BitVec 4) (md : BitVec 3) (pat : BitVec 1) (gap : BitVec 3) : Statement (.mcomp h fmt ma ms md pat gap) := of_words _ 2 rfl (by decide) rfl
theorem mqnt (h : OpWord) (fmt : Fmt) (acc : BitVec 3) (ma : BitVec 4) (gap : BitVec 3) (orient : BitVec 1) : Statement (.mqnt h fmt acc ma gap orient) := of_words _ 2 rfl (by decide) rfl
theorem mdeq (h : OpWord) (df : Fmt) (sf : Fmt) (ma : BitVec 4) (ms : BitVec 4) (strict : BitVec 1) : Statement (.mdeq h df sf ma ms strict) := of_words _ 2 rfl (by decide) rfl
theorem mtrn (h : OpWord) (ma : BitVec 4) (ms : BitVec 4) : Statement (.mtrn h ma ms) := of_words _ 2 rfl (by decide) rfl
theorem maccr (h : OpWord) (acc : BitVec 3) (row : BitVec 6) (half : BitVec 1) (w : BitVec 1) : Statement (.maccr h acc row half w) := of_words _ 2 rfl (by decide) rfl
theorem mcor (h : OpWord) (acc : BitVec 3) (mk : BitVec 4) (mv : BitVec 4) (ss : BitVec 2) (gd : BitVec 2) (n : BitVec 5) (half : BitVec 1) : Statement (.mcor h acc mk mv ss gd n half) := of_words _ 2 rfl (by decide) rfl
theorem mtri (h : OpWord) (acc : BitVec 3) (mk : BitVec 4) (ss : BitVec 2) (c : BitVec 6) : Statement (.mtri h acc mk ss c) := of_words _ 2 rfl (by decide) rfl
theorem mwy (h : OpWord) (acc : BitVec 3) (atri : BitVec 3) (mk : BitVec 4) (mv : BitVec 4) (gd : BitVec 2) (c : BitVec 6) : Statement (.mwy h acc atri mk mv gd c) := of_words _ 2 rfl (by decide) rfl
theorem mstep (h : OpWord) (ss : BitVec 2) (mode : BitVec 1) : Statement (.mstep h ss mode) := of_words _ 2 rfl (by decide) rfl
theorem mgrd (h : OpWord) (gd : BitVec 2) : Statement (.mgrd h gd) := of_words _ 2 rfl (by decide) rfl
theorem ptset (h : OpWord) (pt : BitVec 4) (half : BitVec 1) : Statement (.ptset h pt half) := of_words _ 2 rfl (by decide) rfl
theorem ptop (h : OpWord) (pd : BitVec 4) (pa : BitVec 4) (pb : BitVec 4) (op : PtOp) : Statement (.ptop h pd pa pb op) := of_words _ 2 rfl (by decide) rfl
theorem ply (h : OpWord) (acc : BitVec 3) (mq : BitVec 4) (mk : BitVec 4) (mv : BitVec 4) (first : BitVec 1) (causal : BitVec 1) : Statement (.ply h acc mq mk mv first causal) := of_words _ 2 rfl (by decide) rfl
theorem plyc (h : OpWord) (a : BitVec 3) (b : BitVec 3) : Statement (.plyc h a b) := of_words _ 2 rfl (by decide) rfl
theorem plyf (h : OpWord) (acc : BitVec 3) : Statement (.plyf h acc) := of_words _ 2 rfl (by decide) rfl
theorem warp (h : OpWord) : Statement (.warp h) := of_words _ 2 rfl (by decide) rfl
theorem reel (h : OpWord) (append : BitVec 1) : Statement (.reel h append) := of_words _ 2 rfl (by decide) rfl
theorem camld (h : OpWord) (bv : BitVec 3) : Statement (.camld h bv) := of_words _ 2 rfl (by decide) rfl
theorem camst (h : OpWord) (bv : BitVec 3) : Statement (.camst h bv) := of_words _ 2 rfl (by decide) rfl
theorem camcomp (h : OpWord) (bvd : BitVec 3) (bvs : BitVec 3) : Statement (.camcomp h bvd bvs) := of_words _ 2 rfl (by decide) rfl
theorem pgath (h : OpWord) (bv : BitVec 3) (tile : BitVec 8) (rowoff : BitVec 12) (psel : PSel) : Statement (.pgath h bv tile rowoff psel) := of_words _ 2 rfl (by decide) rfl
theorem pmarch (h : OpWord) (bv : BitVec 3) (tile : BitVec 8) (rowoff : BitVec 12) (psel : PSel) : Statement (.pmarch h bv tile rowoff psel) := of_words _ 2 rfl (by decide) rfl
theorem pscat (h : OpWord) (bv : BitVec 3) (tile : BitVec 8) (rowoff : BitVec 12) : Statement (.pscat h bv tile rowoff) := of_words _ 2 rfl (by decide) rfl
theorem pstep (h : OpWord) (store : BitVec 6) : Statement (.pstep h store) := of_words _ 2 rfl (by decide) rfl
theorem pstat (h : OpWord) (clr : BitVec 1) (which : PWhich) (bv : BitVec 3) : Statement (.pstat h clr which bv) := of_words _ 2 rfl (by decide) rfl
theorem skbind (h : OpWord) (bind : BitVec 3) : Statement (.skbind h bind) := of_words _ 2 rfl (by decide) rfl
theorem spin (h : OpWord) (bind : BitVec 3) : Statement (.spin h bind) := of_words _ 2 rfl (by decide) rfl
theorem draw (h : OpWord) (bind : BitVec 3) : Statement (.draw h bind) := of_words _ 2 rfl (by decide) rfl
theorem skupd (h : OpWord) (inc : BitVec 8) (bind : BitVec 3) : Statement (.skupd h inc bind) := of_words _ 2 rfl (by decide) rfl
theorem skrd (h : OpWord) (word : BitVec 5) (bind : BitVec 3) : Statement (.skrd h word bind) := of_words _ 2 rfl (by decide) rfl
theorem skwr (h : OpWord) (word : BitVec 5) (bind : BitVec 3) : Statement (.skwr h word bind) := of_words _ 2 rfl (by decide) rfl
theorem deviceReset (cores : List Nat) (elems : FabricFaults) : Statement (.deviceReset cores elems) := of_words _ 0 rfl (by decide) rfl
theorem supplySagTrip (die : Nat) : Statement (.supplySagTrip die) := of_words _ 0 rfl (by decide) rfl
theorem stretchStepUp (die : Nat) : Statement (.stretchStepUp die) := of_words _ 0 rfl (by decide) rfl
theorem stretchStepDown (die : Nat) : Statement (.stretchStepDown die) := of_words _ 0 rfl (by decide) rfl
theorem packagePowerOverCap : Statement (.packagePowerOverCap) := of_words _ 0 rfl (by decide) rfl
theorem hardSagStop (die : Nat) : Statement (.hardSagStop die) := of_words _ 0 rfl (by decide) rfl
theorem hardSagRestart (die : Nat) : Statement (.hardSagRestart die) := of_words _ 0 rfl (by decide) rfl
theorem powerCapWrite (value : Word) : Statement (.powerCapWrite value) := of_words _ 0 rfl (by decide) rfl
theorem twinikFlitReceive (port : Nat) (header : Word) (payload : List Byte) (check : Word) : Statement (.twinikFlitReceive port header payload check) := of_words _ 0 rfl (by decide) rfl
theorem twinikNakReceive (port seq : Nat) : Statement (.twinikNakReceive port seq) := of_words _ 0 rfl (by decide) rfl
theorem twinikAckReceive (module id : Nat) : Statement (.twinikAckReceive module id) := of_words _ 0 rfl (by decide) rfl
theorem undeliverableResponse (module : Nat) (alternate : Bool) (write : Option Nat) : Statement (.undeliverableResponse module alternate write) := of_words _ 0 rfl (by decide) rfl
theorem portRetrain (port : Nat) : Statement (.portRetrain port) := of_words _ 0 rfl (by decide) rfl
theorem portRetrainDone (port : Nat) (ok : Bool) : Statement (.portRetrainDone port ok) := of_words _ 0 rfl (by decide) rfl
theorem portRetire (port : Nat) : Statement (.portRetire port) := of_words _ 0 rfl (by decide) rfl
theorem routeTableWrite (module word value : Nat) : Statement (.routeTableWrite module word value) := of_words _ 0 rfl (by decide) rfl
theorem handoverTransfer (hand : Handoff) (res : CheckResult) : Statement (.handoverTransfer hand res) := of_words _ 0 rfl (by decide) rfl
theorem handoverRetry (passed : Bool) : Statement (.handoverRetry passed) := of_words _ 0 rfl (by decide) rfl
theorem firmwareLoad (len : Nat) (cores : List Nat) (elems : FabricFaults) : Statement (.firmwareLoad len cores elems) := of_words _ 0 rfl (by decide) rfl
theorem measurementExtend (reg : Nat) : Statement (.measurementExtend reg) := of_words _ 0 rfl (by decide) rfl
theorem quoteBuild : Statement (.quoteBuild) := of_words _ 0 rfl (by decide) rfl
theorem registerWrite (vf : Option Nat) (offset value : Nat) : Statement (.registerWrite vf offset value) := of_words _ 0 rfl (by decide) rfl
theorem bar4Access (part link func va : Nat) (access : HostAccess) : Statement (.bar4Access part link func va access) := of_words _ 0 rfl (by decide) rfl
theorem launchWindowWrite (vf : Option Nat) (offset : Nat) (bytes : List Byte) : Statement (.launchWindowWrite vf offset bytes) := of_words _ 0 rfl (by decide) rfl
theorem launchAccept (part prio : Nat) (bad : Bool) : Statement (.launchAccept part prio bad) := of_words _ 0 rfl (by decide) rfl
theorem spillReturn (part prio : Nat) (bad : Bool) : Statement (.spillReturn part prio bad) := of_words _ 0 rfl (by decide) rfl
theorem partitionEnable (part : Nat) : Statement (.partitionEnable part) := of_words _ 0 rfl (by decide) rfl
theorem partitionDisable (part : Nat) : Statement (.partitionDisable part) := of_words _ 0 rfl (by decide) rfl
theorem partitionResize (part granules : Nat) : Statement (.partitionResize part granules) := of_words _ 0 rfl (by decide) rfl
theorem waitWordPoll (lid : Nat) : Statement (.waitWordPoll lid) := of_words _ 0 rfl (by decide) rfl
theorem launchAging (lid us : Nat) : Statement (.launchAging lid us) := of_words _ 0 rfl (by decide) rfl
theorem placementPass (part : Nat) : Statement (.placementPass part) := of_words _ 0 rfl (by decide) rfl
theorem argumentCopy (lid : Nat) : Statement (.argumentCopy lid) := of_words _ 0 rfl (by decide) rfl
theorem launchComplete (lid : Nat) : Statement (.launchComplete lid) := of_words _ 0 rfl (by decide) rfl
theorem launchCancel (part lnum : Nat) : Statement (.launchCancel part lnum) := of_words _ 0 rfl (by decide) rfl
theorem launchWatchdogExpiry (lid : Nat) : Statement (.launchWatchdogExpiry lid) := of_words _ 0 rfl (by decide) rfl
theorem watchdogTrapUnanswered (lid : Nat) : Statement (.watchdogTrapUnanswered lid) := of_words _ 0 rfl (by decide) rfl
theorem withheldFaultRecordPost (queue : Nat) : Statement (.withheldFaultRecordPost queue) := of_words _ 0 rfl (by decide) rfl
theorem faultResponseRetry (part id : Nat) : Statement (.faultResponseRetry part id) := of_words _ 0 rfl (by decide) rfl
theorem faultResponseFail (part id : Nat) : Statement (.faultResponseFail part id) := of_words _ 0 rfl (by decide) rfl
theorem coreRetire (core : Nat) (device usable : Bool) : Statement (.coreRetire core device usable) := of_words _ 0 rfl (by decide) rfl
theorem launchResume (lid : Nat) : Statement (.launchResume lid) := of_words _ 0 rfl (by decide) rfl
theorem tlbInvalidate (part size va : Nat) : Statement (.tlbInvalidate part size va) := of_words _ 0 rfl (by decide) rfl
theorem tlbInvalidateDone (part : Nat) : Statement (.tlbInvalidateDone part) := of_words _ 0 rfl (by decide) rfl
theorem pageWalk (core va : Nat) : Statement (.pageWalk core va) := of_words _ 0 rfl (by decide) rfl
theorem spawnGrant (core : Nat) : Statement (.spawnGrant core) := of_words _ 0 rfl (by decide) rfl
theorem colourRelease (core colour : Nat) : Statement (.colourRelease core colour) := of_words _ 0 rfl (by decide) rfl
theorem blockAdmission (core iid : Nat) : Statement (.blockAdmission core iid) := of_words _ 0 rfl (by decide) rfl
theorem blockMapping (core : Nat) : Statement (.blockMapping core) := of_words _ 0 rfl (by decide) rfl
theorem tokenArrival (core n : Nat) : Statement (.tokenArrival core n) := of_words _ 0 rfl (by decide) rfl
theorem instanceCommit (core : Nat) : Statement (.instanceCommit core) := of_words _ 0 rfl (by decide) rfl
theorem arbourArrival (core : Nat) : Statement (.arbourArrival core) := of_words _ 0 rfl (by decide) rfl
theorem barrierTimeout (core k : Nat) : Statement (.barrierTimeout core k) := of_words _ 0 rfl (by decide) rfl
theorem frameExhaustion (core : Nat) : Statement (.frameExhaustion core) := of_words _ 0 rfl (by decide) rfl
theorem queueStall (core : Nat) (what : StallAt) : Statement (.queueStall core what) := of_words _ 0 rfl (by decide) rfl
theorem configEccError (core block elem : Nat) (corrected : Bool) (unread : List Nat) : Statement (.configEccError core block elem corrected unread) := of_words _ 0 rfl (by decide) rfl
theorem configReload (core block : Nat) : Statement (.configReload core block) := of_words _ 0 rfl (by decide) rfl
theorem nodeElementRead (core node : Nat) : Statement (.nodeElementRead core node) := of_words _ 0 rfl (by decide) rfl
theorem shuttleEntryStart (core : Nat) : Statement (.shuttleEntryStart core) := of_words _ 0 rfl (by decide) rfl
theorem shuttleRowCopy (core entry : Nat) : Statement (.shuttleRowCopy core entry) := of_words _ 0 rfl (by decide) rfl
theorem shuttleCompletionPost (core : Nat) : Statement (.shuttleCompletionPost core) := of_words _ 0 rfl (by decide) rfl
theorem burtexAtomic (core : Nat) : Statement (.burtexAtomic core) := of_words _ 0 rfl (by decide) rfl
theorem atommodeSwitch (core : Nat) : Statement (.atommodeSwitch core) := of_words _ 0 rfl (by decide) rfl
theorem lockGrant (core : Nat) : Statement (.lockGrant core) := of_words _ 0 rfl (by decide) rfl
theorem reelPageFill (core : Nat) : Statement (.reelPageFill core) := of_words _ 0 rfl (by decide) rfl
theorem scatterWriteBuffer (part store n : Nat) : Statement (.scatterWriteBuffer part store n) := of_words _ 0 rfl (by decide) rfl
theorem worldStepArrival (core : Nat) : Statement (.worldStepArrival core) := of_words _ 0 rfl (by decide) rfl
theorem worldStepClose (part store : Nat) : Statement (.worldStepClose part store) := of_words _ 0 rfl (by decide) rfl
theorem collectiveComplete : Statement (.collectiveComplete) := of_words _ 0 rfl (by decide) rfl
theorem proxyAbsenceReceive (module gid : Nat) : Statement (.proxyAbsenceReceive module gid) := of_words _ 0 rfl (by decide) rfl
theorem proxyWithdrawalReceive (module gid : Nat) : Statement (.proxyWithdrawalReceive module gid) := of_words _ 0 rfl (by decide) rfl
theorem trapDelivery (core : Nat) : Statement (.trapDelivery core) := of_words _ 0 rfl (by decide) rfl
theorem preemptGating (lid : Nat) : Statement (.preemptGating lid) := of_words _ 0 rfl (by decide) rfl
theorem quiescence (core : Nat) : Statement (.quiescence core) := of_words _ 0 rfl (by decide) rfl
theorem drainLimitExpiry (core : Nat) : Statement (.drainLimitExpiry core) := of_words _ 0 rfl (by decide) rfl
theorem imageSave (core : Nat) : Statement (.imageSave core) := of_words _ 0 rfl (by decide) rfl
theorem saveResume (part id : Nat) : Statement (.saveResume part id) := of_words _ 0 rfl (by decide) rfl
theorem saveAbandon (part id : Nat) : Statement (.saveAbandon part id) := of_words _ 0 rfl (by decide) rfl
theorem preemptRetry (lid : Nat) : Statement (.preemptRetry lid) := of_words _ 0 rfl (by decide) rfl
theorem launchRestore (core : Nat) : Statement (.launchRestore core) := of_words _ 0 rfl (by decide) rfl
theorem quoteComplete : Statement (.quoteComplete) := of_words _ 0 rfl (by decide) rfl

end Sys2Proof.Laws.EncodingLength
end

