-- ==== Sys2Proof/Tests/Slice0.lean ====
section
/-! SUPPORT. Tests: ill-formed terms that WellFormed refuses, words written out from the spec's encodings that
decode to their instructions, single steps, and witnesses that the hypotheses of the obligations can be met. -/

namespace Sys2Proof.Tests.Slice0

set_option Elab.async false

open Sys2Proof Sys2Proof.Machine Sys2Proof.Claims

/-! ### Words (R231) -/

/-- A head with TG 0. -/
def head (ar : BitVec 2) (t0 t1 : BitVec 9) : OpWord := { ar := ar, tg := 0, t0 := t0, t1 := t1 }

/-- An operation word from its fields (R231), TG 0. -/
def word (op ar ty t0 t1 : Nat) : Nat := op * 2 ^ 25 + ar * 2 ^ 23 + ty * 2 ^ 18 + t0 * 2 ^ 9 + t1

/-- Whether every word, with its extension word, decodes to its instruction. -/
abbrev reads (rows : List (Nat × Nat × Instr)) : Prop :=
  rows.map (fun r => decodeWords r.1 r.2.1) = rows.map fun r => Except.ok r.2.2


/-- The sequencer forms (R254): the worked words of the spec, the others from R231 and the table. -/
def wordsControl : List (Nat × Nat × Instr) :=
  [(0x00000000, 0x00000000, .bra (head 0 0 0) 0),
   (0x00800000, 0xFFFF0001, .bra (head 1 0 0) 0xFFFF0001),
   (word 0x01 1 0 0 0, 0, .bri (head 1 0 0)),
   (word 0x02 0 0 0 0, 0x00050003, .callb (head 0 0 0) 5 3),
   (word 0x03 0 0 0 0, 0, .retb (head 0 0 0)),
   (0x08802E19, 0x00040000, .spawn (head 1 23 25) 4),
   (word 0x05 1 0 0 0, 0, .sret (head 1 0 0)),
   (word 0x06 1 0 9 0, 7, .tagenter (head 1 9 0) 7),
   (word 0x07 1 0 9 0, 0, .tagleave (head 1 9 0)),
   (word 0x08 1 0 9 0, 31, .read (head 1 9 0) 31),
   (word 0x09 1 0 0 0, 5, .write (head 1 0 0) 5),
   (word 0x0A 0 0 9 0, 0, .phase (head 0 9 0)),
   (0x17009400, 0, .join (head 2 74 0)),
   (0x18000000, 0x00000420, .rep (head 0 0 0) 4 2),
   (word 0x0D 1 0 9 0, 0, .shadv (head 1 9 0)),
   (0x1A843A00, 0x000F0000, .bobinit (head 1 29 0) 15 0),
   (0x1A081200, 0x00000003, .bobwait (head 0 9 0) 0 3),
   (0x1A8C0000, 0x00000103, .bobrel (head 1 0 0) 1 3),
   (word 0x0E 1 0 9 0, 0xBEEF, .syscall (head 1 9 0) 0xBEEF),
   (word 0x0E 0 1 9 0, 7, .brk (head 0 9 0) 7),
   (word 0x0E 2 2 9 0, 0, .trapif (head 2 9 0)),
   (0x1C8C0000, 0, .eret (head 1 0 0)),
   (0x1C100000, 0, .endl (head 0 0 0)),
   (word 0x0F 1 0 9 0, 0x100, .mfsr (head 1 9 0) 0x100),
   (0x1E840000, 0x00000100, .mtsr (head 1 0 0) 0x100)]

theorem test_decode_control : reads wordsControl := rfl

/-- The integer and logic forms (R240). -/
def wordsInteger : List (Nat × Nat × Instr) :=
  [(word 0x10 0 0 9 0, 0xDEADBEEF, .const (head 0 9 0) 0xDEADBEEF),
   (word 0x11 1 0 9 14, 0, .mov (head 1 9 14)),
   (word 0x12 2 0 9 0, 0, .add (head 2 9 0) .s32),
   (word 0x13 2 1 9 0, 0, .sub (head 2 9 0) .u32),
   (word 0x14 2 2 9 0, 0, .mul (head 2 9 0) .s8),
   (word 0x15 2 3 9 0, 0, .mulh (head 2 9 0) .u8),
   (word 0x16 3 4 9 0, 0, .mad (head 3 9 0) .s4),
   (word 0x17 2 0 9 0, 0, .div (head 2 9 0) .s32),
   (word 0x18 3 1 9 0, 0, .rem (head 3 9 0) .u32),
   (0x33003400, 0, .and (head 2 26 0)),
   (word 0x1A 2 0 9 0, 0, .or (head 2 9 0)),
   (word 0x1B 2 0 9 0, 0, .xor (head 2 9 0)),
   (word 0x1C 2 0 9 0, 0, .andn (head 2 9 0)),
   (word 0x1D 3 0 9 0, 0, .shl (head 3 9 0) .s32),
   (word 0x1E 3 1 9 0, 0, .shr (head 3 9 0) .u32),
   (word 0x1F 3 2 9 0, 0, .sra (head 3 9 0) .s8),
   (word 0x20 2 0 9 0, 0, .rotl (head 2 9 0)),
   (word 0x21 1 0 9 0, 0, .clz (head 1 9 0)),
   (word 0x22 1 0 9 0, 0, .popc (head 1 9 0)),
   (word 0x23 2 3 9 0, 0, .min (head 2 9 0) .u8),
   (word 0x24 2 4 9 0, 0, .max (head 2 9 0) .s4),
   (word 0x25 1 0 9 0, 0, .abs (head 1 9 0) .s32),
   (word 0x26 1 2 9 0, 0, .neg (head 1 9 0) .s8),
   (word 0x27 2 0 9 0, 0, .addsat (head 2 9 0) .s32),
   (word 0x28 2 1 9 0, 0, .subsat (head 2 9 0) .u32),
   (0x53084627, 0, .cmp (head 2 35 39) .lt),
   (0x53118600, 0, .cmp (head 2 195 0) .ltu),
   (word 0x2A 3 0 9 14, 0, .sel (head 3 9 14)),
   (word 0x2B 2 0 11 15, 0, .tst (head 2 11 15)),
   (word 0x2C 1 0 9 0, 0x507, .extr (head 1 9 0) 1 8 7),
   (word 0x2D 2 0 9 0, 0x107, .ins (head 2 9 0) 8 7),
   (0x5D00CA00, 2, .lea (head 2 101 0) 2),
   (word 0x2F 2 2 9 0, 0, .packn (head 2 9 0) .s8),
   (word 0x30 1 0 9 0, 1, .unpackn (head 1 9 0) .s32 1),
   (0x62841A1B, 0, .unt5 (head 1 13 27) .strict),
   (0x65092200, 0, .acct (head 2 145 0) .s8),
   (word 0x33 2 3 9 0, 0, .dotp (head 2 9 0) .u8)]

theorem test_decode_integer : reads wordsInteger := rfl

/-- The floating-point forms (R241). -/
def wordsFloat : List (Nat × Nat × Instr) :=
  [(word 0x38 2 0 9 0, 0, .fadd (head 2 9 0) .f32),
   (word 0x39 2 1 9 0, 0, .fsub (head 2 9 0) .f16),
   (word 0x3A 2 2 9 0, 0, .fmul (head 2 9 0) .bf16),
   (word 0x3B 2 0 9 0, 0, .fma (head 2 9 0) .f32),
   (0x71182200, 1, .faddRounding (head 2 17 0) .bf16 .rz),
   (word 0x39 2 4 9 0, 2, .fsubRounding (head 2 9 0) .f32 .ru),
   (word 0x3A 2 5 9 0, 3, .fmulRounding (head 2 9 0) .f16 .rd),
   (word 0x3B 2 6 9 0, 0, .fmaRounding (head 2 9 0) .bf16 .rne),
   (word 0x43 2 4 9 0, 1, .fexpiRounding (head 2 9 0) .f32 .rz),
   (word 0x45 2 5 9 0, 2, .fdivRounding (head 2 9 0) .f16 .ru),
   (word 0x46 1 6 9 0, 3, .fsqrtRounding (head 1 9 0) .bf16 .rd),
   (word 0x3C 3 0 9 0, 0, .fmin (head 3 9 0) .f32),
   (word 0x3D 3 1 9 0, 0, .fmax (head 3 9 0) .f16),
   (word 0x3E 2 2 9 0, 1, .fsgn (head 2 9 0) .bf16 .neg),
   (word 0x3F 2 0 11 15, 5, .fcmp (head 2 11 15) .f32 .un),
   (word 0x40 1 1 9 0, 0, .fclass (head 1 9 0) .f16),
   (0x82802A00, 0x410, .fcvt (head 1 21 0) 1 .rne .fp16 .fp32),
   (word 0x42 1 0 9 0, 2, .frint (head 1 9 0) .f32 .ru),
   (word 0x43 2 1 9 0, 0, .fexpi (head 2 9 0) .f16),
   (word 0x44 1 2 9 0, 0, .fgetx (head 1 9 0) .bf16),
   (word 0x45 2 0 9 0, 0, .fdiv (head 2 9 0) .f32),
   (word 0x46 1 0 9 0, 0, .fsqrt (head 1 9 0) .f32),
   (word 0x47 1 0 9 0, 0, .frcp (head 1 9 0)),
   (word 0x48 1 0 9 0, 0, .frsq (head 1 9 0)),
   (word 0x4B 1 0 9 0, 0, .fexp2f (head 1 9 0)),
   (word 0x4C 1 0 9 0, 0, .flog2f (head 1 9 0)),
   (word 0x49 2 0 9 0, 0, .frcps (head 2 9 0)),
   (word 0x4A 2 0 9 0, 0, .frsqs (head 2 9 0))]

theorem test_decode_float : reads wordsFloat := rfl

/-- The vector-run forms (R242). -/
def wordsVector : List (Nat × Nat × Instr) :=
  [(word 0x50 1 0 9 0, 0x3F0, .vrun (head 1 9 0) 31 16),
   (0xA2805200, 0, .vred (head 1 41 0) .addS32),
   (word 0x52 1 5 9 0, 0, .vscan (head 1 9 0) .maxF32),
   (word 0x53 1 0 9 0, 30, .vbcast (head 1 9 0) 30),
   (0xA8814400, 0x21, .vlane (head 1 162 0) .down 1),
   (word 0x55 2 0 9 0, 0, .vshuf (head 2 9 0)),
   (0xAC00243A, 0, .viota (head 0 18 58) 0)]

theorem test_decode_vector : reads wordsVector := rfl

/-- The memory, synchronisation and stream-register forms (R243, R244). -/
def wordsMemory : List (Nat × Nat × Instr) :=
  [(0xB0900A00, 0, .ld (head 1 5 0) .w32),
   (0xB3082200, 0, .st (head 2 17 0) .w16),
   (0xB5010200, 0x02000000, .ldv (head 2 129 0) 2 0),
   (word 0x5B 2 0 9 0, 0x123456, .stv (head 2 9 0) 0x123456),
   (0xB9002A00, 0x0D800012, .atom (head 2 21 0) .add .acqRel 3 0 0x12),
   (0xBB00321F, 0x08800000, .cas (head 2 25 31) .release 1 0 0),
   (word 0x5E 1 0 9 0, 0, .ldlk (head 1 9 0)),
   (word 0x5F 2 0 9 0, 0, .stul (head 2 9 0)),
   (0xC0802A00, 0x14, .fence (head 1 21 0) .release 4),
   (word 0x61 1 0 9 0, 0, .pref (head 1 9 0)),
   (0xC4800000, 0, .tstateFill (head 1 0 0)),
   (word 0x62 1 1 0 0, 0, .tstatePublish (head 1 0 0)),
   (word 0x62 1 2 0 0, 0, .tstateDrain (head 1 0 0)),
   (word 0x62 1 3 0 0, 0, .tstateRelease (head 1 0 0)),
   (0xC680342A, 0, .twait (head 1 26 42)),
   (0xC8800A00, 5, .sopen (head 1 5 0) 5),
   (word 0x65 0 0 9 0, 15, .sclose (head 0 9 0) 15),
   (0xCC800000, 0x01002020, .grows (head 1 0 0) 1 2 32),
   (word 0x66 2 1 9 0, 0x07003FFF, .scat (head 2 9 0) 7 3 0xFFF),
   (0xCE80522D, 0x1F, .cwalk (head 1 41 45) 0 31),
   (word 0x68 1 0 9 0, 6, .stld (head 1 9 0) 6),
   (0xD2803A22, 0x611, .sisect (head 1 29 34) 3 2 1),
   (word 0x6A 0 0 9 14, 0x3E3B, .sunion (head 0 9 14) 31 7 3),
   (word 0x6B 1 0 9 14, 0x0201, .sdiff (head 1 9 14) 1 0 1),
   (word 0x6C 1 0 9 14, 0x460A, .smadd (head 1 9 14) 1 3 1 2),
   (word 0x6D 1 0 9 14, 0x0C05, .snext (head 1 9 14) 6 5),
   (word 0x6E 1 0 9 15, 4, .stst (head 1 9 15) 4)]

theorem test_decode_memory : reads wordsMemory := rfl

/-- The collective, matrix, Ply, Warper and Reel forms (R245, R246, R334). -/
def wordsMatrix : List (Nat × Nat × Instr) :=
  [(word 0x7E 1 0 9 0, 0x10300000, .cred (head 1 9 0) .min .fp32 0 3),
   (word 0x7E 1 1 9 0, 0x00401100, .cbc (head 1 9 0) 4 0x11),
   (word 0x7E 1 2 9 0, 0x00500000, .cag (head 1 9 0) 5),
   (word 0x7E 1 3 9 0, 0x00600000, .ca2a (head 1 9 0) 6),
   (0xE0804200, 0x200C0000, .mld (head 1 33 0) .bf16 0 12 0 0 0 0 .ma),
   (0xE2800000, 0x00020100, .mst (head 1 0 0) .fp32 0 2 0 0 0 0 .acc),
   (0xE4800000, 0x00800000, .mzero (head 1 0 0) 0 0 1),
   (0xE6802A00, 0x20460000, .mma (head 1 21 0) .bf16 0 2 3),
   (0xE8803A00, 0x72044000, .mmsp (head 1 29 0) .fb4 1 0 2 1 0),
   (word 0x75 1 0 9 0, 0x220B4000, .mcomp (head 1 9 0) .bf16 2 0 5 1 2),
   (word 0x76 1 0 9 0, 0x22CA0000, .mqnt (head 1 9 0) .bf16 1 6 2 1),
   (word 0x77 3 0 9 0, 0x25678000, .mdeq (head 3 9 0) .bf16 .fb8 6 7 1),
   (word 0x7F 1 0 9 0, 0x000C8000, .mtrn (head 1 9 0) 3 2),
   (word 0x7F 1 0 9 0, 0x0050F800, .maccr (head 1 9 0) 2 7 1 1),
   (0xFE804A00, 0x008A28FC, .mcor (head 1 37 0) 1 4 5 0 1 31 0),
   (0xFE809200, 0x00C88180, .mtri (head 1 73 0) 1 1 0 3),
   (0xFE800000, 0x01011203, .mwy (head 1 0 0) 0 1 1 2 0 3),
   (0xFE806C00, 0x01480000, .mstep (head 1 54 0) 0 1),
   (0xFE805C00, 0x01800000, .mgrd (head 1 46 0) 0),
   (word 0x7F 1 0 9 0, 0x01D60000, .ptset (head 1 9 0) 5 1),
   (word 0x7F 3 0 9 0, 0x02048E00, .ptop (head 3 9 0) 1 2 3 .xor),
   (0xFE801A00, 0x04100960, .ply (head 1 13 0) 2 0 1 2 1 1),
   (word 0x7F 1 0 9 0, 0x04560000, .plyc (head 1 9 0) 2 6),
   (word 0x7F 1 0 9 0, 0x04A00000, .plyf (head 1 9 0) 4),
   (word 0x7F 1 0 9 0, 0x04C00000, .warp (head 1 9 0)),
   (word 0x7F 1 0 9 0, 0x05200000, .reel (head 1 9 0) 1)]

theorem test_decode_matrix : reads wordsMatrix := rfl

/-- The projective, world-store and Spindle forms (R362, R383). -/
def wordsProjective : List (Nat × Nat × Instr) :=
  [(0xF0800A00, 2, .camld (head 1 5 0) 2),
   (0xF0840000, 2, .camst (head 1 0 0) 2),
   (0xF0881200, 0x1A, .camcomp (head 1 9 0) 3 2),
   (0xF3002217, 0x40A00080, .pgath (head 2 17 23) 2 5 0 .unseen),
   (0xF2843A00, 0x20E04000, .pmarch (head 1 29 0) 1 7 32 .hit),
   (0xF5004A00, 0x00C00000, .pscat (head 2 37 0) 0 6 0),
   (0xF6801A00, 3, .pstep (head 1 13 0) 3),
   (0xF6842A00, 0xA2, .pstat (head 1 21 0) 1 .conflost 2),
   (0xF8800A00, 1, .skbind (head 1 5 0) 1),
   (0xF8842A00, 1, .spin (head 1 21 0) 1),
   (0xF8883A23, 1, .draw (head 1 29 35) 1),
   (0xFA805200, 0x101, .skupd (head 1 41 0) 1 1),
   (word 0x7D 1 1 9 0, 0x2A, .skrd (head 1 9 0) 5 2),
   (0xFA881A00, 0x19, .skwr (head 1 13 0) 3 1)]

theorem test_decode_projective : reads wordsProjective := rfl

/-! ### Ill-formed terms that WellFormed refuses (R232, R248, R254 and the forms' entries) -/

/-- A head with AR `ar`, TG `tg` and no target. -/
def bare (ar tg : BitVec 2) : OpWord := { ar := ar, tg := tg, t0 := 0, t1 := 0 }

/-- Whether every term is refused. -/
abbrev refused (l : List Instr) : Prop := l.all (fun i => !i.wellFormed) = true

/-- Whether every term is accepted. -/
abbrev accepted (l : List Instr) : Prop := l.all Instr.wellFormed = true

theorem test_refuses_arity : refused
    [.bri (head 0 0 0), .join (head 1 9 0), .rep (head 1 0 0) 4 0, .const (head 1 9 0) 7, .mov (head 2 9 0),
     .add (head 1 9 0) .s32, .sel (head 2 9 0), .cas (head 3 9 0) .relaxed 0 0 0, .vred (head 0 9 0) .addS32,
     .mma (head 0 0 0) .bf16 0 0 0, .camcomp (head 2 0 0) 0 1, .draw (head 3 9 0) 1] := by decide

theorem test_refuses_targets : refused
    [.mov (head 1 8 0), .mov (head 1 482 0), .mov (head 1 0 9), .mov (head 1 9 12)] := by decide

theorem test_accepts_targets : accepted
    [.mov (head 1 9 14), .mov (head 1 481 0), .mov (head 1 0 0), .mov (head 1 479 481)] := by decide

theorem test_refuses_control_targets : refused
    [.bra (head 0 9 0) 0, .bri (head 1 9 0), .callb (head 0 9 0) 0 0, .retb (head 0 9 0), .sret (head 1 9 0),
     .write (head 1 9 0) 3, .rep (head 0 9 0) 4 0, .eret (head 1 9 0), .endl (head 0 9 0), .mtsr (head 1 9 0) 3,
     .mad (head 1 9 0) .s32, .fma (head 1 9 0) .f32, .cas (head 1 9 0) .relaxed 0 0 0] := by decide

theorem test_refuses_guards : refused
    [.bri (bare 1 1), .retb (bare 0 2), .sret (bare 1 1), .write (bare 1 1) 3, .trapif (bare 2 1), .eret (bare 1 1),
     .endl (bare 0 1), .mtsr (bare 1 1) 3, .mad (bare 1 1) .s32, .cas (bare 1 1) .relaxed 0 0 0] := by decide

theorem test_refuses_scalar_fields : refused
    [.callb (head 1 0 0) 1 0, .mfsr (head 1 9 0) 0x69, .mtsr (head 1 0 0) 0x248, .bobrel (head 1 0 0) 0 3,
     .extr (head 1 9 0) 0 28 4, .ins (head 2 9 0) 31 1, .fcvt (head 1 9 0) 2 .rne .fp32 .fp16,
     .fcvt (head 1 9 0) 0 .rz .int32 .int8, .fmaRounding (head 1 0 0) .f32 .rz, .vrun (head 1 9 0) 31 1] := by decide

theorem test_refuses_memory_fields : refused
    [.cwalk (head 1 9 0) 1 31, .sisect (head 1 9 0) 0 2 2, .sunion (head 1 9 0) 0 2 2, .sdiff (head 1 9 0) 0 2 2,
     .smadd (head 1 9 0) 0 0 2 2, .cas (head 1 0 0) .release 0 0 0, .cas (head 1 0 0) .relaxed 0 0 1] := by decide

theorem test_refuses_matrix_fields : refused
    [.mld (head 1 9 0) .bf16 8 0 0 0 0 0 .md, .mld (head 1 9 0) .tern5 0 0 0 0 1 0 .ma, .mst (head 1 0 0) .fp32 0 0 0 0 1 0 .acc,
     .mst (head 1 0 0) .bf16 0 0 0 0 0 1 .ma, .mzero (head 1 0 0) 3 0 1, .mmsp (head 1 0 0) .fb4 1 0 3 1 0,
     .mcomp (head 1 9 0) .bf16 2 1 5 1 2, .mwy (head 1 0 0) 1 1 1 2 0 3, .ply (head 1 0 0) 3 0 1 2 1 1,
     .plyc (head 1 0 0) 2 3, .plyc (head 1 0 0) 2 2, .plyf (head 1 0 0) 5] := by decide

theorem test_refuses_projective_fields : refused
    [.camcomp (head 1 9 0) 2 2, .pstat (head 1 9 0) 1 .lostbrick 2, .skupd (head 1 9 0) 0 1] := by decide

/-- Words the decoder refuses by name: an opcode, a TY, a SEC and a KIND that nothing assigns, and a bit the form's
entry does not list (R231, R246, R248, R334). -/
theorem test_decode_refuses :
    [decodeWords (word 0x4E 1 0 9 0) 0, decodeWords (word 0x12 2 5 9 0) 0, decodeWords (word 0x7F 1 0 9 0) 0x02400000,
     decodeWords (word 0x70 1 0 9 0) 0x20000180, decodeWords (word 0x08 1 0 9 0) 0x20] =
    [.error .reservedOpcode, .error .reservedTy, .error .reservedSec, .error .reservedField, .error .nonZeroBits] := by
  decide


/-! ### Witnesses

Each theorem below applies an obligation to a concrete state and concrete operands: its proof discharges every
hypothesis of the obligation there, so the hypotheses can be met together. -/

/-- An instruction completes in a state. -/
abbrev Runs (i : Instr) (s : State) : Prop := ∃ t, exec i s = .next t

/-- A lane that holds a value. -/
def ln (v : Nat) : Lane := { val := BitVec.ofNat 32 v, poison := false }

/-- A matched set at slot 0 of instance 0. -/
def set (l r t : List Nat) : Firing :=
  { iid := 0, slot := 0, elem := 0, first := 0, n := max 1 l.length, left := l.map ln, right := r.map ln, third := t.map ln,
    rep := none, answered := none, opTag := none, heldAt := none, skip := 0 }

/-- Tags of colours 0, 1 and 2, and one of colour 1 with a field. -/
def tag0 : Tag := { colour := 0, fields := [] }
def tag1 : Tag := { colour := 1, fields := [] }
def tag2 : Tag := { colour := 2, fields := [] }
def tagF (x : Nat) : Tag := { colour := 1, fields := [x] }

/-- The admitted instance 0 of the block at 64. -/
def inst (t : Tag) : Instance := { Instance.fresh 0 t 64 false with status := .admitted }

/-- A core with the live colours 0 to 2, of which 1 has a field of 2 bits, and one instance of a block of one slot. -/
def kore (t : Tag) (w x : Nat) : Core :=
  { Core.reset with
    placed := some { lid := 1, part := 0, rank := 0, prio := 3 },
    colours := [Colour.blank 0 0, { Colour.blank 1 0 with shape := [2] }, Colour.blank 2 0],
    instances := [inst t], mappings := [oneSlot w x], nextIid := 1 }

/-- A machine whose core 0 executes a matched set. -/
def at0 (k : Core) (f : Firing) : State := { State.reset with cores := [(0, k)], firing := some (0, f) }

/-- The surroundings of the matched set. -/
def opOf (t : Tag) (w x : Nat) (f : Firing) : OpIn := { c := 0, f := f, i := inst t, m := oneSlot w x }

/-- The machine that executes a set of a block whose one slot holds `w`, in an instance of a tag. -/
def plain (t : Tag) (w x : Nat) (f : Firing) : State := at0 (kore t w x) f

/-- The one slot of such a block counts three outputs at the most. -/
theorem oneSlot_weight (w x n : Nat) : (oneSlot w x).weight n ≤ 3 := by
  have hd : ∀ b, ((oneSlot w x).dests n b).length ≤ 1 := fun b => by
    unfold Mapping.dests; cases b <;> dsimp only <;> split <;> (try split) <;> simp_all [oneSlot]
  have hp : ∀ p : Nat × Nat → Bool, (((oneSlot w x).dests n false ++ (oneSlot w x).dests n true).filter p).length ≤ 2 :=
    fun p => (List.length_filter_le _ _).trans (by
      have := hd false; have := hd true; simp only [List.length_append]; omega)
  have hb : ∀ b, b2n b ≤ 1 := by decide
  unfold Mapping.weight
  have := hp fun d => d.1 == 121
  split
  · rename_i i _; have := hb (isCountedForm i); dsimp only; omega
  · dsimp only; omega

theorem plain_fires (t : Tag) (w x : Nat) (f : Firing) (h : f.iid = 0) : Fires (plain t w x f) (opOf t w x f) := by
  refine ⟨rfl, ?_, ?_⟩
  rotate_left
  · have := oneSlot_weight w x f.slot
    have : (opOf t w x f).overCount = false := by
      simp only [OpIn.overCount, Bool.and_eq_false_iff, decide_eq_false_iff_not]
      refine .inr ?_
      change ¬ 128 < 0 + _
      simp only [opOf]; omega
    simp only [OpIn.nodeOver, this, Bool.and_false]
  simp [State.opIn, Core.inst?, Core.mapping?, plain, at0, kore, opOf, State.core, inst, h, oneSlot, Instance.fresh, aget]

/-- A head with TG 1. -/
def tg1 (ar : BitVec 2) : OpWord := { ar := ar, tg := 1, t0 := 9, t1 := 0 }

/-- The machine whose core 0 executes a set in an instance of a tag, and the set's surroundings. -/
abbrev st (t : Tag) (f : Firing) : State := plain t 0 0 f
abbrev op (t : Tag) (f : Firing) : OpIn := opOf t 0 0 f

theorem st_fires (t : Tag) (f : Firing) (h : f.iid = 0) : Fires (st t f) (op t f) := plain_fires t 0 0 f h

/-- A scratchpad with little-endian numbers written: the address, the bytes and the value of each. -/
def mw (l : List (Nat × Nat × Nat)) : List Host.Cell := l.foldl (fun m p => memWrite m p.1 (toBytes p.2.1 p.2.2)) []

theorem clean_ln (l : List Nat) : Clean (l.map ln) := by
  intro x hx
  obtain ⟨n, _, rfl⟩ := List.mem_map.mp hx
  rfl

/-- A place of core 0's scratchpad. -/
def place (a : Nat) : Target := { loc := .scratch 0 a, checked := true, host := false, t3 := false }

/-- A form of the matrix port goes ahead, outside a repetition. -/
theorem mready (names : MNames) (s : State) (o : OpIn) (h : OpWord) (hf : Fires s o) (hh : o.head = h)
    (hp : s.portBusy o .matrix = false) (ha : names.mem = true → s.hasArrived o.c = false) (ht : TokenFits s o h)
    (hr : o.f.rep = none) (hn : names.field ≤ names.top)
    (hl : (names.regs 0).all (fun r => r.allowed (o.f.ticket.allot.getD (s.colourOf o).allot)) = true) : MatReady names s o h 0 := by
  have h0 : o.f.stepBy = 0 := by simp [Firing.stepBy, hr]
  have h1 : lastStep o = 0 := by simp [lastStep, hr, h0]
  refine ⟨hf, hh, hp, ha, ht, h0.symm, by rw [h1]; exact hn, fun e he r hr' => ?_⟩
  have : e = 0 := by rcases he with h | h <;> simp [h, h1]
  subst this
  exact List.all_eq_true.mp hl r hr'

/-- A computation that does not fail has a result. -/
theorem isOk {ε α : Type} {x : Except ε α} (h : (match x with | .ok _ => true | .error _ => false) = true) :
    ∃ a, x = .ok a := by
  cases x with
  | ok a => exact ⟨a, rfl⟩
  | error _ => cases h

/-- A word of the matrix unit's port with AR 1, and one with AR 3. -/
def wM : Nat := word 0x7F 1 0 9 0
abbrev hM : OpWord := head 1 9 0

/-- A core whose one instance is parked. -/
def kParked : Core := { kore tag1 0 0 with instances := [{ inst tag1 with status := .parked }] }

/-- A core with an instance of a block of that word, changed. -/
def kM (f : Core → Core) : Core := f (kore tag1 wM 0)
abbrev opM (f : Firing) : OpIn := opOf tag1 wM 0 f

theorem isOk2 {ε ε' α β γ : Type} {x : Except ε (α × β)} (f : α → β → Except ε' γ)
    (h : (match x with
      | .ok p => (match f p.1 p.2 with | .ok _ => true | .error _ => false)
      | .error _ => false) = true) : ∃ a b c, x = .ok (a, b) ∧ f a b = .ok c := by
  cases x with
  | error _ => cases h
  | ok p =>
    obtain ⟨c, hc⟩ := isOk h
    exact ⟨p.1, p.2, c, rfl, hc⟩

/-- A set in the second of 3 iterations of a repetition. -/
def rep2 (l r : List Nat) : Firing := { set l r [] with rep := some { n := 3, stride := 1, left := 2 } }

theorem someOk {α β ε : Type} {x : Option α} (f : α → Except ε β)
    (h : (match x with
      | some a => (match f a with | .ok _ => true | .error _ => false)
      | none => false) = true) : ∃ a b, x = some a ∧ f a = .ok b := by
  cases x with
  | none => cases h
  | some a =>
    cases hf : f a with
    | error _ => simp [hf] at h
    | ok b => exact ⟨a, b, rfl, hf⟩



/-! ### Single steps

Expected values are the spec's worked examples, or worked by hand from its rules. -/

/-- The machine that executes a set of a block whose one slot holds an instruction. -/
def run1 (i : Instr) (f : Firing) : State := plain tag1 (ofBytes ((encode i).take 4)) (ofBytes ((encode i).drop 4)) f

/-- The values of the tokens that an instruction sends from a matched set. -/
def sends (i : Instr) (f : Firing) : List (List Nat) :=
  match exec i (run1 i f) with
  | .next t => (t.core 0).inflight.map fun k => k.run.lanes.map fun l => l.val.toNat
  | _ => []

/-- The causes of the traps that an instruction raises on a matched set. -/
def traps (i : Instr) (f : Firing) : List Nat :=
  match exec i (st tag1 f) with
  | .next t => (t.core 0).traps.map fun x => x.cause
  | _ => []

/-- R277's example, and a wrap of 32 bits. -/
theorem test_mad : sends (.mad (head 2 9 0) .s8) (set [0x7F010203] [0x02020202] [0x01010101]) = [[0xFF030507]] ∧
    sends (.mad (head 2 9 0) .s32) (set [0x80000000] [2] [5]) = [[5]] := by decide +kernel

/-- The example of EXTR in 12_element_instructions.md. -/
theorem test_extr : sends (.extr (head 1 9 0) 1 4 7) (set [0xF80] [] []) = [[0xFFFFFFF8]] := by decide +kernel

/-- The examples of R224: the codes of 0xC4, their use by ACCT, and the illegal byte 0xFA. -/
theorem test_unt5 : sends (.unt5 (head 1 9 13) .lenient) (set [0xC4] [] []) = [[0x249], [0]] ∧
    (sends (.unt5 (head 1 9 13) .lenient) (set [0xFA] [] [])).head? = some [0] := by decide +kernel
theorem test_acct : sends (.acct (head 2 9 0) .s8) (set [0x0207FD0A] [0x249] []) = [[15]] := by decide +kernel

/-- The examples of FCVT: E4M3 saturates, and -3.5 goes to the even -4 in the third group. -/
theorem test_fcvt : sends (.fcvt (head 1 9 0) 0 .rne .fp32 .e4m3) (set [0x43FA0000] [] []) = [[0x7E]] ∧
    sends (.fcvt (head 1 9 0) 2 .rne .fp32 .int8) (set [0xC0600000] [] []) = [[0x00FC0000]] := by decide +kernel

/-- The example of FRCP: 1/3 to 12 bits. -/
theorem test_frcp : sends (.frcp (head 1 9 0)) (set [0x40400000] [] []) = [[0x3EAAB000]] := by decide +kernel

/-- R278: the most negative number by -1, and a division by zero. -/
theorem test_div : sends (.div (head 2 9 0) .s32) (set [0x80000000] [0xFFFFFFFF] []) = [[0x80000000]] := by decide +kernel

/-- SUB takes the right operand from the left one. -/
theorem test_sub : sends (.sub (head 2 9 0) .s32) (set [5] [7] []) = [[0xFFFFFFFE]] := by decide +kernel

/-- The saturation of each 4-bit element of a lane. -/
theorem test_addsat : sends (.addsat (head 2 9 0) .s4) (set [0x78] [0x19] []) = [[0x78]] := by decide +kernel

/-- A load reads little-endian bytes (R4). -/
def sLd : State := at0 { kore tag1 (word 0x58 1 0 9 0) 0 with scratch := [(64, 0x11), (65, 0x22), (67, 0x44)] } (set [64] [] [])
theorem test_ld : (match exec (.ld (head 1 9 0) .w32) sLd with
    | .next t => (t.core 0).inflight.map fun k => k.run.lanes.map fun l => l.val.toNat
    | _ => []) = [[0x44002211]] := by decide +kernel

/-- A lane of RETB with an empty stack is an illegal operand (R259). -/
theorem test_retb_empty : traps (.retb (bare 0 0)) (set [0] [] []) = [2] := by decide +kernel

/-- A row of dense values, the rest zero. -/
def denseRow (l : List Nat) : List FV := (l ++ List.replicate (128 - l.length) 0).map fp32.decode

/-- The examples of R340: which of (0.5, -3, 1, 2, 1, -1, 0.5, 1) each pattern keeps, and its mask byte. -/
theorem test_compress :
    (compRow 0 (denseRow [0x3F000000, 0xC0400000, 0x3F800000, 0x40000000, 0x3F800000, 0xBF800000, 0x3F000000, 0x3F800000])).2 % 256 =
      0x3A ∧
    (compRow 1 (denseRow [0x3F000000, 0xC0400000, 0x3F800000, 0x40000000, 0x3F800000, 0xBF800000, 0x3F000000, 0x3F800000])).2 % 256 =
      0x1E := by decide +kernel

theorem witness_UnaryFormsComplete (c : Obligations.UnaryFormsComplete) :
    Runs (.clz (tg1 1)) (st (tagF 2) (set [5] [] [])) :=
  ⟨_, c _ _ _ _ (op (tagF 2) (set [5] [] [])) rfl (st_fires _ _ rfl) rfl⟩

theorem witness_BinaryFormsComplete (c : Obligations.BinaryFormsComplete) :
    Runs (.sub (tg1 2) .s32) (st (tagF 2) (set [5] [7] [])) :=
  ⟨_, c _ _ _ _ (op (tagF 2) (set [5] [7] [])) rfl (st_fires _ _ rfl) rfl⟩

theorem witness_TernaryFormsComplete (c : Obligations.TernaryFormsComplete) :
    Runs (.mad (tg1 2) .s32) (st (tagF 2) (set [5] [7] [9])) ∧ Runs (.mad (bare 1 0) .s32) (st tag1 (set [5] [7] [9])) :=
  ⟨⟨_, c _ _ _ _ (op (tagF 2) (set [5] [7] [9])) rfl (st_fires _ _ rfl) rfl⟩,
   ⟨_, c _ _ _ _ (op tag1 (set [5] [7] [9])) rfl (st_fires _ _ rfl) rfl⟩⟩

theorem witness_PredicateFormsComplete (c : Obligations.PredicateFormsComplete) :
    Runs (.cmp (head 2 9 13) .lt) (st tag1 (set [5] [7] [])) ∧ Runs (.sel (head 3 9 13)) (st tag1 (set [5] [7] [])) ∧
    Runs (.unt5 (head 1 9 13) .lenient) (st tag1 (set [243] [] [])) ∧
    Runs (.unt5 (head 1 9 13) .strict) (st tag1 (set [242] [] [])) :=
  ⟨⟨_, c.1 _ _ _ _ (op tag1 (set [5] [7] [])) rfl (st_fires _ _ rfl) rfl⟩,
   ⟨_, c.2.1 _ _ (op tag1 (set [5] [7] [])) (st_fires _ _ rfl) rfl⟩,
   ⟨_, c.2.2 _ _ _ (op tag1 (set [243] [] [])) (st_fires _ _ rfl) rfl nofun⟩,
   ⟨_, c.2.2 _ _ _ (op tag1 (set [242] [] [])) (st_fires _ _ rfl) rfl (fun _ => by decide)⟩⟩

theorem witness_VectorFormsComplete (c : Obligations.VectorFormsComplete) :
    Runs (.vbcast (head 1 9 0) 31) (st tag1 (set [5, 6] [] [])) ∧
    Runs (.vshuf (head 2 9 0)) (st tag1 (set [5, 6] [1, 33] [])) ∧
    Runs (.vlane (head 1 9 0) .up 1) (st tag1 (set [5, 6] [] [])) ∧
    Runs (.vlane (head 1 9 0) .down 31) (st tag1 (set [5, 6] [] [])) ∧
    Runs (.vlane (head 1 9 0) .rot 0) (st tag1 (set [5, 6] [] [])) ∧
    Runs (.viota (head 0 9 0) 0xFFFFFFFF) (st tag1 (set [0, 0] [] [])) ∧
    Runs (.vrun (head 1 9 0) 30 1) (st tag1 (set [5, 6] [] [])) ∧
    Runs (.vred (head 1 9 0) .addS32) (st tag1 (set [5, 6] [] [])) ∧
    Runs (.vscan (head 1 9 0) .maxS32) (st tag1 (set [5, 6] [] [])) :=
  ⟨⟨_, c.1 _ _ _ (op tag1 (set [5, 6] [] [])) (st_fires _ _ rfl) rfl⟩,
   ⟨_, c.2.1 _ _ (op tag1 (set [5, 6] [1, 33] [])) _ (st_fires _ _ rfl) rfl rfl⟩,
   ⟨_, c.2.2.1 _ _ _ _ (op tag1 (set [5, 6] [] [])) [ln 0, ln 5] (st_fires _ _ rfl) rfl (by decide) rfl⟩,
   ⟨_, c.2.2.1 _ _ _ _ (op tag1 (set [5, 6] [] [])) [ln 0, ln 0] (st_fires _ _ rfl) rfl (by decide) rfl⟩,
   ⟨_, c.2.2.1 _ _ _ _ (op tag1 (set [5, 6] [] [])) [ln 5, ln 6] (st_fires _ _ rfl) rfl (by decide) rfl⟩,
   ⟨_, c.2.2.2.1 _ _ _ (op tag1 (set [0, 0] [] [])) [ln 0xFFFFFFFF, ln 0] (st_fires _ _ rfl) rfl (by decide) rfl⟩,
   ⟨_, c.2.2.2.2.1 _ _ _ _ (op tag1 (set [5, 6] [] [])) _ _ (st_fires _ _ rfl) rfl rfl rfl⟩,
   ⟨_, c.2.2.2.2.2.1 _ _ _ (op tag1 (set [5, 6] [] [])) _ (st_fires _ _ rfl) rfl rfl⟩,
   ⟨_, c.2.2.2.2.2.2 _ _ _ (op tag1 (set [5, 6] [] [])) _ (st_fires _ _ rfl) rfl rfl⟩⟩

theorem witness_IntegerElements (c : Obligations.IntegerElements) :
    Runs (.addsat (head 2 9 0) .s4) (st tag1 (set [0x88] [0x99] [])) :=
  let ⟨_, _, _, e⟩ := c _ _ _ _ _ (op tag1 (set [0x88] [0x99] [])) rfl (st_fires _ _ rfl) rfl rfl (by rfl)
  ⟨_, e⟩

theorem witness_DivideAndRemainder (c : Obligations.DivideAndRemainder) :
    Runs (.div (head 2 9 0) .s32) (st tag1 (set [0x80000000] [0xFFFFFFFF] [])) ∧
    Runs (.rem (head 2 9 0) .u32) (st tag1 (set [7] [0] [])) :=
  ⟨⟨_, (c _ _ _ (op tag1 (set [0x80000000] [0xFFFFFFFF] [])) (st_fires _ _ rfl) rfl rfl (by rfl)).1⟩,
   ⟨_, (c _ _ _ (op tag1 (set [7] [0] [])) (st_fires _ _ rfl) rfl rfl (by rfl)).2⟩⟩

/-- A block of one slot whose word has two targets, and a run that passes lane 31. -/
theorem witness_ResultTokens (c : Obligations.ResultTokens) :
    splitRun true { colour := 1, fields := [] ++ [32] } (32 + 31) [ln 5, ln 6] =
      [({ colour := 1, fields := [] ++ [32] }, { first := 31, lanes := [ln 5] }),
       ({ colour := 1, fields := [] ++ [64] }, { first := 0, lanes := [ln 6] })] ∧
    ∃ t, (plain tag1 (word 0x11 1 0 9 479) 0 (set [5] [] [])).finish (opOf tag1 (word 0x11 1 0 9 479) 0 (set [5] [] []))
      (head 1 9 479) true (oneLane 0 5) (oneLane 0 5) = t ∧
      OnlyTokens 0 (plain tag1 (word 0x11 1 0 9 479) 0 (set [5] [] [])) t :=
  ⟨c.1 1 [] 32 31 [ln 5, ln 6] (by decide) (by decide) (by decide), _, rfl,
   (c.2 _ (opOf tag1 (word 0x11 1 0 9 479) 0 (set [5] [] [])) _ true (oneLane 0 5) (oneLane 0 5) (inst tag1)
    (plain_fires _ _ _ _ rfl).2.1 rfl rfl (by decide) (by decide) rfl (by rfl) (by rfl) (by decide) (by decide)).2.2⟩

theorem witness_TagArithmetic (c : Obligations.TagArithmetic) :
    tagStep [2] 1 (tagF 2) 2 1 = some (tagF 3, 3) ∧ tagStep [2] 1 (tagF 3) 3 1 = none ∧
    tagStep [2, 3] 3 { colour := 1, fields := [3, 7] } 7 1 = none ∧
    Runs (.sub (tg1 2) .s32) (st (tagF 3) (set [5] [7] [])) :=
  ⟨(c.1 [2] 1 [] 2 2 1 2 (by decide) rfl).2.1, (c.1 [2] 1 [] 3 3 1 2 (by decide) rfl).2.1,
   (c.1 [2, 3] 1 [] 7 7 1 2 (by decide) rfl).2.2.2.2.2.2.2 3 2 rfl,
   ⟨_, c.2 _ _ _ _ (op (tagF 3) (set [5] [7] [])) rfl (st_fires _ _ rfl) rfl⟩⟩

/-- The second set of a repetition with one iteration fewer left. -/
abbrev repNext : Firing := { rep2 [5] [7] with rep := some { n := 3, stride := 1, left := 1 } }

/-- A word of the matrix unit's opcodes. -/
def wMma : Nat := word 0x70 1 0 9 0

/-- An element's slot, a matrix form's, and a parked instance. -/
theorem witness_RepetitionGoesOn (c : Obligations.RepetitionGoesOn) :
    (((st tag1 (rep2 [5] [7])).finish (op tag1 (rep2 [5] [7])) (head 2 9 0) true (oneLane 0 5) (oneLane 0 5)).core 0).issueQ =
      [repNext] ∧
    (plain tag1 wMma 0 (rep2 [5] [7])).finish (opOf tag1 wMma 0 (rep2 [5] [7])) (head 2 9 0) false (oneLane 0 5) (oneLane 0 5) =
      (plain tag1 wMma 0 (rep2 [5] [7])).hold (opOf tag1 wMma 0 repNext) .matrix .flight ∧
    ∃ t, (at0 kParked (rep2 [5] [7])).finish (op tag1 (rep2 [5] [7])) (head 2 9 0) false (oneLane 0 5) (oneLane 0 5) = t ∧
      t = (at0 kParked (rep2 [5] [7])).modCore 0 fun k => k.modInst 0 fun j => { j with parkedSets := repNext :: j.parkedSets } :=
  ⟨((c (st tag1 (rep2 [5] [7])) (op tag1 (rep2 [5] [7])) (head 2 9 0) (oneLane 0 5) (oneLane 0 5) _ (inst tag1) _ rfl (by decide)
      rfl rfl rfl rfl).1 (by decide) rfl).2,
   (c (plain tag1 wMma 0 (rep2 [5] [7])) (opOf tag1 wMma 0 (rep2 [5] [7])) (head 2 9 0) (oneLane 0 5) (oneLane 0 5) _ (inst tag1) _ rfl (by decide)
      rfl rfl rfl rfl).2.1 .matrix (by decide) rfl, _, rfl,
   (c (at0 kParked (rep2 [5] [7])) (op tag1 (rep2 [5] [7])) (head 2 9 0) (oneLane 0 5) (oneLane 0 5) _
      { inst tag1 with status := .parked } _ rfl (by decide) rfl rfl rfl rfl).2.2 rfl⟩

theorem witness_ElementFormsFrame (c : Obligations.ElementFormsFrame) :
    (∃ t, exec (.sub (head 2 9 0) .s32) (st tag1 (set [5] [7] [])) = .next t ∧ OnlyTokens 0 (st tag1 (set [5] [7] [])) t) ∧
    ∃ t, exec (.vred (head 1 9 0) .addS32) (st tag1 (set [5, 6] [] [])) = .next t ∧ OnlyTokens 0 (st tag1 (set [5, 6] [] [])) t :=
  ⟨⟨_, rfl, c (.sub (head 2 9 0) .s32) _ _ (op tag1 (set [5] [7] [])) (st_fires _ _ rfl) rfl rfl
    (by decide) rfl (by decide) rfl rfl⟩,
   ⟨_, rfl, c (.vred (head 1 9 0) .addS32) _ _ (op tag1 (set [5, 6] [] [])) (st_fires _ _ rfl) rfl rfl (by decide) rfl
    (by decide) rfl rfl⟩⟩

/-- A core in which colour 1 is as given, with an instance of it. -/
def kcol (x : Colour) : Core := { kore tag1 0 0 with colours := [Colour.blank 0 0, x, Colour.blank 2 0] }

/-- A core whose scratchpad holds a header word 0 at 128: VEC, one slot, one word, one output, no argument. -/
def khdr : Core := { kore tag1 0 0 with scratch := [(128, 0x10), (129, 0x10), (130, 0x10), (131, 0x08)] }

/-- Colour 1 with a return address on its stack. -/
def calledCol : Colour := { Colour.blank 1 0 with top := 72, depth := 1 }

theorem witness_BranchesComplete (c : Obligations.BranchesComplete) :
    Runs (.bra (bare 0 0) 0xFFFFFFFF) (st tag1 (set [0] [] [])) ∧
    Runs (.bra (bare 1 1) 0x7FFF8000) (st (tagF 2) (set [1] [] [])) ∧
    Runs (.bri (bare 1 0)) (st tag1 (set [0xFFFFFFFF] [] [])) ∧
    Runs (.callb (bare 0 0) 1 0xFFFF) (at0 (kcol { Colour.blank 1 0 with top := 64, depth := 254 }) (set [0] [] [])) ∧
    Runs (.callb (bare 1 0) 0 1) (at0 (kcol { Colour.blank 1 0 with top := 64 }) (set [9] [] [])) ∧
    Runs (.retb (bare 0 0)) (at0 (kcol calledCol) (set [0] [] [])) ∧
    Runs (.sret (bare 1 0)) (st tag2 (set [5] [] [])) ∧
    Runs (.endl (bare 0 0)) (st tag1 (set [0] [] [])) ∧
    branched (op tag0 (set [0] [] [])) (some (0, tag0)) (kore tag0 0 0) =
      branched (op tag0 (set [0] [] [])) none (kore tag0 0 0) ∧
    (∃ j, j.block = 64 ∧ branched (op tag0 (set [0] [] [])) (some (64, tag0)) (kore tag0 0 0) =
      branched (op tag0 (set [0] [] [])) none { kore tag0 0 0 with nextIid := 2, instances := [inst tag0, j] }) :=
  ⟨⟨_, c.1 _ _ _ (op tag1 (set [0] [] [])) _ (st_fires _ _ rfl) ⟨rfl, rfl, _, rfl⟩ (by decide)⟩,
   ⟨_, c.1 _ _ _ (op (tagF 2) (set [1] [] [])) _ (st_fires _ _ rfl) ⟨rfl, rfl, _, rfl⟩ (by decide)⟩,
   ⟨_, c.2.1 _ _ (op tag1 (set [0xFFFFFFFF] [] [])) _ (st_fires _ _ rfl) ⟨rfl, rfl, _, rfl⟩ rfl⟩,
   ⟨_, c.2.2.1 _ _ _ _ _ (op tag1 (set [0] [] [])) _ _ _ _ ⟨rfl, rfl, rfl⟩ rfl nofun (by decide) (by decide) rfl rfl rfl
     ⟨rfl, rfl, _, rfl⟩⟩,
   ⟨_, c.2.2.1 _ _ _ _ _ (op tag1 (set [9] [] [])) _ _ _ _ ⟨rfl, rfl, rfl⟩ rfl (fun _ => rfl) (by decide) (by decide) rfl rfl rfl
     ⟨rfl, rfl, _, rfl⟩⟩,
   ⟨_, c.2.2.2.1 _ _ _ (op tag1 (set [0] [] [])) _ _ _ ⟨rfl, rfl, rfl⟩ rfl rfl rfl (by decide) rfl ⟨rfl, rfl, _, rfl⟩⟩,
   ⟨_, c.2.2.2.2.1 _ _ (op tag2 (set [5] [] [])) _ (st_fires _ _ rfl) ⟨rfl, rfl, _, rfl⟩ (by decide)⟩,
   ⟨_, c.2.2.2.2.2.1 _ _ (op tag1 (set [0] [] [])) _ (st_fires _ _ rfl) ⟨rfl, rfl, _, rfl⟩ rfl⟩,
   (c.2.2.2.2.2.2 (kore tag0 0 0) (op tag0 (set [0] [] [])) 0 tag0 _ rfl rfl rfl).1 rfl,
   let ⟨j, h, _, _, _, e⟩ := (c.2.2.2.2.2.2 (kore tag0 0 0) (op tag0 (set [0] [] [])) 64 tag0 _ rfl rfl rfl).2.1 (by decide)
   ⟨j, h, e⟩⟩

theorem witness_ColourAndTagFormsComplete (c : Obligations.ColourAndTagFormsComplete) :
    Runs (.spawn (head 1 9 0) 1) (at0 khdr (set [0] [] [])) ∧
    Runs (.tagenter (head 1 9 0) 31) (st tag1 (set [7] [] [])) ∧
    Runs (.tagenter (head 1 9 0) 0) (st (tagF 2) (set [7, 8] [] [])) ∧
    Runs (.tagleave (head 1 9 0)) (st (tagF 3) (set [7] [] [])) :=
  ⟨⟨_, c.1 _ _ _ (op tag1 (set [0] [] [])) 0x08101010 ⟨rfl, rfl, rfl⟩ rfl rfl (by decide) rfl rfl rfl⟩,
   ⟨_, c.2.1 _ _ _ (op tag1 (set [7] [] [])) _ _ _ _ (st_fires _ _ rfl) rfl rfl (by decide) (by decide) (by decide)
     (by decide) (fun _ _ => .inr (by decide)) rfl⟩,
   ⟨_, c.2.1 _ _ _ (op (tagF 2) (set [7, 8] [] [])) _ _ _ _ (st_fires _ _ rfl) rfl rfl (by decide) (by decide) (by decide)
     (by decide) (fun _ _ => .inr (by decide)) rfl⟩,
   ⟨_, c.2.2 _ _ (op (tagF 3) (set [7] [] [])) _ _ _ _ (st_fires _ _ rfl) rfl rfl⟩⟩

/-- An instance in port mode, and a core with one entry in queue 0. -/
def portInst : Instance := { inst tag1 with portmode := true }
def kque : Core :=
  { kore tag1 0 0 with
    instances := [portInst],
    queues := [(0, { entries := [{ lanes := [ln 5], preds := [], rel := none, src := none }], spillHead := 0,
                     spillCount := 0, size := 0, base := 0, spfault := false, full := 0, spilled := [] })] }

theorem witness_RegisterFormsComplete (c : Obligations.RegisterFormsComplete) :
    Runs (.read (head 0 9 0) 31) (st tag1 (set [0] [] [])) ∧
    Runs (.read (head 0 9 0) 23) (at0 kque (set [0] [] [])) ∧
    Runs (.read (head 0 9 0) 24) (at0 kque (set [0] [] [])) ∧
    Runs (.write (bare 1 0) 31) (st tag1 (set [5] [] [])) ∧
    Runs (.write (bare 1 0) 24) (at0 kque (set [5] [] [])) ∧
    Runs (.mfsr (head 0 9 0) 0x308) (st tag1 (set [0] [] [])) ∧
    Runs (.mtsr (bare 1 0) 0x001) (st tag0 (set [5, 0] [] [])) ∧ Runs (.mtsr (bare 1 0) 0x021) (st tag1 (set [5] [] [])) :=
  ⟨⟨_, c.1 _ _ _ (op tag1 (set [0] [] [])) _ (st_fires _ _ rfl) rfl rfl (.inl rfl) rfl⟩,
   ⟨_, c.1 _ _ _ { op tag1 (set [0] [] []) with i := portInst } _ ⟨rfl, rfl, rfl⟩ rfl rfl (.inr (by decide)) rfl⟩,
   ⟨_, c.2.1 _ _ _ { op tag1 (set [0] [] []) with i := portInst } _ _ ⟨rfl, rfl, rfl⟩ rfl rfl (by decide) rfl rfl rfl rfl rfl rfl⟩,
   ⟨_, c.2.2.1 _ _ _ (op tag1 (set [5] [] [])) (st_fires _ _ rfl) rfl rfl rfl⟩,
   ⟨_, c.2.2.1 _ _ _ { op tag1 (set [5] [] []) with i := portInst } ⟨rfl, rfl, rfl⟩ rfl rfl rfl⟩,
   ⟨_, c.2.2.2.1 _ _ _ (op tag1 (set [0] [] [])) _ _ (st_fires _ _ rfl) rfl rfl rfl rfl⟩,
   ⟨_, c.2.2.2.2 _ _ _ (op tag0 (set [5, 0] [] [])) (st_fires _ _ rfl) rfl (by decide) (.inl rfl) rfl⟩,
   ⟨_, c.2.2.2.2 _ _ _ (op tag1 (set [5] [] [])) (st_fires _ _ rfl) rfl (by decide) (.inr rfl) rfl⟩⟩

/-- A MOV that sends its result to n121. -/
def w121 : Nat := word 0x11 1 0 485 0

theorem witness_PrivilegedFormsTrap (c : Obligations.PrivilegedFormsTrap) :
    Runs (.mtsr (bare 1 0) 0x001) (st tag1 (set [5, 0] [] [])) ∧ Runs (.eret (bare 1 0)) (st tag2 (set [64] [] [])) ∧
    Runs (.endl (bare 0 0)) (st tag0 (set [0] [] [])) ∧ Runs (.endl (bare 0 0)) (st tag2 (set [0] [] [])) ∧
    Runs (.sret (bare 1 0)) (st tag1 (set [5] [] [])) ∧
    Runs (.bra (bare 0 0) 0) (at0 { kore tag1 0 0 with instances := [{ inst tag1 with branch := some (1, tag1) }] } (set [0] [] [])) ∧
    Runs (.bra (bare 0 0) 0) (at0 { kore tag1 0 0 with instances := [{ inst tag1 with branch := some (0, tag1) }] } (set [0] [] [])) ∧
    Runs (.mov (head 1 485 0)) (at0 { kore tag1 w121 0 with instances := [{ inst tag1 with counted := 128 }] } (set [5] [] [])) :=
  ⟨⟨_, c.1 _ _ _ (op tag1 (set [5, 0] [] [])) (st_fires _ _ rfl) rfl (by decide) (by decide) rfl⟩,
   ⟨_, c.2.1 _ _ (op tag2 (set [64] [] [])) (st_fires _ _ rfl) (by decide)⟩,
   ⟨_, c.2.2.1 _ _ (op tag0 (set [0] [] [])) (st_fires _ _ rfl) (by decide)⟩,
   ⟨_, c.2.2.1 _ _ (op tag2 (set [0] [] [])) (st_fires _ _ rfl) (by decide)⟩,
   ⟨_, c.2.2.2.1 _ _ (op tag1 (set [5] [] [])) (st_fires _ _ rfl) (by decide)⟩,
   ⟨_, c.2.2.2.2.1 _ _ _ { op tag1 (set [0] [] []) with i := { inst tag1 with branch := some (1, tag1) } } 1 tag1 ⟨rfl, rfl, rfl⟩ rfl rfl⟩,
   ⟨_, c.2.2.2.2.1 _ _ _ { op tag1 (set [0] [] []) with i := { inst tag1 with branch := some (0, tag1) } } 0 tag1 ⟨rfl, rfl, rfl⟩ rfl rfl⟩,
   ⟨_, c.2.2.2.2.2 _ _ { opOf tag1 w121 0 (set [5] [] []) with i := { inst tag1 with counted := 128 } } nofun rfl rfl rfl⟩⟩

/-- A core in which an earlier instance of the same tag has not committed: the executing one is number 1. -/
def kearly : Core := { kore tag1 0 0 with instances := [inst tag1, { inst tag1 with iid := 1 }] }
def opEarly : OpIn := { op tag1 { set [0] [] [] with iid := 1 } with i := { inst tag1 with iid := 1 } }

theorem witness_ShuttleAdvance (c : Obligations.ShuttleAdvance) :
    Runs (.shadv (head 0 9 0)) (at0 kearly opEarly.f) ∧ Runs (.shadv (head 0 9 0)) (st tag1 (set [0] [] [])) :=
  ⟨⟨_, (c _ _ (at0 kearly opEarly.f) opEarly ⟨rfl, rfl, rfl⟩).1 rfl⟩,
   ⟨_, (c _ _ _ (op tag1 (set [0] [] [])) (st_fires _ _ rfl)).2 rfl rfl rfl⟩⟩

/-- A core whose bobbin 3 has 4 slots of which 2 are filled. -/
def kbob : Core := { kore tag1 0 0 with bobbins := [(3, { Bobbin.zero with slots := 4, wp := 2 })] }

theorem witness_StepAndBobbinFormsComplete (c : Obligations.StepAndBobbinFormsComplete) :
    Runs (.phase (head 0 9 0)) (st tag1 (set [0] [] [])) ∧ Runs (.rep (bare 0 0) 255 15) (st tag1 (set [0] [] [])) ∧
    Runs (.bobinit (head 1 9 0) 255 15) (st tag1 (set [0] [] [])) ∧
    Runs (.bobwait (head 0 9 0) 1 3) (at0 kbob (set [0] [] [])) ∧
    Runs (.bobrel (head 1 9 0) 2 3) (at0 kbob (set [0] [] [])) :=
  ⟨⟨_, c.1 _ _ (op tag1 (set [0] [] [])) (st_fires _ _ rfl) rfl⟩,
   ⟨_, c.2.1 _ _ _ _ (op tag1 (set [0] [] [])) (st_fires _ _ rfl)⟩,
   ⟨_, c.2.2.1 _ _ _ _ (op tag1 (set [0] [] [])) (st_fires _ _ rfl) rfl rfl⟩,
   ⟨_, c.2.2.2.1 _ _ _ _ (op tag1 (set [0] [] [])) _ _ ⟨rfl, rfl, rfl⟩ rfl (by decide) rfl rfl⟩,
   ⟨_, c.2.2.2.2 _ _ _ _ (op tag1 (set [0] [] [])) _ _ ⟨rfl, rfl, rfl⟩ rfl rfl (by decide) rfl rfl⟩⟩

/-- A matched set that a RESUME has answered. -/
def answered (l r : List Nat) : Firing := { set l r [] with answered := some 9 }

theorem witness_SupervisorFormsComplete (c : Obligations.SupervisorFormsComplete) :
    Runs (.syscall (head 1 9 0) 0xFFFF) (st tag1 (set [5] [] [])) ∧
    Runs (.syscall (head 1 9 0) 7) (st tag1 (answered [5] [])) ∧ Runs (.brk (head 0 9 0) 7) (st tag1 (set [0] [] [])) ∧
    Runs (.brk (head 1 9 0) 7) (st tag1 (answered [5] [])) ∧ Runs (.trapif (head 2 9 0)) (st tag1 (set [5] [0] [])) ∧
    Runs (.trapif (head 2 9 0)) (st tag1 (set [5] [1] [])) ∧ Runs (.eret (bare 1 0)) (st tag0 (set [64] [] [])) :=
  ⟨⟨_, c.1 _ _ _ (op tag1 (set [5] [] [])) (st_fires _ _ rfl) rfl⟩,
   ⟨_, c.2.1 _ _ _ (op tag1 (answered [5] [])) _ (st_fires _ _ rfl) rfl rfl⟩,
   ⟨_, c.2.2.1 _ _ _ (op tag1 (set [0] [] [])) (st_fires _ _ rfl) rfl⟩,
   ⟨_, c.2.2.2.1 _ _ _ (op tag1 (answered [5] [])) _ (st_fires _ _ rfl) rfl rfl⟩,
   ⟨_, c.2.2.2.2.1 _ _ (op tag1 (set [5] [0] [])) _ (st_fires _ _ rfl) rfl rfl rfl (.inr rfl)⟩,
   ⟨_, c.2.2.2.2.2.1 _ _ (op tag1 (set [5] [1] [])) _ (st_fires _ _ rfl) rfl rfl rfl (by decide)⟩,
   ⟨_, c.2.2.2.2.2.2 _ _ (op tag0 (set [64] [] [])) (st_fires _ _ rfl) rfl rfl rfl⟩⟩


theorem witness_LoadsComplete (c : Obligations.LoadsComplete) :
    Runs (.ld (head 1 9 0) .w32) (st tag1 (set [64, 0x1B7FFC] [] [])) ∧
    Runs (.ld (head 2 9 0) .u8) (st tag1 (set [63] [0] [])) ∧
    Runs (.ldv (head 1 9 0) 7 0) (st tag1 (set [64] [] [])) ∧
    Runs (.ldv (head 2 9 0) 2 0) (st tag1 (set [64] [1] [])) ∧
    Runs (.cwalk (head 1 9 13) 0 31) (st tag1 (set [0x1B7F80] [] [])) :=
  ⟨⟨_, c.1 _ _ _ _ (op tag1 (set [64, 0x1B7FFC] [] [])) _ _ (st_fires _ _ rfl) ⟨rfl, fun _ => rfl⟩ (clean_ln _)
     (fun _ => rfl) nofun (by decide) rfl rfl⟩,
   ⟨_, c.1 _ _ _ _ (op tag1 (set [63] [0] [])) [63] _ (st_fires _ _ rfl) ⟨rfl, fun _ => rfl⟩ (clean_ln _)
     nofun (fun _ => ⟨clean_ln _, by decide, by decide⟩) (by decide) rfl rfl⟩,
   ⟨_, c.2.1 _ _ _ _ _ (op tag1 (set [64] [] [])) [64] _ (st_fires _ _ rfl) ⟨rfl, fun _ => rfl⟩ (clean_ln _)
     (fun _ => by decide) nofun (by decide) rfl rfl⟩,
   ⟨_, c.2.1 _ _ _ _ _ (op tag1 (set [64] [1] [])) [68] _ (st_fires _ _ rfl) ⟨rfl, fun _ => rfl⟩ (clean_ln _)
     nofun (fun _ => ⟨clean_ln _, by decide⟩) (by decide) rfl rfl⟩,
   ⟨_, c.2.2 _ _ _ _ _ (op tag1 (set [0x1B7F80] [] [])) _ (st_fires _ _ rfl) ⟨rfl, fun _ => rfl⟩ rfl (.inl rfl)
     (by decide) (by decide) rfl rfl⟩⟩

/-- The addresses of an STV of one lane. -/
theorem stv_addr : ((op tag1 (set [64] [1] [])).f.left.map fun x => addrOf (0 : BitVec 24).toNat x.val.toNat) = [64] := by
  decide

theorem witness_StoresComplete (c : Obligations.StoresComplete) :
    Runs (.st (head 2 9 0) .w32) (st tag1 (set [64, 0x1B7FFC] [1, 2] [])) ∧
    Runs (.stv (head 2 9 0) 0) (st tag1 (set [64] [1] [])) ∧ Runs (.stul (head 2 9 0)) (st tag1 (set [0x1B7FFC] [1] [])) :=
  ⟨⟨_, c.1 _ _ _ (op tag1 (set [64, 0x1B7FFC] [1, 2] [])) _ (st_fires _ _ rfl) ⟨rfl, fun _ => rfl⟩ rfl (clean_ln _)
     (by decide) rfl (.inl (clean_ln _)) rfl⟩,
   ⟨_, c.2.1 _ 0 _ (op tag1 (set [64] [1] [])) [(64, [(place 64, 4)])] (st_fires _ _ rfl) ⟨rfl, fun _ => rfl⟩ rfl (clean_ln _)
     (by decide) (by rw [stv_addr]; rfl) (.inl (clean_ln _)) rfl⟩,
   ⟨_, c.2.2 _ _ _ (op tag1 (set [0x1B7FFC] [1] [])) _ (st_fires _ _ rfl) ⟨rfl, fun _ => rfl⟩ rfl (clean_ln _)
     (by decide) rfl rfl rfl⟩⟩

theorem witness_LoadsAndStoresLeaveMemory (c : Obligations.LoadsAndStoresLeaveMemory) :
    (∃ t, exec (.st (head 2 9 0) .w32) (st tag1 (set [64] [7] [])) = .next t ∧ ∀ a, memByte t.mem a = memByte [] a) ∧
    (∃ t, exec (.ldv (head 1 9 0) 0 0) (st tag1 (set [64] [] [])) = .next t ∧ ∀ a, memByte t.mem a = memByte [] a) :=
  ⟨⟨_, rfl, (c (.st (head 2 9 0) .w32) (st tag1 (set [64] [7] [])) _ (op tag1 (set [64] [7] [])) (head 2 9 0)
     (.inl ⟨_, rfl⟩) (st_fires _ _ rfl) (by decide) rfl (by decide) rfl rfl rfl).1⟩,
   ⟨_, rfl, (c (.ldv (head 1 9 0) 0 0) (st tag1 (set [64] [] [])) _ (op tag1 (set [64] [] [])) (head 1 9 0)
     (.inr (.inr (.inr ⟨_, _, rfl⟩))) (st_fires _ _ rfl) (by decide) rfl (by decide) rfl rfl rfl).1⟩⟩

theorem witness_AtomicsComplete (c : Obligations.AtomicsComplete) :
    Runs (.atom (head 2 9 0) .swap .acqRel 0 0 0) (st tag1 (set [64] [7] [])) ∧
    Runs (.cas (head 2 9 13) .relaxed 6 0 0) (st tag1 (set [64] [0] [7])) ∧
    Runs (.cas (bare 1 0) .relaxed 0 0 0) (st tag1 (set [7] [] [])) ∧
    Runs (.ldlk (head 1 9 0)) (st tag1 (set [0x1B7FFC] [] [])) :=
  ⟨⟨_, c.1 _ _ _ _ _ _ _ (op tag1 (set [64] [7] [])) [64] [place 64] _ (st_fires _ _ rfl) (by decide)
     ⟨⟨rfl, fun _ => rfl⟩, rfl, by decide, clean_ln _, clean_ln _, by decide, rfl, rfl, nofun, .inl rfl, fun _ => rfl, rfl,
      by decide +kernel⟩
     rfl rfl⟩,
   ⟨_, c.2.1 _ _ _ _ _ _ (op tag1 (set [64] [0] [7])) [64] [place 64] _ (st_fires _ _ rfl) (by decide) (by decide)
     ⟨⟨rfl, fun _ => rfl⟩, rfl, by decide, clean_ln _, by unfold Clean; decide, by decide, rfl, rfl, nofun, .inl rfl,
      fun _ => rfl, rfl, by decide +kernel⟩ rfl rfl⟩,
   ⟨_, c.2.2.1 _ _ _ _ _ _ (op tag1 (set [7] [] [])) (st_fires _ _ rfl) rfl⟩,
   ⟨_, c.2.2.2 _ _ (op tag1 (set [0x1B7FFC] [] [])) _ _ (st_fires _ _ rfl) ⟨rfl, fun _ => rfl⟩ (clean_ln _)
     (by decide) rfl rfl rfl rfl⟩⟩

theorem witness_LocalMemoryReadsAndWrites (c : Obligations.LocalMemoryReadsAndWrites) :
    (∃ t, (st tag1 (set [0] [] [])).load (op tag1 (set [0] [] [])) 0x1B7FFC 4 = .ok ([0, 0, 0, 0], false, t)) ∧
    memByte (((st tag1 (set [0] [] [])).rmw (op tag1 (set [0] [] [])) (place 64) { release := none, acquire := none, relaxed := true }
      (ln 0) (fun _ => 0x01020304)).2.core 0).scratch 67 = 1 :=
  ⟨let ⟨t, h, _⟩ := c.1 (st tag1 (set [0] [] [])) (op tag1 (set [0] [] [])) 0x1B7FFC (inst tag1) rfl rfl (by decide)
     (by decide) rfl rfl rfl
   ⟨t, h⟩,
   (c.2 (st tag1 (set [0] [] [])) _ (op tag1 (set [0] [] [])) (place 64) 0 64 _ (ln 0) _ (fun _ => 0x01020304) rfl rfl rfl rfl).2.1 67⟩

/-- A core with one tile of 16 lines from line 8 on, in a state, and a row descriptor at 64: BASE 0x1000, rows of 64 bytes. -/
def ktile (state : Nat) : Core :=
  { kore tag1 0 0 with
    tiles := [(3, { state := state, poison := false, valid := true, count := 7, base := 8, len := 16, users := [], rels := [] })],
    scratch := mw [(64, 8, 0x1000), (72, 4, 64), (76, 2, 64)] }

/-- A core with a stream descriptor at 128: KIND 0, DEST 0, counts of 1, EWORDS 1. -/
def kdesc : Core := { kore tag1 0 0 with scratch := mw [(136, 8, 0x0001000100010001), (176, 8, 1)] }

theorem witness_OrderingAndTileFormsComplete (c : Obligations.OrderingAndTileFormsComplete) :
    Runs (.fence (head 0 9 0) .full 6) (st tag1 (set [0] [] [])) ∧ Runs (.pref (head 1 9 0)) (st tag1 (set [64] [] [])) ∧
    Runs (.tstateFill (head 1 9 0)) (at0 (ktile 0) (set [3] [] [])) ∧
    Runs (.tstatePublish (head 1 9 0)) (at0 (ktile 1) (set [3] [] [])) ∧
    Runs (.tstateDrain (head 1 9 0)) (at0 (ktile 2) (set [3] [] [])) ∧
    Runs (.tstateRelease (head 1 9 0)) (at0 (ktile 2) (set [3] [] [])) ∧
    Runs (.tstateRelease (head 1 9 0)) (at0 (ktile 3) (set [3] [] [])) ∧
    Runs (.twait (head 1 9 0)) (at0 (ktile 3) (set [771] [] [])) ∧
    Runs (.sopen (head 1 9 0) 15) (at0 kdesc (set [128] [] [])) ∧
    Runs (.sclose (head 0 9 0) 15) (st tag1 (set [0] [] [])) :=
  ⟨let ⟨_, h, _⟩ := c.1 (head 0 9 0) .full 6 _ (op tag1 (set [0] [] [])) (st_fires _ _ rfl) ⟨rfl, nofun⟩ (by decide) rfl (by rfl)
   ⟨_, h⟩,
   ⟨_, c.2.1 _ _ (op tag1 (set [64] [] [])) (st_fires _ _ rfl) ⟨rfl, nofun⟩⟩,
   ⟨_, (c.2.2.1 (head 1 9 0) (at0 (ktile 0) (set [3] [] [])) (op tag1 (set [3] [] [])) _ ⟨rfl, rfl, rfl⟩ ⟨rfl, nofun⟩ rfl (by decide) rfl rfl (by rfl)).1 rfl⟩,
   ((c.2.2.1 (head 1 9 0) (at0 (ktile 1) (set [3] [] [])) (op tag1 (set [3] [] [])) _ ⟨rfl, rfl, rfl⟩ ⟨rfl, nofun⟩ rfl (by decide) rfl rfl (by rfl)).2.1 rfl).elim fun _ h => ⟨_, h.1⟩,
   ⟨_, (c.2.2.1 (head 1 9 0) (at0 (ktile 2) (set [3] [] [])) (op tag1 (set [3] [] [])) _ ⟨rfl, rfl, rfl⟩ ⟨rfl, nofun⟩ rfl (by decide) rfl rfl (by rfl)).2.2.1 rfl⟩,
   ((c.2.2.1 (head 1 9 0) (at0 (ktile 2) (set [3] [] [])) (op tag1 (set [3] [] [])) _ ⟨rfl, rfl, rfl⟩ ⟨rfl, nofun⟩ rfl (by decide) rfl rfl (by rfl)).2.2.2 (.inl rfl)).elim fun _ h => ⟨_, h.1⟩,
   ((c.2.2.1 (head 1 9 0) (at0 (ktile 3) (set [3] [] [])) (op tag1 (set [3] [] [])) _ ⟨rfl, rfl, rfl⟩ ⟨rfl, nofun⟩ rfl (by decide) rfl rfl (by rfl)).2.2.2 (.inr rfl)).elim fun _ h => ⟨_, h.1⟩,
   ⟨_, c.2.2.2.1 _ _ (op tag1 (set [771] [] [])) _ ⟨rfl, rfl, rfl⟩ rfl (by decide) rfl rfl rfl rfl⟩,
   ⟨_, c.2.2.2.2.1 _ _ _ _ (op tag1 (set [128] [] [])) _ ⟨rfl, rfl, rfl⟩ ⟨rfl, fun _ => rfl⟩ rfl rfl rfl (by decide) rfl rfl rfl rfl⟩,
   ⟨_, c.2.2.2.2.2 _ _ _ (op tag1 (set [0] [] [])) _ (st_fires _ _ rfl) ⟨rfl, nofun⟩ rfl rfl rfl rfl⟩⟩

theorem witness_TileStates (c : Obligations.TileStates) :
    Runs (.tstateFill (head 1 9 0)) (at0 (ktile 1) (set [3] [] [])) ∧ Runs (.tstatePublish (head 1 9 0)) (at0 (ktile 2) (set [3] [] [])) ∧
    Runs (.tstateDrain (head 1 9 0)) (at0 (ktile 3) (set [3] [] [])) ∧ Runs (.tstateRelease (head 1 9 0)) (at0 (ktile 1) (set [3] [] [])) :=
  have t := fun (h : OpWord) (n : Nat) => (c 0 n).2 h (at0 (ktile n) (set [3] [] [])) (op tag1 (set [3] [] [])) ⟨rfl, rfl, rfl⟩
    ⟨rfl, nofun⟩ rfl (by decide) rfl
  ⟨⟨_, (t (head 1 9 0) 1).1 (by decide)⟩, ⟨_, (t (head 1 9 0) 2).2.1 (by decide)⟩, ⟨_, (t (head 1 9 0) 3).2.2.1 (by decide)⟩,
   ⟨_, (t (head 1 9 0) 1).2.2.2 (by decide) (by decide)⟩⟩

theorem witness_RowFormsComplete (c : Obligations.RowFormsComplete) :
    Runs (.grows (head 1 9 0) 3 1 15) (at0 (ktile 1) (set [2] [] [])) ∧
    Runs (.scat (head 2 9 0) 3 1 0) (at0 (ktile 2) (set [2] [4] [])) :=
  ⟨⟨_, c.1 _ _ _ _ _ _ _ _ (op tag1 (set [2] [] [])) _ _ _ _ _ ⟨rfl, rfl, rfl⟩
     ⟨⟨rfl, fun _ => rfl⟩, rfl, rfl, rfl, clean_ln _, nofun, rfl, ⟨_, _, rfl, rfl⟩, rfl, rfl⟩ rfl rfl⟩,
   ⟨_, c.2 _ _ _ _ _ _ _ (op tag1 (set [2] [4] [])) _ _ _ _ _ _ ⟨rfl, rfl, rfl⟩ rfl
     ⟨⟨rfl, fun _ => rfl⟩, rfl, rfl, rfl, clean_ln _, fun _ => clean_ln _, rfl, ⟨_, _, rfl, rfl⟩, rfl, rfl⟩ rfl rfl
     (by decide +kernel)⟩⟩

/-- A core with two streams: one pair at 128 in stream 1, none in stream 2. -/
def kstream : Core :=
  { kore tag1 0 0 with
    streams := [(1, { base := 128, len := 1, pos := 0, lastkey := 0, flags := 1 }),
                (2, { base := 256, len := 0, pos := 0, lastkey := 0, flags := 1 })],
    scratch := mw [(64, 8, 128), (72, 4, 1), (128, 4, 5), (132, 4, 9)] }

theorem witness_StreamFormsComplete (c : Obligations.StreamFormsComplete) :
    Runs (.sunion (head 1 9 13) 31 2 1) (at0 kstream (set [0] [] [])) ∧
    Runs (.snext (head 1 9 13) 0 1) (at0 kstream (set [0] [] [])) ∧
    Runs (.stld (head 0 9 0) 7) (at0 kstream (set [0] [] [])) ∧ Runs (.stld (head 1 9 0) 7) (at0 kstream (set [64] [] [])) ∧
    Runs (.stst (head 1 9 13) 1) (at0 kstream (set [0] [] [])) :=
  ⟨⟨_, c.1 _ _ _ _ _ _ _ (op tag1 (set [0] [] [])) _ rfl ⟨rfl, rfl, rfl⟩ ⟨⟨rfl, fun _ => rfl⟩, rfl⟩ (.inl rfl) rfl rfl⟩,
   ⟨_, c.2.1 _ _ _ _ (op tag1 (set [0] [] [])) _ ⟨rfl, rfl, rfl⟩ ⟨⟨rfl, fun _ => rfl⟩, rfl⟩ (.inl rfl) rfl rfl⟩,
   ⟨_, c.2.2.1 _ _ _ (op tag1 (set [0] [] [])) ⟨rfl, rfl, rfl⟩ ⟨⟨rfl, fun _ => rfl⟩, rfl⟩ rfl rfl⟩,
   ⟨_, c.2.2.2.1 _ _ _ _ (op tag1 (set [64] [] [])) _ ⟨rfl, rfl, rfl⟩ ⟨⟨rfl, fun _ => rfl⟩, rfl⟩ rfl (by decide) rfl rfl (by decide) rfl⟩,
   ⟨_, c.2.2.2.2 _ _ _ (op tag1 (set [0] [] [])) _ ⟨rfl, rfl, rfl⟩ ⟨⟨rfl, nofun⟩, rfl⟩ rfl rfl⟩⟩


/-- A core with tile 255 in a state, PT15 with bit 63, 64 rows for the operand path from node 2, and an operand
descriptor at 64: 128 bytes a row from 0x2000 on. -/
def kOpd (state : Nat) : Core :=
  kM fun k => { k with
    tiles := [(255, { state := state, poison := false, valid := true, count := 7, base := 128, len := 128, users := [], rels := [] })],
    pts := [(15, 2 ^ 63)], nodes := [(2, { Node.zero with desc := [0, 0, 0, 0, 0, 0, 32] })],
    matPath := List.replicate 64 (2, List.replicate 32 (ln 7)),
    scratch := mw [(64, 4, 128 * 2 ^ 17 + 8 * 16), (68, 4, 0), (0x2000, 4, 7)] }
abbrev sOpd (state : Nat) : State := at0 (kOpd state) (set [64] [] [])
abbrev oOpd : OpIn := opM (set [64] [] [])

theorem witness_TilePredicate (c : Obligations.TilePredicate) :
    Runs (.mld hM .bf16 15 255 1 14 0 0 .ma) (sOpd 0) ∧ Runs (.mst hM .bf16 15 255 1 14 0 0 .ma) (sOpd 0) :=
  let m := c.2 hM .bf16 15 255 14 0 0 .ma (sOpd 0) oOpd 0
    (mready _ _ _ _ ⟨rfl, rfl, rfl⟩ rfl rfl (fun _ => rfl) rfl rfl (by decide) rfl) rfl
  ⟨⟨_, m.1 fun _ => by decide⟩, ⟨_, m.2 rfl⟩⟩

theorem witness_MatrixLoadsComplete (c : Obligations.MatrixLoadsComplete) :
    Runs (.mld hM .fp32 7 255 1 15 0 0 .md) (sOpd 2) := by
  obtain ⟨x, s2, s3, h1, h2⟩ := isOk2 (x := ((sOpd 2).acquireAll ((sOpd 2).agent oOpd.c oOpd.i.tag.colour)
    ((kOpd 2).tile 255).rels).readOperand (oOpd.afterFill ((kOpd 2).tile 255)))
    (fun x s2 => mldEffect s2 (oOpd.afterFill ((kOpd 2).tile 255)) .fp32 .md 0 0 7 x) (by decide +kernel)
  exact ⟨_, c.1 hM .fp32 7 255 1 15 0 0 .md (sOpd 2) _ _ oOpd 0 _ _
    (mready _ _ _ _ ⟨rfl, rfl, rfl⟩ rfl rfl (fun _ => rfl) rfl rfl (by decide) rfl) rfl nofun rfl rfl rfl rfl h1 h2⟩

theorem witness_MatrixLoadsComplete_path (c : Obligations.MatrixLoadsComplete) :
    Runs (.mld hM .bf16 15 0 0 0 0 0 .ma) (at0 (kOpd 0) (set [0xFFFFFFFF] [] [])) :=
  let ⟨_, h, _⟩ := c.2.1 hM .bf16 15 0 0 0 0 0 (at0 (kOpd 0) (set [0xFFFFFFFF] [] [])) (opM (set [0xFFFFFFFF] [] [])) 0 _ _
    (mready _ _ _ _ ⟨rfl, rfl, rfl⟩ rfl rfl (fun _ => rfl) rfl rfl (by decide) rfl) rfl rfl rfl (by decide) rfl rfl (by decide)
  ⟨_, h⟩

theorem witness_MatrixLoadsComplete_store (c : Obligations.MatrixLoadsComplete) :
    Runs (.mst hM .fp32 7 255 1 15 0 0 .md) (sOpd 1) := by
  obtain ⟨x, s1, ⟨l, segs⟩, h1, h2⟩ := isOk2 (x := (sOpd 1).readOperand oOpd)
    (fun x s1 => s1.storeRows oOpd x (mstRows (kOpd 1) .fp32 .md 0 7)) (by decide +kernel)
  refine ⟨_, c.2.2 hM .fp32 7 255 1 15 0 0 .md (sOpd 1) _ oOpd 0 _ _ _
    (mready _ _ _ _ ⟨rfl, rfl, rfl⟩ rfl rfl (fun _ => rfl) rfl rfl (by decide) rfl) rfl rfl rfl rfl rfl h1 trivial ?_ h2⟩
  cases h1
  decide +kernel

/-- A core whose ma registers 14 and 15 hold BF16 zeros, ma0 TERN5 zeros, and md7 two of each four. -/
def kMat : Core :=
  kM fun k => { k with
    mas := [(0, { MaReg.zero with fmt := 12, written := true }), (14, { MaReg.zero with fmt := 2, written := true }),
            (15, { MaReg.zero with fmt := 2, written := true })],
    mds := [(7, { data := List.replicate 1024 0x33, written := true, prow := 0 })] }
abbrev sMat (l : List Nat) : State := at0 kMat (set l [] [])
abbrev oMat (l : List Nat) : OpIn := opM (set l [] [])

theorem witness_MatrixClear (c : Obligations.MatrixClear) :
    Runs (.mzero hM 7 1 0) (sMat [0]) ∧ Runs (.mzero hM 6 1 1) (sMat [0]) :=
  ⟨let ⟨_, h, _⟩ := c hM 7 1 0 (sMat [0]) (oMat [0]) 0 7 rfl
     (mready _ _ _ _ ⟨rfl, rfl, rfl⟩ rfl rfl nofun rfl rfl (by decide) rfl)
   ⟨_, h⟩,
   let ⟨_, h, _⟩ := c hM 6 1 1 (sMat [0]) (oMat [0]) 0 6 rfl
     (mready _ _ _ _ ⟨rfl, rfl, rfl⟩ rfl rfl nofun rfl rfl (by decide) rfl)
   ⟨_, h⟩⟩

theorem witness_MatrixFormsComplete (c : Obligations.MatrixFormsComplete) :
    Runs (.mma hM .bf16 7 15 15) (sMat [0]) ∧ Runs (.mmsp hM .bf16 7 15 14 7 0) (sMat [0]) ∧
    Runs (.mcomp hM .bf16 15 14 7 1 7) (sMat [0]) ∧ Runs (.mqnt hM .int8 7 15 7 1) (sMat [0]) ∧
    Runs (.mdeq hM .bf16 .tern5 15 0 1) (sMat [0]) ∧ Runs (.mtrn hM 0 15) (sMat [0]) ∧
    Runs (.maccr hM 7 63 1 0) (sMat (List.replicate 32 9)) ∧ Runs (.maccr hM 7 63 1 1) (sMat (List.replicate 32 9)) ∧
    Runs (.ptset hM 15 1) (sMat [9]) ∧ Runs (.ptop hM 15 0 15 .andn) (sMat [0]) :=
  ⟨⟨_, c.1 hM .bf16 7 15 15 (sMat [0]) (oMat [0]) 0 _ _
     (mready _ _ _ _ ⟨rfl, rfl, rfl⟩ rfl rfl nofun rfl rfl (by decide) rfl) rfl rfl rfl⟩,
   let ⟨_, h, _⟩ := c.2.1 hM .bf16 7 15 14 7 0 (sMat [0]) (oMat [0]) 0
     (mready _ _ _ _ ⟨rfl, rfl, rfl⟩ rfl rfl nofun rfl rfl (by decide) rfl) rfl (by decide +kernel)
   ⟨_, h⟩,
   let ⟨_, _, h, _⟩ := c.2.2.1 hM .bf16 15 14 7 1 7 (sMat [0]) (oMat [0]) 0
     (mready _ _ _ _ ⟨rfl, rfl, rfl⟩ rfl rfl nofun rfl rfl (by decide) rfl) rfl rfl
   ⟨_, h⟩,
   ⟨_, c.2.2.2.1 hM .int8 7 15 7 1 (sMat [0]) (oMat [0]) 0
     (mready _ _ _ _ ⟨rfl, rfl, rfl⟩ rfl rfl nofun rfl rfl (by decide) rfl)⟩,
   ⟨_, c.2.2.2.2.1 hM .bf16 .tern5 15 0 1 (sMat [0]) (oMat [0]) 0 _
     (mready _ _ _ _ ⟨rfl, rfl, rfl⟩ rfl rfl nofun rfl rfl (by decide) rfl) rfl rfl (fun _ _ => by decide +kernel)⟩,
   ⟨_, c.2.2.2.2.2.1 hM 0 15 (sMat [0]) (oMat [0]) 0
     (mready _ _ _ _ ⟨rfl, rfl, rfl⟩ rfl rfl nofun rfl rfl (by decide) rfl)⟩,
   ⟨_, (c.2.2.2.2.2.2.1 hM 7 63 1 (sMat (List.replicate 32 9)) (oMat (List.replicate 32 9)) 0 _ _
     (mready _ _ _ _ ⟨rfl, rfl, rfl⟩ rfl rfl nofun rfl rfl (by decide) rfl) rfl rfl rfl).1⟩,
   ⟨_, (c.2.2.2.2.2.2.1 hM 7 63 1 (sMat (List.replicate 32 9)) (oMat (List.replicate 32 9)) 0 _ _
     (mready _ _ _ _ ⟨rfl, rfl, rfl⟩ rfl rfl nofun rfl rfl (by decide) rfl) rfl rfl rfl).2⟩,
   ⟨_, c.2.2.2.2.2.2.2.1 hM 15 1 (sMat [9]) (oMat [9]) 0 _
     (mready _ _ _ _ ⟨rfl, rfl, rfl⟩ rfl rfl nofun rfl rfl (by decide) rfl) rfl rfl⟩,
   ⟨_, c.2.2.2.2.2.2.2.2 hM 15 0 15 .andn (sMat [0]) (oMat [0]) 0
     (mready _ _ _ _ ⟨rfl, rfl, rfl⟩ rfl rfl nofun rfl rfl (by decide) rfl)⟩⟩

/-- In the second of three iterations of a repetition with stride 1 the fields have moved on by 1. -/
theorem witness_MatrixFormsComplete_rep (c : Obligations.MatrixFormsComplete) :
    Runs (.mtrn hM 13 14) (at0 kMat (rep2 [0] [])) :=
  ⟨_, c.2.2.2.2.2.1 hM 13 14 (at0 kMat (rep2 [0] [])) (opM (rep2 [0] [])) 1
     ⟨⟨rfl, rfl, rfl⟩, rfl, rfl, nofun, rfl, rfl, by decide, fun e h => by
       have : e = 1 := by rcases h with h | h <;> exact h
       subst this
       decide⟩⟩

theorem witness_TransposedAndHalfRow (c : Obligations.TransposedAndHalfRow) :
    (kMat.ma 15).transpose.fmt = 2 ∧
    ((kMat.acc 7).writeHalf 63 1 (List.replicate 32 (ln 9))).at 63 63 = 9 ∧
    ((kMat.acc 7).writeHalf 63 1 (List.replicate 32 (ln 9))).at 63 31 = (kMat.acc 7).at 63 31 :=
  ⟨(c.1 (kMat.ma 15) .bf16 rfl (by decide) (by decide) rfl).2.1,
   c.2 (kMat.acc 7) 63 1 (List.replicate 32 (ln 9)) (by decide) (by decide) rfl (by decide) 63 63 (by decide) (by decide),
   c.2 (kMat.acc 7) 63 1 (List.replicate 32 (ln 9)) (by decide) (by decide) rfl (by decide) 63 31 (by decide) (by decide)⟩

/-- The same core with a guard block at 64 (EMAX and SMAX 1, flags 7), and a PLY block at 96 with KCOUNT 64. -/
def kBlk : Core := { kMat with scratch := mw [(64, 4, 0x3F800000), (68, 4, 0x3F800000), (72, 4, 7), (104, 4, 64), (112, 4, 0x3F800000)] }
abbrev sBlk (a : Nat) : State := at0 kBlk (set [a] [] [])

theorem witness_CorrectingFormsComplete (c : Obligations.CorrectingFormsComplete) :
    Runs (.mstep hM 3 1) (sMat [0x1FFF00]) ∧ Runs (.mgrd hM 3) (sBlk 64) ∧
    Runs (.mtri hM 7 15 3 0) (sMat [0]) ∧ Runs (.mwy hM 7 6 15 14 3 63) (sMat [0]) ∧
    Runs (.ply hM 6 15 14 15 1 1) (sBlk 96) ∧ Runs (.plyc hM 6 4) (sMat [0]) ∧ Runs (.plyf hM 6) (sMat [0]) :=
  ⟨⟨_, c.1 hM 3 1 (sMat [0x1FFF00]) (oMat [0x1FFF00]) 0
     (mready _ _ _ _ ⟨rfl, rfl, rfl⟩ rfl rfl nofun rfl rfl (by decide) rfl) rfl (fun _ => by decide)⟩,
   ⟨_, c.2.1 hM 3 (sBlk 64) _ (oMat [64]) 0 _
     (mready _ _ _ _ ⟨rfl, rfl, rfl⟩ rfl rfl (fun _ => rfl) rfl rfl (by decide) rfl) rfl (by decide +kernel)
     (by decide +kernel) (by decide +kernel)⟩,
   let ⟨_, h, _⟩ := c.2.2.2.1 hM 7 15 3 0 (sMat [0]) _ (oMat [0]) 0 _ _ _
     (mready _ _ _ _ ⟨rfl, rfl, rfl⟩ rfl rfl (fun _ => rfl) rfl rfl (by decide) rfl) rfl (.inr rfl) rfl
   ⟨_, h⟩,
   let ⟨_, h, _⟩ := c.2.2.2.2.1 hM 7 6 15 14 3 63 (sMat [0]) (oMat [0]) 0 _ _
     (mready _ _ _ _ ⟨rfl, rfl, rfl⟩ rfl rfl nofun rfl rfl (by decide) rfl) rfl rfl (.inr rfl) rfl rfl rfl rfl rfl rfl
   ⟨_, h⟩,
   let ⟨_, _, h, _⟩ := c.2.2.2.2.2.1 hM 6 15 14 15 1 1 (sBlk 96) _ (oMat [96]) 0 _ _
     (mready _ _ _ _ ⟨rfl, rfl, rfl⟩ rfl rfl (fun _ => rfl) rfl rfl (by decide) rfl) rfl rfl rfl rfl rfl
   ⟨_, h⟩,
   let ⟨_, _, h, _⟩ := c.2.2.2.2.2.2.1 hM 6 4 (sMat [0]) (oMat [0]) 0
     (mready _ _ _ _ ⟨rfl, rfl, rfl⟩ rfl rfl nofun rfl rfl (by decide) rfl) (by decide +kernel)
   ⟨_, h⟩,
   ⟨_, c.2.2.2.2.2.2.2 hM 6 (sMat [0]) (oMat [0]) 0
     (mready _ _ _ _ ⟨rfl, rfl, rfl⟩ rfl rfl nofun rfl rfl (by decide) rfl) rfl rfl⟩⟩

theorem witness_CorrectingFormsComplete_mcor (c : Obligations.CorrectingFormsComplete) :
    Runs (.mcor hM 7 15 14 3 3 1 1) (sMat [0]) := by
  obtain ⟨m, hm⟩ := isOk (x := deltaRun (kMat.gd 3) 0 (List.zipWith (fun b r => (b, (kMat.ma 15).f32Row r, (kMat.ma 14).f32Row r))
    [0, 0] [32, 33]) (kMat.acc 7).rows) (by decide +kernel)
  exact ⟨_, c.2.2.1 hM 7 15 14 3 3 1 1 (sMat [0]) _ (oMat [0]) 0 _ _ _ _ _ _ _
    (mready _ _ _ _ ⟨rfl, rfl, rfl⟩ rfl rfl (fun _ => rfl) rfl rfl (by decide) rfl) rfl rfl rfl (.inr rfl) rfl nofun rfl rfl hm⟩


/-- A Reel command. -/
def reelOf (n : Nat) : ReelCmd :=
  { id := n, colour := 1, link := 0, maxpages := 0, bob := 0, nslot := 5, slotbase := 0, free := 0, skein := 0, doneAt := 0,
    k := 0, started := false, err := false, poison := false, withheld := none, posts := [], ended := false }

/-- A core with a WARP descriptor at 64 (one length at 96, one core, the plan at 112), an append descriptor at 128 (LINK
at 256, rows at 512 and 768, FREE at 264), a full tail at 0x20000 and a free page at 0x10000; three commands in its Reel. -/
def kReel (free : Nat) : Core :=
  kM fun k => { k with
    reel := [reelOf 1, reelOf 2, reelOf 3],
    scratch := mw [(64, 8, 96), (72, 2, 1), (74, 2, 1), (80, 8, 112), (96, 4, 65), (128, 8, 256), (136, 8, 512), (144, 8, 768),
      (152, 8, 264), (200, 4, 5 * 2 ^ 20), (256, 8, 0x20000), (264, 8, free), (0x20008, 8, 65536 + 64 * 256)] }
abbrev sReel (free a : Nat) : State := at0 (kReel free) (set [a] [] [])

theorem isOk3 {ε ε' α β γ : Type} {x : Except ε (α × β)} (f : β → Except ε (α × β)) (g : α → α → β → Except ε' γ)
    (h : (match x with
      | .ok p => (match f p.2 with
        | .ok q => (match g p.1 q.1 q.2 with | .ok _ => true | .error _ => false)
        | .error _ => false)
      | .error _ => false) = true) : ∃ a b a' b' c, x = .ok (a, b) ∧ f b = .ok (a', b') ∧ g a a' b' = .ok c := by
  cases x with
  | error _ => cases h
  | ok p =>
    obtain ⟨a', b', c, h1, h2⟩ := isOk2 (x := f p.2) (fun a' b' => g p.1 a' b') h
    exact ⟨p.1, p.2, a', b', c, rfl, h1, h2⟩

/-- An append whose writes have all been performed. -/
def doneAppend (s : State) (kr vr : List PByte) : Except ReelErr (Nat × Nat × State) :=
  match s.append 0 256 264 kr vr with
  | .ok r => if (r.2.2.dropAnswers 0 reelAgent).partDone 0 reelAgent 0 then .ok r else .error .again
  | .error e => .error e

theorem doneAppend_ok {s : State} {kr vr : List PByte} {r : Nat × Nat × State} (h : doneAppend s kr vr = .ok r) :
    s.append 0 256 264 kr vr = .ok r ∧ (r.2.2.dropAnswers 0 reelAgent).partDone 0 reelAgent 0 = true := by
  unfold doneAppend at h
  split at h
  · next hr =>
    split at h
    · next hp => cases h; exact ⟨hr, hp⟩
    · cases h
  · cases h

theorem witness_WarperAndReelComplete_append (c : Obligations.WarperAndReelComplete) :
    Runs (.reel hM 1) (sReel 0x10000 128) := by
  obtain ⟨⟨bs, s1⟩, h0⟩ := isOk (x := (sReel 0x10000 128).paramBlock (opM (set [128] [] [])) 64 64 354) (by decide +kernel)
  cases h0
  obtain ⟨kr, s2, vr, s3, ⟨r, n, s4⟩, h1, h2, h3⟩ := isOk3 (x := ((sReel 0x10000 128).noteAccess (opM (set [128] [] [])) .read 128 [(place 128, 64)]).kvRow (opM (set [128] [] [])) 512)
    (fun s => s.kvRow (opM (set [128] [] [])) 768) (fun kr vr s => doneAppend s kr vr) (by decide +kernel)
  exact ⟨_, (c.2.2.1 hM (sReel 0x10000 128) _ _ _ (opM (set [128] [] [])) 0 _ _ _ _
     (mready _ _ _ _ ⟨rfl, rfl, rfl⟩ rfl rfl (fun _ => rfl) rfl rfl (by decide) rfl) rfl rfl (by decide) rfl (by decide +kernel)
     (by decide +kernel) (by decide +kernel) (by decide +kernel) (by decide +kernel) h1 h2).1 _ _ _ (doneAppend_ok h3).1
     (doneAppend_ok h3).2⟩

theorem witness_WarperAndReelComplete (c : Obligations.WarperAndReelComplete) :
    Runs (.warp hM) (sReel 0 64) ∧ Runs (.reel hM 0) (sReel 0 192) ∧ Runs (.reel hM 1) (sReel 0 128) ∧
    Runs (.reel hM 1) (at0 (kReel 0) (answered [128] [])) :=
  ⟨⟨_, c.1 hM (sReel 0 64) _ _ (opM (set [64] [] [])) 0 96 1 1 112 _ _ _ _ _
     (mready _ _ _ _ ⟨rfl, rfl, rfl⟩ rfl rfl (fun _ => rfl) rfl rfl (by decide) rfl) rfl rfl (by decide +kernel)
     (by decide +kernel) (by decide +kernel) (by decide +kernel) (by decide) (by decide) (by decide) (by decide)
     (by decide) (by decide +kernel) (by decide) (by decide) (by decide +kernel) rfl rfl (by decide +kernel) rfl rfl⟩,
   ⟨_, c.2.1 hM (sReel 0 192) _ (opM (set [192] [] [])) 0 _ _
     (mready _ _ _ _ ⟨rfl, rfl, rfl⟩ rfl rfl (fun _ => rfl) rfl rfl (by decide) rfl) rfl rfl rfl (by decide)⟩,
   ⟨_, (c.2.2.1 hM (sReel 0 128) _ _ _ (opM (set [128] [] [])) 0 _ _ _ _
     (mready _ _ _ _ ⟨rfl, rfl, rfl⟩ rfl rfl (fun _ => rfl) rfl rfl (by decide) rfl) rfl rfl (by decide) rfl
     (by decide +kernel) (by decide +kernel) (by decide +kernel) (by decide +kernel) (by decide +kernel) rfl rfl).2 rfl⟩,
   ⟨_, c.2.2.2 hM 1 (at0 (kReel 0) (answered [128] [])) (opM (answered [128] [])) 0 9
     (mready _ _ _ _ ⟨rfl, rfl, rfl⟩ rfl rfl (fun _ => rfl) rfl rfl (by decide) rfl) rfl rfl⟩⟩


/-- A core with a collective descriptor at 64: SRC 0x1000, DST 0x2000, COUNT 64, GID 5, the set as its group. -/
def kColl : Core := { kore tag1 0 0 with scratch := mw [(64, 8, 0x1000), (72, 8, 0x2000), (80, 4, 64), (84, 4, 5)] }
abbrev sColl : State := at0 kColl (set [64] [] [])
abbrev oColl : OpIn := op tag1 (set [64] [] [])

/-- An entry of a group table of this module: partition 0, rank 0 and launch number 0. -/
theorem entryOk_module (m : Nat) (h : m < 4096) : entryOk (groupEntry m 0 0 0) = true := by
  simp only [entryOk, bits, groupEntry, beq_iff_eq]; omega

theorem collOk_alone (s : State) (radius own : Nat) (hs : s.ownEntry 0 = own) (ho : entryOk own = true) :
    s.collOk 0 { form := 1, op := 0, fmt := 0, mode := 0, root := 0 } [0x1000, 0x2000, 64 + 5 * 2 ^ 32, 0, 0, 0, 0, 0]
      [own] radius = true := by
  have h2 : s.entryDist 0 own = 0 := by simp [State.entryDist, hs]
  simp [State.collOk, ho, h2, hs, CollForm.srcBytes, CollForm.dstBytes, overlaps, bits]

theorem entry_module (m : Nat) (h : m < 4096) : bits (groupEntry m 0 0 0) 48 12 = m := by
  simp only [bits, groupEntry]; omega

/-- A group of an entry of this module alone lists no other module, so that its arrival sends no bytes. -/
theorem alone (s : State) (o : OpIn) (m : CollForm) (own n a : Nat) (ho : bits own 48 12 = Config.moduleId.toNat) :
    s.arrivalBlock o m [own] n a = .ok ([], s) := by
  have h : otherModules [own] = [] := by simp [otherModules, ho]
  simp [State.arrivalBlock, h]

theorem own_of (s : State) (c : Nat) (hp : s.corePart c = 0) (hr : s.coreRank c = 0) (hl : s.coreLnum c = 0) :
    s.ownEntry c = groupEntry Config.moduleId.toNat 0 0 0 := by
  simp only [State.ownEntry, hp, hr, hl]

/-- The state once the descriptor of that core has been read. -/
abbrev sColl1 : State := sColl.noteAccess oColl .read 64 [(place 64, 64)]

theorem witness_CollectivesArrive (c : Obligations.CollectivesArrive) : Runs (.cbc (head 1 9 0) 0 0) sColl :=
  ⟨_, c (.cbc (head 1 9 0) 0 0) _ _ _ sColl sColl1 _ sColl1 oColl _ [] [sColl.ownEntry 0] [0x1000, 0x2000, 64 + 5 * 2 ^ 32, 0, 0, 0, 0, 0] 5 _ _
    rfl ⟨rfl, rfl, rfl⟩ rfl rfl rfl rfl (by decide) (by decide) (by decide) rfl (by decide +kernel) rfl (by decide)
    (collOk_alone sColl 0 _ rfl (entryOk_module _ Config.moduleId.isLt)) rfl rfl rfl (alone sColl1 oColl _ _ _ _ ((own_of sColl 0 rfl rfl rfl).symm ▸ entry_module _ Config.moduleId.isLt)) rfl⟩

/-- A camera: u = x, v = y, w = z, 4 by 4 tokens, store 0, NEAR 1, FAR 2, MAXSTEP 1. -/
def camBytes : List Byte :=
  [one32, 0, 0, 0, 0, one32, 0, 0, 0, 0, one32, 0, 0, 0, one32, 0].flatMap (toBytes 4) ++ toBytes 2 4 ++ toBytes 2 4 ++
    toBytes 2 4 ++ toBytes 2 0 ++ toBytes 4 one32 ++ toBytes 4 0x40000000 ++ toBytes 2 1 ++ List.replicate 46 0

/-- A store descriptor: cells of side 1, 8 by 8 by 8 of them, a brick table of 2^10 entries. -/
def storeBytes : List Byte :=
  List.replicate 12 0 ++ toBytes 4 one32 ++ toBytes 8 (8 + 8 * 2 ^ 21 + 8 * 2 ^ 42) ++ toBytes 4 (2 ^ 31) ++ toBytes 4 0 ++
    toBytes 8 (10 * 2 ^ 58) ++ List.replicate 88 0

/-- A bound store of launch 1, and a machine that has it. -/
def store0 : Store :=
  { part := 0, id := 0, lid := 1, desc := storeBytes, step := 0, lostbrick := 3, blendovf := 4, arrived := [], pending := [],
    buffer := [] }
def atW (k : Core) (f : Firing) : State :=
  { at0 k f with parts := [(0, { Part.reset with storeCount := 1 })], stores := [store0] }

/-- A core with that camera in register 7 and in its scratchpad at 64, and tile 255 in a state. -/
def kCam (state : Nat) : Core :=
  { kore tag1 0 0 with
    cams := [(7, { loaded := true, bytes := camBytes })],
    tiles := [(255, { state := state, poison := false, valid := true, count := 7, base := 128, len := 128, users := [], rels := [] })],
    scratch := memWrite [] 64 camBytes }
abbrev sCam (state : Nat) (l r : List Nat) : State := atW (kCam state) (set l r [])

abbrev oCam (l r : List Nat) : OpIn := op tag1 (set l r [])

theorem witness_CameraFormsComplete (c : Obligations.CameraFormsComplete) : Runs (.camld (head 1 9 0) 0) (sCam 0 [64] []) := by
  obtain ⟨b, s1, s2, h1, h2⟩ := isOk2 (x := (sCam 0 [64] []).camBlock (oCam [64] []) 128 64)
    (fun b s1 => s1.writeCamera 0 0 b) (by decide +kernel)
  exact ⟨_, c.1 (head 1 9 0) 0 (sCam 0 [64] []) _ _ (oCam [64] []) _ ⟨rfl, rfl, rfl⟩ ⟨rfl, fun _ => rfl⟩ rfl h1 h2⟩

theorem witness_CameraFormsComplete_store (c : Obligations.CameraFormsComplete) :
    Runs (.camst (head 1 9 0) 7) (sCam 0 [64] []) :=
  ⟨_, c.2.1 (head 1 9 0) 7 (sCam 0 [64] []) (oCam [64] []) _ _ ⟨rfl, rfl, rfl⟩ ⟨rfl, fun _ => rfl⟩ rfl rfl rfl rfl rfl
      (by decide) (by decide) rfl⟩

theorem witness_CameraFormsComplete_compose (c : Obligations.CameraFormsComplete) :
    Runs (.camcomp (head 1 9 0) 0 7) (sCam 0 [64] []) := by
  obtain ⟨p, s3, s4, h3, h4⟩ := isOk2 (x := (sCam 0 [64] []).camBlock (oCam [64] []) 64 16)
    (fun p s1 => s1.writeCamera 0 0 (composeM camBytes p ++ slice camBytes 64 20 ++ List.replicate 12 0 ++ slice camBytes 96 32))
    (by decide +kernel)
  exact ⟨_, c.2.2 (head 1 9 0) 0 7 (sCam 0 [64] []) _ _ (oCam [64] []) camBytes p ⟨rfl, rfl, rfl⟩ ⟨rfl, fun _ => rfl⟩ rfl rfl
    (by decide +kernel) h3 h4⟩

/-- What a gather's rows come to. -/
abbrev gRows (march : Bool) (l r : List Nat) (rowoff : Nat) (v : View) : Except State State :=
  (sCam 1 l r).writeRows (oCam l r) 0 (gatherRows (oCam l r) ((kCam 1).tile 255) rowoff (gathered (sCam 1 l r) (oCam l r) v march))
    ((sCam 1 l r).countCases 0 7 (gathered (sCam 1 l r) (oCam l r) v march))

theorem witness_GathersComplete (c : Obligations.GathersComplete) :
    Runs (.pgath (head 2 9 13) 7 255 31 .hit) (sCam 1 [5] [one32]) := by
  obtain ⟨v, s1, hv, h1⟩ := someOk (x := (sCam 1 [5] [one32]).view 0 7) (gRows false [5] [one32] 31) (by decide +kernel)
  exact ⟨_, c _ (head 2 9 13) false 7 255 31 .hit (sCam 1 [5] [one32]) _ (oCam [5] [one32]) _ v _ rfl ⟨rfl, rfl, rfl⟩ ⟨rfl, fun _ => rfl⟩
    rfl rfl rfl rfl hv (by decide +kernel) rfl rfl h1⟩

theorem witness_GathersComplete_march (c : Obligations.GathersComplete) :
    Runs (.pmarch (head 1 9 13) 7 255 0 .unseen) (sCam 1 [0xFFFFFFFF] []) := by
  obtain ⟨v, s1, hv, h1⟩ := someOk (x := (sCam 1 [0xFFFFFFFF] []).view 0 7) (gRows true [0xFFFFFFFF] [] 0) (by decide +kernel)
  exact ⟨_, c _ (head 1 9 13) true 7 255 0 .unseen (sCam 1 [0xFFFFFFFF] []) _ (oCam [0xFFFFFFFF] []) _ v _ rfl ⟨rfl, rfl, rfl⟩
    ⟨rfl, fun _ => rfl⟩ rfl rfl rfl rfl hv (by decide +kernel) rfl rfl h1⟩

/-- What a scatter reads, checked for poison. -/
abbrev sRows (v : View) : Except State (List (List PByte) × State) :=
  match (sCam 2 [5] [one32]).readRows ((oCam [5] [one32]).afterFill ((kCam 2).tile 255)) 320 0
      ((List.range 1).map fun j => ((kCam 2).tile 255).base * 64 + (0 + (oCam [5] [one32]).rowIdx j) * 320)
      ((sCam 2 [5] [one32]).acquireAll ((sCam 2 [5] [one32]).agent 0 1) ((kCam 2).tile 255).rels) with
  | .error e => .error e
  | .ok p => if ((oCam [5] [one32]).scatterLanes p.1).all (fun q => !q.poison) && !camStrict v.b then .ok p else .error State.reset

theorem witness_ScatterAndWorldFormsComplete (c : Obligations.ScatterAndWorldFormsComplete) :
    Runs (.pstep (head 1 9 0) 0) (sCam 0 [0] []) ∧ Runs (.pstat (head 0 9 0) 1 .clipped 7) (sCam 0 [0] []) ∧
    Runs (.pstat (head 0 9 0) 0 .lostbrick 7) (sCam 0 [0] []) :=
  ⟨⟨_, c.2.1 (head 1 9 0) 0 (sCam 0 [0] []) (oCam [0] []) ⟨rfl, rfl, rfl⟩ ⟨rfl, nofun⟩ rfl (by decide) rfl (by decide +kernel)⟩,
   let ⟨_, h, _⟩ := c.2.2 (head 0 9 0) 1 .clipped 7 (sCam 0 [0] []) (oCam [0] []) _ _ ⟨rfl, rfl, rfl⟩ ⟨rfl, nofun⟩ rfl rfl rfl
     nofun nofun (fun _ => rfl) nofun nofun
   ⟨_, h⟩,
   let ⟨_, h, _⟩ := c.2.2 (head 0 9 0) 0 .lostbrick 7 (sCam 0 [0] []) (oCam [0] []) _ _ ⟨rfl, rfl, rfl⟩ ⟨rfl, nofun⟩ rfl rfl rfl
     (fun _ => rfl) nofun nofun nofun nofun
   ⟨_, h⟩⟩

theorem witness_ScatterAndWorldFormsComplete_scatter (c : Obligations.ScatterAndWorldFormsComplete) :
    Runs (.pscat (head 2 9 0) 7 255 0) (sCam 2 [5] [one32]) := by
  obtain ⟨v, ⟨rows, s1⟩, hv, h1⟩ := someOk (x := (sCam 2 [5] [one32]).view 0 7) sRows (by decide +kernel)
  revert h1
  simp only [sRows]
  split
  · exact nofun
  · next p hp =>
    split
    · next hc =>
      intro h1
      cases h1
      simp only [Bool.and_eq_true, List.all_eq_true, Bool.not_eq_true'] at hc
      exact ⟨_, c.1 (head 2 9 0) 7 255 0 (sCam 2 [5] [one32]) _ (oCam [5] [one32]) _ v rows _ ⟨rfl, rfl, rfl⟩ ⟨rfl, fun _ => rfl⟩ rfl
        hv rfl rfl rfl rfl (by decide +kernel) rfl hp rfl hc.1 (fun h => absurd h (by rw [hc.2]; decide))⟩
    · exact nofun


/-- A binding of the skein at 0x4000. -/
def bound0 : Binding :=
  { Binding.zero with bound := true, skein := 0x4000, prog := [0], vocab := 4, cands := [{ tok := 2, val := 0x3F800000 }] }

/-- A core with a bind block at 64 (skein 0x4000, one program word at 128), another that unbinds at 80, the skein's TOPK 64,
TOPP 1 and VOCAB, and bindings 7 (with a candidate) and 6 (with none). -/
def kSk : Core :=
  kM fun k => { k with
    binds := [(7, bound0), (6, { bound0 with cands := [] })],
    scratch := mw [(64, 8, 0x4000), (72, 4, 128), (76, 4, 1), (0x4014, 4, 64), (0x4018, 4, 0x3F800000), (0x401C, 4, 0xFFFFFFFF)] }
abbrev sSk (l : List Nat) : State := at0 kSk (set l [] [])
abbrev oSk (l : List Nat) : OpIn := opM (set l [] [])

theorem sready (s : State) (o : OpIn) (h : OpWord) (w : Bool) (hf : Fires s o) (hh : o.head = h) (hp : s.portBusy o .spindle = false)
    (ha : s.hasArrived o.c = false) (he : s.earlier o = false) (ht : TokenFits s o h) : SpindleReady s o h w :=
  ⟨hf, hh, hp, ha, fun _ => he, ht⟩

theorem witness_SpindleFormsComplete (c : Obligations.SpindleFormsComplete) :
    Runs (.skbind hM 7) (sSk [80]) ∧ Runs (.spin hM 7) (sSk [0x3F800000]) :=
  ⟨let ⟨_, h⟩ := c.1 hM 7 (sSk [80]) _ (oSk [80]) _ (sready _ _ _ _ ⟨rfl, rfl, rfl⟩ rfl rfl rfl rfl rfl) rfl (by decide)
     (by decide) rfl (by decide +kernel) (by decide +kernel)
   ⟨_, h⟩,
   ⟨_, c.2.2.1 hM 7 (sSk [0x3F800000]) _ (oSk [0x3F800000]) _ _ (sready _ _ _ _ ⟨rfl, rfl, rfl⟩ rfl rfl rfl rfl rfl) rfl rfl rfl⟩⟩

/-- A bind block and its program read. -/
abbrev sk1 : State := (sSk [64]).noteAccess (oSk [64]) .read 64 [(place 64, 16)]
abbrev sk2 : State := sk1.noteAccess (oSk [64]) .read 128 [(place 128, 2)]

theorem witness_SpindleFormsComplete_bind (c : Obligations.SpindleFormsComplete) : Runs (.skbind hM 7) (sSk [64]) := by
  obtain ⟨⟨hw, p, s3⟩, h⟩ := isOk (x := match (taken sk2 (oSk [64])).headerWords 0 0x4000 [2, 4, 5, 7, 8, 9, 16, 17, 18, 19, 20, 21, 22, 23] with
    | .error e => .error (some e)
    | .ok q => if q.2.1 == false && tempOk (q.1.getD 1 0) && decide (q.1.getD 2 0 < 128) && decide (q.1.getD 3 0 ≠ 0) &&
        decide (q.1.getD 4 0 + q.1.getD 5 0 * 2 ^ 32 < 2 ^ 56) then .ok q else .error none) (by decide +kernel)
  revert h
  split
  · exact nofun
  · next q hq =>
    split
    · next hc =>
      intro h
      cases h
      simp only [Bool.and_eq_true, decide_eq_true_eq, beq_iff_eq] at hc
      obtain ⟨⟨⟨⟨rfl, h1⟩, h2⟩, h3⟩, h4⟩ := hc
      obtain ⟨_, _, h, _⟩ := c.2.1 hM 7 (sSk [64]) _ _ _ (oSk [64]) _ _ 0x4000 128 1 [0] _
        (sready _ _ _ _ ⟨rfl, rfl, rfl⟩ rfl rfl rfl rfl rfl) rfl (by decide) (by decide) (show _ = Except.ok (_, sk1) from rfl)
        (by decide +kernel) (by decide +kernel) (by decide +kernel) (by decide +kernel) (by decide) (by decide) (by decide)
        (by decide) (by decide) (by decide) (by decide) (show _ = Except.ok (_, sk2) from rfl) (by decide +kernel) hq h1 h2 h3 h4
      exact ⟨_, h⟩
    · exact nofun

/-- A draw's header words and updates. -/
abbrev dRun (b : Binding) (l : List Nat) : Except (Option AccErr) (List Nat × State × State) :=
  match (taken (sSk l) (oSk l)).headerWords 0 b.skein [0, 1, 2, 3, 5, 6] with
  | .error e => .error (some e)
  | .ok q =>
    if q.2.1 == false && decide (1 ≤ q.1.getD 4 0) && decide (q.1.getD 4 0 ≤ 64) && fp32.lt 0 (q.1.getD 5 0) &&
        fp32.le (q.1.getD 5 0) 0x3F800000 then
      match q.2.2.drawHeader 0 b (if (q.1.getD 3 0 / 4 % 2 == 1 || b.poisoned || b.cands.isEmpty) then none else
          some (drawWin b (q.1.getD 4 0) (q.1.getD 5 0) (BitVec.ofNat 32 (q.1.getD 0 0)) (BitVec.ofNat 32 (q.1.getD 1 0))
            (BitVec.ofNat 32 (q.1.getD 2 0)))) with
      | .error e => .error (some e)
      | .ok s2 => .ok (q.1, q.2.2, s2)
    else .error none

theorem draws (c : Obligations.SpindleFormsComplete) (n : BitVec 3) (b : Binding) (hb : b = kSk.bind n.toNat)
    (hd : b.bound = true) (h : ∃ r, dRun b [0] = .ok r) : Runs (.draw hM n) (sSk [0]) := by
  obtain ⟨r, h⟩ := h
  simp only [dRun] at h
  split at h
  · cases h
  · next q hq =>
    split at h
    · next hc =>
      split at h
      · cases h
      · next s2 hs =>
        simp only [Bool.and_eq_true, decide_eq_true_eq, beq_iff_eq] at hc
        obtain ⟨⟨⟨⟨h0, h1⟩, h2⟩, h3⟩, h4⟩ := hc
        obtain ⟨hw, p, s1⟩ := q
        cases h0
        obtain ⟨_, _, e, _⟩ := c.2.2.2 hM n (sSk [0]) s1 s2 (oSk [0]) b hw _ _ (sready _ _ _ _ ⟨rfl, rfl, rfl⟩ rfl rfl rfl rfl rfl)
          hb hd hq h1 h2 h3 h4 rfl rfl hs
        exact ⟨_, e⟩
    · cases h

theorem witness_SpindleFormsComplete_draw (c : Obligations.SpindleFormsComplete) :
    Runs (.draw hM 7) (sSk [0]) ∧ Runs (.draw hM 6) (sSk [0]) :=
  ⟨draws c 7 _ rfl rfl (isOk (by decide +kernel)), draws c 6 _ rfl rfl (isOk (by decide +kernel))⟩

/-- SKUPD's update, where it is not poisoned. -/
abbrev upd (l : List Nat) : Except (Option AccErr) (CountUpd × State) :=
  match (taken (sSk l) (oSk l)).updateCount 0 0x4000 (l.headD 0) 255 with
  | .error e => .error (some e)
  | .ok p => if p.1.poison = false then .ok p else .error none

theorem witness_SkeinFormsComplete (c : Obligations.SkeinFormsComplete) :
    Runs (.skupd hM 255 7) (sSk [0xFFFFFFFF]) ∧ Runs (.skupd hM 255 7) (sSk [5]) := by
  refine ⟨⟨_, (c.1 hM 255 7 (sSk [0xFFFFFFFF]) (oSk [0xFFFFFFFF]) _ (sready _ _ _ _ ⟨rfl, rfl, rfl⟩ rfl rfl rfl rfl rfl) rfl rfl rfl).1 rfl⟩, ?_⟩
  obtain ⟨r, h⟩ := isOk (x := upd [5]) (by decide +kernel)
  simp only [upd] at h
  split at h
  · cases h
  · next p hp =>
    split at h
    · next hu => exact ⟨_, (c.1 hM 255 7 (sSk [5]) (oSk [5]) _ (sready _ _ _ _ ⟨rfl, rfl, rfl⟩ rfl rfl rfl rfl rfl) rfl rfl rfl).2
        (by decide) p.1 p.2 hp hu⟩
    · cases h

theorem witness_SkeinFormsComplete_words (c : Obligations.SkeinFormsComplete) :
    Runs (.skrd hM 31 7) (sSk [0]) ∧ Runs (.skwr hM 31 7) (sSk [5]) := by
  obtain ⟨s2, h2⟩ := isOk (x := (taken (sSk [5]) (oSk [5])).headerRmw 0 0x4000 31 [8, 5] (fun _ => 5)) (by decide +kernel)
  obtain ⟨r, h⟩ := isOk (x := match (taken (sSk [0]) (oSk [0])).engLoad 0 spindleAgent (0x4000 + 4 * 31) 4 with
    | .error e => .error (some e)
    | .ok p => if p.2.1 = false then .ok p else .error none) (by decide +kernel)
  split at h
  · cases h
  · next p hp =>
    split at h
    · next hu =>
      obtain ⟨x, q, s1⟩ := p
      cases hu
      exact ⟨⟨_, c.2.1 hM 31 7 (sSk [0]) s1 (oSk [0]) _ x (sready _ _ _ _ ⟨rfl, rfl, rfl⟩ rfl rfl rfl rfl rfl) rfl rfl hp⟩,
        ⟨_, c.2.2 hM 31 7 (sSk [5]) s2 (oSk [5]) _ (sready _ _ _ _ ⟨rfl, rfl, rfl⟩ rfl rfl rfl rfl rfl) rfl rfl rfl h2⟩⟩
    · cases h


theorem witness_ClockStepsComplete (c : Obligations.ClockStepsComplete) :
    Runs (.supplySagTrip 7) State.reset ∧ Runs (.stretchStepUp 0) { State.reset with power := { Power.reset with overCap := true } } ∧
    Runs (.stretchStepDown 0) State.reset ∧
    Runs (.hardSagStop 7) { State.reset with power := { Power.reset with dies := List.replicate 8 { Die.reset with factor := 5 } } } ∧
    Runs (.hardSagRestart 7) { State.reset with power := { Power.reset with dies := List.replicate 8 { Die.reset with stopped := true } } } ∧
    Runs .packagePowerOverCap State.reset ∧ Runs (.powerCapWrite 0xFFFFFFFF) State.reset :=
  ⟨((c State.reset 7 _ rfl (by decide) rfl).1 rfl).elim fun _ h => ⟨_, h.1⟩,
   ((c { State.reset with power := { Power.reset with overCap := true } } 0 _ rfl (by decide) rfl).2.1 rfl (.inr rfl)).elim
     fun _ h => ⟨_, h.1⟩,
   ((c State.reset 0 _ rfl (by decide) rfl).2.2.1 rfl).elim fun _ h => ⟨_, h.1⟩,
   ((c { State.reset with power := { Power.reset with dies := List.replicate 8 { Die.reset with factor := 5 } } } 7 _ rfl (by decide)
     rfl).2.2.2.1 rfl rfl).elim fun _ h => ⟨_, h.1⟩,
   ((c { State.reset with power := { Power.reset with dies := List.replicate 8 { Die.reset with stopped := true } } } 7 _ rfl
     (by decide) rfl).2.2.2.2.1 rfl).elim fun _ h => ⟨_, h.1⟩,
   (c State.reset 7 _ rfl (by decide) rfl).2.2.2.2.2.1.elim fun _ h => ⟨_, h.1⟩,
   ⟨_, (c State.reset 7 _ rfl (by decide) rfl).2.2.2.2.2.2 0xFFFFFFFF _ rfl⟩⟩

theorem witness_BootStepsComplete (c : Obligations.BootStepsComplete) :
    Runs (.deviceReset [1023] ⟨[(0, 1)], [(0, 1, 2)]⟩) State.reset ∧
    Runs (.firmwareLoad 12288 [] ⟨[], []⟩) { State.reset with fw := { Firmware.reset with state := 2 } } ∧
    Runs (.measurementExtend 4) State.reset ∧ Runs (.measurementExtend 7) State.reset ∧ Runs .quoteBuild State.reset ∧
    Runs .quoteComplete { State.reset with attest := { Attest.reset with qBusy := true } } :=
  ⟨(c.1 State.reset [1023] ⟨[(0, 1)], [(0, 1, 2)]⟩).elim fun _ h => ⟨_, h.1⟩,
   (c.2.1 { State.reset with fw := { Firmware.reset with state := 2 } } 12288 [] ⟨[], []⟩ _ rfl (by decide) (by decide) rfl).elim
     fun _ h => ⟨_, h.1⟩,
   (c.2.2.1 State.reset 4 rfl (by decide)).elim fun _ h => ⟨_, h.1⟩,
   (c.2.2.1 State.reset 7 rfl (by decide)).elim fun _ h => ⟨_, h.1⟩,
   (c.2.2.2.1 State.reset).elim fun _ h => ⟨_, h.1⟩,
   (c.2.2.2.2 { State.reset with attest := { Attest.reset with qBusy := true } } _ rfl rfl).elim fun _ h => ⟨_, h.1⟩⟩

/-- A machine whose port 3 is as given. -/
def sPort (p : Port) : State := { State.reset with ports := [(3, p)] }
def upPort : Port := { Port.reset with up := true, rxSeq := 255 }

/-- A flit of a packet whose route of one hop ends here, the number due being 255. -/
def routeHere : List Byte := toBytes 8 (2 ^ 60)

/-- A flit of a packet with SEQ 7, as a replay buffer holds it. -/
def flit7 : Flit := { header := flitHeader 4 0 0 7 0, payload := [], parcel := { num := 0, payload := [], hop := 0, origin := .own 0 2 none } }

theorem witness_FlitStepsComplete (c : Obligations.FlitStepsComplete) :
    Runs (.twinikFlitReceive 3 (BitVec.ofNat 32 (flitHeader 4 0 1 255 0)) routeHere
      (crc32c (toBytes 4 (BitVec.ofNat 32 (flitHeader 4 0 1 255 0) : Word).toNat ++ routeHere))) (sPort upPort) ∧
    Runs (.twinikFlitReceive 3 (BitVec.ofNat 32 (flitHeader 1 0 0 255 0)) routeHere
      (crc32c (toBytes 4 (BitVec.ofNat 32 (flitHeader 1 0 0 255 0) : Word).toNat ++ routeHere))) (sPort upPort) ∧
    Runs (.twinikFlitReceive 3 0 routeHere 0) (sPort upPort) ∧
    Runs (.twinikNakReceive 3 7) (sPort { upPort with replay := [flit7] }) ∧
    Runs (.twinikAckReceive 9 0) State.reset ∧
    ∀ q, ∃ v : State, State.reset.takeWrite q =
      v.sendPacket (Config.packetField 0 q % 4096) 1 6 none [Config.moduleId.toNat, Config.packetField 1 q] [] :=
  ⟨(c.1 (sPort upPort) 3 _ _ _ rfl rfl (by decide +kernel) (by decide +kernel) (by decide +kernel)
     (by decide +kernel)).elim fun _ h => ⟨_, h.1⟩,
   (c.2.1 (sPort upPort) 3 _ _ _ rfl rfl (by decide +kernel) (by decide +kernel)).elim fun _ h => ⟨_, h.1⟩,
   (c.2.2.1 (sPort upPort) 3 0 0 routeHere rfl (by decide +kernel) rfl).elim fun _ h => ⟨_, h.1⟩,
   (c.2.2.2.1 (sPort { upPort with replay := [flit7] }) 3 7 _ _ rfl rfl
     rfl).elim fun _ h => ⟨_, h.1⟩,
   ⟨_, (c.2.2.2.2.1 State.reset 9 0 _ rfl).1⟩,
   fun q => (c.2.2.2.2.2 State.reset q _ _ rfl rfl (by decide)).elim fun v h => ⟨v, h.1⟩⟩

/-- An ordered write outstanding to module 9, whose routes are usable. -/
def ow0 : OrderedWrite := { dest := 9, id := 0, addr := 0, bytes := [], poison := false, acc := none, alt := false, st := .outstanding }
def sOw : State :=
  { State.reset with
    owrites := [ow0], ports := [(1, upPort)],
    routes := [(9, { primary := 2 ^ 60, alternate := 2 ^ 60 + 1, priFail := false, altFail := false })] }

theorem witness_RouteAndPortStepsComplete (c : Obligations.RouteAndPortStepsComplete) :
    Runs (.undeliverableResponse 9 true none) sOw ∧ Runs (.undeliverableResponse 9 false (some 0)) sOw ∧
    (State.reset.sendOn 3 2 1 [] (.own 0 2 none)).sent = [] ∧ Runs (.portRetrain 23) State.reset ∧ Runs (.portRetrainDone 3 true) (sPort { upPort with retraining := true }) ∧
    Runs (.portRetrainDone 3 false) (sPort { upPort with retraining := true }) ∧ Runs (.portRetire 23) State.reset ∧
    Runs (.routeTableWrite 4095 0 (2 ^ 64 - 1)) State.reset :=
  ⟨⟨_, c.1 sOw 9 true⟩,
   (c.2.1 sOw ow0 1 rfl rfl rfl rfl rfl rfl rfl rfl (by decide)).elim fun _ h => ⟨_, h.1⟩,
   (c.2.2.1 State.reset 3 2 1 [] (.own 0 2 none) (.inl rfl)).1,
   (c.2.2.2.1 State.reset 23 rfl (by decide)).elim fun _ h => ⟨_, h.1⟩,
   (c.2.2.2.2.1 (sPort { upPort with retraining := true }) 3 rfl rfl).elim fun _ h => ⟨_, h.1⟩,
   (c.2.2.2.2.2.1 (sPort { upPort with retraining := true }) 3 rfl rfl (by decide)).elim fun _ h => ⟨_, h.1⟩,
   (c.2.2.2.2.2.2.1 State.reset 23 rfl (by decide)).elim fun _ h => ⟨_, h.1⟩,
   (c.2.2.2.2.2.2.2 State.reset 4095 (2 ^ 64 - 1) rfl (by decide) (by decide)).elim fun _ h => ⟨_, h.1⟩⟩

/-- A machine whose partition 0 is enabled and has a page table at 0x10000: the first GiB of its addresses is itself,
writable and executable. -/
def sPt : State :=
  { State.reset with
    parts := [(0, { Part.reset with en := true, ptroot := 1 })],
    mem := mw [(0x10000, 8, 0x11001), (0x11000, 8, 0x12001), (0x12000, 8, 0x0F)] }

theorem witness_HostStepsComplete (c : Obligations.HostStepsComplete) :
    Runs (.handoverTransfer (.dramBurtex 0) .failed) State.reset ∧ Runs (.handoverTransfer (.link 3 255) .failed) (sPort upPort) ∧
    Runs (.handoverRetry true) { State.reset with handovers := [{ what := .dramBurtex 64 }] } ∧
    Runs (.handoverRetry false) { State.reset with handovers := [{ what := .dramBurtex 64 }] } ∧
    Runs (.handoverRetry false) { State.reset with handovers := [{ what := .sram (.scratch 3 0x1FFFC0) }] } ∧
    Runs (.registerWrite none (0x10E00 + 8 * 15) (2 ^ 64 - 1)) State.reset ∧
    Runs (.registerWrite none (0x30008 + 32 * 15) 1) State.reset ∧ Runs (.registerWrite (some 15) 0x208 1) State.reset ∧
    Runs (.bar4Access 0 0 1 0x3FFFFFC0 (.read 64)) sPt ∧ Runs (.bar4Access 0 0 1 0x400000 (.write [7])) sPt ∧
    Runs (.proxyAbsenceReceive 4095 7) State.reset ∧ Runs (.proxyWithdrawalReceive 4095 7) State.reset ∧
    State.reset.readWindow 15 15 4095 = 0 :=
  ⟨⟨_, (c.1 State.reset (.dramBurtex 0) 0 (.scratch 0 0)).2.2.2.2.1 (fun _ _ => ⟨nofun, nofun⟩)⟩,
   ⟨_, (c.1 (sPort upPort) (.dramBurtex 0) 0 (.scratch 0 0)).2.2.2.2.2 3 255 rfl rfl⟩,
   ⟨_, (c.2.1 { State.reset with handovers := [{ what := .dramBurtex 64 }] } 64 _ rfl).1⟩,
   (c.2.1 { State.reset with handovers := [{ what := .dramBurtex 64 }] } 64 _ rfl).2.elim fun _ h => ⟨_, h.1⟩,
   (c.2.2.1 { State.reset with handovers := [{ what := .sram (.scratch 3 0x1FFFC0) }] } 3 0x1FFFC0 _ rfl (by decide)).elim
     fun _ h => ⟨_, h.1⟩,
   ⟨_, c.2.2.2.1 State.reset 15 _⟩, ⟨_, (c.2.2.2.2.1 State.reset 15 1).1⟩, ⟨_, (c.2.2.2.2.1 State.reset 15 1).2.1⟩,
   (isOk (x := sPt.pavRead 0 0x3FFFFFC0 64) (by decide +kernel)).elim fun _ h =>
     ⟨_, c.2.2.2.2.2.1 sPt 0 0 1 0x3FFFFFC0 64 _ rfl (by decide) (.inr rfl) (by decide +kernel) h⟩,
   (isOk (x := sPt.pavRange 0 true 0x400000 1) (by decide +kernel)).elim fun _ h =>
     ⟨_, c.2.2.2.2.2.2.1 sPt 0 0 1 0x400000 [7] _ rfl (by decide) (.inr rfl) (by decide +kernel) h⟩,
   (c.2.2.2.2.2.2.2.1 State.reset 4095 7).elim fun _ h => ⟨_, h.1⟩,
   (c.2.2.2.2.2.2.2.2.1 State.reset 4095 7).elim fun _ h => ⟨_, h.1⟩,
   (c.2.2.2.2.2.2.2.2.2 State.reset 15 15 0).2.2.2.2.2.1 4095 (by decide)⟩


/-- A record of format 1 and shape 0, with launch number 7 in its upper half. -/
def rec64 : List Byte := toBytes 4 1 ++ toBytes 4 7 ++ List.replicate 56 0
def rec0 : LaunchRec := LaunchRec.parse rec64

/-- A launch of partition 0 at priority 3, with number 1. -/
def lof (phase : LPhase) : Launch := { Launch.accepted 1 0 3 rec0 phase with cores := [], placedSize := 1 }

/-- The machine of the page table above with launches, owning granule 0. -/
def sL (ls : List Launch) : State :=
  { sPt with launches := ls, nextLid := 9, owner := [(0, 0)],
             parts := [(0, { Part.reset with en := true, ptroot := 1, granules := 1, saveSlotSz := 64, saveBase := 64, saveSlots := 4 })] }

theorem witness_LaunchQueueStepsComplete (c : Obligations.LaunchQueueStepsComplete) :
    Runs (.launchWindowWrite none (65536 * 0 + 4096 * 15 + 64 * 63) rec64) (sL []) ∧
    Runs (.launchWindowWrite (some 0) (4096 * 15 + 64 * 63) rec64) (sL []) ∧
    Runs (.launchAccept 0 3 false) { sL [] with ingress := [{ part := 0, prio := 3, slot := 0, bytes := rec64 }] } ∧
    Runs (.spillReturn 0 3 false) (sL [lof .spilled]) ∧ Runs (.partitionEnable 15) (sL []) ∧ Runs (.partitionDisable 0) (sL []) ∧
    Runs (.partitionResize 0 2) (sL []) ∧ Runs (.partitionResize 0 0) (sL []) :=
  ⟨⟨_, (c.1 (sL []) 0 15 63 rec64 rfl rfl rfl nofun).1⟩, ⟨_, (c.1 (sL []) 0 15 63 rec64 rfl rfl rfl nofun).2⟩,
   (c.2.1 { sL [] with ingress := [{ part := 0, prio := 3, slot := 0, bytes := rec64 }] } 0 3 false false _ _ rfl rfl
     (by decide +kernel) (by decide +kernel) (by decide +kernel) nofun).elim fun _ h => ⟨_, h.1⟩,
   ⟨_, c.2.2.1 (sL [lof .spilled]) 0 3 _ rfl (by decide +kernel) (by decide +kernel)⟩,
   ⟨_, c.2.2.2.1 (sL []) 15 rfl nofun⟩, ⟨_, c.2.2.2.2.1 (sL []) 0 rfl⟩,
   (c.2.2.2.2.2.1 (sL []) 0 2 (by decide) rfl (by decide) (by decide +kernel)).elim fun _ h => ⟨_, h.1⟩,
   (c.2.2.2.2.2.2 (sL []) 0 0 rfl (by decide) (by decide)).elim fun _ h => ⟨_, h.1⟩⟩

/-- A full queue of 256 launches, with room for one more in the spill area. -/
theorem witness_LaunchQueueStepsComplete_spill (c : Obligations.LaunchQueueStepsComplete) :
    Runs (.launchAccept 0 3 false)
      { sL (List.replicate 256 (lof .queued)) with
        parts := [(0, { Part.reset with en := true, lspillSize := 1 })],
        ingress := [{ part := 0, prio := 3, slot := 0, bytes := rec64 }] } :=
  (c.2.1 { sL (List.replicate 256 (lof .queued)) with
      parts := [(0, { Part.reset with en := true, lspillSize := 1 })],
      ingress := [{ part := 0, prio := 3, slot := 0, bytes := rec64 }] } 0 3 false true _ _ rfl rfl (by decide +kernel)
    (by decide +kernel) (by decide +kernel) (fun _ => ⟨by decide +kernel, rfl⟩)).elim fun _ h => ⟨_, h.1⟩

/-- A launch that waits for the word at 0x400000 to reach 0. -/
def lWait : Launch := { lof .queued with record := { rec0 with depmode := true, word5 := 0x400000 } }

/-- A resumable launch, a placed one on core 0, and a machine with one launch on core 0. -/
def lPre : Launch := { lof .preempted with cores := [0] }
def lOn (phase : LPhase) : Launch := { lof phase with cores := [0] }
def sOn (l : Launch) (f : Core → Core) : State :=
  { sL [l] with cores := [(0, f { Core.reset with placed := some { lid := 1, part := 0, rank := 0, prio := 3 } })] }

theorem witness_LaunchRunStepsComplete (c : Obligations.LaunchRunStepsComplete) :
    Runs (.waitWordPoll 1) (sL [lWait]) ∧ Runs (.launchAging 1 5) (sL [lof .queued]) := by
  obtain ⟨r, h⟩ := isOk (x := match (sL [lWait]).pavRead 0 0x400000 4 with
    | .error e => .error (some e)
    | .ok bs => if (ofBytes (bs.map fun b => b.1) + 2 ^ 32 - 0) % 2 ^ 32 < 2 ^ 31 then .ok bs else .error none) (by decide +kernel)
  split at h
  · cases h
  · next bs hb =>
    split at h
    · next hv => exact ⟨⟨_, c.1 (sL [lWait]) lWait bs rfl rfl rfl rfl (by decide +kernel) hb hv⟩,
        ⟨_, c.2.1 (sL [lof .queued]) (lof .queued) 5 rfl (by decide +kernel)⟩⟩
    · cases h

theorem witness_LaunchRunStepsComplete_place (c : Obligations.LaunchRunStepsComplete) :
    Runs (.placementPass 0) (sL [lof .queued]) := by
  have hk : (sL [lof .queued]).setFor (lof .queued) (sL [lof .queued]).busy = some [0] := by decide +kernel
  exact (c.2.2.1 (sL [lof .queued]) (lof .queued) 0 rfl (by decide +kernel) (by decide +kernel) (by decide) hk).elim fun _ h => ⟨_, h.1⟩

theorem witness_LaunchRunStepsComplete_start (c : Obligations.LaunchRunStepsComplete) :
    Runs (.argumentCopy 1) (sOn (lOn .placed) id) ∧ Runs (.launchResume 1) (sL [lPre]) := by
  have hk : (sL [lPre]).setFor lPre (sL [lPre]).busy = some [0] := by decide +kernel
  exact ⟨(c.2.2.2.1 (sOn (lOn .placed) id) (lOn .placed) [] [] [] rfl rfl rfl rfl rfl rfl rfl).elim fun _ h => ⟨_, h.1⟩,
    ⟨_, c.2.2.2.2.1 (sL [lPre]) lPre _ rfl rfl (by decide +kernel) hk⟩⟩

theorem witness_LaunchRunStepsComplete_rest (c : Obligations.LaunchRunStepsComplete) :
    Runs (.coreRetire 1023 false true) State.reset ∧ Runs (.coreRetire 0 false true) (sOn (lOn .running) id) ∧
    Runs (.tlbInvalidate 0 3 0xFFFFFFFFFF0000) (sL []) ∧
    Runs (.tlbInvalidateDone 0) { sL [] with parts := [(0, { Part.reset with tlbGo := some (3, 0) })] } := by
  exact ⟨(c.2.2.2.2.2.1 State.reset 1023 true (by decide) rfl rfl rfl).elim fun _ h => ⟨_, h.1⟩,
    ⟨_, c.2.2.2.2.2.2.1 (sOn (lOn .running) id) 0 _ (by decide) rfl rfl rfl⟩,
    ⟨_, c.2.2.2.2.2.2.2.1 (sL []) 0 3 0xFFFFFFFFFF0000 rfl (by decide) (by decide) (by decide)⟩,
    (c.2.2.2.2.2.2.2.2.1 { sL [] with parts := [(0, { Part.reset with tlbGo := some (3, 0) })] } 0 3 0 rfl
      (by decide +kernel) (by decide +kernel)).elim fun _ h => ⟨_, h.1⟩⟩

theorem witness_LaunchRunStepsComplete_walk (c : Obligations.LaunchRunStepsComplete) :
    Runs (.pageWalk 0 (2 ^ 56 + 0x3FFFFFFF)) (sL []) :=
  ⟨_, c.2.2.2.2.2.2.2.2.2 (sL []) 0 (2 ^ 56 + 0x3FFFFFFF) { va := 0, span := 2 ^ 30, pa := 0, w := true, x := true } (by decide +kernel)⟩

/-- A fault that withholds the argument copy of a launch. -/
def out0 (owner : FaultOwner) : Outstanding := { id := 5, part := 0, owner := owner, va := 0x10000 }

/-- A launch that ends while an ordered write of its core 0 to another module waits for its acknowledgement. -/
def lEnding : Launch := { lOn .ending with status := some (5, 4) }
def sEnding : State :=
  { sOn lEnding id with
    owrites := [{ dest := 9, id := 0, addr := 0, bytes := [], poison := false, alt := false, st := .outstanding,
                  acc := some { agent := { module := none, launch := 1, rank := 0, who := 1 }, core := 0, step := 0,
                                epoch := 0, write := true, atomic := false } }] }

theorem witness_LaunchEndStepsComplete (c : Obligations.LaunchEndStepsComplete) :
    Runs (.launchComplete 1) (sL [{ lof .ending with status := some (5, 4) }]) ∧ Runs (.launchComplete 1) sEnding ∧
    Runs (.launchCancel 0 7) (sL [lof .spilled]) ∧
    Runs (.launchCancel 0 7) (sOn (lOn .running) id) ∧
    Runs (.launchWatchdogExpiry 1) (sOn { lOn .running with record := { rec0 with timeout := 1 } } id) ∧
    Runs (.watchdogTrapUnanswered 1) (sOn { lOn .placed with wdFired := true } id) ∧
    Runs (.withheldFaultRecordPost 16) { sL [] with
      withheld := [FRec.blank 16 0 5], fqs := [(16, { FaultQ.reset with en := true, log2n := 6, head := 62 })] } ∧
    Runs (.faultResponseRetry 0 5) { sL [lof .placed] with outstanding := [out0 (.args 1)] } ∧
    Runs (.faultResponseFail 0 5) { sL [lof .placed] with outstanding := [out0 (.args 1)] } ∧
    Runs (.faultResponseRetry 0 6) (sL []) :=
  ⟨⟨_, (c.1 (sL [{ lof .ending with status := some (5, 4) }]) { lof .ending with status := some (5, 4) } 5 4 rfl
     (.inl ⟨rfl, rfl, by decide +kernel⟩)).1⟩,
   ⟨_, c.2.1 sEnding lEnding rfl rfl (by decide +kernel)⟩,
   ⟨_, c.2.2.1 (sL [lof .spilled]) 0 7 (lof .spilled) (by decide) rfl (by decide +kernel) (.inr rfl)⟩,
   ⟨_, c.2.2.2.1 (sOn (lOn .running) id) 0 7 (lOn .running) (by decide) rfl (by decide +kernel) rfl⟩,
   ⟨_, c.2.2.2.2.1 (sOn { lOn .running with record := { rec0 with timeout := 1 } } id)
     { lOn .running with record := { rec0 with timeout := 1 } } rfl (by decide) rfl (by decide +kernel)⟩,
   ⟨_, c.2.2.2.2.2.1 (sOn { lOn .placed with wdFired := true } id) { lOn .placed with wdFired := true } 0 rfl rfl
     (by decide +kernel) (by decide) rfl rfl⟩,
   ⟨_, c.2.2.2.2.2.2.1 { sL [] with
     withheld := [FRec.blank 16 0 5], fqs := [(16, { FaultQ.reset with en := true, log2n := 6, head := 62 })] } 16 _ rfl rfl
     (by decide +kernel)⟩,
   (c.2.2.2.2.2.2.2.1 { sL [lof .placed] with outstanding := [out0 (.args 1)] } 0 5 (out0 (.args 1)) (by decide +kernel)).elim fun _ h =>
     h.elim fun _ h => ⟨_, h.1⟩,
   (c.2.2.2.2.2.2.2.1 { sL [lof .placed] with outstanding := [out0 (.args 1)] } 0 5 (out0 (.args 1)) (by decide +kernel)).elim fun _ h =>
     h.elim fun _ h => ⟨_, h.2.2.1⟩,
   ⟨_, (c.2.2.2.2.2.2.2.2 (sL []) 0 6 rfl).1⟩⟩


/-- A core with the header of a reentrant block of one slot, an ENDL, at 128; its own instance spawns that block. -/
def kSpawn : Core :=
  { kore tag1 (word 4 1 0 9 0) 0x10000 with scratch := mw [(128, 4, 0x08101010), (136, 4, 0x1C100000)] }
abbrev oSpawn : OpIn := opOf tag1 (word 4 1 0 9 0) 0x10000 (set [0] [] [])

/-- A pending instance of the block at 128, of colour 2, and a core with it. -/
def pend : Instance := Instance.fresh 1 tag2 128 false
def pend1 : Instance := { pend with waited := 1 }
def kPend (f : Core → Core) : Core :=
  f { kore tag1 0 0 with
    instances := [inst tag1, pend], nextIid := 2, scratch := mw [(128, 4, 0x08101010), (136, 4, 0x1C100000)] }
abbrev sPend (f : Core → Core) : State := at0 (kPend f) (set [0] [] [])
def m128 : Mapping := { oneSlot 0x1C100000 0 with block := 128 }

/-- A left token of a slot of instance 0. -/
def tok (v : Nat) : Token := { iid := 0, src := 0, slot := 0, pos := 1, run := oneLane 0 v, opTag := none, acq := none }

theorem witness_CoreStepsComplete (c : Obligations.CoreStepsComplete) :
    (∃ t, exec (.spawn (head 1 9 0) 1) (at0 kSpawn (set [0] [] [])) = .next t ∧ Runs (.spawnGrant 0) t) ∧
    Runs (.colourRelease 0 2) (at0 { kore tag1 0 0 with colours := [Colour.blank 1 0, { Colour.blank 2 0 with sret := true }] }
      (set [0] [] [])) ∧
    Runs (.blockAdmission 0 1) (sPend id) ∧
    Runs (.blockAdmission 0 1) (sPend fun k => { k with mappings := [oneSlot 0 0, m128] }) :=
  ⟨let ⟨t, u, h1, h2, _⟩ := c.1 (head 1 9 0) 1 (at0 kSpawn (set [0] [] [])) oSpawn 0x08101010 3 ⟨rfl, rfl, rfl⟩ rfl rfl
     (by decide) (by decide) rfl rfl rfl rfl rfl (by decide +kernel)
   ⟨t, h1, u, h2⟩,
   (c.2.1 (at0 { kore tag1 0 0 with colours := [Colour.blank 1 0, { Colour.blank 2 0 with sret := true }] } (set [0] [] []))
     0 { Colour.blank 2 0 with sret := true } rfl rfl (by decide) (by decide) (by decide)).elim fun _ h => ⟨_, h.1⟩,
   ⟨_, (c.2.2.1 (sPend id) 0 1 pend1 _ rfl rfl rfl rfl (by decide +kernel)).2.1 rfl⟩,
   ⟨_, (c.2.2.1 (sPend fun k => { k with mappings := [oneSlot 0 0, m128] }) 0 1 pend1 _ rfl rfl rfl rfl (by decide +kernel)).2.2
     m128 _ rfl nofun rfl⟩⟩

abbrev sMap : State := sPend fun k => { k with mapping := some 1 }

theorem witness_CoreStepsComplete_map (c : Obligations.CoreStepsComplete) : Runs (.blockMapping 0) sMap := by
  obtain ⟨⟨m, cls⟩, h⟩ := isOk (x := sMap.readBlockAt 0 128) (by decide +kernel)
  have hs : (match sMap.readBlockAt 0 128 with
    | .ok (m, cls) => m.selfRace cls == none && decide (m.size = 0) && decide (m.nslot = 1)
    | .error _ => false) = true := by decide +kernel
  rw [h] at hs
  simp only [Bool.and_eq_true, beq_iff_eq, decide_eq_true_eq] at hs
  have hp : (Core.makeRoom ((sMap.core 0).mappings.length + 1) (sMap.core 0) 0 1).2.isSome = true := by decide +kernel
  obtain ⟨p, hp⟩ := Option.isSome_iff_exists.mp hp
  have hr : (match sMap.readBlockAt 0 128, (Core.makeRoom ((sMap.core 0).mappings.length + 1) (sMap.core 0) 0 1).2 with
    | .ok q, some p => (match (sMap.core 0).routesFor { q.1 with x0 := p.2.1, y0 := p.2.2 } with
      | .ok _ => true
      | .error _ => false)
    | _, _ => false) = true := by decide +kernel
  rw [h, hp] at hr
  have hr : ∃ rt, (sMap.core 0).routesFor { m with x0 := p.2.1, y0 := p.2.2 } = .ok rt := by
    revert hr
    dsimp only
    cases (sMap.core 0).routesFor { m with x0 := p.2.1, y0 := p.2.2 } with
    | ok rt => exact fun _ => ⟨rt, rfl⟩
    | error _ => exact nofun
  obtain ⟨rt, hr⟩ := hr
  refine ⟨_, c.2.2.2.1 sMap 0 pend m cls (Core.makeRoom ((sMap.core 0).mappings.length + 1) (sMap.core 0) 0 1).1 p rt rfl h
    hs.1.1 ?_ nofun ?_ hr⟩
  · rw [hs.1.2]; decide +kernel
  · rw [hs.1.2, hs.2]; exact Prod.ext rfl hp

theorem witness_CoreStepsComplete_rest (c : Obligations.CoreStepsComplete) :
    Runs (.tokenArrival 0 0) (at0 { kore tag1 (word 0x11 1 0 9 0) 0 with inflight := [tok 5] } (set [0] [] [])) ∧
    Runs (.instanceCommit 0) (at0 { kore tag1 0 0 with instances := [{ inst tag1 with counted := 128, branchDone := true }] }
      (set [0] [] [])) := by
  obtain ⟨t, h⟩ := isOk (x := (at0 { kore tag1 0 0 with instances := [{ inst tag1 with counted := 128, branchDone := true }] }
    (set [0] [] [])).tryCommit 0 { inst tag1 with counted := 128, branchDone := true }) (by decide +kernel)
  exact ⟨⟨_, c.2.2.2.2.1 (at0 { kore tag1 (word 0x11 1 0 9 0) 0 with inflight := [tok 5] } (set [0] [] [])) 0 0 (tok 5)
      (inst tag1) _ rfl rfl rfl rfl (by decide +kernel) rfl⟩,
    ⟨_, (c.2.2.2.2.2.1 _ t 0 _ [] rfl (by decide +kernel) h).1⟩⟩

/-- A PHASE of rank 0 that waits to arrive, in the launch of core 0. -/
def hPhase : Held := { firing := set [0] [] [], unit := .sequencer, wait := .phase }
def sPhase (h : Held) : State :=
  { sOn (lOn .running) (fun _ => { kore tag1 0 0 with held := [h] }) with firing := none }

theorem witness_CoreStepsComplete_arbour (c : Obligations.CoreStepsComplete) :
    Runs (.arbourArrival 0) (sPhase hPhase) :=
  ⟨_, c.2.2.2.2.2.2 (sPhase hPhase) 0 0 hPhase (lOn .running) (inst tag1) rfl rfl rfl rfl rfl rfl rfl rfl⟩

/-- An instance with one effect. -/
def iEff (e : Effect) : Instance := { inst tag1 with effects := [(0, e)] }

theorem witness_CommitTakesEffect (c : Obligations.CommitTakesEffect) :
    (∃ t, (st tag1 (set [0] [] [])).tryCommit 0 (iEff (.writeReg 31 (ln 5))) = .ok t ∧
      (t.core 0).colour? 2 = some (Colour.blank 2 0)) ∧
    (∃ t, (st tag1 (set [0] [] [])).tryCommit 0 (iEff (.store 0 [(Seg.mk (.scratch 0 64) [7, 8] false)])) = .ok t ∧
      memRead (t.core 0).scratch 64 2 = [7, 8]) := by
  obtain ⟨u, g⟩ := isOk (x := (st tag1 (set [0] [] [])).tryCommit 0 (iEff (.store 0 [(Seg.mk (.scratch 0 64) [7, 8] false)])))
    (by decide +kernel)
  obtain ⟨t, h, _, h2, _⟩ := c.1 (st tag1 (set [0] [] [])) 0 31 0 (iEff (.writeReg 31 (ln 5))) _ _ rfl rfl (by decide)
  exact ⟨⟨t, h, (h2 2 (by decide)).trans rfl⟩,
    ⟨u, g, (c.2.1 (st tag1 (set [0] [] [])) u 0 0 64 0 (iEff (.store 0 [(Seg.mk (.scratch 0 64) [7, 8] false)])) _ g rfl rfl
      rfl).1⟩⟩

/-- A MOV with its result at slot 1, whose set has trapped. -/
def wMov : Nat := word 0x11 1 0 5 0

/-- The machine in which a trap of that set of cause `n` is in ring entry 0, at 0x1B7800, with ACTION `act`, RESULT 9 and
CODE 0xFFFF; the launch of the core runs. -/
def trapOf (n : Nat) : Trap :=
  { Trap.untied n 0 0 0 .op with iid := some 0, firing := some (set [5] [] []) }
def parked0 : Instance := { inst tag1 with status := .parked, frame := some (.pool 0), parkedSets := [set [5] [] []] }
def sAct (n act : Nat) : State :=
  { at0 { kore tag1 wMov 0 with
      instances := [parked0], ring := [(0, trapOf n)],
      scratch := mw [(0x1B7801, 1, act), (0x1B7828, 4, 9), (0x1B782C, 2, 0xFFFF)] } (set [0] [] []) with
    launches := [lOn .running] }

/-- The handler's instance, with its ERET of an address. -/
def iRet (a : Nat) : Instance := { Instance.fresh 7 tag0 64 false with status := .admitted, effects := [(0, .eret 0 a)] }

theorem witness_CommitTakesEffect_eret (c : Obligations.CommitTakesEffect) :
    (∃ t, (sAct 2 0).tryCommit 0 (iRet 0x1B7800) = .ok t ∧ (t.core 0).issueQ = [set [5] [] []]) ∧
    (∃ t, (sAct 0x10 0).tryCommit 0 (iRet 0x1B7800) = .ok t ∧ (t.core 0).issueQ = [{ set [5] [] [] with answered := some 9 }]) ∧
    (∃ t, (sAct 2 1).tryCommit 0 (iRet 0x1B7800) = .ok t) ∧
    (∃ t, (sAct 2 2).tryCommit 0 (iRet 0x1B7800) = .ok t ∧ (t.core 0).ring = []) ∧
    (∃ t, (sAct 9 1).tryCommit 0 (iRet 0x1B7800) = .ok t ∧ (t.core 0).ring = []) ∧
    ∃ x, (sAct 2 0).tryCommit 0 (iRet 0x1B7840) = .error (.trap x) := by
  obtain ⟨t, h, _, _, _, _, hq, _⟩ := c.2.2.1 (sAct 2 0) 0 0x1B7800 0 0 0 0 (iRet 0x1B7800) parked0 (trapOf 2) rfl (by decide +kernel)
    (by decide +kernel) rfl rfl (by decide) rfl rfl
  obtain ⟨u, g, _, _, _, _, _, gq⟩ := c.2.2.1 (sAct 0x10 0) 0 0x1B7800 0 0 0 0 (iRet 0x1B7800) parked0 (trapOf 0x10) rfl (by decide +kernel)
    (by decide +kernel) rfl rfl (by decide) rfl rfl
  obtain ⟨v, f, fr, _⟩ := c.2.2.2.2.1 (sAct 2 2) 0 0x1B7800 0 0 0 (iRet 0x1B7800) (trapOf 2) (lOn .running) rfl (by decide +kernel)
    (by decide +kernel) rfl (by decide)
  obtain ⟨w, e, er, _⟩ := c.2.2.2.2.1 (sAct 9 1) 0 0x1B7800 0 0 0 (iRet 0x1B7800) (trapOf 9) (lOn .running) rfl (by decide +kernel)
    (by decide +kernel) rfl (by decide)
  exact ⟨⟨t, h, (hq (by decide) (by decide)).trans rfl⟩, ⟨u, g, (gq _ rfl (by decide)).trans (by decide +kernel)⟩,
    ⟨_, c.2.2.2.1 (sAct 2 1) _ 0 0x1B7800 0 0 0 0 (iRet 0x1B7800) (trapOf 2) (set [5] [] [])
      { opOf tag1 wMov 0 (set [5] [] []) with i := { inst tag1 with frame := some (.pool 0) } } _ 9
      rfl (by decide +kernel) (by decide +kernel) rfl rfl rfl (by decide +kernel) rfl rfl rfl rfl⟩,
    ⟨v, f, fr.trans rfl⟩, ⟨w, e, er.trans rfl⟩,
    ⟨_, c.2.2.2.2.2 (sAct 2 0) 0 0x1B7840 0 0 (iRet 0x1B7840) rfl (by decide +kernel)⟩⟩

/-- A core with a trap that waits, and its ring. -/
def sRing (ring : List (Nat × Trap)) : State :=
  at0 { kore tag1 0 0 with traps := [Trap.untied 0x0A 0 0 0 .untied], ring := ring } (set [0] [] [])

theorem witness_TrapsDelivered (c : Obligations.TrapsDelivered) :
    Runs (.trapDelivery 0) (sRing ((List.range 31).map fun n => (n, Trap.untied 0x0A 0 0 0 .untied))) ∧
    Runs (.trapDelivery 0) (sRing ((List.range 32).map fun n => (n, Trap.untied 0x0A 0 0 0 .untied))) :=
  ⟨((c (sRing ((List.range 31).map fun n => (n, Trap.untied 0x0A 0 0 0 .untied))) 0 _ [] rfl rfl).2 31 _ (by decide +kernel)
     rfl).elim fun _ h => h.elim fun _ h => ⟨_, h.1⟩,
   ((c (sRing ((List.range 32).map fun n => (n, Trap.untied 0x0A 0 0 0 .untied))) 0 _ [] rfl rfl).1 (by decide +kernel)).elim
     fun _ h => ⟨_, h.1⟩⟩

/-- A request that waits, and the launch's core with it. -/
def hold1 (u : HUnit) (w : Wait) : Held := { firing := set [0] [] [], unit := u, wait := w }
def sWait (h : Held) : State := sPhase h

/-- An instance whose commit a full queue holds. -/
def iStall : Instance := { inst tag1 with status := .admitted, stalled := true, effects := [(0, .pushQueue 0 2 (ln 5))] }

/-- A core whose one mapping is as given. -/
def sMapd (f : Mapping → Mapping) : State := at0 { kore tag1 0 0 with mappings := [f (oneSlot 0 0)] } (set [0] [] [])

theorem witness_StallStepsComplete (c : Obligations.StallStepsComplete) :
    Runs (.barrierTimeout 0 0) (sWait (hold1 .sequencer (.arbour 0))) ∧
    Runs (.barrierTimeout 0 0) (sWait (hold1 .carder (.worldClose 3 0))) ∧
    Runs (.barrierTimeout 0 0) (sWait (hold1 .collective (.collective 3))) ∧
    Runs (.frameExhaustion 0) (st tag1 (set [0] [] [])) ∧
    Runs (.queueStall 0 (.request 0)) (sWait (hold1 .sequencer (.queue 15))) ∧
    Runs (.queueStall 0 (.commit 0)) (at0 { kore tag1 0 0 with instances := [iStall] } (set [0] [] [])) ∧
    Runs (.configEccError 0 64 27 true []) (sMapd id) ∧ Runs (.configEccError 0 64 27 false [(0, 1)]) (sMapd id) ∧
    Runs (.configEccError 0 64 27 false []) (sMapd fun m => { m with frozen := true, eccElems := [27] }) :=
  ⟨⟨_, (c.1 (sWait (hold1 .sequencer (.arbour 0))) 0 0 0 (hold1 .sequencer (.arbour 0)) (lOn .running) rfl rfl (by decide)
     rfl).1 rfl⟩,
   ⟨_, (c.1 (sWait (hold1 .carder (.worldClose 3 0))) 0 0 0 (hold1 .carder (.worldClose 3 0)) (lOn .running) rfl rfl (by decide)
     rfl).2.1 3 rfl⟩,
   ⟨_, (c.1 (sWait (hold1 .collective (.collective 3))) 0 0 0 (hold1 .collective (.collective 3)) (lOn .running) rfl rfl
     (by decide) rfl).2.2 3 rfl rfl⟩,
   ⟨_, c.2.1 (st tag1 (set [0] [] [])) 0 (by decide) (by decide) rfl rfl⟩,
   ⟨_, c.2.2.1 (sWait (hold1 .sequencer (.queue 15))) 0 0 15 15 _ (by decide) rfl rfl rfl⟩,
   ⟨_, c.2.2.2.1 (at0 { kore tag1 0 0 with instances := [iStall] } (set [0] [] [])) 0 2 0 0 (ln 5) iStall (by decide) rfl rfl rfl
     rfl rfl⟩,
   ((c.2.2.2.2.1 (sMapd id) 0 27 (oneSlot 0 0) [] rfl (by decide +kernel)).1).elim fun _ h => ⟨_, h.1⟩,
   ((c.2.2.2.2.1 (sMapd id) 0 27 (oneSlot 0 0) [(0, 1)] rfl (by decide +kernel)).2.1 rfl).elim fun _ h => ⟨_, h.1⟩,
   ((c.2.2.2.2.1 (sMapd fun m => { m with frozen := true, eccElems := [27] }) 0 27
     { oneSlot 0 0 with frozen := true, eccElems := [27] } [] rfl (by decide +kernel)).2.2 rfl).elim fun _ h => ⟨_, h.1⟩⟩

/-- A frozen block at 64 whose bytes, all zeros, have the signature that it was mapped with. -/
def mFrozen : Mapping := { oneSlot 0 0 with frozen := true, sig := sm3First64 (List.replicate 16 0) }

theorem witness_StallStepsComplete_reload (c : Obligations.StallStepsComplete) :
    Runs (.configReload 0 64) (sMapd fun _ => mFrozen) := by
  have hb : (sMapd fun _ => mFrozen).fetchBytes 0 64 16 = .ok (List.replicate 16 0) := by decide +kernel
  exact (c.2.2.2.2.2 (sMapd fun _ => mFrozen) 0 mFrozen (List.replicate 16 0) rfl rfl rfl rfl hb rfl (by decide +kernel)).elim
    fun _ h => ⟨_, h.1⟩

/-- A node of kind 0 that loads two elements of one word from 64 on to queue 7, or stores them. -/
def nLoad (store : Nat) : Node :=
  { Node.zero with state := 1, desc := [7 * 2 ^ 56 + 64, 2 + 2 ^ 16 + 2 ^ 32 + 2 ^ 48, 4, 0, 0, 0, 1 + store * 2 ^ 15], opener := 1 }

/-- A schedule entry of one row of 64 bytes from 0x100 to 0x200. -/
def sched (bob : Bool) : SchedEntry :=
  { src := 0x100, dst := 0x200, srcpitch := 0, dstpitch := 0, stage := 0, boben := bob, bob := 15, rank := 0, rowbytes := 64, rows := 1 }
def shE (bob : Bool) (st : ShState) : ShEntry := { entry := sched bob, st := st, row := 0, err := false, poison := false, withheld := none }

/-- A core with the units of the engine steps. -/
def kEng (f : Core → Core) : Core := f (kore tag1 0 0)
def sEng (f : Core → Core) : State := at0 (kEng f) (set [0] [] [])

theorem witness_EngineStepsComplete (c : Obligations.EngineStepsComplete) :
    Runs (.nodeElementRead 0 15) (sEng fun k => { k with nodes := [(15, nLoad 1)], nodeData := [(0, oneLane 0 5)] }) ∧
    Runs (.shuttleEntryStart 0) (sEng fun k => { k with shuttle := [shE false .waiting], regs := { k.regs with shadv := 1 } }) ∧
    Runs (.shuttleCompletionPost 0) (sEng fun k => { k with shuttle := [shE true .copied] }) ∧
    Runs (.atommodeSwitch 0) (sEng fun k => { k with regs := { k.regs with atomPending := some false } }) :=
  ⟨⟨_, c.2.1 (sEng fun k => { k with nodes := [(15, nLoad 1)], nodeData := [(0, oneLane 0 5)] }) 0 15 (nLoad 1) rfl rfl rfl rfl
     (by decide +kernel) (by decide +kernel)⟩,
   ⟨_, c.2.2.1 (sEng fun k => { k with shuttle := [shE false .waiting], regs := { k.regs with shadv := 1 } }) 0 0
     (shE false .waiting) rfl (by decide) rfl rfl rfl (by decide +kernel)⟩,
   ⟨_, c.2.2.2.2.1 (sEng fun k => { k with shuttle := [shE true .copied] }) 0 0 (shE true .copied) (by decide +kernel)⟩,
   (c.2.2.2.2.2.2.2.1 (sEng fun k => { k with regs := { k.regs with atomPending := some false } }) 0 false rfl
     (by decide)).elim fun _ h => ⟨_, h.1⟩⟩

abbrev sNode : State := sEng fun k => { k with nodes := [(15, nLoad 0)] }

theorem witness_EngineStepsComplete_node (c : Obligations.EngineStepsComplete) : Runs (.nodeElementRead 0 15) sNode := by
  obtain ⟨⟨out, s1⟩, h⟩ := isOk (x := sNode.nodeElem 0 15 (nLoad 0)) (by decide +kernel)
  cases out with
  | nil =>
    have : (match sNode.nodeElem 0 15 (nLoad 0) with | .ok ([], _) => false | _ => true) = true := by decide +kernel
    rw [h] at this
    cases this
  | cons x out => exact ⟨_, c.1 sNode s1 0 15 (nLoad 0) x out rfl rfl rfl rfl (.inl (by decide +kernel)) (by decide +kernel) h⟩

abbrev sShut : State := sEng fun k => { k with shuttle := [shE false .running] }

theorem witness_EngineStepsComplete_row (c : Obligations.EngineStepsComplete) : Runs (.shuttleRowCopy 0 0) sShut := by
  obtain ⟨bs, s1, s2, h1, h2⟩ := isOk2 (x := sShut.engRead 0 shuttleAgent true 0x100 64)
    (fun bs s => s.engWrite 0 shuttleAgent true 0x200 bs 0) (by decide +kernel)
  exact ⟨_, c.2.2.2.1 sShut s1 s2 0 0 0x100 0x200 (shE false .running) bs rfl rfl rfl rfl rfl rfl (by decide +kernel) h1 h2⟩

/-- A set that has reached its port first. -/
def turn0 (l r : List Nat) : Firing := { set l r [] with ticket := { Ticket.blank with turn := some 0 } }

/-- A core whose one slot is as given, where its set waits. -/
def sHeld (w x : Nat) (u : HUnit) (wait : Wait) (l r : List Nat) : State :=
  at0 { kore tag1 w x with held := [{ firing := turn0 l r, unit := u, wait := wait }] } (set [0] [] [])

theorem witness_EngineStepsComplete_ports (c : Obligations.EngineStepsComplete) :
    Runs (.burtexAtomic 0) (sHeld (word 0x5C 2 0 21 0) 0x0D800000 .carder (.atomic []) [64] [7]) ∧
    Runs (.lockGrant 0) (sHeld (word 0x5E 1 0 9 0) 0 .carder (.lock 0 0x1B7FFC) [0x1B7FFC] []) :=
  ⟨(c.2.2.2.2.2.1 (sHeld (word 0x5C 2 0 21 0) 0x0D800000 .carder (.atomic []) [64] [7]) _ 0 0 _ _ rfl rfl
     (.inl ⟨_, _, _, _, _, _, rfl⟩)).elim fun _ h => ⟨_, h.1⟩,
   (c.2.2.2.2.2.2.1 (sHeld (word 0x5E 1 0 9 0) 0 .carder (.lock 0 0x1B7FFC) [0x1B7FFC] []) _ 0 0
     { firing := turn0 [0x1B7FFC] [], unit := .carder, wait := .lock 0 0x1B7FFC } _ (by decide +kernel) rfl
     (.inl ⟨_, rfl⟩)).elim fun _ h => ⟨_, h.1⟩⟩

/-- A command whose next page, at 0x400000, is full and has a link, in a read-only page of memory. -/
abbrev reelC : ReelCmd :=
  { id := 1, colour := 1, link := 0x40F000, maxpages := 0, bob := 0, nslot := 5, slotbase := 0x40000, free := 0, skein := 0,
    doneAt := 128, k := 0, started := true, err := false, poison := false, withheld := none, posts := [], ended := false,
    stage := .copy 0x400000 false }
abbrev sReelP : State :=
  { sEng (fun k => { k with reel := [reelC],
                            tlb := [{ va := 0x400000, span := 2 ^ 16, pa := 0x400000, w := false, x := false }] }) with
    mem := mw [(0x400000, 8, 0x400000), (0x400008, 8, 64 * 256)] }

/-- Pieces of an access that leave no record and lie in no scratchpad. -/
def plainPieces (use : Use) (ts : List (Target × Nat)) : Bool :=
  ts.all fun t => !t.1.records use && (match t.1.loc with | .phys _ => true | .scratch _ _ => false)

theorem engNote_plain (s : State) (c who : Nat) (use : Use) (counted : Bool) (ts : List (Target × Nat))
    (h : plainPieces use ts = true) : s.engNote c who use counted ts = s := by
  unfold State.engNote
  induction ts with
  | nil => rfl
  | cons t ts ih =>
    simp only [plainPieces, List.all_cons, Bool.and_eq_true, Bool.not_eq_true'] at h
    obtain ⟨⟨h1, h2⟩, h3⟩ := h
    rw [List.foldl_cons]
    rcases t with ⟨⟨loc, ck, ho, t3⟩, n⟩
    cases loc with
    | scratch _ _ => cases h2
    | phys a =>
      simp only [h1, Loc.line, Bool.false_eq_true, if_false]
      exact ih h3

theorem readLoc_len (s : State) (l : Loc) (n : Nat) : (s.readLoc l n).length = n := by
  cases l <;> simp [State.readLoc]

/-- A read in a page that is cached and leaves no record changes nothing, and gives as many bytes as asked for. -/
theorem engRead_plain (s : State) (c who va n : Nat) (f : List PByte → Bool) (hc : s.cachePage c va = s)
    (h : (match s.engPlace c who .read true [] none va n with
      | .ok ts => plainPieces .read ts && decide ((ts.map fun t => t.2).sum = n) &&
          f (ts.flatMap fun t => (s.readLoc t.1.loc t.2).map fun b => (b, s.poisoned t.1.loc))
      | .error _ => false) = true) : ∃ bs, s.engRead c who true va n = .ok (bs, s) ∧ bs.length = n ∧ f bs = true := by
  unfold State.engRead
  cases hp : s.engPlace c who .read true [] none va n with
  | error _ => simp [hp] at h
  | ok ts =>
    simp only [hp, Bool.and_eq_true, decide_eq_true_eq] at h
    refine ⟨_, by simp only [hc, engNote_plain _ _ _ _ _ _ h.1.1], ?_, h.2⟩
    simp only [List.length_flatMap, List.length_map, readLoc_len]
    exact h.1.2

/-- A write whose place is found is performed. -/
theorem engWrite_ok (s : State) (c who va : Nat) (bs : List PByte) (ts : List (Target × Nat))
    (h : s.engPlace c who .write true [] none va bs.length = .ok ts) (part : Nat) : ∃ t, s.engWrite c who true va bs part = .ok t := by
  unfold State.engWrite
  rw [h]
  exact ⟨_, rfl⟩

/-- A core without tiles has no drained reads to acquire. -/
theorem acquire_none (s : State) (c : Nat) (a : Agent) (ts : List (Target × Nat)) (h : (s.core c).tiles = []) :
    s.acquireTargets c a ts = s := by
  unfold State.acquireTargets
  induction ts with
  | nil => rfl
  | cons t ts ih =>
    have e : ∀ l, s.tileAcquire c a l = s := fun l => by simp [State.tileAcquire, h]
    cases ht : t.1.loc with
    | scratch d l => simpa only [List.foldl_cons, ht, e, ite_self] using ih
    | phys l => simpa only [List.foldl_cons, ht] using ih

/-- A write of a core without tiles has its place where no target of it races. -/
theorem engPlace_writes (s : State) (c who va n : Nat) (h : (s.core c).tiles = [])
    (hd : (match (if 0x8000 ≤ who then { s with stores := [] } else s).resolveRange c .write va n with
      | .ok ts => (ts.all fun t => (s.engCheck c who .write t.1).isNone) && (s.engFar c who checkAsk none va ts).isNone
      | .error _ => false) = true) : ∃ ts, s.engPlace c who .write true [] none va n = .ok ts := by
  unfold State.engPlace
  simp only [acquire_none _ _ _ _ h]
  split at hd
  · next ts hr =>
    simp only [Bool.and_eq_true, Option.isNone_iff_eq_none] at hd
    refine ⟨ts, ?_⟩
    have hn : (ts.findSome? fun t => s.engCheck c who .write t.1) = none := by
      rw [List.findSome?_eq_none_iff]
      exact fun t ht => Option.isNone_iff_eq_none.mp (List.all_eq_true.mp hd.1 t ht)
    simp [hr, hn, hd.2]
  · cases hd

theorem witness_EngineStepsComplete_reel (c : Obligations.EngineStepsComplete) : Runs (.reelPageFill 0) sReelP := by
  obtain ⟨bs, h2, hn, hf⟩ := engRead_plain sReelP 0 reelAgent 0x400000 pageBytes
    (fun bs => leAt (bs.map fun b => b.1) 0 7 != 0 && leAt (bs.map fun b => b.1) 9 1 == 64) rfl (by decide +kernel)
  simp only [Bool.and_eq_true, beq_iff_eq, bne_iff_ne] at hf
  obtain ⟨ts, h3⟩ := engPlace_writes sReelP 0 reelAgent 0x40000 pageBytes rfl (by decide +kernel)
  rw [← hn] at h3
  obtain ⟨s5, h4⟩ := engWrite_ok sReelP 0 reelAgent 0x40000 bs ts h3 1
  exact ⟨_, c.2.2.2.2.2.2.2.2 sReelP sReelP sReelP s5 0 0x400000 false _ reelC bs _ rfl rfl rfl rfl rfl rfl h2 rfl h4 rfl hf.1
    hf.2.ge (.inl rfl)⟩

/-- A store of launch 1, and a scatter write of core 0 to it. -/
def sto (f : Store → Store) : Store :=
  f { part := 0, id := 3, lid := 1, desc := [], step := 7, lostbrick := 0, blendovf := 0, arrived := [], pending := [], buffer := [] }
def swr : SWrite :=
  { cell := [1, 2, 3], core := 0, rank := 0, tag := tag1, slot := 0, t := 0, d := 0, w := 0, feature := [], prio := 0, cam := 0,
    late := false, spilled := false }

/-- The running launch on core 0 with a store, and a request that waits. -/
def sSto (t : Store) (w : Wait) : State := { sPhase (hold1 .carder w) with stores := [t] }

/-- A participant alone in its group: 64 bytes of its block at 0x100 come to 0x200. -/
def cpart : CollPart :=
  { idx := 0, core := 0, iid := 0, slot := 0, agent := { module := none, launch := 1, rank := 0, who := 1 }, epoch := 0, radius := 0,
    params := [2, 0, 0, 0, 0, 64, 1], src := 0x100, dst := 0x200 }
def collReq : Coll := { gid := 3, seq := 0, group := [0], arrived := [cpart] }
def sCollReq : State := { sPhase (hold1 .collective (.collective 3)) with colls := [collReq] }

theorem witness_GroupStepsComplete (c : Obligations.GroupStepsComplete) :
    Runs (.scatterWriteBuffer 0 3 0) (sSto (sto fun t => { t with pending := [swr] }) .step) ∧
    Runs (.worldStepArrival 0) (sSto (sto id) (.world 3)) ∧
    Runs (.worldStepClose 0 3) (sSto (sto fun t => { t with arrived := [0] }) (.worldClose 3 7)) :=
  ⟨(c.1 (sSto (sto fun t => { t with pending := [swr] }) .step) 0 3 0 (sto fun t => { t with pending := [swr] }) swr rfl rfl).elim
     fun _ h => ⟨_, h.1⟩,
   ⟨_, c.2.1 (sSto (sto id) (.world 3)) 0 0 (hold1 .carder (.world 3)) (sto id) (by decide +kernel) (by decide +kernel)⟩,
   ⟨_, c.2.2.1 (sSto (sto fun t => { t with arrived := [0] }) (.worldClose 3 7)) 0 3 (sto fun t => { t with arrived := [0] })
     (lOn .running) rfl rfl (by decide +kernel) (by decide +kernel)⟩⟩

theorem witness_GroupStepsComplete_collective (c : Obligations.GroupStepsComplete) : Runs .collectiveComplete sCollReq := by
  obtain ⟨blocks, s1, s2, h1, h2⟩ := isOk2 (x := sCollReq.collReads collReq (sCollReq.collParts collReq) sCollReq)
    (fun blocks s1 => sCollReq.collWrites collReq (collReq.blocks blocks) (fun j => Config.freeNat (s1.drawFree.1 + j)) (sCollReq.collParts collReq)
      s1.drawFree.2) (by decide +kernel)
  exact ⟨_, c.2.2.2 sCollReq s1 s2 collReq cpart [] blocks (by decide +kernel) rfl nofun h1 h2⟩

/-! The lengths of an image's sections. -/

@[simp] theorem len_toBytes (n x : Nat) : (toBytes n x).length = n := by
  induction n generalizing x with
  | zero => rfl
  | succ n ih => simp [toBytes, ih]
@[simp] theorem len_zeros (n : Nat) : (zeros n).length = n := by simp [zeros]
@[simp] theorem len_held (p : Nat) (vs : List Nat) (n : Nat) : (heldBytes p vs n).length = n := by simp [heldBytes]
@[simp] theorem len_open (b t n : Nat) : (openBytes b t n).length = n := by simp [openBytes]
@[simp] theorem len_fillTo (n : Nat) (bs : List Byte) : (fillTo n bs).length = n := by simp [fillTo]; omega
theorem len_pad64 (bs : List Byte) : (pad64 bs).length ≤ bs.length + 63 := by simp [pad64]; omega

/-- A gated core at rest that saves none of its scratchpad, and the launch on it. -/
def kRest (sv : Option Saving) : Core :=
  { Core.reset with placed := some { lid := 1, part := 0, rank := 0, prio := 3 }, gated := true, saving := sv,
                    regs := { CoreRegs.reset with spsave := 0 } }
def sRest (l : Launch) (sv : Option Saving) : State := sOn l fun _ => kRest sv

theorem kRest_sections (sv : Option Saving) (base : Nat) (full : Bool) :
    (((kRest sv).sections base full).map fun x => (pad64 x).length).sum ≤ 20000 := by
  have hl : ∀ x : List Byte, (pad64 x).length ≤ x.length + 63 := len_pad64
  have e1 : ((kRest sv).sec1 base).length = 8192 := by
    simp only [Core.sec1, lockBytes, Core.nodeImage, List.length_flatMap, List.length_append, List.length_map, List.length_range,
      len_toBytes, len_open, len_held, len_zeros, length_memRead, List.map_const', List.sum_replicate_nat]
  have e2 : (kRest sv).sec2 base = [] := rfl
  have e3 : (kRest sv).sec3 base = [] := rfl
  have e4 : (kRest sv).sec4 = [] := rfl
  have e5 : (kRest sv).sec5 = [] := rfl
  have e6 : (kRest sv).sec6 = [] := rfl
  have e7 : ((kRest sv).sec7).length = 224 := by
    have ha : ∀ i, ((kRest sv).acc i).written = false := fun _ => rfl
    have hm : ∀ i, ((kRest sv).ma i).written = false := fun _ => rfl
    have hd : ∀ i, ((kRest sv).md i).written = false := fun _ => rfl
    simp [Core.sec7, List.length_flatMap, ha, hm, hd]
  have e8 : ((kRest sv).sec8).length = 1536 := by simp [Core.sec8, List.length_flatMap, Stream.bytes]
  have e9 : ((kRest sv).sec9).length = 2048 := by simp [Core.sec9, List.length_flatMap, Binding.image]
  have e10 : (kRest sv).sec10 = [] := by simp [Core.sec10, CoreRegs.carried, kRest, memRead]
  have e11 : (kRest sv).sec11 base = [] := rfl
  have e12 : (kRest sv).sec12 = [] := rfl
  have e13 : (kRest sv).sec13 = [] := rfl
  have h1 := hl ((kRest sv).sec1 base)
  have h7 := hl (kRest sv).sec7
  have h8 := hl (kRest sv).sec8
  have h9 := hl (kRest sv).sec9
  have p0 : (pad64 []).length = 0 := rfl
  cases full <;> simp [Core.sections, e2, e3, e4, e5, e6, e10, e11, e12, e13, p0] <;> omega

theorem foldl_add (l : List Nat) (a : Nat) : l.foldl (fun a b => a + b) a = a + l.sum := by
  induction l generalizing a with
  | nil => simp
  | cons x l ih => simp [ih, Nat.add_assoc]

theorem kRest_size (sv : Option Saving) (full : Bool) : (kRest sv).imageSize full ≤ 64 * 65536 := by
  have := kRest_sections sv 0 full
  simp only [Core.imageSize, foldl_add]
  omega

theorem witness_PreemptionStepsComplete (c : Obligations.PreemptionStepsComplete) :
    Runs (.preemptGating 1) (sOn (lOn .preempting) id) ∧ Runs (.quiescence 0) (sRest (lOn .preempting) none) ∧
    Runs (.drainLimitExpiry 0) (sRest (lOn .preempting) none) ∧
    Runs (.preemptRetry 1) (sOn { lOn .running with pre := some .resize } id) ∧
    Runs (.preemptRetry 1) (sOn { lOn .running with pre := some .retire } id) :=
  ⟨(c.1 (sOn (lOn .preempting) id) (lOn .preempting) rfl rfl ⟨0, by decide, rfl⟩).elim fun _ h => ⟨_, h.1⟩,
   (c.2.1 (sRest (lOn .preempting) none) 0 0 _ false (lOn .preempting) rfl nofun (by decide +kernel) (by decide +kernel) rfl
     (kRest_size none false) (by decide +kernel)).elim fun _ h => ⟨_, h.1⟩,
   (c.2.2.1 (sRest (lOn .preempting) none) 0 0 _ (lOn .preempting) rfl nofun (by decide +kernel) rfl (kRest_size none true)).elim
     fun _ h => ⟨_, h.1⟩,
   ⟨_, c.2.2.2.2.2.2.1 (sOn { lOn .running with pre := some .resize } id) { lOn .running with pre := some .resize } rfl rfl (.inl rfl)⟩,
   ⟨_, c.2.2.2.2.2.2.1 (sOn { lOn .running with pre := some .retire } id) { lOn .running with pre := some .retire } rfl rfl (.inr rfl)⟩⟩

/-- A save or restore fault that is answered. -/
def sFlt (l : Launch) (o : FaultOwner) : State := { sRest l none with outstanding := [out0 o] }

theorem witness_PreemptionStepsComplete_answers (c : Obligations.PreemptionStepsComplete) :
    Runs (.saveResume 0 5) (sFlt (lOn .preempting) (.save 1 0)) ∧ Runs (.saveAbandon 0 5) (sFlt (lOn .preempting) (.save 1 0)) ∧
    Runs (.saveResume 0 5) (sFlt (lOn .resuming) (.restore 1 0)) ∧ Runs (.saveAbandon 0 5) (sFlt (lOn .resuming) (.restore 1 0)) :=
  let a := c.2.2.2.2.1 (sFlt (lOn .preempting) (.save 1 0)) 0 5 1 0 0 (out0 (.save 1 0)) rfl rfl rfl
  let b := c.2.2.2.2.2.1 (sFlt (lOn .resuming) (.restore 1 0)) 0 5 1 0 (out0 (.restore 1 0)) rfl rfl
  ⟨⟨_, a.1⟩, ⟨_, a.2⟩, ⟨_, b.1⟩, ⟨_, b.2⟩⟩

/-- A launch that resumes, whose image in slot 0 at 0x400000 is a header alone: its digest is that of no bytes. -/
def sImg (size : Nat) : State :=
  { sRest (lOn .resuming) none with
    images := [{ part := 0, slot := 0, lid := 1, rank := 0, full := false, size := size, kept := Core.reset }],
    mem := mw [(0x10000, 8, 0x11001), (0x11000, 8, 0x12001), (0x12000, 8, 0x0F), (0x400000, 4, imageMagic), (0x400004, 2, 1),
      (0x4000E0, 32, ofBytes (sm3 []))] }

theorem witness_PreemptionStepsComplete_restore (c : Obligations.PreemptionStepsComplete) :
    Runs (.launchRestore 0) (sImg 256) ∧ Runs (.launchRestore 0) (sImg 0) := by
  obtain ⟨b1, h1, g1, g2, g3⟩ : ∃ bs, (sImg 256).pavRead 0 ((sImg 256).slotAddr 0 0) 256 = .ok bs ∧
      imageGood (bs.map fun b => b.1) = true ∧ bs.any (fun b => b.2) = false ∧
      (sImg 256).candFault 0 0 (Core.reset.load9 (imageSection (bs.map fun b => b.1) 9)).binds = none := by
    obtain ⟨bs, h⟩ := isOk (x := (sImg 256).pavRead 0 ((sImg 256).slotAddr 0 0) 256) (by decide +kernel)
    refine ⟨bs, h, ?_⟩
    have : (match (sImg 256).pavRead 0 ((sImg 256).slotAddr 0 0) 256 with
      | .ok bs => imageGood (bs.map fun b => b.1) && !(bs.any fun b => b.2) &&
          ((sImg 256).candFault 0 0 (Core.reset.load9 (imageSection (bs.map fun b => b.1) 9)).binds).isNone
      | .error _ => false) = true := by decide +kernel
    rw [h] at this
    simpa [and_assoc] using this
  exact ⟨⟨_, (c.2.2.2.2.2.2.2 (sImg 256) 0 (lOn .resuming) _ b1 rfl rfl rfl rfl rfl h1).1 g1 g2 g3⟩,
    ⟨_, (c.2.2.2.2.2.2.2 (sImg 0) 0 (lOn .resuming) _ [] rfl rfl rfl rfl rfl rfl).2 (by decide +kernel)⟩⟩

theorem len_sm3 (bs : List Byte) : (sm3 bs).length = 32 := by simp [sm3, toBytesBE]
theorem len_directory (off : Nat) (l : List (List Byte)) : (directory off l).length = 8 * l.length := by
  induction l generalizing off with
  | nil => rfl
  | cons x l ih => simp [directory, ih]; omega

/-- A save whose sections are all written, so that only its header remains. -/
def svLast : Saving :=
  { slot := 0, full := false, inflight := false, written := 20256, fault := none, complete := false, base := 0 }

/-- The page table of `sPt`, with a word behind it. -/
def sSave : State :=
  { sRest (lOn .preempting) (some svLast) with mem := mw [(0x10000, 8, 0x11001), (0x11000, 8, 0x12001), (0x12000, 8, 0x0F), (0x13000, 1, 1)] }

theorem svLast_body : ((((kRest (some svLast)).sections 0 false).flatMap pad64).drop (svLast.written - 256)) = [] := by
  apply List.drop_eq_nil_of_le
  rw [List.length_flatMap]
  exact kRest_sections (some svLast) 0 false

def svHead : List Byte :=
  (kRest (some svLast)).imageHeader (sSave.imageOf 0 (lOn .preempting)) false false ((kRest (some svLast)).sections 0 false)

theorem svHead_len : svHead.length = 256 := by
  simp only [svHead, Core.imageHeader, List.length_append, len_toBytes, len_zeros, len_directory, len_sm3]
  rfl

theorem pair_none {α β : Type} (x : α × Option β) (h : x.2 = none) : ∃ a, x = (a, none) := ⟨x.1, Prod.ext rfl h⟩

theorem svHead_written : ∃ s3, sSave.saveRange 0 0x400000 svHead = (s3, none) := by
  refine pair_none _ ?_
  unfold State.saveRange
  rw [svHead_len]
  decide +kernel

theorem sSave_core : sSave.core 0 = kRest (some svLast) := rfl

theorem witness_PreemptionStepsComplete_save (c : Obligations.PreemptionStepsComplete) : Runs (.imageSave 0) sSave := by
  obtain ⟨s3, h3⟩ := svHead_written
  have g3 : sSave.saveRange (lOn .preempting).part 0x400000 ((sSave.core 0).imageHeader (sSave.imageOf 0 (lOn .preempting))
      svLast.full svLast.inflight ((sSave.core 0).sections svLast.base svLast.full)) = (s3, none) := by
    rw [sSave_core]; exact h3
  have g2 : sSave.saveRange (lOn .preempting).part (0x400000 + svLast.written)
      ((((sSave.core 0).sections svLast.base svLast.full).flatMap pad64).drop (svLast.written - 256)) = (sSave, none) := by
    rw [sSave_core]
    have h : (((kRest (some svLast)).sections svLast.base svLast.full).flatMap pad64).drop (svLast.written - 256) = [] := svLast_body
    rw [h]
    rfl
  exact ⟨_, c.2.2.2.1 sSave sSave sSave s3 0 0x400000 svLast (lOn .preempting) ((sSave.core 0).sections svLast.base svLast.full)
    (((sSave.core 0).sections svLast.base svLast.full).flatMap pad64) rfl rfl rfl rfl rfl rfl rfl rfl g2 g3⟩

/-- The machine about to make a move, core 0 as given. -/
def about (k : Core) (m : Move) : State := { at0 k (set [] [] []) with firing := none, agenda := [m] }

/-- A core with a set of a block of one CLZ in its queue, and one with the second set of a block of REP and ST. -/
def kIss : Core := { kore tag1 (word 0x21 1 0 9 0) 0 with issueQ := [set [5] [] []] }
def fSt : Firing := { set [64] [7] [] with slot := 1 }
def mRep : Mapping := { oneSlot 0 0 with nslot := 2, nword := 3, slots := [(0x18000000, 0x420), (0xB3082200, 0)] }
def kRep : Core := { kore tag1 0 0 with mappings := [mRep], issueQ := [fSt] }
def kFly : Core :=
  { kore tag1 (word 0x21 1 0 9 0) 0 with held := [{ firing := set [5] [] [], unit := .sequencer, wait := .flight }] }
def sStop : State := { about kIss (.issue 0 0) with power := { Power.reset with dies := [{ Die.reset with stopped := true }] } }

theorem witness_StepRunsDecoded (c : Obligations.StepRunsDecoded) :
    step State.reset = .next State.reset ∧
    (∃ t, step (about kIss (.issue 0 0)) = settled (exec (.clz (head 1 9 0)) t)) ∧
    (∃ t, step (about kRep (.issue 0 0)) = settled (exec (.st (head 2 17 0) .w16) t)) ∧
    (∃ t, step (about kFly (.retry 0 0)) = settled (exec (.clz (head 1 9 0)) t)) ∧
    (∃ t, step (about kIss (.event .packagePowerOverCap)) = settled (exec .packagePowerOverCap t)) ∧
    (∃ t, step sStop = .next t) ∧
    (∃ t, step { about kIss (.issue 0 0) with handovers := [{ what := .dramBurtex 64 }] } = .next t) ∧
    State.reset.syncFrames = State.reset := by
  refine ⟨c.1 State.reset rfl, ⟨_, (c.2.1 (about kIss (.issue 0 0)) _ 0 0 0 (set [5] [] []) _ _
      { opOf tag1 (word 0x21 1 0 9 0) 0 (set [5] [] []) with f := (kIss.stamp (set [5] [] [])).2 } (.clz (head 1 9 0)) [] []
      rfl rfl rfl rfl rfl rfl rfl rfl rfl rfl (by decide +kernel) (by decide +kernel)).1 (.inl rfl)⟩,
    ⟨_, (c.2.1 (about kRep (.issue 0 0)) _ 0 0 0 fSt _ _ { c := 0, f := (kRep.stamp fSt).2, i := inst tag1, m := mRep }
      (.st (head 2 17 0) .w16) [] [] rfl rfl rfl rfl rfl rfl rfl rfl rfl rfl (by decide +kernel) (by decide +kernel)).2
      (head 0 0 0) 4 2 (by decide) (by decide +kernel) (by decide)⟩,
    ⟨_, c.2.2.1 (about kFly (.retry 0 0)) _ 0 0 { firing := set [5] [] [], unit := .sequencer, wait := .flight } _
      { c := 0, f := { set [5] [] [] with heldAt := some 0 }, i := inst tag1, m := oneSlot (word 0x21 1 0 9 0) 0 }
      (.clz (head 1 9 0)) [] [] rfl rfl rfl rfl rfl (.inl rfl) rfl rfl rfl rfl (by decide +kernel) (by decide +kernel) rfl rfl⟩,
    ⟨_, c.2.2.2.1 (about kIss (.event .packagePowerOverCap)) .packagePowerOverCap [] rfl rfl (.inl rfl) nofun⟩,
    ⟨_, c.2.2.2.2.1 sStop (.issue 0 0) [] rfl (.inl ⟨0, rfl, rfl⟩)⟩,
    ⟨_, c.2.2.2.2.1 { about kIss (.issue 0 0) with handovers := [{ what := .dramBurtex 64 }] } (.issue 0 0) [] rfl
      (.inr ⟨by decide, nofun⟩)⟩, c.2.2.2.2.2 State.reset (fun p (hp : p ∈ ([] : List (Nat × Core))) => absurd hp List.not_mem_nil)⟩

theorem witness_DecodeEncode (c : Obligations.DecodeEncode) :
    decode (encode (.bobwait (head 0 9 0) 15 0x000FFFFF) ++ [7]) = .ok (.bobwait (head 0 9 0) 15 0x000FFFFF, [7]) :=
  c (.bobwait (head 0 9 0) 15 0x000FFFFF) [7] (by decide +kernel) (by decide)

theorem witness_MemOkKept (c : Obligations.MemOkKept) : (about kIss (.issue 0 0)).memOk = true ∧
    ∀ t, step (about kIss (.issue 0 0)) = .next t → t.memOk = true :=
  ⟨by decide +kernel, fun t h => c _ t (by decide +kernel) h⟩

end Sys2Proof.Tests.Slice0
end

/-! PROOFS. The scope family (R1 to R6 and the rules they name): the bytes of the core's own scratchpad as loads and
atomics see them, and the host's steps. First the facts that later proofs share: little-endian bytes, updates that
leave every byte as it was, poison marks, and the register map row by row. -/

namespace Sys2Proof.Machine

open Sys2Proof

/-! ### Little-endian bytes in memory (R4) -/

@[simp] theorem length_toBytes (n x : Nat) : (toBytes n x).length = n := by
  induction n generalizing x with
  | zero => rfl
  | succ n ih => simp [toBytes, ih]

theorem getElem_toBytes (n x i : Nat) (h : i < (toBytes n x).length) :
    (toBytes n x)[i] = BitVec.ofNat 8 (x / 256 ^ i) := by
  induction n generalizing x i with
  | zero => simp at h
  | succ n ih =>
    cases i with
    | zero => simp [toBytes]
    | succ j => simp [toBytes, ih, Nat.div_div_eq_div_mul, Nat.pow_succ']

theorem memRead_eq_map (m : List Host.Cell) (a n : Nat) :
    memRead m a n = (List.range n).map fun j => memByte m (a + j) := by
  induction n generalizing a with
  | zero => rfl
  | succ n ih => simp [memRead, ih, List.range_succ_eq_map, Nat.add_comm, Nat.add_left_comm]

/-- A byte after the `n` low bytes of a number have been written: one of them, or as it was. -/
theorem memByte_memWrite_toBytes (m : List Host.Cell) (a b n x : Nat) (w : Memory.wf m = true) :
    memByte (memWrite m a (toBytes n x)) b =
      if a ≤ b ∧ b < a + n then BitVec.ofNat 8 (x / 256 ^ (b - a)) else memByte m b := by
  split
  next h =>
    have hi : b - a < (toBytes n x).length := by rw [length_toBytes]; omega
    rw [show b = a + (b - a) by omega, memByte_memWrite_same m a (b - a) _ w hi, getElem_toBytes]
    simp
  next h => exact memByte_memWrite_other m a b _ w (by rw [length_toBytes]; omega)

/-! ### Updates that change no byte of memory -/

/-- Two states whose memories hold the same bytes: physical memory and every core's scratchpad. -/
def State.SameBytes (s t : State) : Prop := t.mem = s.mem ∧ ∀ c, (t.core c).scratch = (s.core c).scratch

theorem State.SameBytes.refl (s : State) : s.SameBytes s := ⟨rfl, fun _ => rfl⟩

theorem State.SameBytes.trans {s t u : State} (h : s.SameBytes t) (h' : t.SameBytes u) : s.SameBytes u :=
  ⟨h'.1.trans h.1, fun c => (h'.2 c).trans (h.2 c)⟩

theorem State.SameBytes.foldl {α : Type} (f : State → α → State) (hf : ∀ (s : State) (a : α), s.SameBytes (f s a))
    (l : List α) (s : State) : s.SameBytes (l.foldl f s) := by
  induction l generalizing s with
  | nil => exact .refl s
  | cons a r ih => exact (hf s a).trans (ih _)

theorem State.setCore_sameBytes (s : State) (c : Nat) (k : Core) (h : k.scratch = (s.core c).scratch) :
    s.SameBytes (s.setCore c k) := by
  refine ⟨rfl, fun d => ?_⟩
  by_cases hd : d = c
  · subst hd; simp [h]
  · rw [State.core_setCore_other s c d k hd]

theorem State.modCore_sameBytes (s : State) (c : Nat) (f : Core → Core) (h : ∀ k, (f k).scratch = k.scratch) :
    s.SameBytes (s.modCore c f) := s.setCore_sameBytes c _ (h _)

theorem State.setRec_sameBytes (s : State) (l : Loc) (r : LineRec) : s.SameBytes (s.setRec l r) := by
  cases l with
  | scratch c a => exact s.modCore_sameBytes c _ fun _ => rfl
  | phys a => exact .refl s

theorem State.recordAcc_sameBytes (s : State) (l : Loc) (x : Acc) : s.SameBytes (s.recordAcc l x) := by
  unfold State.recordAcc
  split
  · exact s.setRec_sameBytes l _
  · split
    · exact .refl s
    · exact s.setRec_sameBytes l _

theorem State.raiseEpoch_sameBytes (s : State) (a : Agent) : s.SameBytes (s.raiseEpoch a).1 := .refl s

theorem State.markRelease_sameBytes (s : State) (l : Loc) (r : Release) : s.SameBytes (s.markRelease l r) :=
  s.setRec_sameBytes l _

theorem State.raiseAcq_sameBytes (s : State) (b a : Agent) (e : Nat) : s.SameBytes (s.raiseAcq b a e) := by
  unfold State.raiseAcq
  split <;> exact .refl s

theorem State.cacheTlb_sameBytes (s : State) (c : Nat) (e : TlbEntry) : s.SameBytes (s.cacheTlb c e) := by
  unfold State.cacheTlb
  dsimp only
  split
  · exact s.setCore_sameBytes c _ rfl
  · exact s.drawFree.2.setCore_sameBytes c _ rfl

theorem State.cachePage_sameBytes (s : State) (c va : Nat) : s.SameBytes (s.cachePage c va) := by
  unfold State.cachePage
  split
  · split
    · exact .refl s
    · split
      · exact s.cacheTlb_sameBytes c _
      · exact .refl s
  · exact .refl s

/-- Noting an access that has been made changes no byte. -/
theorem State.noteAccess_sameBytes (s : State) (o : OpIn) (use : Use) (va : Nat) (ts : List (Target × Nat)) :
    s.SameBytes (s.noteAccess o use va ts) := by
  refine (s.cachePage_sameBytes o.c va).trans (.foldl _ (fun u t => ?_) ts _)
  dsimp only
  split
  · refine State.SameBytes.trans ?_ (State.modCore_sameBytes _ o.c _ fun _ => rfl)
    split
    · exact .refl u
    · exact u.recordAcc_sameBytes _ _
  · exact .refl u

/-- What an atomic leaves beside the word it writes changes no byte. -/
theorem State.noteAtomic_sameBytes (s : State) (o : OpIn) (t : Target) (d : Order) :
    s.SameBytes (s.noteAtomic o t d) := by
  unfold State.noteAtomic
  extract_lets line a prev s1 s2 s3 s4 x
  have h1 : s.SameBytes s1 := by
    dsimp only [s1]; split
    · exact s.raiseEpoch_sameBytes a
    · exact .refl s
  have h2 : s1.SameBytes s2 := by
    dsimp only [s2]; split
    · exact s1.recordAcc_sameBytes _ _
    · exact .refl s1
  have h3 : s2.SameBytes s3 := by
    dsimp only [s3]; split
    · split
      · exact s2.markRelease_sameBytes _ _
      · exact .refl s2
    · exact .refl s2
  have h4 : s3.SameBytes s4 := by
    dsimp only [s4]; split
    · split
      · exact s3.raiseAcq_sameBytes _ _ _
      · exact .refl s3
    · exact .refl s3
  refine (h1.trans (h2.trans (h3.trans h4))).trans ?_
  split
  · exact s4.modCore_sameBytes o.c _ fun _ => rfl
  · exact .refl s4

/-! ### An aligned word of the core's own scratchpad (R110) -/

/-- Where an access of a core's own scratchpad goes. -/
def ownTarget (c a : Nat) : Target := { loc := .scratch c a, checked := true, host := false, t3 := false }

theorem windowOf_own (n va : Nat) (h : va < 0x200000) : windowOf n va = .own := by simp [windowOf, h]

/-- An aligned word lies within one line. -/
theorem pieces_word (fuel a : Nat) (ha : a % 4 = 0) : pieces (fuel + 2) a 4 = [(a, 4)] := by
  have h : min 4 (64 - a % 64) = 4 := by omega
  simp [pieces, h]

theorem State.resolveRange_own_word (s : State) (c a : Nat) (use : Use) (ha : a % 4 = 0) (hb : a + 4 ≤ 0x200000)
    (hp : (s.core c).inPool a = false) : s.resolveRange c use a 4 = .ok [(ownTarget c a, 4)] := by
  have hw : ∀ x, x < 0x200000 → wrapVa x = x := fun x hx => Nat.mod_eq_of_lt (by omega)
  have hr : s.resolve c use a = .ok (ownTarget c a) := by
    rw [State.resolve, windowOf_own _ a (by omega)]
    simp [hp, ownTarget]
  have h1 : windowOf (s.setSize c) (wrapVa (a + 4 - 1)) = .own := by
    rw [hw _ (by omega)]; exact windowOf_own _ _ (by omega)
  simp only [State.resolveRange, windowOf_own _ a (show a < 0x200000 by omega), h1, pieces_word _ a ha, List.mapM_cons,
    hw a (by omega), hr]
  rfl

/-- A read of it that races with nothing passes its check (R165, R175). -/
theorem State.checkPiece_own_read (s : State) (o : OpIn) (a : Nat) (hi : o.i.accs = [])
    (hr : s.raceOn (.scratch o.c (lineOf a)) (s.accNow o.c o.colour false false) = none) :
    s.checkPiece o .read (ownTarget o.c a) = none := by
  have hs : o.selfRace (ownTarget o.c a).loc.line false false = none := by simp [OpIn.selfRace, hi]
  have hx : (ownTarget o.c a).loc.line = .scratch o.c (lineOf a) := rfl
  have hw : (ownTarget o.c a).watched .read = true := rfl
  have hc : (ownTarget o.c a).records .read = true := rfl
  have he : ((Use.read != .read) = false) ∧ ((Use.read == .atomic) = false) ∧ ((Use.read == .write) = false) := by decide
  obtain ⟨e1, e2, e3⟩ := he
  simp only [State.checkPiece, hw, hc, e1, e2, e3, hs]
  simp [hx, hr]

/-- No other module answers for it. -/
theorem OpIn.farErr_own (o : OpIn) (n : List Nat) (va c a k : Nat) : o.farErr n va [(ownTarget c a, k)] = none := rfl

/-- Where no store is to be forwarded (R175) the bytes read are those that stand there. -/
theorem State.readTargets_own (s : State) (o : OpIn) (a n : Nat) (i : Instance)
    (hi : (s.core o.c).inst? o.f.iid = some i) (hs : i.stores = []) :
    s.readTargets o [(ownTarget o.c a, n)] =
      (memRead (s.core o.c).scratch a n).map fun b => (b, has (s.core o.c).scratchPoison (lineOf a)) := by
  simp [State.readTargets, hi, hs, ownTarget, State.readLoc, State.poisoned]

theorem State.access_own_read (s : State) (o : OpIn) (a : Nat) (ha : a % 4 = 0) (hb : a + 4 ≤ 0x200000)
    (hp : (s.core o.c).inPool a = false) (hi : o.i.accs = [])
    (hr : s.raceOn (.scratch o.c (lineOf a)) (s.accNow o.c o.colour false false) = none) :
    s.access o .read a 4 = .ok [(ownTarget o.c a, 4)] := by
  simp only [State.access, s.resolveRange_own_word o.c a .read ha hb hp, List.findSome?_cons, List.findSome?_nil,
    s.checkPiece_own_read o a hi hr, o.farErr_own]
  simp

theorem State.load_own_word (s : State) (o : OpIn) (a : Nat) (i : Instance)
    (hi : (s.core o.c).inst? o.f.iid = some i) (hs : i.stores = []) (ha : a % 4 = 0) (hb : a + 4 ≤ 0x200000)
    (hp : (s.core o.c).inPool a = false) (hx : o.i.accs = [])
    (hr : s.raceOn (.scratch o.c (lineOf a)) (s.accNow o.c o.colour false false) = none) :
    s.load o a 4 = .ok ((List.range 4).map fun j => memByte (s.core o.c).scratch (a + j),
      has (s.core o.c).scratchPoison (lineOf a), s.noteAccess o .read a [(ownTarget o.c a, 4)]) := by
  simp only [State.load, State.loadP, s.access_own_read o a ha hb hp hx hr, s.readTargets_own o a 4 i hi hs,
    memRead_eq_map]
  simp [List.range_succ]

/-! ### An atomic on a scratchpad word (R134) -/

theorem State.rmw_scratch (s : State) (o : OpIn) (t : Target) (c a : Nat) (d : Order) (old : Lane) (upd : Word → Word)
    (ht : t.loc = .scratch c a) (hw : Memory.wf (s.core c).scratch = true) (b : Nat) :
    memByte ((s.rmw o t d old upd).2.core c).scratch b =
      if a ≤ b ∧ b < a + 4 then BitVec.ofNat 8 ((upd old.val).toNat / 256 ^ (b - a))
      else memByte (s.core c).scratch b := by
  have hn : ((s.noteAtomic o t d).core c).scratch = (s.core c).scratch := (s.noteAtomic_sameBytes o t d).2 c
  simp only [State.rmw, ht, State.writeLoc, State.core_modCore_same, hn]
  exact memByte_memWrite_toBytes _ a b 4 _ hw

theorem State.rmw_scratch_mem (s : State) (o : OpIn) (t : Target) (c a : Nat) (d : Order) (old : Lane)
    (upd : Word → Word) (ht : t.loc = .scratch c a) : (s.rmw o t d old upd).2.mem = s.mem := by
  simp only [State.rmw, ht, State.writeLoc, State.modCore_mem]
  exact (s.noteAtomic_sameBytes o t d).1

/-- Settles O23: a load reads what `load_own_word` says, and an atomic's frame is that of `rmw_scratch`. -/
theorem localMemoryReadsAndWrites : Obligations.LocalMemoryReadsAndWrites := by
  unfold Obligations.LocalMemoryReadsAndWrites
  refine ⟨fun s o a i hi hs ha hb hp hx hr => ?_, fun s u o t c a d old w upd ht hw hold hrmw => ?_⟩
  · have hn := s.noteAccess_sameBytes o .read a [(ownTarget o.c a, 4)]
    exact ⟨_, s.load_own_word o a i hi hs ha hb hp hx hr, hn.1, hn.2⟩
  · obtain rfl : w = old := (congrArg Prod.fst hrmw).symm
    obtain rfl : u = (s.rmw o t d w upd).2 := (congrArg Prod.snd hrmw).symm
    refine ⟨?_, s.rmw_scratch o t c a d w upd ht hw, s.rmw_scratch_mem o t c a d w upd ht⟩
    rw [hold, ht]; rfl

/-! ### Poison marks (R141) -/

@[simp] theorem lineOf_lineOf (a : Nat) : lineOf (lineOf a) = lineOf a := by unfold lineOf; omega

@[simp] theorem has_addMem_same (l : List Nat) (x : Nat) : has (addMem l x) x = true := by
  unfold addMem
  split
  next h => exact h
  next => simp [has]

theorem State.poisoned_setPoison_same (s : State) (l : Loc) : (s.setPoison l true).poisoned l = true := by
  cases l with
  | scratch c a => simp [State.setPoison, State.poisoned]
  | phys a => simp [State.setPoison, State.poisoned]

@[simp] theorem State.poisoned_line (s : State) (l : Loc) : s.poisoned l.line = s.poisoned l := by
  cases l with
  | scratch c a => simp [State.poisoned, Loc.line]
  | phys a => simp [State.poisoned, Loc.line]

/-! ### Hand-overs (R27, R28) -/

/-- A failed check elsewhere than at a Twinik link has the transfer tried once more. -/
theorem State.handFailed_retried (s : State) (h : Handoff) (hn : ∀ port q, h ≠ .link port q ∧ h ≠ .twinikDie port q) :
    s.handFailed h = { s with handovers := s.handovers ++ [Handover.mk h] } := by
  cases h with
  | link p q => exact absurd rfl (hn p q).1
  | twinikDie p q => exact absurd rfl (hn p q).2
  | _ => rfl

/-- On a Twinik link that carries flits it is the receiver's to handle (R23). -/
theorem State.handFailed_link (s : State) (port q : Nat) (hu : (s.port port).up = true)
    (hr : (s.port port).retired = false) : s.handFailed (.link port q) = s.checkFailed port (q % 256) := by
  simp [State.handFailed, hu, hr]

theorem execHandoverTransfer_outcomes (s : State) (h : Handoff) (a : Nat) (p : Place) :
    execHandoverTransfer h .passed s = .next s ∧
    execHandoverTransfer (.dramBurtex a) .corrected s = .next (s.countStack a 0) ∧
    execHandoverTransfer (.sram p) .corrected s =
      .next (s.modCore (placeCore p) fun k => { k with regs := { k.regs with memCe := satAdd k.regs.memCe 1 0xFFFF } }) ∧
    execHandoverTransfer (.burtexDie a) .corrected s =
      .next { s with handovers := s.handovers ++ [Handover.mk (.burtexDie a)] } ∧
    execHandoverTransfer h .failed s = .next (s.handFailed h) := ⟨rfl, rfl, rfl, rfl, rfl⟩

/-- The oldest failed hand-over, tried again: gone, it is counted as transient; failed, its data are poisoned, counted
and reported. -/
theorem execHandoverRetry_oldest (s : State) (h : Handoff) (rest : List Handover) (hs : s.handovers = Handover.mk h :: rest) :
    execHandoverRetry true s = .next ({ s with handovers := rest }.countHand h 1) ∧
    execHandoverRetry false s = .next (((State.strike { s with handovers := rest } h).countHand h 2).postLasting h) := by
  simp [execHandoverRetry, hs]

theorem execHandoverRetry_dramBurtex (s : State) (a : Nat) (rest : List Handover)
    (hs : s.handovers = Handover.mk (.dramBurtex a) :: rest) :
    execHandoverRetry true s = .next ({ s with handovers := rest }.countStack a 1) ∧
    ∃ t : State, execHandoverRetry false s =
        .next (({ t with handovers := rest }.countStack a 2).postLasting (.dramBurtex a)) ∧
      t.poisoned (.phys a) = true ∧ t.mem = s.mem := by
  obtain ⟨hgone, hlasting⟩ := execHandoverRetry_oldest s (.dramBurtex a) rest hs
  refine ⟨hgone, s.setPoison (Loc.phys a).line true, hlasting, ?_, rfl⟩
  rw [← State.poisoned_line]
  exact s.poisoned_setPoison_same _

theorem execHandoverRetry_scratch (s : State) (c a : Nat) (rest : List Handover)
    (hs : s.handovers = Handover.mk (.sram (.scratch c a)) :: rest) (ha : a < 0x200000) :
    ∃ t : State, execHandoverRetry false s = .next (t.postLasting (.sram (.scratch c a))) ∧
      t.poisoned (.scratch c a) = true ∧ (t.core c).regs.memUe = satAdd (s.core c).regs.memUe 1 0xFFFF ∧
      (t.core c).scratch = (s.core c).scratch := by
  refine ⟨_, (execHandoverRetry_oldest s _ rest hs).2, ?_⟩
  have hk : ({ s with handovers := rest } : State).core c = s.core c := rfl
  simp [State.countHand, State.strike, Core.strike, CoreRegs.countMem, placeCore, State.poisoned, Nat.mod_eq_of_lt ha, hk]

/-! ### Absence (R207) -/

/-- A collective that is left is one that there was, without the participants that meet the test. -/
theorem State.leaveColls_arrived (s : State) (p : Coll → CollPart → Bool) (k : Coll) (hk : k ∈ (s.leaveColls p).colls) :
    ∃ x : Coll, k = { x with arrived := x.arrived.filter fun a => !(p x a) } := by
  simp only [State.leaveColls, List.mem_filter, List.mem_map] at hk
  obtain ⟨⟨x, -, hx⟩, -⟩ := hk
  exact ⟨x, hx.symm⟩

theorem execProxyAbsenceReceive_outcome (s : State) (module gid : Nat) :
    ∃ t, execProxyAbsenceReceive module gid s = .next t ∧
      (module, gid) ∈ t.absent ∧ { t with absent := s.absent, colls := s.colls } = s ∧
      ∀ k ∈ t.colls, k.gid = gid → ∀ p ∈ k.arrived, p.agent.module ≠ some module := by
  refine ⟨_, rfl, ?_, rfl, fun k hk hg p hp => ?_⟩
  · simp only [State.leaveColls]
    split
    next h => simpa using h
    next => simp
  · obtain ⟨x, rfl⟩ := State.leaveColls_arrived _ _ k hk
    have hg' : x.gid = gid := hg
    have hp' := (List.mem_filter.mp hp).2
    simpa [hg'] using hp'

theorem execProxyWithdrawalReceive_outcome (s : State) (module gid : Nat) :
    ∃ t, execProxyWithdrawalReceive module gid s = .next t ∧ (module, gid) ∉ t.absent ∧ { t with absent := s.absent } = s :=
  ⟨_, rfl, by simp, rfl⟩

/-! ### BAR4 (R34) -/

section
variable (s : State) (part link func va : Nat) (hrec : s.inRecovery = false) (hf : func ≤ 16)
  (hp : func = 0 ∨ func = part + 1)

include hp in
/-- The partition that an access through the PF names, or that of the VF. -/
theorem bar4Part_eq : (if func = 0 then part else func - 1) = part := by
  split <;> omega

include hrec hf hp

theorem execBar4Access_read (n : Nat) (bs : List PByte) (hn : va + n ≤ s.windowSize part link func)
    (hb : s.pavRead part va n = .ok bs) : execBar4Access part link func va (.read n) s =
      .next (s.emit (.readData (bs.map fun b => b.1) (bs.any fun b => b.2))) := by
  simp only [execBar4Access, bar4Part_eq part func hp, hb]
  simp [hrec, Nat.not_lt.mpr hf, Nat.not_lt.mpr hn]

theorem execBar4Access_write (bs : List Byte) (ls : List (Loc × Nat)) (hn : va + bs.length ≤ s.windowSize part link func)
    (hb : s.pavRange part true va bs.length = .ok ls) : execBar4Access part link func va (.write bs) s =
      .next ((writePieces ls bs s).clearRecs ls) := by
  simp only [execBar4Access, bar4Part_eq part func hp, hb]
  simp [hrec, Nat.not_lt.mpr hf, Nat.not_lt.mpr hn]

end

/-! ### Register writes (R5, R35, R36) -/

theorem regIndex_below (base stride n off : Nat) (h : off < base) : regIndex base stride n off = none := by
  simp [regIndex, Nat.not_le.mpr h]

theorem regIndex_past (base stride n off : Nat) (hs : 0 < stride) (h : base + n * stride ≤ off) :
    regIndex base stride n off = none := by
  have : n ≤ (off - base) / stride := (Nat.le_div_iff_mul_le hs).mpr (by omega)
  simp [regIndex, Nat.not_lt.mpr this]

theorem regIndex_at (base stride n i : Nat) (hs : 0 < stride) (h : i < n) :
    regIndex base stride n (base + stride * i) = some i := by
  simp [regIndex, Nat.mul_div_cancel_left i hs, h]

/-- The fault queues' registers are no partition's. -/
theorem partReg_fq (off : Nat) (h : 0x30000 ≤ off) (h' : off < 0x30400) : partReg off = none := by
  simp (disch := omega) [partReg, List.zipIdx_cons, regIndex_past, regIndex_below]

theorem partReg_ageing (p : Fin 16) : partReg (0x10800 + 4 * p.val) = some (2, p.val) := by
  revert p; decide

theorem partReg_supvec (p : Fin 16) : partReg (0x10E00 + 8 * p.val) = some (5, p.val) := by
  revert p; decide

theorem State.writeReg_part (s : State) (off v w p : Nat) (h : 0x10000 ≤ off) (hp : partReg off = some (w, p)) :
    s.writeReg off v = s.writePartReg w p v := by
  simp [State.writeReg, Nat.not_lt.mpr h, hp]

theorem State.writeReg_fq (s : State) (i reg v : Nat) (hi : i < 17) (hr : reg < 32) :
    s.writeReg (0x30000 + reg + 32 * i) v = s.writeFq i reg v := by
  have hd : (0x30000 + reg + 32 * i - 0x30000) / 32 = i := by omega
  have hm : (0x30000 + reg + 32 * i - 0x30000) % 32 = reg := by omega
  have h1 : ¬ (0x30000 + reg + 32 * i < 0x10000) := by omega
  have h2 : 0x30000 ≤ 0x30000 + reg + 32 * i ∧ 0x30000 + reg + 32 * i < 0x30000 + 32 * 17 := by omega
  have h3 : 0x30000 + reg + 32 * i ≠ 0x10A00 := by omega
  have h4 : 0x30000 + reg + 32 * i ≠ 0x10C80 := by omega
  simp only [State.writeReg, h1, partReg_fq _ h2.1 (by omega), h2, h3, h4, hd, hm, and_self, if_true, if_false]

theorem State.writeReg_supvec (s : State) (p : Fin 16) (v : Nat) :
    s.writeReg (0x10E00 + 8 * p.val) v = s.modPart p.val fun x => { x with supvec := v / 64 % 2 ^ 50 } :=
  s.writeReg_part _ v 5 p.val (by omega) (partReg_supvec p)

theorem State.writeReg_ageing (s : State) (p : Fin 16) (v : Nat) :
    s.writeReg (0x10800 + 4 * p.val) v = s.modPart p.val fun x => { x with pdelta := bits v 16 4, ageus := bits v 0 16 } :=
  s.writeReg_part _ v 2 p.val (by omega) (partReg_ageing p)

/-- DR_FQCTL is written through the PF and through its VF; DR_FQHEAD, and a register that a VF lacks, stay. -/
theorem execRegisterWrite_fq (s : State) (p : Fin 16) (v : Nat) :
    execRegisterWrite none (0x30008 + 32 * p.val) v s = .next (s.writeFqctl p.val v) ∧
    execRegisterWrite (some p.val) 0x208 v s = .next (s.writeFqctl p.val v) ∧
    execRegisterWrite none (0x30010 + 32 * p.val) v s = .next s ∧
    execRegisterWrite (some p.val) 0x10E00 v s = .next s := by
  have hctl : s.writeReg (0x30008 + 32 * p.val) v = s.writeFqctl p.val v := s.writeReg_fq p.val 8 v (by omega) (by omega)
  have hhead : s.writeReg (0x30010 + 32 * p.val) v = s := s.writeReg_fq p.val 16 v (by omega) (by omega)
  exact ⟨congrArg _ hctl, by simp [execRegisterWrite, vfReg, p.isLt, hctl], congrArg _ hhead, rfl⟩

/-! ### Register reads (R5, R6, R35, R36) -/

/-- One row of the partition region's map: `n` registers at a stride from `base` on, and what each holds. -/
def regRow (off base stride n : Nat) (f : Nat → Nat) : Option (Nat × Nat) :=
  (regIndex base stride n (base + (off - base) / stride * stride)).bind fun i =>
    if off < base then none else some (base + stride * i, f i)

theorem regRow_below (off base stride n : Nat) (f : Nat → Nat) (h : off < base) : regRow off base stride n f = none := by
  cases hi : regIndex base stride n (base + (off - base) / stride * stride) <;> simp [regRow, hi, h]

theorem regRow_past (off base stride n : Nat) (f : Nat → Nat) (hs : 0 < stride) (h : base + n * stride ≤ off) :
    regRow off base stride n f = none := by
  have hd : n ≤ (off - base) / stride := (Nat.le_div_iff_mul_le hs).mpr (by omega)
  rw [regRow, regIndex_past _ _ _ _ hs (Nat.add_le_add_left (Nat.mul_le_mul_right _ hd) _)]
  rfl

theorem regRow_at (base stride n i : Nat) (f : Nat → Nat) (hs : 0 < stride) (h : i < n) :
    regRow (base + stride * i) base stride n f = some (base + stride * i, f i) := by
  have hb : ¬ base + stride * i < base := by omega
  have he : (base + stride * i - base) / stride * stride = stride * i := by
    rw [Nat.add_sub_cancel_left, Nat.mul_div_cancel_left i hs, Nat.mul_comm]
  rw [regRow, he, regIndex_at base stride n i hs h, Option.bind_some, if_neg hb]

/-- The map of the partition region, row by row. -/
theorem State.readPartReg_eq (s : State) (off : Nat) : s.readPartReg off =
    [regRow off 0x10000 8 16 (fun p => (s.part p).cfgReg),
      regRow off 0x10080 8 16 (fun p => (s.part p).lspillSize * 2 ^ 32 + (s.part p).lspillBase),
      regRow off 0x10800 4 16 (fun p => (s.part p).pdelta * 2 ^ 16 + (s.part p).ageus),
      regRow off 0x10900 16 16 s.partmapReg,
      regRow off 0x10A00 4 1 (fun _ => b2n (!s.retiring.isEmpty) * 2 ^ 30 + s.retCore),
      regRow off 0x10A40 8 16 (fun i => wordFrom s.isRetired (64 * i)),
      regRow off 0x10C00 8 16 (fun p => b2n (s.part p).tlbGo.isSome * 2 ^ 62 + (s.part p).tlbSize * 2 ^ 60 + (s.part p).tlbVa),
      regRow off 0x10C80 8 1 (fun _ => s.raceLimit * 2 ^ 48 + s.raceBase * 2 ^ 16),
      regRow off 0x10CC0 4 8 (fun n => s.scopes.getD n 0),
      regRow off 0x10D00 8 16 (fun p => (s.part p).storeCount * 2 ^ 49 + (s.part p).storeBase * 2 ^ 7),
      regRow off 0x10E00 8 16 (fun p => (s.part p).supvec * 64),
      regRow off 0x10E80 8 16 (fun p => (s.part p).saveSlotSz * 2 ^ 56 + (s.part p).saveBase * 2 ^ 16 + (s.part p).saveSlots)
    ].findSome? id := rfl

theorem State.readPartReg_ageing (s : State) (p : Fin 16) : s.readPartReg (0x10800 + 4 * p.val) =
    some (0x10800 + 4 * p.val, (s.part p.val).pdelta * 2 ^ 16 + (s.part p.val).ageus) := by
  simp (disch := omega) only [State.readPartReg_eq, List.findSome?_cons, id, regRow_past, regRow_at]

theorem State.readPartReg_supvec (s : State) (p : Fin 16) : s.readPartReg (0x10E00 + 8 * p.val) =
    some (0x10E00 + 8 * p.val, (s.part p.val).supvec * 64) := by
  simp (disch := omega) only [State.readPartReg_eq, List.findSome?_cons, id, regRow_past, regRow_at]

/-- Past DR_SAVEAREA, where DR_SAVERESP lies, the partition region reads as zero. -/
theorem State.readPartReg_past (s : State) (off : Nat) (h : 0x10F00 ≤ off) : s.readPartReg off = none := by
  simp (disch := omega) only [State.readPartReg_eq, List.findSome?_cons, List.findSome?_nil, id, regRow_past]

theorem State.regAt_part (s : State) (off : Nat) (h : 0x10000 ≤ off) (h' : off < 0x20000) :
    s.regAt off = (s.readPartReg off).getD (off, 0) := by
  simp [State.regAt, Nat.not_lt.mpr h, h']

theorem State.regAt_accepted (s : State) (p q : Fin 16) : s.regAt (0x20000 + 4 * (16 * p.val + q.val)) =
    (0x20000 + 4 * (16 * p.val + q.val), s.acceptedReg p.val q.val) := by
  have h1 : ¬ 0x20000 + 4 * (16 * p.val + q.val) < 0x10000 := by omega
  have h2 : ¬ 0x20000 + 4 * (16 * p.val + q.val) < 0x20000 := by omega
  have h3 : 0x20000 + 4 * (16 * p.val + q.val) < 0x20400 := by omega
  have h4 : (0x20000 + 4 * (16 * p.val + q.val)) / 4 * 4 = 0x20000 + 4 * (16 * p.val + q.val) := by omega
  have h5 : (0x20000 + 4 * (16 * p.val + q.val) - 0x20000) / 64 = p.val := by omega
  have h6 : (0x20000 + 4 * (16 * p.val + q.val) - 0x20000) / 4 % 16 = q.val := by omega
  simp only [State.regAt, h1, h2, h3, h4, h5, h6, if_true, if_false]

/-- Between the fault queues and the Twinik ports, where DR_FAULTRESP and DR_CANCEL lie, all reads as zero. -/
theorem State.regAt_between (s : State) (off : Nat) (h : 0x30220 ≤ off) (h' : off < 0x100000) : s.regAt off = (off, 0) := by
  have hlo : ∀ k, k ≤ 0x30220 → ¬ off < k := by omega
  have hhi : ∀ k, 0x100000 ≤ k → ¬ k ≤ off := by omega
  simp [State.regAt, hlo, hhi]

/-- A read at a register's start gives its low 32 bits. -/
theorem State.readReg_start (s : State) (off v : Nat) (h : s.regAt off = (off, v)) : s.readReg off = v % 2 ^ 32 := by
  simp [State.readReg, h, bits]

/-- The fields of DR_ID (R32), for any stepping and module. `regId` is this by `rfl`, where against the sum written out
the kernel would count the shifted stepping up in unary. -/
def idFields (stepping module : Nat) : Nat := 0x1024 * 2 ^ 48 + stepping * 2 ^ 40 + module

theorem regId_eq : regId = idFields Config.stepping.toNat Config.moduleId.toNat := rfl

theorem bits_idFields_low (x m : Nat) (hm : m < 2 ^ 12) : bits (idFields x m) 0 32 = m := by
  simp only [bits, idFields]
  omega

theorem bits_idFields_high (x m : Nat) (hx : x < 2 ^ 8) (hm : m < 2 ^ 12) :
    bits (idFields x m) 32 32 = 0x1024 * 2 ^ 16 + x * 2 ^ 8 := by
  simp only [bits, idFields]
  omega

theorem State.readReg_id (s : State) : s.readReg 0 = Config.moduleId.toNat ∧
    s.readReg 4 = 0x1024 * 2 ^ 16 + Config.stepping.toNat * 2 ^ 8 := by
  have h0 : s.regAt 0 = (0, regId) := rfl
  have h4 : s.regAt 4 = (0, regId) := rfl
  rw [State.readReg, State.readReg, h0, h4, regId_eq]
  exact ⟨bits_idFields_low _ _ Config.moduleId.isLt, bits_idFields_high _ _ Config.stepping.isLt Config.moduleId.isLt⟩

theorem State.readReg_ageing (s : State) (p : Fin 16) : s.readReg (0x10800 + 4 * p.val) =
    ((s.part p.val).pdelta * 2 ^ 16 + (s.part p.val).ageus) % 2 ^ 32 := by
  refine s.readReg_start _ _ ?_
  rw [s.regAt_part _ (by omega) (by omega), s.readPartReg_ageing p]; rfl

theorem State.readReg_supvec (s : State) (p : Fin 16) : s.readReg (0x10E00 + 8 * p.val) =
    (s.part p.val).supvec * 64 % 2 ^ 32 := by
  refine s.readReg_start _ _ ?_
  rw [s.regAt_part _ (by omega) (by omega), s.readPartReg_supvec p]; rfl

theorem State.readReg_accepted (s : State) (p q : Fin 16) : s.readReg (0x20000 + 4 * (16 * p.val + q.val)) =
    aget 0 (s.part p.val).accepted q.val % 2 ^ 32 := s.readReg_start _ _ (s.regAt_accepted p q)

/-- DR_SAVERESP is write-only. -/
theorem State.readReg_saveresp (s : State) (p : Fin 16) : s.readReg (0x10F80 + 4 * p.val) = 0 := by
  refine s.readReg_start _ 0 ?_
  rw [s.regAt_part _ (by omega) (by omega), s.readPartReg_past _ (by omega)]; rfl

/-- DR_FAULTRESP and DR_CANCEL are write-only. -/
theorem State.readReg_between (s : State) (off : Nat) (h : 0x30220 ≤ off) (h' : off < 0x100000) : s.readReg off = 0 :=
  s.readReg_start off 0 (s.regAt_between off h h')

theorem State.readReg_writeReg_supvec (s : State) (p : Fin 16) (v : Nat) :
    (s.writeReg (0x10E00 + 8 * p.val) v).readReg (0x10E00 + 8 * p.val) = v % 2 ^ 32 / 64 * 64 := by
  rw [s.writeReg_supvec, State.readReg_supvec, State.part_modPart_same]
  dsimp only
  omega

theorem State.readReg_writeReg_ageing (s : State) (p : Fin 16) (v : Nat) :
    (s.writeReg (0x10800 + 4 * p.val) v).readReg (0x10800 + 4 * p.val) = v % 2 ^ 16 + v / 2 ^ 16 % 16 * 2 ^ 16 := by
  rw [s.writeReg_ageing, State.readReg_ageing, State.part_modPart_same]
  simp only [bits]
  omega

theorem vfReadOff_accepted (n : Nat) (q : Fin 16) : vfReadOff n (0x100 + 4 * q.val) = some (0x20000 + 64 * n + 4 * q.val) := by
  have h1 : ∀ k, k ≤ 0x100 → ¬ 0x100 + 4 * q.val < k := by omega
  have h2 : 0x100 + 4 * q.val < 0x140 := by omega
  simp [vfReadOff, h1, h2]

theorem vfReadOff_past (n off : Nat) (h : 0x600 ≤ off) : vfReadOff n off = none := by
  have hk : ∀ k, k ≤ 0x600 → ¬ off < k := by omega
  simp [vfReadOff, hk]

theorem State.vfRead_accepted (s : State) (p q : Fin 16) :
    s.vfRead p.val (0x100 + 4 * q.val) = aget 0 (s.part p.val).accepted q.val % 2 ^ 32 := by
  rw [State.vfRead, vfReadOff_accepted, ← s.readReg_accepted p q]
  simp only
  congr 1; omega

theorem State.vfRead_past (s : State) (n off : Nat) (h : 0x600 ≤ off) : s.vfRead n off = 0 := by
  rw [State.vfRead, vfReadOff_past n off h]

/-- Settles O45: the outcome of each step from its own lemma, and each register from its row of the map. -/
theorem hostStepsComplete : Obligations.HostStepsComplete := by
  unfold Obligations.HostStepsComplete
  refine ⟨fun s h a p => ?_, execHandoverRetry_dramBurtex, execHandoverRetry_scratch,
    fun s p v => congrArg _ (s.writeReg_supvec p v), execRegisterWrite_fq,
    fun s part link func va n bs hrec hf hp hn hb => execBar4Access_read s part link func va hrec hf hp n bs hn hb,
    fun s part link func va bs ls hrec hf hp hn hb => execBar4Access_write s part link func va hrec hf hp bs ls hn hb,
    execProxyAbsenceReceive_outcome, execProxyWithdrawalReceive_outcome, fun s p q v => ?_⟩
  · obtain ⟨hpass, hdram, hsram, hburtex, hfail⟩ := execHandoverTransfer_outcomes s h a p
    exact ⟨hpass, hdram, hsram, hburtex, fun hn => hfail.trans (congrArg _ (s.handFailed_retried h hn)),
      fun port q hu hr => congrArg _ (s.handFailed_link port q hu hr)⟩
  · obtain ⟨hid, hpart⟩ := s.readReg_id
    exact ⟨hid, hpart, s.readReg_accepted p q, s.vfRead_accepted p q, rfl, fun o ho => if_neg ho,
      s.readReg_writeReg_supvec p v, s.readReg_writeReg_ageing p v, s.readReg_between _ (by omega) (by omega),
      s.readReg_between _ (by omega) (by omega), s.readReg_saveresp p, rfl, fun o _ ho => s.vfRead_past p.val o ho⟩

end Sys2Proof.Machine

/-! PROOFS. The family of the package, its power and its links (R15 to R32): clocks and the power cap, boot and
attestation, the Twinik transport, and the state after reset. -/

namespace Sys2Proof.Machine

open Sys2Proof Sys2Proof.Claims

/-! ### A die of the package (R15 to R18) -/

@[simp] theorem Power.die_setDie_same (p : Power) (d : Nat) (x : Die) (h : d < p.dies.length) :
    (p.setDie d x).die d = x := by
  simp [Power.die, Power.setDie, setAt, h]

theorem Power.die_setDie_other (p : Power) (d e : Nat) (x : Die) (h : e ≠ d) : (p.setDie d x).die e = p.die e := by
  simp [Power.die, Power.setDie, setAt, List.getElem?_set_ne (Ne.symm h)]

@[simp] theorem Power.length_setDie (p : Power) (d : Nat) (x : Die) : (p.setDie d x).dies.length = p.dies.length := by
  simp [Power.setDie, setAt]

/-- A die that takes a new clock, whatever becomes of the two flags of the package. -/
theorem dieTook_setDie (s : State) (die : Nat) (x : Die) (overCap hardSag : Bool) (h : die < s.power.dies.length) :
    DieTook s { s with power := { s.power with overCap := overCap, hardSag := hardSag }.setDie die x } die x := by
  have hdie (e : Nat) : Power.die { s.power with overCap := overCap, hardSag := hardSag } e = s.power.die e := rfl
  refine ⟨Power.die_setDie_same _ die x h, fun e he => ?_, ?_, rfl, rfl⟩
  · exact (Power.die_setDie_other _ die e x he).trans (hdie e)
  · simp [Power.setDie, hdie]

/-! ### Power over the cap (R17) -/

/-- A die's share of a package over its cap: it goes to the next factor unless its clock is stopped. -/
def Power.stretch (p : Power) (i : Nat) : Power := if (p.die i).stopped then p else p.setDie i (p.die i).up

theorem execPackagePowerOverCap_eq (s : State) : execPackagePowerOverCap s =
    .next { s with power := (List.range 8).foldl Power.stretch { s.power with overCap := true } } := rfl

theorem Power.stretch_overCap (p : Power) (i : Nat) : (p.stretch i).overCap = p.overCap := by
  unfold Power.stretch; split <;> rfl

theorem Power.length_stretch (p : Power) (i : Nat) : (p.stretch i).dies.length = p.dies.length := by
  unfold Power.stretch; split
  · rfl
  · exact p.length_setDie i _

theorem Power.die_stretch_same (p : Power) (i : Nat) (h : i < p.dies.length) :
    (p.stretch i).die i = if (p.die i).stopped then p.die i else (p.die i).up := by
  unfold Power.stretch; split
  · rfl
  · exact p.die_setDie_same i _ h

theorem Power.die_stretch_other (p : Power) (i j : Nat) (h : j ≠ i) : (p.stretch i).die j = p.die j := by
  unfold Power.stretch; split
  · rfl
  · exact p.die_setDie_other i j _ h

theorem Power.foldl_stretch_overCap (l : List Nat) (p : Power) : (l.foldl Power.stretch p).overCap = p.overCap := by
  induction l generalizing p with
  | nil => rfl
  | cons i r ih => exact (ih _).trans (p.stretch_overCap i)

theorem Power.die_foldl_stretch_other (l : List Nat) (p : Power) (j : Nat) (h : j ∉ l) :
    (l.foldl Power.stretch p).die j = p.die j := by
  induction l generalizing p with
  | nil => rfl
  | cons i r ih =>
    obtain ⟨hi, hr⟩ := List.ne_and_not_mem_of_not_mem_cons h
    exact (ih _ hr).trans (p.die_stretch_other i j hi)

/-- Each die of a list without repetition is stretched once. -/
theorem Power.die_foldl_stretch (l : List Nat) (p : Power) (j : Nat) (hl : l.Nodup) (hj : j ∈ l)
    (h : j < p.dies.length) :
    (l.foldl Power.stretch p).die j = if (p.die j).stopped then p.die j else (p.die j).up := by
  induction l generalizing p with
  | nil => cases hj
  | cons i r ih =>
    obtain ⟨hi, hr⟩ := List.nodup_cons.mp hl
    rw [List.foldl_cons]
    by_cases hji : j = i
    · subst hji
      rw [Power.die_foldl_stretch_other r _ j hi, p.die_stretch_same j h]
    · have hjr : j ∈ r := (List.mem_cons.mp hj).resolve_left hji
      rw [ih _ hr hjr (by rw [p.length_stretch]; exact h), p.die_stretch_other i j hji]

theorem execPackagePowerOverCap_outcome (s : State) (die : Nat) (hlen : s.power.dies.length = 8) (hd : die < 8) :
    ∃ t, execPackagePowerOverCap s = .next t ∧ t.power.overCap = true ∧ { t with power := s.power } = s ∧
      (t.power.die die).factor =
        if (s.power.die die).stopped then (s.power.die die).factor else min 5 ((s.power.die die).factor + 1) := by
  refine ⟨_, execPackagePowerOverCap_eq s, Power.foldl_stretch_overCap _ _, rfl, ?_⟩
  rw [Power.die_foldl_stretch _ _ die List.nodup_range (List.mem_range.mpr hd) (hlen.symm ▸ hd)]
  exact apply_ite Die.factor _ _ _

theorem capTaken_eq (v : Nat) : capTaken v = max 3000 (min 15000 (v % 65536)) := by
  unfold capTaken; split
  · omega
  · split <;> omega

/-! ### The steps of one die's clock (R15, R16) -/

section
variable (s : State) (die : Nat) (hd : die < 8)
include hd

theorem execSupplySagTrip_running (hs : (s.power.die die).stopped = false) : execSupplySagTrip die s =
    .next { s with power := s.power.setDie die { (s.power.die die).up with tripped := true } } := by
  simp [execSupplySagTrip, hd, hs]

theorem execStretchStepUp_running (hs : (s.power.die die).stopped = false)
    (ht : (s.power.die die).tripped = true ∨ s.power.overCap = true) : execStretchStepUp die s =
    .next { s with power := s.power.setDie die (s.power.die die).up } := by
  simp [execStretchStepUp, hd, hs, ht]

theorem execStretchStepDown_running (hs : (s.power.die die).stopped = false) : execStretchStepDown die s =
    .next { s with power := { s.power with overCap := false }.setDie die { (s.power.die die).down with tripped := false } } := by
  simp [execStretchStepDown, hd, hs]

theorem execHardSagStop_running (hf : (s.power.die die).factor = 5) (hs : (s.power.die die).stopped = false) :
    execHardSagStop die s = .next (State.postRec
      { s with power := { s.power with hardSag := true }.setDie die { s.power.die die with stopped := true } }
      { FRec.blank 16 0 5 with detail := (Config.powerDetail die).toNat }) := by
  simp [execHardSagStop, hd, hf, hs]

theorem execHardSagRestart_stopped (hs : (s.power.die die).stopped = true) : execHardSagRestart die s =
    .next { s with power := s.power.setDie die { s.power.die die with stopped := false } } := by
  simp [execHardSagRestart, hd, hs]

end

/-- Settles O41: each step of one die by its own equation and `dieTook_setDie`, the cap by the fold over the dies. -/
theorem clockStepsComplete : Obligations.ClockStepsComplete := by
  unfold Obligations.ClockStepsComplete
  rintro s die d hlen hd rfl
  have took (x : Die) (overCap hardSag : Bool) := dieTook_setDie s die x overCap hardSag (hlen.symm ▸ hd)
  refine ⟨fun hs => ⟨_, execSupplySagTrip_running s die hd hs, ?_⟩,
    fun hs ht => ⟨_, execStretchStepUp_running s die hd hs ht, ?_⟩,
    fun hs => ⟨_, execStretchStepDown_running s die hd hs, ?_, rfl⟩,
    fun hf hs => ⟨_, execHardSagStop_running s die hd hf hs, ?_, ?_⟩,
    fun hs => ⟨_, execHardSagRestart_stopped s die hd hs, ?_⟩,
    execPackagePowerOverCap_outcome s die hlen hd, fun v p hp => ?_⟩
  · simpa [Die.up, hs] using took { (s.power.die die).up with tripped := true } _ _
  · simpa [Die.up, hs] using took (s.power.die die).up _ _
  · simpa [Die.down, hs] using took { (s.power.die die).down with tripped := false } _ _
  · simpa [hf] using took { s.power.die die with stopped := true } _ _
  · rfl
  · exact took { s.power.die die with stopped := false } _ _
  · rw [hp, ← capTaken_eq]; rfl

/-! ### The state after reset -/

theorem State.reset_part (p : Nat) : State.reset.part p = Part.reset := rfl
theorem State.reset_port (n : Nat) : State.reset.port n = Port.reset := rfl
theorem State.reset_core (c : Nat) : State.reset.core c = Core.reset := rfl

/-- Settles O59: a partition, a port and a core that reset has not touched are those of their own reset values. -/
theorem resetState : Obligations.ResetState := by
  unfold Obligations.ResetState
  refine ⟨rfl, rfl, rfl, rfl, rfl, rfl, fun p => ?_, fun n => ?_, fun c => ?_⟩
  · rw [State.reset_part]; exact ⟨rfl, rfl, rfl, rfl⟩
  · rw [State.reset_port]; exact ⟨rfl, rfl⟩
  · rw [State.reset_core]; exact ⟨rfl, rfl, rfl, rfl, rfl, rfl, rfl, rfl, rfl, rfl, rfl, rfl⟩

/-! ### The retired parts that a reset finds (R60, R106, R109) -/

theorem mem_addMem (l : List Nat) (x y : Nat) : y ∈ addMem l x ↔ y ∈ l ∨ y = x := by
  unfold addMem
  split
  next h =>
    have hx : x ∈ l := by simpa [has] using h
    exact ⟨.inl, fun hy => hy.elim id fun hyx => hyx ▸ hx⟩
  next => simp

theorem mem_foldl_addMem (l a : List Nat) (y : Nat) : y ∈ l.foldl addMem a ↔ y ∈ a ∨ y ∈ l := by
  induction l generalizing a with
  | nil => simp
  | cons x r ih => rw [List.foldl_cons, ih, mem_addMem, List.mem_cons, or_assoc]

/-- A key's value once each of a list's keys has been given its own. -/
theorem aget_foldl_aset {α : Type} (d : α) (g : Nat → α) (l : List Nat) (ks : List (Nat × α)) (c : Nat) :
    aget d (l.foldl (fun ks c => aset ks c (g c)) ks) c = if c ∈ l then g c else aget d ks c := by
  induction l generalizing ks with
  | nil => rfl
  | cons x r ih =>
    rw [List.foldl_cons, ih]
    by_cases hx : c = x
    · subst hx; simp
    · simp [hx, aget_aset_other _ _ _ _ _ hx]

/-- The mask of retired elements found for a core. -/
def foundElems (f : FabricFaults) (c : Nat) : Nat := ((f.elems.find? fun p => p.1 == c).map fun p => p.2).getD 0

/-- The retired switch links found for a core. -/
def foundLinks (f : FabricFaults) (c : Nat) : List (Nat × Nat) := (f.links.filter fun p => p.1 == c).map fun p => p.2

/-- The cores for which something retired is found. -/
def foundCores (f : FabricFaults) : List Nat :=
  (f.elems.map fun p => p.1).foldl addMem ((f.links.map fun p => p.1).foldl addMem [])

theorem bootCores_eq (f : FabricFaults) : bootCores f =
    (foundCores f).foldl (fun ks c => aset ks c (Core.reset.found (foundElems f c) (foundLinks f c))) [] := rfl

theorem mem_foundCores (f : FabricFaults) (c : Nat) :
    c ∈ foundCores f ↔ (∃ p ∈ f.links, p.1 = c) ∨ ∃ p ∈ f.elems, p.1 = c := by
  simp [foundCores, mem_foldl_addMem]

theorem found_nothing (f : FabricFaults) (c : Nat) (h : c ∉ foundCores f) : foundElems f c = 0 ∧ foundLinks f c = [] := by
  rw [mem_foundCores, not_or] at h
  obtain ⟨hlinks, helems⟩ := h
  have he : f.elems.find? (fun p => p.1 == c) = none := by
    rw [List.find?_eq_none]; intro p hp hc; exact helems ⟨p, hp, by simpa using hc⟩
  have hl : f.links.filter (fun p => p.1 == c) = [] := by
    rw [List.filter_eq_nil_iff]; intro p hp hc; exact hlinks ⟨p, hp, by simpa using hc⟩
  simp [foundElems, foundLinks, he, hl]

/-- Every core after a reset is one at its reset values but for what was found retired. -/
theorem State.core_afterReset (s : State) (cores : List Nat) (f : FabricFaults) (c : Nat) :
    (s.afterReset cores f).core c = Core.reset.found (foundElems f c) (foundLinks f c) := by
  have hk : (s.afterReset cores f).core c = aget Core.reset (bootCores f) c := rfl
  rw [hk, bootCores_eq, aget_foldl_aset _ fun c => Core.reset.found (foundElems f c) (foundLinks f c)]
  split
  next => rfl
  next h =>
    obtain ⟨he, hl⟩ := found_nothing f c h
    rw [he, hl]; rfl

theorem mem_foundLinks (f : FabricFaults) (p : Nat × Nat × Nat) (h : p ∈ f.links) : p.2 ∈ foundLinks f p.1 :=
  List.mem_map_of_mem (List.mem_filter.mpr ⟨h, by simp⟩)

/-! ### Measurements (R30) -/

theorem measured_extend_same (s : State) (i : Nat) (x : List Byte) (h : i < s.attest.meas.length) :
    measured (s.extend i x) i = sm3 (measured s i ++ x) := by
  simp only [measured, State.extend, setAt]
  rw [List.getD_eq_getElem?_getD, List.getElem?_set_self h, Option.getD_some]

theorem measured_extend_other (s : State) (i j : Nat) (x : List Byte) (h : j ≠ i) :
    measured (s.extend i x) j = measured s j := by
  simp only [measured, State.extend, setAt]
  rw [List.getD_eq_getElem?_getD, List.getElem?_set_ne (Ne.symm h), ← List.getD_eq_getElem?_getD]

/-! ### The boot ROM (R29, R30) -/

/-- The boot ROM sets the firmware state and the measurements and leaves the rest. -/
theorem State.boot_frame (s : State) : { s.boot with fw := s.fw, attest := s.attest } = s := by
  unfold State.boot; split <;> rfl

@[simp] theorem State.boot_mem (s : State) : s.boot.mem = s.mem := (congrArg State.mem s.boot_frame :)
@[simp] theorem State.boot_launches (s : State) : s.boot.launches = s.launches := (congrArg State.launches s.boot_frame :)
@[simp] theorem State.boot_parts (s : State) : s.boot.parts = s.parts := (congrArg State.parts s.boot_frame :)
@[simp] theorem State.boot_retired (s : State) : s.boot.retired = s.retired := (congrArg State.retired s.boot_frame :)
@[simp] theorem State.boot_core (s : State) (c : Nat) : s.boot.core c = s.core c :=
  (congrArg (fun t => State.core t c) s.boot_frame :)

theorem State.boot_fails (s : State) (h : imageFail s.fw.image ≠ 0) :
    s.boot = { s with fw := { s.fw with state := 2, fail := imageFail s.fw.image } } := by
  unfold State.boot; split
  next h0 => exact absurd h0 h
  next => rfl

theorem State.boot_passes (s : State) (h : imageFail s.fw.image = 0) : s.boot =
    (State.extend { s with fw := { s.fw with state := 1, secver := (Config.imageVersion s.fw.image).toNat } }
      0 (sm3 s.fw.image)).extend 1 (toBytes 32 Config.identityDigest.toNat) := by
  unfold State.boot; split
  next => rfl
  next hn => exact absurd h hn

theorem State.fw_boot_passes (s : State) (h : imageFail s.fw.image = 0) :
    s.boot.fw = { s.fw with state := 1, secver := (Config.imageVersion s.fw.image).toNat } := by
  rw [s.boot_passes h]; rfl

theorem State.measured_boot_passes (s : State) (h : imageFail s.fw.image = 0) (hm : 0 < s.attest.meas.length) :
    measured s.boot 0 = sm3 (measured s 0 ++ sm3 s.fw.image) := by
  rw [s.boot_passes h, measured_extend_other _ 1 0 _ (by decide)]
  exact measured_extend_same _ 0 _ hm

/-- FAIL after the boot ROM's checks names the step that the image fails. -/
theorem State.fail_boot (s : State) (h0 : s.fw.fail = 0) : s.boot.fw.fail = imageFail s.fw.image := by
  by_cases h : imageFail s.fw.image = 0
  · rw [s.fw_boot_passes h, h]; exact h0
  · rw [s.boot_fails h]

theorem execDeviceReset_outcome (s : State) (cores : List Nat) (elems : FabricFaults) : ∃ t,
    execDeviceReset cores elems s = .next t ∧ t.mem = s.mem ∧ t.launches = [] ∧ t.parts = [] ∧
    t.retired = cores.foldl addMem [] ∧ (∀ p ∈ elems.links, p ∈ (t.core p.1).deadLinks.map fun l => (p.1, l)) ∧
    (∀ c, (t.core c).regs.elret = foundElems elems c % 2 ^ 64) ∧ t.fw.fail = imageFail s.fw.image ∧
    (imageFail s.fw.image = 0 → t.fw.state = 1 ∧ t.fw.secver = (Config.imageVersion s.fw.image).toNat ∧
      measured t 0 = sm3 (zero32 ++ sm3 s.fw.image)) ∧
    (imageFail s.fw.image ≠ 0 → t.fw.state = 2 ∧ measured t 0 = zero32) := by
  have hcore (c : Nat) : ((s.afterReset cores elems).boot).core c =
      Core.reset.found (foundElems elems c) (foundLinks elems c) := by rw [State.boot_core, s.core_afterReset]
  refine ⟨_, rfl, State.boot_mem _, State.boot_launches _, State.boot_parts _, State.boot_retired _,
    fun p hp => ?_, fun c => ?_, State.fail_boot _ rfl, fun h => ?_, fun h => ?_⟩
  · rw [hcore]; exact List.mem_map_of_mem (mem_foundLinks elems p hp)
  · rw [hcore]; rfl
  · have hfw := (s.afterReset cores elems).fw_boot_passes h
    exact ⟨congrArg Firmware.state hfw, congrArg Firmware.secver hfw,
      (s.afterReset cores elems).measured_boot_passes h (Nat.zero_lt_succ 7)⟩
  · rw [(s.afterReset cores elems).boot_fails h]; exact ⟨rfl, rfl⟩

/-! ### A load of firmware (R32) -/

theorem execFirmwareLoad_taken (s : State) (len : Nat) (cores : List Nat) (elems : FabricFaults)
    (ht : s.loadTaken = true) (hl : len < 65536) : execFirmwareLoad len cores elems s =
      .next (State.loadFirmware { s with fw := { s.fw with len := len } } cores elems) := by
  have ht' : State.loadTaken { s with fw := { s.fw with len := len } } = true := ht
  simp only [execFirmwareLoad, Nat.mod_eq_of_lt hl, ht', if_true]

section
variable (s : State) (cores : List Nat) (elems : FabricFaults) (h0 : s.fw.len ≠ 0) (h1 : s.fw.len ≤ 12288)
include h0 h1

theorem State.loadFirmware_passes (h : imageFail s.fw.window = 0) : s.loadFirmware cores elems =
    (State.afterReset { s with fw := { s.fw with state := 2, image := s.fw.window } } cores elems).boot := by
  simp only [State.loadFirmware, h0, Nat.not_lt.mpr h1, or_self, if_false, h]

theorem State.loadFirmware_fails (h : imageFail s.fw.window ≠ 0) : s.loadFirmware cores elems =
    { s with fw := { s.fw with state := 2, fail := imageFail s.fw.window, secver := 0 } } := by
  simp only [State.loadFirmware, h0, Nat.not_lt.mpr h1, or_self, if_false]

end

theorem execFirmwareLoad_outcome (s : State) (len : Nat) (cores : List Nat) (elems : FabricFaults) (img : List Byte)
    (ht : s.loadTaken = true) (h0 : 0 < len) (h1 : len ≤ 12288) (hi : img = memRead s.fw.recovery 0 (4096 * len)) :
    ∃ t, execFirmwareLoad len cores elems s = .next t ∧ t.mem = s.mem ∧ t.fw.fail = imageFail img ∧
      (imageFail img = 0 → t.fw.image = img ∧ t.fw.state = 1 ∧ t.launches = []) ∧
      (imageFail img ≠ 0 → t.fw.image = s.fw.image ∧ t.fw.state = 2 ∧ t.launches = s.launches) := by
  refine ⟨_, execFirmwareLoad_taken s len cores elems ht (by omega), ?_⟩
  have hw : Firmware.window { s.fw with len := len } = img := hi.symm
  by_cases h : imageFail img = 0
  · rw [State.loadFirmware_passes _ cores elems (Nat.ne_of_gt h0) h1 (hw.symm ▸ h), hw]
    have hfw := (State.afterReset { s with fw := { s.fw with len := len, state := 2, image := img } } cores
      elems).fw_boot_passes h
    exact ⟨State.boot_mem _, State.fail_boot _ rfl,
      fun _ => ⟨congrArg Firmware.image hfw, congrArg Firmware.state hfw, State.boot_launches _⟩, fun hn => absurd h hn⟩
  · rw [State.loadFirmware_fails _ cores elems (Nat.ne_of_gt h0) h1 (hw.symm ▸ h), hw]
    exact ⟨rfl, rfl, fun hz => absurd hz h, fun _ => ⟨rfl, rfl, rfl⟩⟩

/-! ### Measurement and quote registers (R30 to R32) -/

/-- Only registers 4 to 7 are extended at a program's request. -/
theorem execMeasurementExtend_high (s : State) (reg : BitVec 3) (h : 4 ≤ reg.toNat) : execMeasurementExtend reg.toNat s =
    .next (State.extend { s with attest := { s.attest with measReg := reg.toNat } } reg.toNat s.attest.dig) := by
  simp only [execMeasurementExtend, Nat.mod_eq_of_lt (show reg.toNat < 8 from reg.isLt), Nat.not_lt.mpr h, if_false]

theorem execMeasurementExtend_outcome (s : State) (reg : BitVec 3) (hm : s.attest.meas.length = 8) (h : 4 ≤ reg.toNat) :
    ∃ t, execMeasurementExtend reg.toNat s = .next t ∧ t.attest.measReg = reg.toNat ∧
      measured t reg.toNat = sm3 (measured s reg.toNat ++ s.attest.dig) ∧
      ∀ i, i ≠ reg.toNat → measured t i = measured s i :=
  ⟨_, execMeasurementExtend_high s reg h, rfl,
    measured_extend_same _ _ _ (hm.symm ▸ reg.isLt), fun i hi => measured_extend_other _ _ i _ hi⟩

theorem execQuoteComplete_busy (s : State) (h : s.attest.qBusy = true) : execQuoteComplete s =
    .next { s with attest := { s.attest with
      quote := s.quoteBody ++ toBytes 64 (Config.quoteSignature s.quoteBody).toNat, qBusy := false, qDone := true } } := by
  simp [execQuoteComplete, h]

/-- Settles O42: the boot ROM's two outcomes give those of a reset and of a load; a measurement register by
`measured_extend_same` and `measured_extend_other`. -/
theorem bootStepsComplete : Obligations.BootStepsComplete := by
  unfold Obligations.BootStepsComplete
  refine ⟨execDeviceReset_outcome, execFirmwareLoad_outcome, execMeasurementExtend_outcome,
    fun s => ⟨_, rfl, rfl, rfl⟩, fun s b hbusy hb => ?_⟩
  obtain rfl : b = s.quoteBody := hb
  exact ⟨_, execQuoteComplete_busy s hbusy, rfl, rfl, rfl⟩

/-! ### What posting a fault record leaves (R56) -/

/-- One state is another but for what is reported: the fault queues, the records withheld, the bytes of memory and what
the host is told. -/
def State.SameButReports (s t : State) : Prop :=
  { t with fqs := s.fqs, withheld := s.withheld, mem := s.mem, cores := s.cores, hostOut := s.hostOut } = s

theorem State.SameButReports.refl (s : State) : s.SameButReports s := rfl

theorem State.SameButReports.trans {s t u : State} (h : s.SameButReports t) (h' : t.SameButReports u) :
    s.SameButReports u := by
  unfold State.SameButReports at *; rw [← h, ← h']

theorem State.loseRec_reports (s : State) (f : FRec) : s.SameButReports (s.loseRec f) := by
  unfold State.loseRec; split <;> rfl

theorem State.writeLoc_reports (s : State) (l : Loc) (bs : List Byte) : s.SameButReports (s.writeLoc l bs) := by
  cases l <;> rfl

theorem State.noteHost_reports (s : State) (queue : Nat) (l : Loc) (bs : List Byte) :
    s.SameButReports (s.noteHost queue l bs) := by
  unfold State.noteHost; split
  · split <;> rfl
  · rfl

theorem State.tellHost_reports (s : State) (queue : Nat) (l : Loc) (bs : List Byte) :
    s.SameButReports (s.tellHost queue l bs) := (s.writeLoc_reports l bs).trans (State.noteHost_reports _ queue l bs)

theorem State.ringVector_reports (s : State) (i : Nat) : s.SameButReports (s.ringVector i) := by
  unfold State.ringVector; dsimp only; split <;> rfl

theorem State.modFq_reports (s : State) (i : Nat) (f : FaultQ → FaultQ) : s.SameButReports (s.modFq i f) := rfl

theorem State.postRec_reports (s : State) (f : FRec) : s.SameButReports (s.postRec f) := by
  unfold State.postRec
  dsimp only
  split
  · exact s.loseRec_reports f
  · split
    · exact (s.modFq_reports _ _).trans (State.loseRec_reports _ f)
    · exact (s.tellHost_reports _ _ _).trans ((State.modFq_reports _ _ _).trans (State.ringVector_reports _ _))

/-! ### What a port is while flits go and wait (R19, R23) -/

/-- Whether a port is retired, up and retraining. -/
def Port.status (p : Port) : Bool × Bool × Bool := (p.retired, p.up, p.retraining)

/-- No port has retired, come up, gone down or begun or ended to retrain. -/
def State.PortsStand (s t : State) : Prop := ∀ q, (t.port q).status = (s.port q).status

theorem State.PortsStand.refl (s : State) : s.PortsStand s := fun _ => rfl

theorem State.PortsStand.trans {s t u : State} (h : s.PortsStand t) (h' : t.PortsStand u) : s.PortsStand u :=
  fun q => (h' q).trans (h q)

theorem State.PortsStand.foldl {α : Type} (f : State → α → State) (hf : ∀ s a, State.PortsStand s (f s a))
    (l : List α) (s : State) : s.PortsStand (l.foldl f s) :=
  List.foldlRecOn l f (.refl s) fun t h a _ => h.trans (hf t a)

theorem State.modPort_portsStand (s : State) (n : Nat) (f : Port → Port) (h : (f (s.port n)).status = (s.port n).status) :
    s.PortsStand (s.modPort n f) := by
  intro q
  by_cases hq : q = n
  · subst hq; rw [State.port_modPort_same, h]
  · rw [State.port_modPort_other s n q f hq]

/-! ### Flits sent (R19) -/

/-- A port that has sent a flit: the flit takes the credits that the port owes its peer, 127 at most. -/
def Port.pay (p : Port) : Port := { p with owed := p.owed - min 127 p.owed }

/-- One flit sent on a port. -/
def State.sendFlit (s : State) (port h : Nat) (bs : List Byte) : State :=
  { s.modPort port Port.pay with sent := s.sent ++ [wireFlit port h (min 127 (s.port port).owed) bs] }

theorem State.transmit_cons (s : State) (port : Nat) (x : Nat × List Byte) (rest : List (Nat × List Byte)) :
    s.transmit port (x :: rest) = (s.sendFlit port x.1 x.2).transmit port rest := rfl

theorem State.port_sendFlit_same (s : State) (port h : Nat) (bs : List Byte) : (s.sendFlit port h bs).port port =
    (s.port port).pay := s.port_modPort_same port Port.pay

theorem State.port_sendFlit_other (s : State) (port q h : Nat) (bs : List Byte) (hq : q ≠ port) :
    (s.sendFlit port h bs).port q = s.port q := s.port_modPort_other port q Port.pay hq

/-- Sending flits takes credits and adds to what has left; all else stays. -/
theorem State.transmit_frame (s : State) (port : Nat) (l : List (Nat × List Byte)) :
    { s.transmit port l with ports := s.ports, sent := s.sent } = s := by
  induction l generalizing s with
  | nil => rfl
  | cons x rest ih =>
    rw [State.transmit_cons]
    exact congrArg (fun t : State => { t with ports := s.ports, sent := s.sent }) (ih _)

theorem State.transmit_port (s : State) (port q : Nat) (l : List (Nat × List Byte)) :
    ∃ n, (s.transmit port l).port q = { s.port q with owed := n } := by
  induction l generalizing s with
  | nil => exact ⟨_, rfl⟩
  | cons x rest ih =>
    obtain ⟨n, hn⟩ := ih (s.sendFlit port x.1 x.2)
    refine ⟨n, ?_⟩
    rw [State.transmit_cons, hn]
    by_cases hq : q = port
    · subst hq; rw [s.port_sendFlit_same]; rfl
    · rw [s.port_sendFlit_other port q _ _ hq]

theorem wireFlit_min (port h owed : Nat) (bs : List Byte) : wireFlit port h (min 127 owed) bs =
    { port := port, header := h + min 127 owed * 2 ^ 8, payload := bs,
      check := crc32c (toBytes 4 (h + min 127 owed * 2 ^ 8) ++ bs) } := by
  rw [wireFlit, Nat.mod_eq_of_lt (show min 127 owed < 128 by omega)]

/-- The flits of the replay buffer leave with the credits that the port owes its peer (R19). -/
theorem State.sendFlits_sent (s : State) (port : Nat) (fs : List Flit) :
    (s.sendFlits port fs).sent = s.sent ++ resent port (s.port port).owed fs := by
  induction fs generalizing s with
  | nil => exact (List.append_nil _).symm
  | cons f r ih =>
    refine (ih (s.sendFlit port f.header f.payload)).trans ?_
    rw [s.port_sendFlit_same, State.sendFlit, wireFlit_min, List.append_assoc]; rfl

theorem State.sendFlits_frame (s : State) (port : Nat) (fs : List Flit) :
    { s.sendFlits port fs with ports := s.ports, sent := s.sent } = s := s.transmit_frame port _

theorem State.sendFlits_port (s : State) (port q : Nat) (fs : List Flit) :
    ∃ n, (s.sendFlits port fs).port q = { s.port q with owed := n } := s.transmit_port port q _

theorem State.sendFlits_portsStand (s : State) (port : Nat) (fs : List Flit) : s.PortsStand (s.sendFlits port fs) := by
  intro q
  obtain ⟨n, hn⟩ := s.sendFlits_port port q fs
  rw [hn]; rfl

/-! ### Flits that wait for a port (R23) -/

/-- The flits that a port takes from those that wait: as many as its replay buffer of 128 has room for. -/
def Port.ready (p : Port) : List Flit := p.waiting.take (128 - p.replay.length)

/-- A port once it has taken them. -/
def Port.refill (p : Port) : Port :=
  { p with replay := p.replay ++ p.ready, waiting := p.waiting.drop (128 - p.replay.length) }

theorem State.pump_carries (s : State) (port : Nat) (h : (s.port port).carries = true) :
    s.pump port = (s.modPort port Port.refill).sendFlits port (s.port port).ready := by
  simp only [State.pump, h, if_true]; rfl

theorem State.pump_idle (s : State) (port : Nat) (h : (s.port port).carries = false) : s.pump port = s := by
  simp [State.pump, h]

theorem State.pump_frame (s : State) (port : Nat) : { s.pump port with ports := s.ports, sent := s.sent } = s := by
  cases h : (s.port port).carries with
  | false => rw [s.pump_idle port h]
  | true =>
    rw [s.pump_carries port h]
    exact congrArg (fun t : State => { t with ports := s.ports, sent := s.sent }) (State.sendFlits_frame _ port _)

theorem State.pump_portsStand (s : State) (port : Nat) : s.PortsStand (s.pump port) := by
  cases h : (s.port port).carries with
  | false => rw [s.pump_idle port h]; exact .refl s
  | true =>
    rw [s.pump_carries port h]
    exact (s.modPort_portsStand port _ rfl).trans (State.sendFlits_portsStand _ port _)

theorem State.pump_sent (s : State) (port : Nat) (h : (s.port port).carries = true) :
    (s.pump port).sent = s.sent ++ resent port (s.port port).owed (s.port port).ready := by
  rw [s.pump_carries port h, State.sendFlits_sent, State.port_modPort_same]; rfl

theorem State.pump_nothing (s : State) (port : Nat) (h : (s.port port).ready = []) : (s.pump port).sent = s.sent := by
  cases hc : (s.port port).carries with
  | false => rw [s.pump_idle port hc]
  | true => rw [s.pump_sent port hc, h]; exact List.append_nil _

theorem Port.ready_none (p : Port) (h : p.waiting = []) : p.ready = [] := by rw [Port.ready, h, List.take_nil]

theorem Port.ready_full (p : Port) (h : 128 ≤ p.replay.length) : p.ready = [] := by
  rw [Port.ready, Nat.sub_eq_zero_of_le h, List.take_zero]

/-- A port that carries no flits, or whose replay buffer is full, keeps what waits for it and sends nothing. -/
theorem State.pump_stuck (s : State) (port : Nat)
    (h : (s.port port).carries = false ∨ 128 ≤ (s.port port).replay.length) :
    (s.pump port).sent = s.sent ∧ ((s.pump port).port port).waiting = (s.port port).waiting := by
  cases hc : (s.port port).carries with
  | false => rw [s.pump_idle port hc]; exact ⟨rfl, rfl⟩
  | true =>
    have hfull : 128 ≤ (s.port port).replay.length := h.resolve_left (by simp [hc])
    refine ⟨s.pump_nothing port (Port.ready_full _ hfull), ?_⟩
    obtain ⟨n, hn⟩ := (s.modPort port Port.refill).sendFlits_port port port (s.port port).ready
    rw [s.pump_carries port hc, hn, State.port_modPort_same]
    exact congrArg (List.drop · _) (Nat.sub_eq_zero_of_le hfull)

/-! ### Packets sent (R19) -/

theorem length_payloads (n : Nat) (bs : List Byte) : (payloads n bs).length = n := by
  induction n generalizing bs with
  | zero => rfl
  | succ n ih => simp [payloads, ih]

theorem length_packetFlits (cls hop seq : Nat) (q : Parcel) :
    (packetFlits cls hop seq q).length = max 1 (ceilDiv q.payload.length 64) := by
  simp [packetFlits, length_payloads]

theorem length_resent (port owed : Nat) (fs : List Flit) : (resent port owed fs).length = fs.length := by
  induction fs generalizing owed with
  | nil => rfl
  | cons f r ih => simp [resent, ih]

/-- The flits of the next packet that a port is given. -/
def State.nextFlits (s : State) (port cls hop : Nat) (payload : List Byte) (origin : Origin) : List Flit :=
  packetFlits cls hop (s.port port).txSeq { num := s.nextParcel, payload := payload, hop := hop - 1, origin := origin }

/-- The state in which a packet's flits wait for its port. -/
def State.enqueue (s : State) (port cls hop : Nat) (payload : List Byte) (origin : Origin) : State :=
  State.modPort { s with nextParcel := s.nextParcel + 1 } port fun p =>
    { p with txSeq := (p.txSeq + (s.nextFlits port cls hop payload origin).length) % 256,
             waiting := p.waiting ++ s.nextFlits port cls hop payload origin }

section
variable (s : State) (port cls hop : Nat) (payload : List Byte) (origin : Origin)

theorem State.sendOn_eq : s.sendOn port cls hop payload origin = (s.enqueue port cls hop payload origin).pump port := rfl

theorem State.nextFlits_pos : 0 < (s.nextFlits port cls hop payload origin).length := by
  rw [State.nextFlits, length_packetFlits]; omega

theorem State.port_enqueue : (s.enqueue port cls hop payload origin).port port =
    { s.port port with
      txSeq := ((s.port port).txSeq + (s.nextFlits port cls hop payload origin).length) % 256,
      waiting := (s.port port).waiting ++ s.nextFlits port cls hop payload origin } := State.port_modPort_same _ port _

theorem State.enqueue_portsStand : s.PortsStand (s.enqueue port cls hop payload origin) :=
  State.modPort_portsStand { s with nextParcel := s.nextParcel + 1 } port _ rfl

theorem State.sendOn_frame : { s.sendOn port cls hop payload origin with
    ports := s.ports, sent := s.sent, nextParcel := s.nextParcel } = s :=
  congrArg (fun t : State => { t with ports := s.ports, sent := s.sent, nextParcel := s.nextParcel })
    ((s.enqueue port cls hop payload origin).pump_frame port)

theorem State.sendOn_portsStand : s.PortsStand (s.sendOn port cls hop payload origin) :=
  (s.enqueue_portsStand port cls hop payload origin).trans (State.pump_portsStand _ port)

/-- A packet waits where its port carries no flits or has no room for one. -/
theorem State.sendOn_stuck (h : (s.port port).carries = false ∨ 128 ≤ (s.port port).replay.length) :
    (s.sendOn port cls hop payload origin).sent = s.sent ∧
      (s.port port).waiting.length < ((s.sendOn port cls hop payload origin).port port).waiting.length := by
  have hp := s.port_enqueue port cls hop payload origin
  obtain ⟨hsent, hwait⟩ := (s.enqueue port cls hop payload origin).pump_stuck port (by rw [hp]; exact h)
  refine ⟨hsent, ?_⟩
  rw [s.sendOn_eq, hwait, hp, List.length_append]
  exact Nat.lt_add_of_pos_right (s.nextFlits_pos port cls hop payload origin)

/-- A port that carries flits and has room sends one at least. -/
theorem State.sendOn_sends (hc : (s.port port).carries = true) (hr : (s.port port).replay.length < 128) :
    s.sent.length < (s.sendOn port cls hop payload origin).sent.length := by
  have hp := s.port_enqueue port cls hop payload origin
  have hpos := s.nextFlits_pos port cls hop payload origin
  rw [s.sendOn_eq, State.pump_sent _ port (by rw [hp]; exact hc), hp, List.length_append, length_resent, Port.ready,
    List.length_take, List.length_append]
  have hs : (s.enqueue port cls hop payload origin).sent = s.sent := rfl
  rw [hs]; dsimp only; omega

end

/-! ### What sending and failing over leaves (R21, R22) -/

/-- The ports stand, and the route table and the measurements are as they were. -/
structure State.RoutesStand (s t : State) : Prop where
  ports : s.PortsStand t
  routes : t.routes = s.routes
  attest : t.attest = s.attest

theorem State.RoutesStand.refl (s : State) : s.RoutesStand s := ⟨.refl s, rfl, rfl⟩

theorem State.RoutesStand.trans {s t u : State} (h : s.RoutesStand t) (h' : t.RoutesStand u) : s.RoutesStand u :=
  ⟨h.ports.trans h'.ports, h'.routes.trans h.routes, h'.attest.trans h.attest⟩

theorem State.RoutesStand.foldl {α : Type} (f : State → α → State) (hf : ∀ s a, State.RoutesStand s (f s a))
    (l : List α) (s : State) : s.RoutesStand (l.foldl f s) :=
  List.foldlRecOn l f (.refl s) fun t h a _ => h.trans (hf t a)

theorem State.postRec_routesStand (s : State) (f : FRec) : s.RoutesStand (s.postRec f) := by
  have h := s.postRec_reports f
  unfold State.SameButReports at h
  exact ⟨fun q => (congrArg (fun t => (State.port t q).status) h :), (congrArg State.routes h :),
    (congrArg State.attest h :)⟩

theorem State.sendOn_routesStand (s : State) (port cls hop : Nat) (payload : List Byte) (origin : Origin) :
    s.RoutesStand (s.sendOn port cls hop payload origin) :=
  have h := s.sendOn_frame port cls hop payload origin
  ⟨s.sendOn_portsStand port cls hop payload origin, (congrArg State.routes h :), (congrArg State.attest h :)⟩

theorem State.sendWrite_routesStand (s : State) (o : OrderedWrite) : s.RoutesStand (s.sendWrite o) := by
  unfold State.sendWrite; split
  · exact .refl s
  · dsimp only
    refine State.RoutesStand.trans ?_ (State.sendOn_routesStand _ _ _ _ _ _)
    exact ⟨fun _ => rfl, rfl, rfl⟩

theorem State.sendWrites_routesStand (s : State) (m fuel : Nat) : s.RoutesStand (s.sendWrites m fuel) := by
  induction fuel generalizing s with
  | zero => exact .refl s
  | succ n ih =>
    unfold State.sendWrites; split
    · exact .refl s
    · exact (s.sendWrite_routesStand _).trans (ih _)

theorem State.postUndeliverable_routesStand (s : State) (lid : Option Nat) (core : Nat) (write : Bool) (addr : Nat) :
    s.RoutesStand (s.postUndeliverable lid core write addr) := by
  unfold State.postUndeliverable; split <;> exact s.postRec_routesStand _

theorem State.modCore_routesStand (s : State) (c : Nat) (f : Core → Core) : s.RoutesStand (s.modCore c f) :=
  ⟨fun _ => rfl, rfl, rfl⟩

theorem State.loseWrite_routesStand (s : State) (o : OrderedWrite) : s.RoutesStand (s.loseWrite o) := by
  unfold State.loseWrite; split
  · exact s.postUndeliverable_routesStand _ _ _ _
  next a _ =>
    dsimp only
    refine (s.postUndeliverable_routesStand (some a.agent.launch) a.core true o.addr).trans ?_
    split
    · split
      · exact State.modCore_routesStand _ _ _
      · exact .refl _
    · exact .refl _

theorem State.failover_routesStand (s : State) (m : Nat) : s.RoutesStand (s.failover m) := by
  unfold State.failover; split
  · exact s.sendWrites_routesStand m _
  · dsimp only
    refine State.RoutesStand.trans ?_ (.foldl _ State.loseWrite_routesStand _ _)
    exact ⟨fun _ => rfl, rfl, rfl⟩

/-! ### What comes back of a retired port (R24) -/

theorem State.checkRoute_portsStand (s : State) (m : Nat) : s.PortsStand (s.checkRoute m) := by
  unfold State.checkRoute
  extract_lets one
  have h (t : State) : t.PortsStand (one t) := by
    dsimp only [one]; split
    · split <;> exact fun _ => rfl
    · exact .refl t
  exact (h s).trans (h _)

theorem State.sendAsk_portsStand (s : State) (q : Ask) : s.PortsStand (s.sendAsk q) := by
  unfold State.sendAsk; dsimp only; split
  · exact fun _ => rfl
  · exact State.PortsStand.trans (fun _ => rfl) (State.sendOn_portsStand _ _ _ _ _ _)

theorem State.sendBody_portsStand (s : State) (m cls : Nat) (lid : Option Nat) (body : List Byte) :
    s.PortsStand (s.sendBody m cls lid body) := by
  unfold State.sendBody
  dsimp only
  refine (s.checkRoute_portsStand m).trans ?_
  split
  · exact (State.postUndeliverable_routesStand _ _ _ _ _).ports
  · exact State.sendOn_portsStand _ _ _ _ _ _

theorem State.countUndel_portsStand (s : State) : s.PortsStand s.countUndel := fun _ => rfl

theorem State.returnPacket_portsStand (s : State) (hop : Nat) (payload : List Byte) :
    s.PortsStand (s.returnPacket hop payload) := s.countUndel_portsStand.trans (State.sendBody_portsStand _ _ _ _ _)

theorem State.returnParcel_portsStand (s : State) (q : Parcel) : s.PortsStand (s.returnParcel q) := by
  unfold State.returnParcel; split
  case h_1 => exact s.returnPacket_portsStand _ _
  case h_2 => exact fun _ => rfl
  case h_3 =>
    split
    · exact s.countUndel_portsStand.trans (State.sendAsk_portsStand _ _)
    · exact s.countUndel_portsStand
  case h_4 => exact s.countUndel_portsStand.trans (State.sendBody_portsStand _ _ _ _ _)

/-- A port as it is retired: nothing waits for it, nothing of it is kept. -/
def Port.retire (p : Port) : Port :=
  { p with retired := true, up := false, retraining := false, replay := [], waiting := [], rxPart := none }

/-- A port that is retired is retired and down, whatever comes back of it. -/
theorem State.retirePort_status (s : State) (port : Nat) (h : (s.port port).retired = false) (hp : port < 24) :
    ((s.retirePort port).port port).status = (true, false, false) := by
  simp only [State.retirePort, h, hp, decide_true, Bool.not_true, Bool.or_self, Bool.false_eq_true, if_false]
  refine (State.PortsStand.foldl _ (fun t (p : Nat × Route) => (t.failover_routesStand p.1).ports) _ _ port).trans ?_
  refine (State.PortsStand.foldl _ State.returnParcel_portsStand _ _ port).trans ?_
  exact congrArg Port.status (s.port_modPort_same port Port.retire)

/-! ### Retraining (R23, R25) -/

theorem execPortRetrain_outcome (s : State) (port : Nat) (h : (s.port port).retired = false) (hp : port < 24) :
    ∃ t, execPortRetrain port s = .next t ∧ (t.port port).retraining = true ∧ (t.port port).up = false ∧ t.sent = s.sent := by
  refine ⟨s.modPort port fun p => { p with retraining := true, up := false }, by simp [execPortRetrain, h, hp], ?_⟩
  rw [State.port_modPort_same]; exact ⟨rfl, rfl, rfl⟩

/-- A port that has retrained is up. -/
def Port.trained (p : Port) : Port := { p with retraining := false, up := true }

/-- The state in which a port that has retrained has sent its whole replay buffer again. -/
def State.replayed (s : State) (port : Nat) : State :=
  (s.modPort port Port.trained).sendFlits port (s.port port).replay

theorem State.replayed_sent (s : State) (port : Nat) :
    (s.replayed port).sent = s.sent ++ resent port (s.port port).owed (s.port port).replay := by
  rw [State.replayed, State.sendFlits_sent, State.port_modPort_same]; rfl

theorem State.replayed_port (s : State) (port : Nat) :
    ∃ n, (s.replayed port).port port = { (s.port port).trained with owed := n } := by
  obtain ⟨n, hn⟩ := (s.modPort port Port.trained).sendFlits_port port port (s.port port).replay
  exact ⟨n, hn.trans (by rw [State.port_modPort_same])⟩

/-- Where nothing waits for it, a port that has retrained sends its replay buffer again and no more. -/
theorem execPortRetrainDone_trained (s : State) (port : Nat) (hr : (s.port port).retraining = true)
    (hw : (s.port port).waiting = []) : ∃ t, execPortRetrainDone port true s = .next t ∧
      (t.port port).retraining = false ∧ (t.port port).up = true ∧
      t.sent = s.sent ++ resent port (s.port port).owed (s.port port).replay := by
  obtain ⟨n, hn⟩ := s.replayed_port port
  have hst : (((s.replayed port).pump port).port port).status = ((s.port port).retired, true, false) :=
    ((s.replayed port).pump_portsStand port port).trans (congrArg Port.status hn)
  have hnone : ((s.replayed port).port port).ready = [] := Port.ready_none _ (by rw [hn]; exact hw)
  refine ⟨(s.replayed port).pump port, by simp only [execPortRetrainDone, hr]; rfl, ?_, ?_, ?_⟩
  · exact (congrArg (fun x => x.2.2) hst :)
  · exact (congrArg (fun x => x.2.1) hst :)
  · rw [State.pump_nothing _ port hnone, s.replayed_sent]

theorem execPortRetrainDone_failed (s : State) (port : Nat) (hr : (s.port port).retraining = true)
    (h : (s.port port).retired = false) (hp : port < 24) :
    ∃ t, execPortRetrainDone port false s = .next t ∧ (t.port port).retired = true :=
  ⟨s.retirePort port, by simp [execPortRetrainDone, hr], (congrArg Prod.fst (s.retirePort_status port h hp) :)⟩

theorem execPortRetire_outcome (s : State) (port : Nat) (h : (s.port port).retired = false) (hp : port < 24) :
    ∃ t, execPortRetire port s = .next t ∧ (t.port port).retired = true ∧ (t.port port).up = false :=
  ⟨_, rfl, (congrArg Prod.fst (s.retirePort_status port h hp) :),
    (congrArg (fun x => x.2.1) (s.retirePort_status port h hp) :)⟩

/-! ### Undeliverable responses (R21, R22) -/

@[simp] theorem State.route_modRoute_same (s : State) (m : Nat) (f : Route → Route) :
    (s.modRoute m f).route m = f (s.route m) := by simp [State.route, State.modRoute]

theorem Route.use_fail_primary (r : Route) (h : r.altFail = false) : (r.fail false).use = some (r.alternate, true) := by
  simp [Route.fail, Route.use, h]

/-- The state in which an ordered write counts as sent. -/
def State.asSent (s : State) (o : OrderedWrite) (alt : Bool) : State :=
  { s with
    owrites := modFirst (fun x => x.id == o.id)
      (fun x => { x with alt := alt, st := .outstanding, poison := s.goesPoisoned o }) s.owrites,
    torn := s.torn.filter fun a => a != lineOf o.addr }

section
variable (s : State) (o : OrderedWrite) (w : Nat) (alt : Bool) (hu : (s.route o.dest).use = some (w, alt))
include hu

theorem State.sendWrite_eq : s.sendWrite o = (s.asSent o alt).sendOn (routePort w 0) 2 1
    (packetPayload w 0 ([o.dest, o.id, o.addr, b2n (s.goesPoisoned o)] ++ s.accArgs o.acc) o.bytes) (.write o.id) := by
  simp only [State.sendWrite, hu]; rfl

/-- The only ordered write, sent, is outstanding on the route in use. -/
theorem State.sendWrite_owrites (ho : s.owrites = [o]) : (s.sendWrite o).owrites =
    [{ o with alt := alt, st := .outstanding, poison := s.goesPoisoned o }] := by
  rw [s.sendWrite_eq o w alt hu]
  refine (congrArg State.owrites (State.sendOn_frame _ _ _ _ _ _) :).trans ?_
  simp [State.asSent, ho, modFirst]

theorem State.sendWrite_sends (hc : (s.port (routePort w 0)).carries = true)
    (hr : (s.port (routePort w 0)).replay.length < 128) : s.sent.length < (s.sendWrite o).sent.length := by
  rw [s.sendWrite_eq o w alt hu]
  exact (s.asSent o alt).sendOn_sends _ _ _ _ _ hc hr

/-- A write that came back and is the only one is the next to go, and goes. -/
theorem State.failover_returned (ho : s.owrites = [o]) (hst : o.st = .returned) : s.failover o.dest = s.sendWrite o := by
  have hn : s.nextWrite o.dest = some o := by simp [State.nextWrite, hu, ho, hst]
  simp only [State.failover, hu, ho, List.length_singleton, State.sendWrites, hn]

end

/-- A module's primary route has failed, and the ordered write that went by it has come back. -/
def State.cameBack (s : State) (o : OrderedWrite) : State :=
  { s.modRoute o.dest (Route.fail · false) with owrites := [{ o with st := .returned }] }

theorem execUndeliverableResponse_write (s : State) (o : OrderedWrite) (ho : s.owrites = [o]) (ha : s.asks = [])
    (hst : o.st = .outstanding) : execUndeliverableResponse o.dest false (some o.id) s =
      .next ((s.cameBack o).failover o.dest) := by
  have hback : modFirst (fun x => x.id == o.id && x.dest == o.dest && x.st == OwState.outstanding)
      (fun x => { x with st := .returned }) s.owrites = [{ o with st := .returned }] := by simp [ho, modFirst, hst]
  have hask : (s.modRoute o.dest (Route.fail · false)).asks = [] := ha
  have how : (s.modRoute o.dest (Route.fail · false)).owrites = s.owrites := rfl
  unfold execUndeliverableResponse
  dsimp only
  rw [how, hback]
  split
  next a h => simp [hask] at h
  next => rfl

/-- The only ordered write outstanding comes back by its primary route: it goes out again by the alternate one. -/
theorem execUndeliverableResponse_resends (s : State) (o : OrderedWrite) (p : Nat) (ho : s.owrites = [o]) (ha : s.asks = [])
    (hst : o.st = .outstanding) (halt : (s.route o.dest).altFail = false)
    (hp : p = routePort (s.route o.dest).alternate 0) (hc : (s.port p).carries = true)
    (hr : (s.port p).replay.length < 128) : ∃ t,
    execUndeliverableResponse o.dest false (some o.id) s = .next t ∧ (t.route o.dest).priFail = true ∧
      t.owrites = [(OrderedWrite.mk o.dest o.id o.addr o.bytes (s.goesPoisoned o) o.acc true .outstanding o.part)] ∧
      s.sent.length < t.sent.length := by
  subst hp
  have hroute : (s.cameBack o).route o.dest = (s.route o.dest).fail false := s.route_modRoute_same o.dest (Route.fail · false)
  have hu : ((s.cameBack o).route o.dest).use = some ((s.route o.dest).alternate, true) := by
    rw [hroute, Route.use_fail_primary _ halt]
  refine ⟨_, execUndeliverableResponse_write s o ho ha hst, ?_, ?_, ?_⟩
  · have hr := ((s.cameBack o).failover_routesStand o.dest).routes
    rw [State.route, hr]
    exact congrArg Route.priFail hroute
  · rw [(s.cameBack o).failover_returned { o with st := .returned } _ true hu rfl rfl]
    exact (s.cameBack o).sendWrite_owrites { o with st := .returned } _ true hu rfl
  · rw [(s.cameBack o).failover_returned { o with st := .returned } _ true hu rfl rfl]
    exact (s.cameBack o).sendWrite_sends { o with st := .returned } _ true hu hc hr

/-! ### Route-table writes (R26) -/

theorem routeHops_eq (w : Nat) (h : w < 2 ^ 64) : routeHops w = w / 2 ^ 60 := by
  unfold routeHops bits; omega

/-- The entry of a module with a primary route word written (R26). -/
def Route.putPrimary (v : Nat) (r : Route) : Route := { r with primary := v % 2 ^ 64, priFail := !routeHopsOk v }

theorem Route.putPrimary_eq (v : Nat) (r : Route) (hv : v < 2 ^ 64) : r.putPrimary v =
    { r with primary := v, priFail := !(decide (1 ≤ v / 2 ^ 60) && decide (v / 2 ^ 60 ≤ 12)) } := by
  rw [Route.putPrimary, routeHopsOk, routeHops_eq v hv, Nat.mod_eq_of_lt hv]

/-- What DR_MEAS3 is extended with by a write of a module's primary word. -/
def routeMeasure (m v : Nat) (r : Route) : List Byte :=
  toBytes 32 (Config.routeDigest [m, 0, (r.putPrimary v).primary, (r.putPrimary v).alternate]).toNat

theorem State.writeRoute_primary (s : State) (m v : Nat) : s.writeRoute m 0 v =
    ((s.modRoute m (Route.putPrimary v)).extend 3 (routeMeasure m v (s.route m))).failover m := by
  rw [routeMeasure, ← s.route_modRoute_same m (Route.putPrimary v)]; rfl

theorem execRouteTableWrite_primary (s : State) (module value : Nat) (hm : s.attest.meas.length = 8)
    (hmod : module < 4096) (hv : value < 2 ^ 64) : ∃ t,
    execRouteTableWrite module 0 value s = .next t ∧ (t.route module).primary = value ∧
    (t.route module).priFail = !(decide (1 ≤ value / 2 ^ 60) && decide (value / 2 ^ 60 ≤ 12)) ∧
    (t.route module).alternate = (s.route module).alternate ∧ (t.route module).altFail = (s.route module).altFail ∧
    measured t 3 = sm3 (measured s 3 ++
      toBytes 32 (Config.routeDigest [module, 0, value, (s.route module).alternate]).toNat) := by
  have hput := (s.route module).putPrimary_eq value hv
  have stands := ((s.modRoute module (Route.putPrimary value)).extend 3
    (routeMeasure module value (s.route module))).failover_routesStand module
  have hroute : (s.writeRoute module 0 value).route module = (s.route module).putPrimary value := by
    rw [s.writeRoute_primary, State.route, stands.routes]
    exact s.route_modRoute_same module (Route.putPrimary value)
  refine ⟨s.writeRoute module 0 value, by rw [execRouteTableWrite, if_pos hmod], ?_⟩
  rw [hroute, s.writeRoute_primary, measured, stands.attest, routeMeasure, hput]
  exact ⟨rfl, rfl, rfl, rfl, measured_extend_same _ 3 _ (hm.symm ▸ (by decide : 3 < 8))⟩

/-- Settles O44: what a step sends by `sendFlits_sent` and `pump_sent`, and what the sending and returning that follows
it leaves by `failover_routesStand` and `retirePort_status`. -/
theorem routeAndPortStepsComplete : Obligations.RouteAndPortStepsComplete := by
  unfold Obligations.RouteAndPortStepsComplete
  refine ⟨fun _ _ _ => rfl, fun s o p ho ha hst _ _ halt hp hc hr => ?_, State.sendOn_stuck, execPortRetrain_outcome,
    execPortRetrainDone_trained, execPortRetrainDone_failed, execPortRetire_outcome, execRouteTableWrite_primary⟩
  obtain ⟨t, hexec, hfail, howrites, hsent⟩ := execUndeliverableResponse_resends s o p ho ha hst halt hp hc hr
  exact ⟨t, hexec, hfail, howrites, fun _ => hsent⟩

end Sys2Proof.Machine

/-! PROOFS. The family of the host and of launches (R33 to R58): launch windows and queues, the way of a launch to its
cores, and its end. First what an update of one launch and the end of a resize or a retirement leave. -/

namespace Sys2Proof.Machine

open Sys2Proof Sys2Proof.Claims

/-! ### One launch of the list -/

theorem find?_modFirst {α : Type} (p : α → Bool) (f : α → α) (l : List α) (a : α) (h : l.find? p = some a)
    (hf : p (f a) = true) : (modFirst p f l).find? p = some (f a) := by
  induction l with
  | nil => cases h
  | cons x r ih =>
    by_cases hx : p x = true
    · obtain rfl : x = a := by simpa [hx] using h
      simp [modFirst, hx, hf]
    · have hr : r.find? p = some a := by simpa [hx] using h
      simpa [modFirst, hx] using ih hr

/-- A launch changed by what keeps its number. -/
theorem State.launch_modLaunch_same (s : State) (lid : Nat) (f : Launch → Launch) (l : Launch)
    (h : s.launch lid = some l) (hf : (f l).lid = l.lid) : (s.modLaunch lid f).launch lid = some (f l) := by
  have hlid : (l.lid == lid) = true := List.find?_some (p := fun x : Launch => x.lid == lid) h
  exact find?_modFirst _ f s.launches l h (hf ▸ hlid)

/-! ### What a settlement leaves (R67, R68) -/

@[simp] theorem State.settleRetire_launches (s : State) : s.settleRetire.launches = s.launches := by
  unfold State.settleRetire; dsimp only; split <;> rfl

@[simp] theorem State.settleResize_launches (s : State) (p : Nat) : (s.settleResize p).launches = s.launches := by
  unfold State.settleResize; split <;> rfl

@[simp] theorem State.settle_launches (s : State) (p : Nat) : (s.settle p).launches = s.launches := by
  rw [State.settle, State.settleResize_launches, State.settleRetire_launches]

/-! ### The completion of a launch (R51) -/

/-- A launch that is complete is gone from the list. -/
theorem State.finishLaunch_gone (s : State) (l : Launch) (st d : Nat) :
    ∀ x ∈ (s.finishLaunch l st d).launches, x.lid ≠ l.lid := by
  intro x hx
  simp only [State.finishLaunch, State.settle_launches, State.modPart_launches, List.mem_filter] at hx
  simpa using hx.2

theorem State.ended_running (s : State) (l : Launch) (h : s.ended l = true) : l.phase = .running := by
  simp only [State.ended, Bool.and_eq_true, beq_iff_eq] at h
  obtain ⟨⟨⟨⟨⟨hphase, -⟩, -⟩, -⟩, -⟩, -⟩ := h
  exact hphase

section
variable (s : State) (l : Launch) (h : s.launch l.lid = some l)
include h

theorem execLaunchComplete_status (st d : Nat) (hp : l.phase = .ending) (hs : l.status = some (st, d)) :
    execLaunchComplete l.lid s = .next (if s.launchWritesDone l.lid then s.finishLaunch l st d else s) := by
  simp only [execLaunchComplete, h, hp, hs]

theorem execLaunchComplete_noStatus (hn : ∀ st d, l.phase = .ending → l.status ≠ some (st, d)) :
    execLaunchComplete l.lid s = .next (if s.ended l then s.finishLaunch l 0 0 else s) := by
  unfold execLaunchComplete
  rw [h]; dsimp only
  split
  next st d hp hs => exact absurd hs (hn st d hp)
  next => rfl

theorem execLaunchComplete_completes (st d : Nat) (hc : (l.phase = .ending ∧ l.status = some (st, d) ∧
    s.launchWritesDone l.lid = true) ∨ (s.ended l = true ∧ st = 0 ∧ d = 0)) :
    execLaunchComplete l.lid s = .next (s.finishLaunch l st d) := by
  obtain ⟨hp, hs, hw⟩ | ⟨he, rfl, rfl⟩ := hc
  · rw [execLaunchComplete_status s l h st d hp hs, hw, if_pos rfl]
  · have hp : l.phase ≠ .ending := by rw [s.ended_running l he]; decide
    rw [execLaunchComplete_noStatus s l h fun _ _ hn => absurd hn hp, he, if_pos rfl]

/-- A launch that ends waits for its writes. -/
theorem execLaunchComplete_waits (hp : l.phase = .ending) (hw : s.launchWritesDone l.lid = false) :
    execLaunchComplete l.lid s = .next s := by
  cases hs : l.status with
  | some q => rw [execLaunchComplete_status s l h q.1 q.2 hp hs, hw]; rfl
  | none =>
    have he : ¬ s.ended l = true := fun he => by
      have := s.ended_running l he
      rw [hp] at this; cases this
    rw [execLaunchComplete_noStatus s l h fun st d _ => by rw [hs]; nofun, if_neg he]

/-! ### Launches stopped (R52, R53) -/

theorem State.stopLaunch_waiting (r : PreReason) (hp : l.phase = .queued ∨ l.phase = .spilled) :
    s.stopLaunch r l.lid = s.endLaunch l.lid 3 0 := by
  obtain hp | hp := hp <;> simp only [State.stopLaunch, h, hp]

theorem State.stopLaunch_running (r : PreReason) (hp : l.phase = .running) :
    s.stopLaunch r l.lid = (s.requestPreempt l.lid r).stopIfDrained l.lid := by
  simp only [State.stopLaunch, h, hp]

theorem State.stopLaunch_placed (r : PreReason) (st d : Nat) (hr : r.status = some (st, d)) (hp : l.phase = .placed) :
    s.stopLaunch r l.lid = s.endLaunch l.lid st d := by
  simp only [State.stopLaunch, h, hp, hr]

omit h in
/-- A cancel whose number one launch alone has. -/
theorem execLaunchCancel_one (p n : Nat) (hn : n < 2 ^ 32)
    (hl : s.launches.filter (fun l => l.part == p && l.record.lnum == n) = [l]) :
    execLaunchCancel p n s = .next (s.stopLaunch .cancel l.lid) := by
  rw [execLaunchCancel, Nat.mod_eq_of_lt hn, State.cancel, hl, List.foldl_cons, List.foldl_nil]

theorem execLaunchWatchdogExpiry_fires (ht : l.record.timeout ≠ 0) (hw : l.wdFired = false) (hc : l.onCores = true) :
    execLaunchWatchdogExpiry l.lid s =
      .next ((l.cores.foldl (fun s c => s.raise c (Trap.untied 0x12 0 l.record.lnum 0 .watchdog))
        (s.postRec { FRec.blank l.part l.part 0x0A with lnum := l.record.lnum })).modLaunch l.lid fun x =>
          { x with wdFired := true, wdAnswered := [] }) := by
  simp [execLaunchWatchdogExpiry, h, ht, hw, hc]

/-- A rank that has not answered the watchdog has the launch stopped. -/
theorem execWatchdogTrapUnanswered_stops (r : Nat) (hw : l.wdFired = true) (hc : l.onCores = true)
    (hr : r < l.cores.length) (ha : has l.wdAnswered r = false) :
    execWatchdogTrapUnanswered l.lid s = .next (s.stopLaunch .watchdog l.lid) := by
  have hall : ((List.range l.cores.length).all fun r => has l.wdAnswered r) = false :=
    List.all_eq_false.mpr ⟨r, List.mem_range.mpr hr, by simp [ha]⟩
  simp [execWatchdogTrapUnanswered, h, hw, hc, hall]

end

/-! ### Fault records and answers (R56, R57) -/

theorem execWithheldFaultRecordPost_room (s : State) (queue : Nat) (f : FRec)
    (hf : s.withheld.find? (fun f => f.queue == queue) = some f) (he : (s.fq queue).en = true)
    (hr : (s.fq queue).isFull = false) : execWithheldFaultRecordPost queue s =
      .next ({ s with withheld := delFirst (fun x => x.queue == queue) s.withheld }.postRec f) := by
  simp [execWithheldFaultRecordPost, hf, he, hr]

theorem State.retryFault_outstanding (s : State) (o : Outstanding) : (s.retryFault o).outstanding = s.outstanding := by
  unfold State.retryFault
  split
  case h_1 => split <;> rfl
  all_goals rfl

theorem State.withdrawFault_gone (s : State) (id : Nat) : ∀ x ∈ (s.withdrawFault id).outstanding, x.id ≠ id := by
  intro x hx
  simpa using (List.mem_filter.mp hx).2

theorem State.launch_endLaunch_same (s : State) (lid st d : Nat) (l : Launch) (h : s.launch lid = some l)
    (hp : l.phase ≠ .ending) :
    (s.endLaunch lid st d).launch lid = some { l with phase := .ending, status := some (st, d) } := by
  have hn : (l.phase == .ending) = false := by simpa using hp
  rw [State.endLaunch, s.launch_modLaunch_same lid _ l h (by simp only [hn]; rfl)]
  simp only [hn]; rfl

section
variable (s : State) (part id : Nat)

theorem execFaultResponseRetry_found (o : Outstanding) (h : s.answered part id = some o) :
    execFaultResponseRetry part id s = .next ((s.withdrawFault id).retryFault o) := by
  simp only [execFaultResponseRetry, h]

theorem execFaultResponseFail_found (o : Outstanding) (h : s.answered part id = some o) :
    execFaultResponseFail part id s = .next ((s.withdrawFault id).failFault o) := by
  simp only [execFaultResponseFail, h]

/-- The arguments of a launch are read again, or their fault ends the launch. -/
theorem State.launch_answered_args (o : Outstanding) (lid : Nat) (l : Launch) (ho : o.owner = .args lid)
    (h : s.launch lid = some l) (hp : l.phase ≠ .ending) :
    ((s.withdrawFault id).retryFault o).launch lid = some { l with argFault := none } ∧
      ((s.withdrawFault id).failFault o).launch lid =
        some { l with argFault := none, phase := .ending, status := some (5, 2) } := by
  have hread := (s.withdrawFault id).launch_modLaunch_same lid (fun l => { l with argFault := none }) l h rfl
  refine ⟨?_, ?_⟩
  · simp only [State.retryFault, ho]; exact hread
  · simp only [State.failFault, ho]; exact State.launch_endLaunch_same _ lid 5 2 _ hread hp

theorem execFaultResponse_unknown (h : s.answered part id = none) :
    execFaultResponseRetry part id s = .next s ∧ execFaultResponseFail part id s = .next s := by
  simp only [execFaultResponseRetry, execFaultResponseFail, h, and_self]

end

/-- Settles O48: each step by the equation of its case; a completed launch is gone by `finishLaunch_gone`. -/
theorem launchEndStepsComplete : Obligations.LaunchEndStepsComplete := by
  unfold Obligations.LaunchEndStepsComplete
  refine ⟨fun s l st d h hc => ⟨execLaunchComplete_completes s l h st d hc, s.finishLaunch_gone l st d⟩,
    execLaunchComplete_waits, fun s p n l hn h hl hp => ?_, fun s p n l hn h hl hp => ?_,
    execLaunchWatchdogExpiry_fires, fun s l r h hw hc hr ha hp => ?_,
    execWithheldFaultRecordPost_room, fun s part id o h => ?_, execFaultResponse_unknown⟩
  · exact (execLaunchCancel_one s l p n hn hl).trans (congrArg _ (s.stopLaunch_waiting l h .cancel hp))
  · exact (execLaunchCancel_one s l p n hn hl).trans (congrArg _ (s.stopLaunch_running l h .cancel hp))
  · exact (execWatchdogTrapUnanswered_stops s l h r hw hc hr ha).trans
      (congrArg _ (s.stopLaunch_placed l h .watchdog 5 4 rfl hp))
  · refine ⟨_, _, execFaultResponseRetry_found s part id o h, rfl, execFaultResponseFail_found s part id o h, rfl, ?_,
      fun lid l ho => s.launch_answered_args id o lid l ho⟩
    rw [State.retryFault_outstanding]; exact s.withdrawFault_gone id

/-! ### A record spilled to another module's memory (R21, R43, R56) -/

@[simp] theorem State.ringVector_mem (s : State) (i : Nat) : (s.ringVector i).mem = s.mem := by
  unfold State.ringVector; dsimp only; split <;> rfl

@[simp] theorem State.noteHost_mem (s : State) (queue : Nat) (l : Loc) (bs : List Byte) :
    (s.noteHost queue l bs).mem = s.mem := by
  unfold State.noteHost; split
  · split <;> rfl
  · rfl

/-- A record posted to a ring that stands in physical memory is there. -/
theorem State.postRec_mem (s : State) (f : FRec) (a : Nat) (he : (s.fq f.queue).en = true)
    (hr : (s.fq f.queue).isFull = false) (hp : s.ringPlace f.queue (s.fq f.queue) = some (.phys a)) :
    (s.postRec f).mem = memWrite s.mem a (f.bytes (s.fq f.queue).pass) := by
  simp only [State.postRec, he, hr, hp, Bool.not_true, Bool.or_self, Bool.false_eq_true, if_false,
    State.ringVector_mem, State.modFq_mem, State.tellHost, State.noteHost_mem, State.writeLoc]

theorem State.checkRoute_owrites (s : State) (m : Nat) : (s.checkRoute m).owrites = s.owrites := by
  unfold State.checkRoute
  extract_lets one
  have h1 (s : State) : (one s).owrites = s.owrites := by
    dsimp only [one]; split
    · split <;> rfl
    · rfl
  rw [h1, h1]

/-- An ordered write that the device makes on its own, as it is queued. -/
def State.deviceWrite (s : State) (m a : Nat) (bytes : List Byte) : OrderedWrite :=
  { dest := m, id := s.nextOw, addr := a, bytes := bytes, poison := false, acc := none, alt := false, st := .queued }

/-- The state in which such a write is queued and its module's routes have been checked. -/
def State.deviceQueued (s : State) (m a : Nat) (bytes : List Byte) : State :=
  State.checkRoute { s with owrites := s.owrites ++ [s.deviceWrite m a bytes], nextOw := s.nextOw + 1 } m

/-- The record of a device's write that cannot be delivered. -/
def undeliverableRec (a : Nat) : FRec := { FRec.blank 16 0 7 with write := true, address := a }

/-- A write to a module without a route is lost, and queue 16 has its record (R21). -/
theorem State.orderedWrite_lost (s : State) (m a : Nat) (bytes : List Byte) (ho : s.owrites = [])
    (hu : ((s.deviceQueued m a bytes).route m).use = none) : s.orderedWrite m a bytes false none 0 =
      State.postRec { s.deviceQueued m a bytes with owrites := [] } (undeliverableRec a) := by
  have hq : (s.deviceQueued m a bytes).owrites = [s.deviceWrite m a bytes] := by
    rw [State.deviceQueued, State.checkRoute_owrites, ho]; rfl
  have hf : s.orderedWrite m a bytes false none 0 = (s.deviceQueued m a bytes).failover m := rfl
  simp only [hf, State.failover, hu, hq]
  simp [State.deviceWrite, State.loseWrite, State.postUndeliverable, undeliverableRec]

/-- A write of a whole line to another module's memory: the bytes are laid where they are read here, and sent (R22). -/
theorem State.performWrite_far (s : State) (a : Nat) (bytes : List Byte) (ha : 0x800000000000 ≤ a) :
    s.performWrite none { loc := .phys a, bytes := bytes, poison := false } =
      (s.performSeg { loc := .phys a, bytes := bytes, poison := false }).orderedWrite (bits a 35 12) a bytes false none 0 := by
  simp only [State.performWrite, State.transport, Nat.not_lt.mpr ha, if_false]

/-- A state in which a record has been taken from its ingress slot and counted (R42). -/
def State.taken (s : State) (part prio : Nat) : State :=
  State.countAccepted { s with ingress := delFirst (fun y => y.part == part && y.prio == prio) s.ingress } part prio

/-- A record that goes to the spill area: memory is as the spill write leaves it. -/
theorem execLaunchAccept_spills_mem (s t : State) (part prio : Nat) (x : Ingress)
    (hx : s.ingress.find? (fun y => y.part == part && y.prio == prio) = some x) (hc : s.recordCheck part x.bytes = 0)
    (hr : (LaunchRec.parse x.bytes).rigid = false) (hm : s.mustSpill part prio = true)
    (hf : s.spillFull part = false) (ht : execLaunchAccept part prio false s = .next t) :
    t.mem = ((s.taken part prio).writeSpill part (s.spillFree part) x.bytes).mem := by
  have hc' : State.recordCheck { s with ingress := delFirst (fun y => y.part == part && y.prio == prio) s.ingress } part
      x.bytes = 0 := hc
  have hm' : State.mustSpill { s with ingress := delFirst (fun y => y.part == part && y.prio == prio) s.ingress } part
      prio = true := hm
  simp only [execLaunchAccept, hx, hm, hf, State.acceptRecord, hc', hm', hr] at ht
  rw [← Host.Outcome.next.inj ht]; rfl

/-- The second place of a spill area that begins where other modules' memory does (R43, R111). -/
def farPlace : Nat := 0x800000000040

/-- A record of format 1 and shape 0. -/
def plainRecord : List Byte := toBytes 4 1 ++ List.replicate 60 0

/-- A machine without routes whose partition 0 has its spill area, with one record in it, in the memory of module 0;
the ring of queue 16 begins at the area's next place. -/
def farSpill : State :=
  { State.reset with
    parts := [(0, { Part.reset with en := true, lspillSize := 1, lspillBase := 0x80000000 })]
    fqs := [(16, { FaultQ.reset with en := true, cspace := true, base := farPlace })]
    launches := [Launch.accepted 1 0 3 (LaunchRec.parse plainRecord) .spilled], nextLid := 2
    ingress := [{ part := 0, prio := 3, slot := 0, bytes := plainRecord }] }

/-- The same machine as it has laid the next record in its place and is to send it. -/
def farSpillLaid : State :=
  (farSpill.taken 0 3).performSeg { loc := .phys farPlace, bytes := plainRecord, poison := false }

/-- The record that the spill write puts there is overwritten by the fault record of that very write. -/
theorem farSpill_mem : ((farSpill.taken 0 3).writeSpill 0 (farSpill.spillFree 0) plainRecord).mem =
    memWrite farSpillLaid.mem farPlace ((undeliverableRec farPlace).bytes true) := by
  have hspill : ((farSpill.taken 0 3).writeSpill 0 (farSpill.spillFree 0) plainRecord).mem =
      ((farSpill.taken 0 3).performWrite none { loc := .phys farPlace, bytes := plainRecord, poison := false }).mem := rfl
  rw [hspill, State.performWrite_far _ farPlace _ (by decide),
    State.orderedWrite_lost _ _ _ _ rfl (by decide +kernel)]
  exact State.postRec_mem _ (undeliverableRec farPlace) farPlace (by decide +kernel) (by decide +kernel) (by decide +kernel)

/-- Refutes O46: a spill area may lie in another module's memory (DR_LSPILL BASE gives address bits 47 to 16), and a
record spilled there is an ordered write. Where it cannot be delivered its type 0x07 record goes to queue 16, whose ring
may stand on that very place: the area then does not hold the launch record. -/
theorem not_launchQueueStepsComplete : ¬ Obligations.LaunchQueueStepsComplete := by
  unfold Obligations.LaunchQueueStepsComplete
  rintro ⟨-, haccept, -⟩
  obtain ⟨t, hexec, -, -, hkept, -⟩ := haccept farSpill 0 3 false true
    { part := 0, prio := 3, slot := 0, bytes := plainRecord } _ rfl rfl (by decide +kernel) rfl (by decide +kernel)
    fun _ => ⟨by decide +kernel, rfl⟩
  have hmem : t.mem = memWrite farSpillLaid.mem farPlace ((undeliverableRec farPlace).bytes true) :=
    (execLaunchAccept_spills_mem farSpill t 0 3 _ rfl (by decide +kernel) rfl (by decide +kernel) (by decide +kernel)
      hexec).trans farSpill_mem
  have hread : memRead t.mem farPlace 64 = plainRecord := hkept rfl rfl rfl
  rw [hmem] at hread
  exact absurd hread (by decide +kernel)

/-! ### A core retired under a launch that waits for a fault of its arguments (R47, R58, R68) -/

/-- A retirement asked for by the host pre-empts the launch of the core; then the RIGID launches that wait and no longer
fit complete NOFIT. -/
theorem execCoreRetire_placed (s : State) (core : Nat) (p : Placed) (hc : core < 1024) (hr : s.retiring = [])
    (hn : s.isRetired core = false) (hp : (s.core core).placed = some p) : execCoreRetire core false true s =
      .next ((((State.requestPreempt { s with retiring := [core] } p.lid .retire).settle p.part).noFits p.part).settle
        p.part) := by
  simp [execCoreRetire, State.retireCore, has, hc, hr, hn, hp]

/-- A RIGID launch of one granule, placed on granule 0, whose argument copy waits for fault 5. -/
def rigidFaulted : Launch :=
  { Launch.accepted 1 0 3 { LaunchRec.parse [] with shape := 1, rigid := true } .placed with
    cores := granuleCores 0, placedSize := 8, argFault := some 5 }

/-- The partition of that launch owns granule 0 alone. -/
def rigidMachine : State :=
  { State.reset with
    parts := [(0, { Part.reset with en := true, granules := 1 })], owner := [(0, 0)]
    launches := [rigidFaulted], nextLid := 2
    outstanding := [{ id := 5, part := 0, owner := .args 1, va := 0 }], nextFault := 6
    cores := (List.zipIdx (granuleCores 0)).map fun q =>
      (q.1, { Core.reset with placed := some { lid := 1, part := 0, rank := q.2, prio := 3 } }) }

/-- That machine once core 0 is retired, before NOFIT is considered. -/
def rigidReturned : State := (State.requestPreempt { rigidMachine with retiring := [0] } 1 .retire).settle 0

/-- The launch is back in its queue, and the degraded granule cannot hold its shape. -/
theorem rigidReturned_waits : rigidReturned.launches.map (fun l => (l.phase, l.status)) = [(.queued, none)] := by
  decide +kernel

theorem rigidReturned_noFits : (rigidReturned.noFits 0).launches.map (fun l => (l.phase, l.status)) =
    [(.ending, some (2, 0))] := by decide +kernel

/-- Refutes O47: the clause of a core's retirement leaves out what R68 takes over from a shrink, that a RIGID launch
which no longer fits completes NOFIT. A launch that waits for a fault of its arguments goes back to its queue at once,
its core is retired at once, and the launch completes NOFIT in the same step. -/
theorem not_launchRunStepsComplete : ¬ Obligations.LaunchRunStepsComplete := by
  unfold Obligations.LaunchRunStepsComplete
  rintro ⟨-, -, -, -, -, -, hretire, -⟩
  have hclaim := hretire rigidMachine 0 { lid := 1, part := 0, rank := 0, prio := 3 } (by decide) rfl rfl rfl
  have hexec := execCoreRetire_placed rigidMachine 0 { lid := 1, part := 0, rank := 0, prio := 3 } (by decide) rfl rfl rfl
  have hsame : (rigidReturned.noFits 0).settle 0 = rigidReturned := Host.Outcome.next.inj (hexec.symm.trans hclaim)
  have hlaunches : (rigidReturned.noFits 0).launches = rigidReturned.launches := by
    rw [← State.settle_launches _ 0, hsame]
  have hends := rigidReturned_noFits
  rw [hlaunches, rigidReturned_waits] at hends
  exact absurd hends (by decide)

end Sys2Proof.Machine

/-! PROOFS. The family of the scheduler (R69 to R109): how a move comes to the instruction that is executed, the steps of
a core's sequencer and fabric, and its timeouts, stalls and configuration errors. -/

namespace Sys2Proof.Machine

open Sys2Proof Sys2Proof.Claims

/-! ### Frames of a machine without frames (R96) -/

/-- A core that has not been touched is as reset leaves it; any other stands in the list. -/
theorem State.core_reset_or_mem (s : State) (c : Nat) : s.core c = Core.reset ∨ ∃ p ∈ s.cores, p.2 = s.core c := by
  unfold State.core
  induction s.cores with
  | nil => exact .inl rfl
  | cons p r ih =>
    obtain ⟨n, k⟩ := p
    by_cases h : n = c
    · exact .inr ⟨(n, k), List.mem_cons_self, by simp [aget, h]⟩
    · have hr : aget Core.reset ((n, k) :: r) c = aget Core.reset r c := by simp [aget, h]
      rw [hr]
      exact ih.imp_right fun ⟨q, hq, e⟩ => ⟨q, List.mem_cons_of_mem _ hq, e⟩

theorem State.keepFrames_noFrames (s : State) (c : Nat) (h : ∀ i ∈ (s.core c).instances, i.frame = none) :
    s.keepFrames c = s := by
  have hf : (s.core c).instances.filter (fun i => i.frame.isSome) = [] :=
    List.filter_eq_nil_iff.mpr fun i hi => by simp [h i hi]
  rw [State.keepFrames, hf]; rfl

theorem State.syncFrames_noFrames (s : State) (h : ∀ p ∈ s.cores, ∀ i ∈ p.2.instances, i.frame = none) :
    s.syncFrames = s := by
  refine List.foldl_fixed' (fun p => s.keepFrames_noFrames p.1 fun i hi => ?_) s.cores
  obtain hc | ⟨q, hq, hc⟩ := s.core_reset_or_mem p.1
  · rw [hc] at hi; exact absurd hi List.not_mem_nil
  · exact h q hq i (hc ▸ hi)

/-! ### Fetching and starting (R237, R247, R266) -/

theorem Mapping.fetch_decoded (m : Mapping) (slot : Nat) (i : Instr) (bs : List Byte)
    (hd : decode (m.slotBytes slot) = .ok (i, bs)) (hw : i.wellFormed = true) : m.fetch slot = some i := by
  simp [Mapping.fetch, hd, hw]

theorem Mapping.repOf_none (m : Mapping) (f : Firing)
    (h : f.slot = 0 ∨ ∀ h n stride, m.fetch (f.slot - 1) ≠ some (.rep h n stride)) : m.repOf f = none := by
  unfold Mapping.repOf
  split
  · rfl
  next hs =>
    split
    next h' n stride hr => exact absurd hr (h.resolve_left hs h' n stride)
    · rfl

theorem Mapping.repOf_rep (m : Mapping) (f : Firing) (h : OpWord) (n : BitVec 8) (stride : BitVec 4) (hs : f.slot ≠ 0)
    (hr : m.fetch (f.slot - 1) = some (.rep h n stride)) :
    m.repOf f = some { n := n.toNat, stride := stride.toNat, left := n.toNat } := by
  simp [Mapping.repOf, hs, hr]

section

variable (s : State) (c : Nat) (f : Firing) (o : OpIn) (i : Instr)

/-- A set that fires the first time starts under the repetition of the slot before, if that has iterations. -/
theorem State.start_runs (rep : Option RepState) (ho : s.opIn c f = some o) (hi : o.m.fetch f.slot = some i)
    (hf : f.rep = none) (hb : f.fbBad i = none) (hr : o.m.repOf f = rep) (hl : ∀ r, rep = some r → r.left ≠ 0) :
    s.start c f = ({ s with firing := some (c, { f with rep := rep }) }, some i) := by
  simp only [State.start, ho, hi, hf, hb, hr]
  cases rep with
  | none => rfl
  | some r => simp [hl r rfl]

/-- A set that no REP stands before starts as it is. -/
theorem State.start_plain (ho : s.opIn c f = some o) (hi : o.m.fetch f.slot = some i) (hf : f.rep = none)
    (hb : f.fbBad i = none) (hr : f.slot = 0 ∨ ∀ h n stride, o.m.fetch (f.slot - 1) ≠ some (.rep h n stride)) :
    s.start c f = ({ s with firing := some (c, f) }, some i) := by
  have hsame : { f with rep := none } = f := hf ▸ rfl
  rw [s.start_runs c f o i none ho hi hf hb (o.m.repOf_none f hr) nofun, hsame]

end

/-! ### Moves (R16, R28, R75, R120) -/

theorem step_executes (s t : State) (m : Move) (i : Instr) (rest : List Move) (ha : s.agenda = m :: rest)
    (hm : State.move { s with agenda := rest } m = (t, some i)) : step s = settled (exec i t) := by
  simp [step, State.pick, ha, hm]

theorem step_moves (s t : State) (m : Move) (rest : List Move) (ha : s.agenda = m :: rest)
    (hm : State.move { s with agenda := rest } m = (t, none)) : step s = .next t.syncFrames := by
  simp [step, State.pick, ha, hm]

section

variable (s : State)

/-- A move of a core whose clock is stopped, or one before the second attempt of a hand-over, does nothing. -/
theorem State.move_blocked (m : Move) (h : (∃ c, m.core? = some c ∧ s.clockStopped c = true) ∨
    (s.handovers ≠ [] ∧ ∀ r, m ≠ .event (.handoverRetry r))) : s.move m = (s, none) := by
  obtain ⟨c, hc, hs⟩ | ⟨hne, hm⟩ := h
  · simp [State.move, State.moveHeld, hc, hs]
  · have hr : m.isRetry = false := by
      unfold Move.isRetry
      split
      next r => exact absurd rfl (hm r)
      · rfl
    simp [State.move, hne, hr]

theorem State.move_issue (c e : Nat) (hs : s.clockStopped c = false) (hh : s.handovers = []) :
    s.move (.issue c e) = s.issue c e := by
  simp [State.move, State.moveHeld, Move.core?, hs, hh]

theorem State.move_retry (c n : Nat) (hd : Held) (hs : s.clockStopped c = false) (hh : s.handovers = [])
    (hn : (s.core c).held[n]? = some hd) (hw : hd.wait.retries = true) : s.move (.retry c n) = s.retry c n := by
  simp [State.move, State.moveHeld, Move.core?, Core.retries, hs, hh, hn, hw]

theorem State.move_event (i : Instr) (hi : i.opWord? = none) (hh : s.handovers = [] ∨ ∃ r, i = .handoverRetry r)
    (hc : ∀ c, coreOfEvent i = some c → s.clockStopped c = false) : s.move (.event i) = (s, some i) := by
  have hheld : s.moveHeld (.event i) = false := by
    cases he : coreOfEvent i with
    | none => simp [State.moveHeld, Move.core?, he]
    | some c => simp [State.moveHeld, Move.core?, he, hc c he]
  have hhand : (!s.handovers.isEmpty && !(Move.event i).isRetry) = false := by
    obtain hh | ⟨r, rfl⟩ := hh
    · simp [hh]
    · simp [Move.isRetry]
  simp [State.move, hheld, hhand, hi]

theorem State.issue_starts (c e n : Nat) (f : Firing) (hz : (s.core c).frozen = false)
    (hi : (s.core c).issueHead e = some (n, f)) : s.issue c e =
      (s.setCore c ({ s.core c with issueQ := delAt (s.core c).issueQ n }.stamp { f with heldAt := none }).1).start c
        ({ s.core c with issueQ := delAt (s.core c).issueQ n }.stamp { f with heldAt := none }).2 := by
  simp [State.issue, hi, hz]

theorem State.retry_starts (c n : Nat) (hd : Held) (hz : (s.core c).frozen = false)
    (hn : (s.core c).held[n]? = some hd) (hm : (s.core c).modeWaits hd = false) :
    s.retry c n = (s.takeHeld c n).start c { hd.firing with heldAt := some n } := by
  simp [State.retry, hn, hz, hm]

end

/-- A request that is in flight or waits for earlier instances is tried again, whatever CR_ATOMMODE does. -/
theorem Held.retries_flight_or_earlier (hd : Held) (k : Core) (h : hd.wait = .flight ∨ hd.wait = .earlier) :
    hd.wait.retries = true ∧ k.modeWaits hd = false := by
  obtain h | h := h <;> simp [Wait.retries, Core.modeWaits, h]

/-- Settles O58: what each move starts, by the lemma of that move. -/
theorem stepRunsDecoded : Obligations.StepRunsDecoded := by
  unfold Obligations.StepRunsDecoded
  refine ⟨fun s ha => by simp [step, ha], ?issue, ?retry, ?event, ?blocked, State.syncFrames_noFrames⟩
  case issue =>
    intro s t c e n f g k o i bs rest ha hs hh hz hq hf hkg ht ho hb hd hw
    obtain ⟨rfl, rfl⟩ : k = _ ∧ g = _ := ⟨congrArg Prod.fst hkg, congrArg Prod.snd hkg⟩
    have hi := o.m.fetch_decoded f.slot i bs hd hw
    let popped : State := { s with agenda := rest }
    have hmove : popped.move (.issue c e) = t.start c _ :=
      (popped.move_issue c e hs hh).trans (ht ▸ popped.issue_starts c e n f hz hq)
    refine ⟨fun hr => step_executes s _ _ i rest ha (hmove.trans (t.start_plain c _ o i ho hi hf hb hr)), ?_⟩
    intro h m stride hslot hr hm
    exact step_executes s _ _ i rest ha (hmove.trans (t.start_runs c _ o i _ ho hi hf hb
      (o.m.repOf_rep _ h m stride hslot hr) fun r e => by cases e; simpa [BitVec.toNat_eq] using hm))
  case retry =>
    intro s t c n hd g o i bs rest ha hs hh hz hn hwait ht hg ho hb hdec hw hslot hrep
    obtain ⟨hretries, hmode⟩ := hd.retries_flight_or_earlier (s.core c) hwait
    let popped : State := { s with agenda := rest }
    have hmove : popped.move (.retry c n) = t.start c g :=
      (popped.move_retry c n hd hs hh hn hretries).trans (ht ▸ hg ▸ popped.retry_starts c n hd hz hn hmode)
    exact step_executes s _ _ i rest ha (hmove.trans (t.start_plain c g o i ho (o.m.fetch_decoded _ i bs hdec hw) hrep hb
      (.inl hslot)))
  case event =>
    intro s i rest ha hi hh hc
    exact step_executes s _ _ i rest ha (State.move_event _ i hi hh hc)
  case blocked =>
    intro s m rest ha h
    exact step_moves s _ m rest ha (State.move_blocked _ m h)

/-! ### SPAWN and its grant (R70, R260) -/

/-- A block displacement in 64-byte units, as BitVec arithmetic gives it. -/
theorem blockDisp_eq_blockAt (pc : Nat) (d : BitVec 16) : blockDisp pc 16 d.toNat = blockAt pc d := by
  have hd : sval 16 d.toNat = d.toInt := by
    have hlt := d.isLt
    rw [BitVec.toInt_eq_toNat_cond, sval, Nat.mod_eq_of_lt hlt]
    split <;> split <;> omega
  simp [blockDisp, blockAt, wrap, hd]

/-- The surroundings of a set depend on its core's instances and mappings alone. -/
theorem State.opIn_congr (s t : State) (c : Nat) (f : Firing) (hi : (t.core c).instances = (s.core c).instances)
    (hm : (t.core c).mappings = (s.core c).mappings) : t.opIn c f = s.opIn c f := by
  simp [State.opIn, Core.inst?, Core.mapping?, hi, hm]

section

variable (s : State) (o : OpIn) (u : HUnit) (w : Wait)

/-- A request that has not waited before takes the last place. -/
theorem State.core_hold_new (h : o.f.heldAt = none) : (s.hold o u w).core o.c =
    { s.core o.c with held := (s.core o.c).held ++ [{ firing := o.f, unit := u, wait := w }] } := by
  have hf : { o.f with heldAt := none } = o.f := h ▸ rfl
  simp [State.hold, h, hf]

theorem State.hold_colours : ((s.hold o u w).core o.c).colours = (s.core o.c).colours := by
  simp only [State.hold, State.core_modCore_same]
  split <;> rfl

theorem State.hold_instances : ((s.hold o u w).core o.c).instances = (s.core o.c).instances := by
  simp only [State.hold, State.core_modCore_same]
  split <;> rfl

end

@[simp] theorem State.core_handOver (s : State) (a b : Agent) (c : Nat) : (s.handOver a b).core c = s.core c := by
  simp only [State.handOver, State.raiseAcq]
  split <;> rfl

/-! Sending a result may name an instance and removes none (R92). -/

section

variable (k : Core) (o : OpIn) (j : Instance)

theorem Core.sendRun_instances (iid : Nat) (d : Nat × Nat) (r : Run) (ot : Option Tag) :
    (k.sendRun o iid d r ot).instances = k.instances := by
  unfold Core.sendRun
  split
  · split <;> rfl
  · split <;> rfl

theorem Core.mem_instanceFor (t : Tag) (h : j ∈ k.instances) : j ∈ (k.instanceFor o t).1.instances := by
  unfold Core.instanceFor
  split
  · exact h
  · split
    · exact h
    · split
      · exact h
      · exact List.mem_append_left _ h

theorem Core.mem_sendPiece (second : Bool) (p : Tag × Run) (ot : Option Tag) (h : j ∈ k.instances) :
    j ∈ (k.sendPiece o second p ot).instances := by
  unfold Core.sendPiece
  refine List.foldlRecOn (motive := fun x : Core => j ∈ x.instances) _ _ ?_ fun x hx d _ =>
    (x.sendRun_instances o _ d p.2 ot).symm ▸ hx
  split
  · exact k.mem_instanceFor o j p.1 h
  · exact h

theorem Core.mem_sendTo (tg : Nat) (second : Bool) (r : Run) (h : j ∈ k.instances) :
    j ∈ (k.sendTo o tg second r).instances := by
  unfold Core.sendTo
  split
  · exact h
  · split
    · exact k.mem_sendPiece o j second _ none h
    · split
      · exact h
      · exact List.foldlRecOn (motive := fun x : Core => j ∈ x.instances) _ _ h fun x hx p _ =>
          x.mem_sendPiece o j second p none hx

end

theorem Core.SameButTokens.colours {k k' : Core} (h : k.SameButTokens k') : k'.colours = k.colours := by
  unfold Core.SameButTokens at h; rw [← h]

theorem Core.foldl_sendToken_instances (ts : List Token) (k : Core) :
    (ts.foldl Core.sendToken k).instances = k.instances := by
  induction ts generalizing k with
  | nil => rfl
  | cons t r ih => exact (ih _).trans (Core.sendToken_instances k t)

/-- A core as a granted SPAWN leaves it: the colour is live, its block is named there with the arguments, and T0 has its
completion token. -/
def Core.granted (k : Core) (o : OpIn) (tg : Nat) (new : Colour) (block narg : Nat) : Core :=
  let r := { k with colours := k.colours ++ [new] }.nameInstance { colour := new.id, fields := [] } block false
  ((argTokens r.2 0 (o.f.left.take narg)).foldl Core.sendToken r.1).sendTo o tg false (single o.f.first 0)

theorem Core.granted_colours (k : Core) (o : OpIn) (tg : Nat) (new : Colour) (block narg : Nat) :
    (k.granted o tg new block narg).colours = k.colours ++ [new] :=
  ((Core.SameButTokens.foldl Core.sendToken (fun _ _ => rfl) _ _).trans (Core.sendTo_frame _ o tg false _)).colours

theorem Core.mem_granted (k : Core) (o : OpIn) (tg : Nat) (new : Colour) (block narg : Nat) :
    Instance.fresh k.nextIid { colour := new.id, fields := [] } block false ∈
      (k.granted o tg new block narg).instances := by
  refine Core.mem_sendTo _ o _ tg false _ ?_
  rw [Core.foldl_sendToken_instances]
  exact List.mem_append_right _ List.mem_cons_self

/-- The colour that a grant of a number makes live (R70). -/
def State.grantedColour (s : State) (o : OpIn) (c : Nat) : Colour :=
  { Colour.blank c (s.colourOf o).prio with allot := (s.colourOf o).allot }

theorem State.grantSpawn_eq (s : State) (o : OpIn) (h : OpWord) (ds : BitVec 16) (narg c : Nat)
    (hc : (s.core o.c).freeColour = some c) : ∃ t : State, s.grantSpawn o h ds narg = t.hold o .sequencer (.spawned c) ∧
      t.core o.c = (s.core o.c).granted o h.tg.toNat (s.grantedColour o c) (blockAt o.i.block ds) narg := by
  simp only [State.grantSpawn, hc]
  refine ⟨_, rfl, ?_⟩
  rw [State.core_handOver, State.core_modCore_same, blockDisp_eq_blockAt]
  rfl

/-- SPAWN asks for a grant where nothing is wrong with its block or its arguments (R260). -/
theorem execSpawn_asks (h : OpWord) (ds : BitVec 16) (s : State) (o : OpIn) (w : Nat) (hf : Fires s o)
    (he : s.earlier o = false) (hw : s.fetchHeader o (blockAt o.i.block ds) = .ok w) (hok : headerOk w = true)
    (hre : w / 2 ^ 27 % 2 = 1) (hn : o.f.n = max (w % 16) 1) (hfit : Fits s o h (oneLane o.f.first 0)) :
    execSpawn h ds s = .next { s.hold o .sequencer (.grant (bits w 0 4)) with firing := none } := by
  obtain ⟨hfire, hop, hover⟩ := hf
  have hbit : bit w 27 = true := beq_iff_eq.mpr hre
  have hargs : o.f.n = max (bits w 0 4) 1 := by simpa [bits] using hn
  have htag : s.tagBad o h.tg.toNat (single o.f.first 0) = false := hfit
  rw [execSpawn, runOp_next s o _ hfire hop hover]
  simp only [blockDisp_eq_blockAt, he, hw, hok, hbit, ← hargs, htag, ne_eq, not_true_eq_false, Bool.not_true, Bool.or_self,
    Bool.false_eq_true, if_false]

/-- A SPAWN that is the first waiting request is answered, and keeps that place for what it waits for next. -/
theorem execSpawnGrant_first (s : State) (core narg : Nat) (hd : Held) (rest : List Held) (o : OpIn) (h : OpWord)
    (ds : BitVec 16) (hh : (s.core core).held = hd :: rest) (hw : hd.wait = .grant narg)
    (ho : s.opIn core hd.firing = some o) (hi : o.m.instr? o.f.slot = some (.spawn h ds)) :
    execSpawnGrant core s =
      .next ((s.takeHeld core 0).grantSpawn { o with f := { o.f with heldAt := some 0 } } h ds narg) := by
  simp [execSpawnGrant, Core.heldWhere, findIdx?, hh, hw, ho, hi]

/-- A SPAWN that has no request before it is granted the lowest free colour. -/
theorem spawn_then_grant (h : OpWord) (ds : BitVec 16) (s t : State) (o : OpIn) (c narg : Nat)
    (ho : s.opIn o.c o.f = some o) (ha : o.f.heldAt = none) (hh : (s.core o.c).held = [])
    (hi : o.m.instr? o.f.slot = some (.spawn h ds)) (hc : (s.core o.c).freeColour = some c)
    (ht : t = { s.hold o .sequencer (.grant narg) with firing := none }) : ∃ u, execSpawnGrant o.c t = .next u ∧
      (u.core o.c).colours = (s.core o.c).colours ++ [s.grantedColour o c] ∧
      ∃ j ∈ (u.core o.c).instances, j.tag = { colour := c, fields := [] } ∧ j.block = blockAt o.i.block ds ∧
        j.status = .pending := by
  let asking : OpIn := { o with f := { o.f with heldAt := some 0 } }
  have hcore : t.core o.c = { s.core o.c with held := [{ firing := o.f, unit := .sequencer, wait := .grant narg }] } := by
    rw [ht]
    exact (s.core_hold_new o .sequencer (.grant narg) ha).trans (by rw [hh]; rfl)
  have hop : t.opIn o.c o.f = some o := (s.opIn_congr t o.c o.f (by rw [hcore]) (by rw [hcore])).trans ho
  have hgrant := execSpawnGrant_first t o.c narg _ [] o h ds (by rw [hcore]) rfl hop hi
  have hempty : { s.core o.c with held := [] } = s.core o.c := by rw [← hh]
  have htaken : (t.takeHeld o.c 0).core asking.c = s.core o.c := by
    rw [State.takeHeld, State.core_modCore_same, hcore]; exact hempty
  obtain ⟨v, hv, hvcore⟩ := (t.takeHeld o.c 0).grantSpawn_eq asking h ds narg c (by rw [htaken]; exact hc)
  have hnew : (t.takeHeld o.c 0).grantedColour asking c = s.grantedColour o c := by
    simp [State.grantedColour, State.colourOf, htaken, asking, OpIn.colour]
  rw [htaken, hnew] at hvcore
  refine ⟨_, hgrant, ?_, Instance.fresh (s.core o.c).nextIid { colour := c, fields := [] } (blockAt o.i.block ds) false, ?_,
    rfl, rfl, rfl⟩
  · exact (congrArg (fun x : State => (x.core o.c).colours) hv).trans ((v.hold_colours asking _ _).trans
      ((congrArg Core.colours hvcore).trans (Core.granted_colours _ _ _ _ _ _)))
  · rw [show _ = _ from congrArg (fun x : State => (x.core o.c).instances) hv, v.hold_instances asking]
    exact hvcore ▸ Core.mem_granted _ asking _ _ _ narg

/-! ### Colours, admission and mapping (R70, R73, R74, R88, R107, R261) -/

/-- Whether an instance with a number is of a colour. -/
def Core.ofColour (k : Core) (colour iid : Nat) : Bool :=
  match k.inst? iid with
  | some i => i.tag.colour == colour
  | none => false

/-- Whether a colour is marked by SRET. -/
def Core.marked (k : Core) (colour : Nat) : Bool :=
  match k.colour? colour with
  | some c => c.sret
  | none => false

theorem Core.ofColour_false (k : Core) (colour iid : Nat) (h : ∀ i, k.inst? iid = some i → i.tag.colour ≠ colour) :
    k.ofColour colour iid = false := by
  unfold Core.ofColour
  cases hi : k.inst? iid with
  | none => rfl
  | some i => simpa using h i hi

theorem execColourRelease_eq (core colour : Nat) (s : State) : execColourRelease core colour s =
    if (s.core core).marked colour &&
        !((s.core core).instances.any fun i => i.tag.colour == colour && i.status != .pending) &&
        !((s.core core).inflight.any fun t => (s.core core).ofColour colour t.iid) &&
        !((s.core core).held.any fun h => (s.core core).ofColour colour h.firing.iid) then
      .next (s.setCore core { s.core core with
        colours := (s.core core).colours.filter fun c => c.id != colour,
        instances := (s.core core).instances.filter fun i => i.tag.colour != colour })
    else .next s := rfl

/-- A colour marked by SRET ends once its instances are pending and no token or request of it remains. -/
theorem execColourRelease_ends (s : State) (core : Nat) (x : Colour) (hx : (s.core core).colour? x.id = some x)
    (hs : x.sret = true) (hp : ∀ i ∈ (s.core core).instances, i.tag.colour = x.id → i.status = .pending)
    (ht : ∀ t ∈ (s.core core).inflight, ∀ i, (s.core core).inst? t.iid = some i → i.tag.colour ≠ x.id)
    (hh : ∀ t ∈ (s.core core).held, ∀ i, (s.core core).inst? t.firing.iid = some i → i.tag.colour ≠ x.id) :
    execColourRelease core x.id s = .next (s.setCore core { s.core core with
      colours := (s.core core).colours.filter fun c => c.id != x.id,
      instances := (s.core core).instances.filter fun i => i.tag.colour != x.id }) := by
  have hadmitted : ((s.core core).instances.any fun i => i.tag.colour == x.id && i.status != .pending) = false := by
    simpa using hp
  have htokens : ((s.core core).inflight.any fun t => (s.core core).ofColour x.id t.iid) = false :=
    List.any_eq_false.mpr fun t hm => Bool.eq_false_iff.mp (Core.ofColour_false _ _ _ (ht t hm))
  have hrequests : ((s.core core).held.any fun h => (s.core core).ofColour x.id h.firing.iid) = false :=
    List.any_eq_false.mpr fun t hm => Bool.eq_false_iff.mp (Core.ofColour_false _ _ _ (hh t hm))
  simp [execColourRelease_eq, Core.marked, hx, hs, hadmitted, htokens, hrequests]

theorem find?_colour_removed (l : List Colour) (a : Nat) :
    (l.filter fun c => c.id != a).find? (fun c => c.id == a) = none := by
  simp [List.find?_filter]

theorem find?_colour_other (l : List Colour) (a y : Nat) (h : y ≠ a) :
    (l.filter fun c => c.id != a).find? (fun c => c.id == y) = l.find? fun c => c.id == y := by
  rw [List.find?_filter]
  congr 1
  funext c
  by_cases hc : c.id = y <;> simp [hc, h]

/-- What the arbitration picks goes before every other contender (R73). -/
theorem Core.arbBefore_of_chosen (k : Core) (i : Instance) (h : k.chosen = some i) :
    ∀ j ∈ k.contenders, j.iid ≠ i.iid → k.arbBefore i j = true := by
  have hall := List.find?_some h
  intro j hj hne
  exact (Bool.or_eq_true _ _ ▸ List.all_eq_true.mp hall j hj).resolve_left (by simpa using hne)

section

variable (s : State) (core cycles : Nat) (i : Instance) (k : Core)

theorem execBlockAdmission_maps (hk : k = (s.core core).waits cycles) (hg : k.gated = false) (hf : k.frozen = false)
    (ha : k.noAdmit = false) (hc : k.chosen = some i) (hm : k.mapping? i.block = none) :
    execBlockAdmission core cycles s = .next (s.setCore core { k with mapping := some i.iid }) := by
  subst hk
  simp [execBlockAdmission, hg, hf, ha, hc, hm]

theorem execBlockAdmission_admits (m : Mapping) (f : FrameRef) (hk : k = (s.core core).waits cycles) (hg : k.gated = false)
    (hf : k.frozen = false) (ha : k.noAdmit = false) (hc : k.chosen = some i) (hm : k.mapping? i.block = some m)
    (hh : k.isHandler i = true → m.reent = true ∧ m.narg = 1) (hr : k.frameFor i = some f) :
    execBlockAdmission core cycles s = .next (s.setCore core (k.admitInst i m f)) := by
  subst hk
  have hhandler : (((s.core core).waits cycles).isHandler i && (!m.reent || m.narg != 1)) = false := by
    simpa [Bool.and_eq_false_imp] using hh
  simp [execBlockAdmission, hg, hf, ha, hc, hm, hhandler, hr]

end

theorem execBlockMapping_places (s : State) (core : Nat) (i : Instance) (m : Mapping) (cls : List ((Nat × Bool) × Nat))
    (k : Core) (p : Nat × Nat × Nat) (rt : List (Nat × Nat × Nat × Nat))
    (hi : (s.core core).mapping.bind (s.core core).inst? = some i) (hb : s.readBlockAt core i.block = .ok (m, cls))
    (hs : m.selfRace cls = none) (he : (s.core core).healthy m.size = true)
    (hh : (s.core core).isHandler i = true → m.reent = true ∧ m.narg = 1)
    (hr : Core.makeRoom ((s.core core).mappings.length + 1) (s.core core) m.size m.nslot = (k, some p))
    (ht : (s.core core).routesFor { m with x0 := p.2.1, y0 := p.2.2 } = .ok rt) :
    execBlockMapping core s = .next (s.setCore core (k.addMapping { m with routes := rt } p)) := by
  have hhandler : ((s.core core).isHandler i && (!m.reent || m.narg != 1)) = false := by
    simpa [Bool.and_eq_false_imp] using hh
  simp [execBlockMapping, hi, hb, hs, he, hhandler, hr, ht]

/-! ### Tokens, commits and steps (R76, R94, R101) -/

theorem execTokenArrival_delivers (s : State) (core n : Nat) (t : Token) (i : Instance) (m : Mapping)
    (ht : (s.core core).inflight[n]? = some t) (hi : (s.core core).inst? t.iid = some i)
    (hm : (s.core core).mapping? i.block = some m) (hf : (s.core core).frozen = false)
    (ha : (s.core core).mayArrive n t i m = true) (hb : t.bad m = false) :
    execTokenArrival core n s = .next (s.deliver core n t i m) := by
  simp [execTokenArrival, ht, hi, hm, hf, ha, hb]

theorem execInstanceCommit_first (s t : State) (core : Nat) (i : Instance) (rest : List Instance)
    (hf : (s.core core).frozen = false) (hc : (s.core core).committers = i :: rest) (ht : s.tryCommit core i = .ok t) :
    execInstanceCommit core s = .next t := by
  simp [execInstanceCommit, hf, hc, ht]

theorem Core.inst?_retireInst (k : Core) (i : Instance) : (k.retireInst i).inst? i.iid = none := by
  simp [Core.inst?, Core.retireInst, List.find?_filter]

/-- An instance that has committed is gone. -/
theorem State.tryCommit_gone (s t : State) (core : Nat) (i : Instance) (h : s.tryCommit core i = .ok t) :
    (t.core core).inst? i.iid = none := by
  unfold State.tryCommit at h
  split at h
  · cases h
  · cases h
    rw [State.core_modCore_same]
    exact Core.inst?_retireInst _ i

theorem execArbourArrival_arrives (s : State) (core n : Nat) (hd : Held) (l : Launch) (i : Instance)
    (hn : (s.core core).nextPhase = some (n, hd)) (hl : s.coreLaunch core = some l)
    (hi : (s.core core).inst? hd.firing.iid = some i) (he : (s.core core).hasEarlier i = false)
    (ha : s.accessesDone core = true) (hs : s.stepsOn l = true) (hr : s.hasArrived core = false)
    (hend : has l.ended (s.coreRank core) = false) : execArbourArrival core s =
      .next (((s.modCore core fun k => { k with held := setAt k.held n { hd with wait := .arbour l.steps } }).modLaunch
        l.lid fun l => { l with arrived := addMem l.arrived (s.coreRank core) }).closeArbour l.lid) := by
  simp [execArbourArrival, hn, hl, hi, he, ha, hs, hr, hend]

/-- Settles O49: each step by the lemma of its case; a released colour and a committed instance are filtered out. -/
theorem coreStepsComplete : Obligations.CoreStepsComplete := by
  unfold Obligations.CoreStepsComplete
  refine ⟨?spawn, ?release, ?admission, execBlockMapping_places, execTokenArrival_delivers, ?commit,
    execArbourArrival_arrives⟩
  case spawn =>
    intro h ds s o w c hf he hw hok hre hn hfit ha hh hi hc
    have ⟨_, hop, _⟩ := hf
    have hasks := execSpawn_asks h ds s o w hf he hw hok hre hn hfit
    obtain ⟨u, hgrant, hcolours, hnamed⟩ := spawn_then_grant h ds s _ o c _ hop ha hh hi hc rfl
    exact ⟨_, u, hasks, hgrant, hcolours, hnamed⟩
  case release =>
    intro s core x hx hs hp ht hh
    refine ⟨_, execColourRelease_ends s core x hx hs hp ht hh, ?_⟩
    rw [State.core_setCore_same]
    exact ⟨find?_colour_removed _ _, fun y hy => find?_colour_other _ _ y hy⟩
  case admission =>
    intro s core cycles i k hk hg hf ha hc
    exact ⟨k.arbBefore_of_chosen i hc, execBlockAdmission_maps s core cycles i k hk hg hf ha hc, fun m f hm hh hr =>
      execBlockAdmission_admits s core cycles i k m f hk hg hf ha hc hm hh hr⟩
  case commit =>
    intro s t core i rest hf hc ht
    exact ⟨execInstanceCommit_first s t core i rest hf hc ht, s.tryCommit_gone t core i ht⟩

/-! ### Timeouts and stalls (R77, R99, R120, R128, R190) -/

section

variable (s : State) (core k : Nat) (hd : Held) (l : Launch)

/-- The timeout of an open step reaches every core that has arrived (R77). -/
theorem execBarrierTimeout_arbour (n : Nat) (hh : (s.core core).held[k]? = some hd) (hl : s.coreLaunch core = some l)
    (ha : (s.core core).regs.arbto ≠ 0) (hp : l.preempting = false) (hw : hd.wait = .arbour n) :
    execBarrierTimeout core k s = .next (s.stepTimeout l n) := by
  simp [execBarrierTimeout, hh, hl, ha, hp, hw]

theorem execBarrierTimeout_worldClose (id n : Nat) (hh : (s.core core).held[k]? = some hd)
    (hl : s.coreLaunch core = some l) (ha : (s.core core).regs.arbto ≠ 0) (hp : l.preempting = false)
    (hw : hd.wait = .worldClose id n) : execBarrierTimeout core k s = .next (s.waitTrap core hd 0x0C 0 n
      (((s.store? (s.corePart core) id).map fun t => t.arrived.length).getD 0)) := by
  simp only [execBarrierTimeout, hh, hl, ha, hp, hw, Bool.false_eq_true, or_self, if_false]
  cases s.store? (s.corePart core) id <;> rfl

theorem execBarrierTimeout_collective (gid : Nat) (hh : (s.core core).held[k]? = some hd)
    (hl : s.coreLaunch core = some l) (ha : (s.core core).regs.arbto ≠ 0) (hp : l.preempting = false)
    (hw : hd.wait = .collective gid) (hc : s.collAbsent core gid hd.firing = false) : execBarrierTimeout core k s =
      .next (s.waitTrap core hd 0x0C 0 (s.collCount core gid hd.firing).1 (s.collCount core gid hd.firing).2) := by
  simp [execBarrierTimeout, hh, hl, ha, hp, hw, hc]

end

theorem execFrameExhaustion_traps (s : State) (core : Nat) (hs : (s.core core).regs.stallwd ≠ 0)
    (hi : (s.core core).instances ≠ []) (hn : (s.core core).nothingIssues = true) (hw : s.withholding core = false) :
    execFrameExhaustion core s =
      .next (s.raise core (Trap.untied 0x0A 0 (s.core core).freeFrames.length 0 .untied)) := by
  simp [execFrameExhaustion, hs, hi, hn, hw]

theorem execQueueStall_request (s : State) (core n a d : Nat) (hd : Held) (hs : (s.core core).regs.stallwd ≠ 0)
    (hw : s.withholding core = false) (hh : (s.core core).held[n]? = some hd)
    (hi : (s.core core).stallInfo hd = some (a, d)) :
    execQueueStall core (.request n) s = .next (s.waitTrap core hd 0x0B a d 0) := by
  simp [execQueueStall, hs, hw, hh, hi]

theorem execQueueStall_commit (s : State) (core q slot k : Nat) (l : Lane) (i : Instance)
    (hs : (s.core core).regs.stallwd ≠ 0) (hw : s.withholding core = false) (hi : (s.core core).inst? i.iid = some i)
    (hstall : i.stalled = true) (hadm : i.status = .admitted) (he : i.effects = [(k, .pushQueue slot q l)]) :
    execQueueStall core (.commit i.iid) s =
      .next (s.raise core { Trap.ofInst (s.core core) i 0x0B q q 0 .op with slot := slot }) := by
  simp [execQueueStall, hs, hw, hi, hstall, hadm, he]

/-! ### Errors in configuration storage (R108, R109) -/

/-- A mapping changed by what keeps its block. -/
theorem Core.mapping?_modMapping_same (k : Core) (m : Mapping) (f : Mapping → Mapping)
    (h : k.mapping? m.block = some m) (hf : (f m).block = m.block) :
    (k.modMapping m.block f).mapping? m.block = some (f m) :=
  find?_modFirst _ f k.mappings m h (beq_iff_eq.mpr hf)

section

variable (s : State) (core elem : Nat) (m : Mapping) (unread : List (Nat × Nat))
  (hm : (s.core core).mapping? m.block = some m) (he : m.holdsElem elem = true)

include hm he

theorem execConfigEccError_corrected : execConfigEccError core m.block elem true unread s =
    .next (s.setCore core { s.core core with
      regs := { (s.core core).regs with cfgce := satAdd (s.core core).regs.cfgce 1 0xFF } }) := by
  simp [execConfigEccError, hm, he]

theorem execConfigEccError_first (hs : (s.core core).struck elem = false) :
    execConfigEccError core m.block elem false unread s = .next (s.freezeMapping core m.block elem unread) := by
  simp [execConfigEccError, hm, he, hs]

theorem execConfigEccError_again (hs : (s.core core).struck elem = true) :
    execConfigEccError core m.block elem false unread s = .next (s.setCore core ((s.core core).retireElem elem)) := by
  simp [execConfigEccError, hm, he, hs]

end

theorem State.freezeMapping_freezes (s : State) (core elem : Nat) (m : Mapping) (unread : List (Nat × Nat))
    (hm : (s.core core).mapping? m.block = some m) :
    ((s.freezeMapping core m.block elem unread).core core).mapping? m.block =
      some { m with frozen := true, eccElems := addMem m.eccElems elem } := by
  rw [State.freezeMapping, State.core_modCore_same]
  exact (s.core core).mapping?_modMapping_same m (fun m => { m with frozen := true, eccElems := addMem m.eccElems elem }) hm
    rfl

/-- No mapping on a retired element keeps its place on the fabric. -/
theorem Core.retireElem_off (k : Core) (elem : Nat) :
    ∀ x ∈ (k.retireElem elem).mappings, x.holdsElem elem = true → x.off = true := by
  intro x hx he
  obtain ⟨m, -, rfl⟩ := List.mem_map.mp hx
  by_cases hm : m.holdsElem elem = true
  · rw [if_pos hm]
  · rw [if_neg hm] at he
    exact absurd he hm

/-- The registers of a core after a block has been fetched again: a reload after an error is counted (R108). -/
def Core.reloadRegs (k : Core) (m : Mapping) : CoreRegs :=
  if m.eccElems.isEmpty then k.regs else { k.regs with reload := satAdd k.regs.reload 1 0xFF }

/-- A frozen block whose bytes are as they were, on elements that are not retired, resumes where it lies. -/
theorem execConfigReload_resumes (s : State) (core : Nat) (m : Mapping) (bs : List Byte)
    (hm : (s.core core).mapping? m.block = some m) (hf : m.frozen = true) (hd : m.differs = false) (ho : m.off = false)
    (hb : s.fetchBytes core m.block m.byteLen = .ok bs) (hs : sm3First64 bs = m.sig)
    (hr : m.region.retired (s.core core).regs.elret = false) :
    execConfigReload core m.block s = .next (s.setCore core
      { (s.core core).modMapping m.block (fun x => { x with frozen := false, eccElems := [] }) with
        regs := (s.core core).reloadRegs m }) := by
  simp [execConfigReload, State.resumeMapping, Core.reloadRegs, hm, hf, hd, ho, hb, hs, hr]

/-- Settles O52: each trap by the equation of its step, and an error in configuration storage by what it leaves of the
mappings. -/
theorem stallStepsComplete : Obligations.StallStepsComplete := by
  unfold Obligations.StallStepsComplete
  refine ⟨?barrier, execFrameExhaustion_traps, execQueueStall_request, execQueueStall_commit, ?error, ?reload⟩
  case barrier =>
    intro s core k n hd l hh hl ha hp
    exact ⟨execBarrierTimeout_arbour s core k hd l n hh hl ha hp,
      fun id => execBarrierTimeout_worldClose s core k hd l id n hh hl ha hp,
      fun gid => execBarrierTimeout_collective s core k hd l gid hh hl ha hp⟩
  case error =>
    intro s core elem m unread hm he
    refine ⟨⟨_, execConfigEccError_corrected s core elem m unread hm he, ?_⟩, fun hs =>
      ⟨_, execConfigEccError_first s core elem m unread hm he hs, _, s.freezeMapping_freezes core elem m unread hm, rfl, rfl⟩,
      fun hs => ⟨_, execConfigEccError_again s core elem m unread hm he hs, ?_⟩⟩
    · rw [State.core_setCore_same]; exact ⟨rfl, rfl⟩
    · rw [State.core_setCore_same]; exact ⟨rfl, (s.core core).retireElem_off elem⟩
  case reload =>
    intro s core m bs hm hf hd ho hb hs hr
    refine ⟨_, execConfigReload_resumes s core m bs hm hf hd ho hb hs hr, ?_⟩
    rw [State.core_setCore_same]
    refine ⟨(s.core core).mapping?_modMapping_same m _ hm rfl, fun hne => ?_⟩
    simp [Core.reloadRegs, hne]

end Sys2Proof.Machine

/-! PROOFS. The family of a core's fabric (R69 to R109 and R254 to R303): how operations end, the tags and tokens of their
results, the register forms and the traps of the sequencer, stores, the frames of the element forms and of loads and
stores, and what a commit does. -/

namespace Sys2Proof.Machine

open Sys2Proof Sys2Proof.Claims

/-! ### A matched set that fires (R85, R100) -/

theorem runOp_fires {s : State} {o : OpIn} (hf : Fires s o) (g : OpIn → State) : runOp s g = .next (done (g o)) :=
  have ⟨hfire, hop, hover⟩ := hf
  runOp_next s o g hfire hop hover

theorem carderOp_fires {s : State} {o : OpIn} {acc : Bool} (hf : Fires s o) (hp : PortFree s o acc) (g : OpIn → State) :
    carderOp s acc g = .next (done (g o)) :=
  have ⟨hfire, hop, hover⟩ := hf
  carderOp_go s acc o g hfire hop hover hp.1 hp.2

theorem elem3_isOp (h : OpWord) (f : Word → Word → Word → Word) (s : State) : ∃ g, elem3 h f s = runOp s g := by
  unfold elem3
  split
  · exact ⟨_, rfl⟩
  · exact ⟨_, rfl⟩

/-- Every form with an operation word runs on the matched set being executed; what has none is a step of the device. -/
theorem exec_isOp (i : Instr) (s : State) (h : i.opWord? ≠ none) : ∃ g, exec i s = runOp s g := by
  cases i with
  | mad => exact elem3_isOp _ _ s
  | fma => exact elem3_isOp _ _ s
  | fmaRounding => exact elem3_isOp _ _ s
  | cas =>
    simp only [exec, execCas]
    split
    · exact ⟨_, rfl⟩
    · exact ⟨_, rfl⟩
  | _ => first | exact absurd rfl h | exact ⟨_, rfl⟩

/-! ### Tag arithmetic (R92) -/

theorem fieldTop_add_one (w : Nat) : fieldTop w + 1 = 2 ^ w := Nat.sub_add_cancel Nat.one_le_two_pow

theorem le_fieldTop_iff (a w : Nat) : a ≤ fieldTop w ↔ a < 2 ^ w := by rw [← fieldTop_add_one, Nat.lt_succ_iff]

theorem Tag.depth_append (colour : Nat) (outer : List Nat) (x : Nat) :
    ({ colour := colour, fields := outer ++ [x] } : Tag).depth = outer.length + 1 := by simp [Tag.depth]

theorem Tag.setInner_append (colour : Nat) (outer : List Nat) (x y : Nat) :
    ({ colour := colour, fields := outer ++ [x] } : Tag).setInner y = { colour := colour, fields := outer ++ [y] } := by
  simp [Tag.setInner]

section

variable (shape : List Nat) (colour : Nat) (outer : List Nat) (x base n w : Nat) (hw : shape.getD outer.length 1 = w)

include hw

theorem tagStep_keep : tagStep shape 0 { colour := colour, fields := outer ++ [x] } base n =
    if base + n ≤ 2 ^ w then some ({ colour := colour, fields := outer ++ [x] }, base) else none := by
  subst hw
  simp [tagStep, Tag.depth_append, fieldTop_add_one]

theorem tagStep_next (hn : 1 ≤ n) : tagStep shape 1 { colour := colour, fields := outer ++ [x] } base n =
    if base + n < 2 ^ w then some ({ colour := colour, fields := outer ++ [base + 1] }, base + 1) else none := by
  subst hw
  have hlast : base + 1 + n - 1 = base + n := by omega
  simp [tagStep, Tag.depth_append, Tag.setInner_append, hlast, le_fieldTop_iff]

theorem tagStep_first : tagStep shape 2 { colour := colour, fields := outer ++ [x] } base n =
    if n ≤ 2 ^ w then some ({ colour := colour, fields := outer ++ [0] }, 0) else none := by
  subst hw
  simp [tagStep, Tag.depth_append, Tag.setInner_append, fieldTop_add_one]

/-- The innermost field removed, the field around it goes up by one. -/
theorem tagStep_leave (y : Nat) (hn : 1 ≤ n) :
    tagStep shape 3 { colour := colour, fields := outer ++ [y, x] } base n =
      if y + n < 2 ^ w then some ({ colour := colour, fields := outer ++ [y + 1] }, y + 1) else none := by
  subst hw
  have hdepth : ({ colour := colour, fields := outer ++ [y, x] } : Tag).depth ≠ 0 := by simp [Tag.depth]
  have hrest : (outer ++ [y, x]).dropLast = outer ++ [y] := by simp
  have hinner : ({ colour := colour, fields := outer ++ [y] } : Tag).inner = y := by simp [Tag.inner]
  have hlast : y + 1 + n - 1 = y + n := by omega
  simp [tagStep, hdepth, hrest, hinner, Tag.depth_append, Tag.setInner_append, hlast, le_fieldTop_iff]

end

/-! ### Element forms (R272, R273) -/

theorem exec_binary {i : Instr} {h : OpWord} {g : Word → Word → Word} (hi : binary i = some (h, g)) (s : State) :
    exec i s = elem2 h g s := by
  unfold binary at hi
  split at hi <;> cases hi <;> rfl

/-- Settles O9: R92's table by the lemma of each TG, and the trap of a result whose tag overflows by `finish_traps`. -/
theorem tagArithmetic : Obligations.TagArithmetic := by
  unfold Obligations.TagArithmetic
  refine ⟨fun shape colour outer x base n w hn hw => ?_, fun i h g s o hi hf hbad => ?_⟩
  · exact ⟨tagStep_keep shape colour outer x base n w hw, tagStep_next shape colour outer x base n w hw hn,
      tagStep_first shape colour outer x base n w hw, rfl, rfl, rfl, rfl,
      fun y v hv => tagStep_leave shape colour outer x base n v hv y hn⟩
  · rw [exec_binary hi, elem2, sendData, runOp_fires hf]
    exact congrArg (fun t => Host.Outcome.next (done t)) (s.finish_traps o h true _ _ hbad)

/-! ### Register forms (R102, R103, R263, R264) -/

section

variable {s : State} {o : OpIn} (hf : Fires s o) (h : OpWord)

include hf

theorem execRead_register {reg : BitVec 5} {c : Colour} (hc : HasColour s o c)
    (hb : (s.core o.c).regBusy o.i reg.toNat = false) (hp : o.i.portmode = false ∨ reg.toNat < 24) :
    execRead h reg s = .next (done (s.finish o h true { first := o.f.first, lanes := [c.regs.getD reg.toNat zeroLane] }
      { first := o.f.first, lanes := [c.regs.getD reg.toNat zeroLane] })) := by
  have hq : o.i.queuePort reg.toNat = none := by
    rw [Instance.queuePort, if_neg]
    simpa [imp_iff_not_or] using hp
  have hcol : s.colourOf o = c := congrArg (Option.getD · _) hc
  rw [execRead, runOp_fires hf]
  simp only [hb, hq, hcol]
  rfl

theorem execRead_queue {reg : BitVec 5}
    (hb : (s.core o.c).regBusy o.i reg.toNat = false) (hp : o.i.portmode = true) (hr : 24 ≤ reg.toNat) :
    execRead h reg s = .next (done (s.popQueue o h (reg.toNat - 24))) := by
  have hq : o.i.queuePort reg.toNat = some (reg.toNat - 24) := by simp [Instance.queuePort, hp, hr]
  rw [execRead, runOp_fires hf]
  simp only [hb, hq]
  rfl

end

theorem Core.queue_modQueue_same (k : Core) (q : Nat) (f : Queue → Queue) : (k.modQueue q f).queue q = f (k.queue q) := by
  simp [Core.queue, Core.modQueue]

theorem State.unspill_nothing (s : State) (c q : Nat) (h : ((s.core c).queue q).spillCount = 0) :
    s.unspill c q = (s, none) := by simp [State.unspill, h]

/-- The head of a queue that spills nothing, an entry that neither another agent nor a node has pushed. -/
theorem State.popQueue_head (s : State) (o : OpIn) (h : OpWord) (q : Nat) (e : QEntry) (rest : List QEntry)
    (hb : s.queueBehind o q = false) (he : ((s.core o.c).queue q).entries = e :: rest)
    (hs : ((s.core o.c).queue q).spillCount = 0) (hrel : e.rel = none) (hsrc : e.src = none)
    (hfit : Fits s o h { first := o.f.first, lanes := e.lanes }) :
    s.popQueue o h q = (s.modCore o.c fun k => k.modQueue q fun x => { x with entries := rest }).finish o h true
      { first := o.f.first, lanes := e.lanes } { first := o.f.first, lanes := e.lanes } := by
  have hrun : s.tagBad o h.tg.toNat (o.f.run e.lanes) = false := hfit
  have hstill : (((s.modCore o.c fun k => k.modQueue q fun x => { x with entries := rest }).core o.c).queue q).spillCount = 0 := by
    rw [State.core_modCore_same, Core.queue_modQueue_same]; exact hs
  simp only [State.popQueue, hb, he, List.isEmpty_cons, Bool.false_eq_true, if_false, hrun, hrel, hsrc, Core.taken,
    State.unspill_nothing _ _ _ hstill]
  rfl

/-- The lanes of a register's value: its words, the low one first. -/
theorem srRun_eq (n v : Nat) : srRun n v = (List.range (srLanes n)).map fun j =>
    { val := BitVec.ofNat 32 (v / 2 ^ (32 * j)), poison := false } := by
  have hword : ∀ x : Nat, BitVec.ofNat 32 (x % 2 ^ 32) = BitVec.ofNat 32 x := fun x => BitVec.eq_of_toNat_eq (by simp)
  exact List.map_congr_left fun j _ => congrArg (Lane.mk · false) (hword _)

section

variable {s : State} {o : OpIn} (hf : Fires s o) (h : OpWord)

include hf

theorem execWrite_notes {reg : BitVec 5} (hn : o.f.n = 1) (hw : o.m.wmask / 2 ^ reg.toNat % 2 = 1)
    (ho : o.overCount = false) : execWrite h reg s = .next (done ((s.atCommit o
      (if o.i.portmode = true ∧ 24 ≤ reg.toNat then .pushQueue o.f.slot (reg.toNat - 24) (left0 o)
       else .writeReg reg.toNat (left0 o))).finishN o h)) := by
  have hbit : bit o.m.wmask reg.toNat = true := beq_iff_eq.mpr hw
  rw [execWrite, runOp_fires hf]
  by_cases hq : o.i.portmode = true ∧ 24 ≤ reg.toNat
  · have hport : o.i.queuePort reg.toNat = some (reg.toNat - 24) := by simp [Instance.queuePort, hq.1, hq.2]
    simp [hn, hbit, ho, hport, hq, left0, lane0, zeroLane]
  · have hport : o.i.queuePort reg.toNat = none := by simpa [Instance.queuePort] using hq
    simp [hn, hbit, ho, hport, hq, left0, lane0, zeroLane]

theorem execMfsr_sends {num : BitVec 16} (he : s.earlier o = false) : execMfsr h num s = .next (done (s.finish o h true
    (o.f.run (srRun num.toNat ((s.core o.c).readSr s.scopes o.i.tag.colour o.i.tag.depth num.toNat)))
    (o.f.run (srRun num.toNat ((s.core o.c).readSr s.scopes o.i.tag.colour o.i.tag.depth num.toNat))))) := by
  rw [execMfsr, runOp_fires hf]
  simp only [he]
  rfl

theorem execMtsr_notes {num : BitVec 16} (hn : o.f.n = srLanes num.toNat) (hp : Clean o.f.left)
    (hc : o.i.tag.colour = 0 ∨ srColour0 num.toNat = false) (ho : o.overCount = false) :
    execMtsr h num s = .next (done ((s.atCommit o (.mtsr o.f.slot num.toNat
      ((left0 o).val.toNat + 2 ^ 32 * (o.f.left.getD 1 zeroLane).val.toNat))).finishN o h)) := by
  have hcol : (decide (o.colour ≠ 0) && srColour0 num.toNat) = false := by
    obtain hc | hc := hc <;> simp [OpIn.colour, hc]
  rw [execMtsr, runOp_fires hf]
  simp only [hn, ne_eq, not_true_eq_false, if_false, anyPoison_false _ hp, hcol, ho, Bool.false_eq_true,
    Nat.mul_comm (2 ^ 32)]
  rfl

end

/-- Settles O14: each form by its equation, a READ of a queue by `popQueue_head`. -/
theorem registerFormsComplete : Obligations.RegisterFormsComplete := by
  unfold Obligations.RegisterFormsComplete
  refine ⟨fun h reg s o c hf hc hb hp _ => execRead_register hf h hc hb hp, ?queue,
    fun h reg s o hf hn hw ho => execWrite_notes hf h hn hw ho, ?mfsr,
    fun h num s o hf hn hp hc ho => execMtsr_notes hf h hn hp hc ho⟩
  case queue =>
    intro h reg s o e rest hf hb hp hr hbehind he hs hrel hsrc hfit
    exact (execRead_queue hf h hb hp hr).trans
      (congrArg (fun t => Host.Outcome.next (done t)) (s.popQueue_head o h _ e rest hbehind he hs hrel hsrc hfit))
  case mfsr =>
    intro h num s o v r hf he hv hr _
    subst hv hr
    rw [← srRun_eq]
    exact execMfsr_sends hf (num := num) h he

/-! ### Traps of the sequencer's forms (R100, R261, R264, R270, R271) -/

section

variable {s : State} {o : OpIn} (hf : Fires s o) (h : OpWord)

include hf

theorem execMtsr_protected {num : BitVec 16} (hn : o.f.n = srLanes num.toNat) (hp : Clean o.f.left)
    (hc : o.i.tag.colour ≠ 0) (hr : srColour0 num.toNat = true) :
    execMtsr h num s = .next (trapped s o 7 num.toNat 0x13 0 o.f.first) := by
  have hcol : (decide (o.colour ≠ 0) && srColour0 num.toNat) = true := by simp [OpIn.colour, hc, hr]
  rw [execMtsr, runOp_fires hf]
  simp only [hn, ne_eq, not_true_eq_false, if_false, anyPoison_false _ hp, hcol, Bool.false_eq_true, if_true]
  rfl

theorem execEret_protected (hc : o.colour ≠ 0) :
    execEret h s = .next (trapped s o 7 (left0 o).val.toNat 0x13 0 o.f.first) := by
  rw [execEret, runOp_fires hf, if_pos hc]; rfl

theorem execEndl_illegal (hc : o.colour ≠ 1) : execEndl h s = .next (trapped s o 2 o.colour 271 0 o.f.first) := by
  rw [execEndl, runOp_fires hf, if_pos hc]; rfl

theorem execSret_illegal (hc : o.colour < 2) : execSret h s = .next (trapped s o 2 o.colour 261 0 o.f.first) := by
  rw [execSret, runOp_fires hf, if_pos hc]; rfl

end

/-- A second branch of an instance is illegal; in a block with VEC a further set of the slot that branched only retires. -/
theorem State.asBranch_second (s : State) (o : OpIn) (h : OpWord) (next : Option Nat) (act : State → State) (slot : Nat)
    (t : Tag) (hb : o.i.branch = some (slot, t)) : s.asBranch o h next act =
      if slot = o.f.slot ∧ o.m.vec = true then s.finishN o h else s.illegal o o.value 100 := by
  simp [State.asBranch, hb]

/-- Settles O15: each form's trap by its equation, a second branch by `asBranch_second`, and a set that would pass NOUT by
`runOp_over`, since every form with an operation word is run by `runOp`. -/
theorem privilegedFormsTrap : Obligations.PrivilegedFormsTrap := by
  unfold Obligations.PrivilegedFormsTrap
  refine ⟨fun h num s o hf hn hp hc hr => execMtsr_protected hf h hn hp hc hr, fun h s o hf hc => execEret_protected hf h hc,
    fun h s o hf hc => execEndl_illegal hf h hc, fun h s o hf hc => execSret_illegal hf h hc, ?branch, ?passesNout⟩
  case branch =>
    intro h d s o slot t hf har hb
    rw [exec, execBra, runOp_fires hf, if_pos har, s.asBranch_second o h _ _ slot t hb]
    split
    · rfl
    · rfl
  case passesNout =>
    intro i s o hi hfire hop hover
    obtain ⟨g, hg⟩ := exec_isOp i s hi
    exact hg.trans (runOp_over s o g hfire hop hover)

/-! ### Stores (R300 to R303, R307) -/

/-- What a lane-wise form gives comes from a lane of each operand. -/
theorem exists_of_mem_zipWith {α β γ : Type} (f : α → β → γ) (l : List α) (r : List β) (x : γ) (h : x ∈ List.zipWith f l r) :
    ∃ a ∈ l, ∃ b ∈ r, f a b = x := by
  rw [← List.map_uncurry_zip_eq_zipWith] at h
  obtain ⟨⟨a, b⟩, hm, rfl⟩ := List.mem_map.mp h
  exact ⟨a, (List.of_mem_zip hm).1, b, (List.of_mem_zip hm).2, rfl⟩

/-- A store form whose accesses are allowed notes its bytes for the commit and sends its completion token (R302). -/
theorem State.storeForm_completes (s : State) (o : OpIn) (h : OpWord) (n : Nat) (addrs : List Nat)
    (l : List (Nat × List (Target × Nat))) (ho : o.overCount = false) (hp : Clean o.f.left) (ha : ∀ a ∈ addrs, a % n = 0)
    (hl : s.storeLanes o n o.f.first addrs = .ok l) (hd : Clean o.f.right ∨ ∀ p ∈ l, ∀ t ∈ p.2, t.1.t3 = false)
    (hfit : TokenFits s o h) : s.storeForm o h n addrs =
      ((s.noteStores o l).atCommit o (.store o.f.slot (Claims.storePieces n o.f.right l))).finishM o h 0 := by
  have hclean : Clean (List.zipWith (fun (d : Lane) (p : Nat × List (Target × Nat)) =>
      { d with poison := d.poison && p.2.any fun t => t.1.t3 }) o.f.right l) := by
    intro x hx
    obtain ⟨d, hd', p, hp', rfl⟩ := exists_of_mem_zipWith _ _ _ x hx
    obtain hclean | hhere := hd
    · simp [hclean d hd']
    · have hthere : (p.2.any fun t => t.1.t3) = false := by simpa using hhere p hp'
      simp [hthere]
  have halign : firstIdx (fun a => a % n != 0) addrs = none := firstIdx_none _ _ fun a hm => by simp [ha a hm]
  have htag : s.tagBadM o h = false := hfit
  simp only [State.storeForm, ho, Bool.false_eq_true, if_false, anyPoison_false _ hp, halign, hl, anyPoison_false _ hclean, htag]
  rfl

theorem mem_lanes_aligned (hi n : Nat) (l : List Lane) (hn : n ∣ 2 ^ 32) (h : ∀ x ∈ l, x.val.toNat % n = 0) :
    ∀ a ∈ l.map (fun x => addrOf hi x.val.toNat), a % n = 0 := by
  intro a ha
  obtain ⟨x, hx, rfl⟩ := List.mem_map.mp ha
  exact Nat.mod_eq_zero_of_dvd ((Dvd.dvd.mul_left hn hi).add (Nat.dvd_of_mod_eq_zero (h x hx)))

/-- STUL on whole and aligned addresses of its own scratchpad that may be written (R307). -/
theorem execStul_completes {s s1 : State} {o : OpIn} (hf : Fires s o) (h : OpWord) (l : List (Nat × List (Target × Nat)))
    (hport : PortFree s o true) (ho : o.overCount = false) (hp : Clean o.f.left)
    (ha : ∀ x ∈ o.f.left, x.val.toNat % 4 = 0 ∧ x.val.toNat < 0x200000)
    (hl : s.unlockLanes o o.f.first (o.f.left.map fun x => x.val.toNat) = .ok l) (hfit : TokenFits s o h)
    (hs : s1 = (l.flatMap fun p => p.2).foldl (fun s t => s.modCore o.c fun k => k.modInst o.f.iid fun i =>
      { i with accs := i.accs ++ [InstAcc.mk o.f.slot t.1.loc.line (s.accNow o.c o.i.tag.colour true true) none] }) s) :
    execStul h s = .next (completes ((o.f.left.map fun x => x.val.toNat).foldl (fun s a => s.atCommit o (.lockClear o.c a))
      (s1.atCommit o (.store o.f.slot (storePieces 4 o.f.right l)))) o h 0) := by
  subst hs
  have haddr : firstIdx lockAddrBad (o.f.left.map fun x => x.val.toNat) = none := by
    refine firstIdx_none _ _ fun a hm => ?_
    obtain ⟨x, hx, rfl⟩ := List.mem_map.mp hm
    have ⟨halign, hown⟩ := ha x hx
    simp [lockAddrBad, halign, hown]
  have htag : s.tagBadM o h = false := hfit
  rw [execStul, carderOp_fires hf hport]
  simp only [ho, Bool.false_eq_true, if_false, anyPoison_false _ hp, haddr, hl, htag]
  rfl

/-- Settles O20: ST and STV are one store form at the addresses that each forms; STUL by its own equation. -/
theorem storesComplete : Obligations.StoresComplete := by
  unfold Obligations.StoresComplete
  refine ⟨fun h ty s o l hf hport ho hp ha hl hd hfit => ?_, fun h high s o l hf hport ho hp ha hl hd hfit => ?_,
    fun h s s1 o l hf hport ho hp ha hl hfit hs => execStul_completes hf h l hport ho hp ha hl hfit hs⟩
  · have haddr : ∀ a ∈ o.f.left.map (fun x => x.val.toNat), a % stBytes ty = 0 := by simpa using ha
    exact (carderOp_fires hf hport _).trans (congrArg (fun t => Host.Outcome.next (done t))
      (s.storeForm_completes o h _ _ l ho hp haddr hl hd hfit))
  · exact (carderOp_fires hf hport _).trans (congrArg (fun t => Host.Outcome.next (done t))
      (s.storeForm_completes o h _ _ l ho hp (mem_lanes_aligned _ 4 _ (by decide) ha) hl hd hfit))

end Sys2Proof.Machine

namespace Sys2Proof.Machine

open Sys2Proof Sys2Proof.Claims

/-! ### Only the tokens, ports, issue queue and instances of one core (R92, R94) -/

/-- One core is another with other tokens, port data, matched sets and instances. -/
def Core.SameButFabric (k k' : Core) : Prop :=
  { k' with inflight := k.inflight, ports := k.ports, nodeData := k.nodeData, instances := k.instances,
            nextIid := k.nextIid, issueQ := k.issueQ } = k

theorem Core.SameButFabric.refl (k : Core) : k.SameButFabric k := rfl

theorem Core.SameButFabric.trans {a b c : Core} (h : a.SameButFabric b) (h' : b.SameButFabric c) : a.SameButFabric c := by
  unfold Core.SameButFabric at *; rw [← h, ← h']

theorem Core.SameButTokens.fabric {k k' : Core} (h : k.SameButTokens k') : k.SameButFabric k' := by
  unfold Core.SameButTokens at h
  unfold Core.SameButFabric
  rw [← h]

theorem Core.SameButFabric.eqs {k k' : Core} (h : k.SameButFabric k') :
    k'.traps = k.traps ∧ k'.held = k.held ∧ k'.colours = k.colours := by
  unfold Core.SameButFabric at h
  rw [← h]; exact ⟨rfl, rfl, rfl⟩

theorem onlyTokens_refl (c : Nat) (s : State) : OnlyTokens c s s := ⟨fun _ _ => rfl, rfl, rfl⟩

theorem onlyTokens_trans {c : Nat} {s t u : State} (h : OnlyTokens c s t) (h' : OnlyTokens c t u) : OnlyTokens c s u := by
  obtain ⟨hother, hstate, hcore⟩ := h
  obtain ⟨hother', hstate', hcore'⟩ := h'
  refine ⟨fun d hd => (hother' d hd).trans (hother d hd), ?_, Core.SameButFabric.trans hcore hcore'⟩
  rw [← hstate, ← hstate']

theorem onlyTokens_modCore (s : State) (c : Nat) (f : Core → Core) (h : (s.core c).SameButFabric (f (s.core c))) :
    OnlyTokens c s (s.modCore c f) := by
  refine ⟨fun d hd => s.core_modCore_other c d f hd, rfl, ?_⟩
  rw [s.core_modCore_same c f]; exact h

theorem onlyTokens_done {c : Nat} {s t : State} (h : OnlyTokens c s t) : OnlyTokens c s (done t) := h

theorem Core.modInst_fabric (k : Core) (iid : Nat) (f : Instance → Instance) : k.SameButFabric (k.modInst iid f) := rfl

theorem State.retireOp_onlyTokens (s : State) (o : OpIn) : OnlyTokens o.c s (s.retireOp o) :=
  onlyTokens_modCore s o.c _ (Core.modInst_fabric _ _ _)

/-! ### Lanes retired (R95) -/

theorem Core.inst?_modInst_same (k : Core) (iid : Nat) (f : Instance → Instance) (i : Instance) (h : k.inst? iid = some i)
    (hf : (f i).iid = i.iid) : (k.modInst iid f).inst? iid = some (f i) := by
  have hi : (i.iid == iid) = true := List.find?_some (p := fun x : Instance => x.iid == iid) h
  exact find?_modFirst _ f k.instances i h (hf ▸ hi)

/-- What a slot holds once it has been changed by what keeps its number. -/
theorem Instance.slotOps_modSlot_same (i : Instance) (slot : Nat) (f : SlotOps → SlotOps)
    (hf : ∀ o : SlotOps, (f o).slot = o.slot) : (i.modSlot slot f).slotOps slot = f (i.slotOps slot) := by
  cases hfind : i.ops.find? fun o => o.slot == slot with
  | none =>
    have hany : (i.ops.any fun o => o.slot == slot) = false := by simpa using hfind
    simp [Instance.modSlot, Instance.slotOps, hany, hfind, List.find?_append, hf, SlotOps.empty]
  | some x =>
    have hx : (x.slot == slot) = true := List.find?_some (p := fun o : SlotOps => o.slot == slot) hfind
    have hany : (i.ops.any fun o => o.slot == slot) = true :=
      List.any_eq_true.mpr ⟨x, List.mem_of_find?_eq_some hfind, hx⟩
    simp [Instance.modSlot, Instance.slotOps, hany, hfind, find?_modFirst _ f i.ops x hfind (hf x ▸ hx)]

theorem Instance.retire_ops (i : Instance) (m : Mapping) (slot : Nat) (idxs : List Nat) (fired : Bool) :
    (i.retire m slot idxs fired).ops = (i.modSlot slot fun o => { o with done := idxs.foldl addMem o.done }).ops := by
  unfold Instance.retire
  dsimp only
  split <;> rfl

theorem Instance.iid_modSlot (i : Instance) (slot : Nat) (f : SlotOps → SlotOps) : (i.modSlot slot f).iid = i.iid := by
  unfold Instance.modSlot; split <;> rfl

theorem Instance.iid_retire (i : Instance) (m : Mapping) (slot : Nat) (idxs : List Nat) (fired : Bool) :
    (i.retire m slot idxs fired).iid = i.iid := by
  unfold Instance.retire
  dsimp only
  split <;> exact i.iid_modSlot slot _

theorem has_iff (l : List Nat) (x : Nat) : has l x = true ↔ x ∈ l := by simp [has]

/-- The lanes of a slot that have retired: those before, and those that retire now. -/
theorem Instance.done_retire (i : Instance) (m : Mapping) (slot : Nat) (idxs : List Nat) (fired : Bool) (x : Nat) :
    has ((i.retire m slot idxs fired).slotOps slot).done x = true ↔ has (i.slotOps slot).done x = true ∨ x ∈ idxs := by
  have h : (i.retire m slot idxs fired).slotOps slot =
      { i.slotOps slot with done := idxs.foldl addMem (i.slotOps slot).done } := by
    rw [Instance.slotOps, Instance.retire_ops]
    exact i.slotOps_modSlot_same slot _ fun _ => rfl
  rw [h, has_iff, has_iff]
  exact mem_foldl_addMem idxs _ x

/-! ### Result tokens with TG 0 (R92, R93, R105) -/

/-- A run that passes lane 31 is cut there. -/
theorem splitRun_passes (colour : Nat) (outer : List Nat) (x first : Nat) (lanes : List Lane) (hx : x % 32 = 0)
    (hf : first < 32) (hl : 32 < first + lanes.length) :
    splitRun true { colour := colour, fields := outer ++ [x] } (x + first) lanes =
      [({ colour := colour, fields := outer ++ [x] }, { first := first, lanes := lanes.take (32 - first) }),
       ({ colour := colour, fields := outer ++ [x + 32] }, { first := 0, lanes := lanes.drop (32 - first) })] := by
  have hbase : (x + first) / 32 * 32 = x := by omega
  have hlane : (x + first) % 32 = first := by omega
  have hnext : (x + first + (32 - first)) / 32 * 32 = x + 32 := by omega
  have hroom : ¬ lanes.length ≤ 32 - first := by omega
  simp [splitRun, windowTag, hbase, hlane, hnext, hroom, Tag.setInner_append]

section

variable (o : OpIn) (r : Run)

theorem Core.foldl_sendRun_slots (ds : List (Nat × Nat)) (hd : ∀ d ∈ ds, d.1 < 120) (k : Core) :
    ds.foldl (fun k d => k.sendRun o o.i.iid d r none) k = { k with inflight := k.inflight ++ ds.map (tokenTo o r) } := by
  induction ds generalizing k with
  | nil => simp
  | cons d ds ih =>
    have hslot : d.1 < 120 := hd d List.mem_cons_self
    have hrun : k.sendRun o o.i.iid d r none = k.sendToken (tokenTo o r d) := by
      simp [Core.sendRun, show d.1 ≠ 121 by omega, show ¬ 120 ≤ d.1 by omega, tokenTo]
    rw [List.foldl_cons, hrun, ih fun d' h => hd d' (List.mem_cons_of_mem _ h)]
    simp [Core.sendToken]

/-- A result at the tag of its own instance, all of whose places are slots: one token to each place. -/
theorem Core.sendPiece_own (k : Core) (second : Bool) (hd : ∀ d ∈ o.m.dests o.f.slot second, d.1 < 120) :
    k.sendPiece o second (o.i.tag, r) none =
      { k with inflight := k.inflight ++ (o.m.dests o.f.slot second).map (tokenTo o r) } := by
  have hinst : k.instanceFor o o.i.tag = (k, o.i.iid) := by simp [Core.instanceFor]
  simp only [Core.sendPiece, hinst, ite_self]
  exact Core.foldl_sendRun_slots o r _ hd k

theorem Core.sendTo_plain (k : Core) (second : Bool) (hl : r.lanes ≠ [])
    (hw : o.m.vec = true → r.first + r.lanes.length ≤ 32) (hd : ∀ d ∈ o.m.dests o.f.slot second, d.1 < 120) :
    k.sendTo o 0 second r = { k with inflight := k.inflight ++ (o.m.dests o.f.slot second).map (tokenTo o r) } := by
  have hwin : (!o.m.vec || decide (r.first + r.lanes.length ≤ 32)) = true := by
    cases hv : o.m.vec with
    | false => rfl
    | true => simpa using hw hv
  rw [Core.sendTo, if_neg (by simpa using hl), if_pos (by simpa using hwin)]
  exact k.sendPiece_own o r second hd

end

/-- A core that has sent both result runs of an operation to the slots that its targets name. -/
def Core.sentBoth (k : Core) (o : OpIn) (r0 r1 : Run) : Core :=
  { k with inflight := k.inflight ++ (o.m.dests o.f.slot false).map (tokenTo o r0) ++
      (o.m.dests o.f.slot true).map (tokenTo o r1) }

theorem Core.sentBoth_fabric (k : Core) (o : OpIn) (r0 r1 : Run) : k.SameButFabric (k.sentBoth o r0 r1) := rfl

/-- Settles O8: a run is cut as `splitRun_passes` says; each target's tokens are those of `sendTo_plain`, and the lanes
retire by `done_retire`. -/
theorem resultTokens : Obligations.ResultTokens := by
  unfold Obligations.ResultTokens
  refine ⟨splitRun_passes, fun s o h data r0 r1 i hop htg hrep hl0 hl1 hi hfit0 hfit1 hwin hd => ?_⟩
  have hd0 : ∀ d ∈ o.m.dests o.f.slot false, d.1 < 120 := fun d hm => hd d (List.mem_append_left _ hm)
  have hd1 : ∀ d ∈ o.m.dests o.f.slot true, d.1 < 120 := fun d hm => hd d (List.mem_append_right _ hm)
  have hsent : s.finish o h data r0 r1 = (s.modCore o.c fun k => k.sentBoth o r0 r1).retireOp o := by
    rw [s.finish_sends o h data r0 r1 hfit0 hfit1 hrep]
    have htg0 : h.tg.toNat = 0 := by rw [htg]; rfl
    congr 2
    funext k
    rw [htg0, k.sendTo_plain o r0 false hl0 (fun hv => (hwin hv).1) hd0, Core.sendTo_plain o r1 _ true hl1 (fun hv => (hwin hv).2) hd1]
    rfl
  have hcore : (s.finish o h data r0 r1).core o.c =
      ((s.core o.c).sentBoth o r0 r1).modInst o.f.iid fun i => i.retire o.m o.f.slot o.f.idxs true := by
    rw [hsent, State.retireOp, State.core_modCore_same, State.core_modCore_same]
  refine ⟨?tokens, ?lanes, ?frame⟩
  case tokens => rw [hcore]; rfl
  case lanes =>
    rw [hcore]
    exact ⟨_, Core.inst?_modInst_same _ _ _ i hi (i.iid_retire _ _ _ _), fun x hx =>
      (i.done_retire o.m o.f.slot o.f.idxs true x).mpr hx.symm⟩
  case frame =>
    rw [hsent]
    exact onlyTokens_trans (onlyTokens_modCore s o.c _ (Core.sentBoth_fabric _ o r0 r1)) (State.retireOp_onlyTokens _ o)

/-! ### What an operation leaves of its core (R92, R186, R266) -/

theorem Core.sendTo_fabric (k : Core) (o : OpIn) (tg : Nat) (r0 r1 : Run) :
    k.SameButFabric ((k.sendTo o tg false r0).sendTo o tg true r1) :=
  ((k.sendTo_frame o tg false r0).trans (Core.sendTo_frame _ o tg true r1)).fabric

theorem Firing.nextRep_slot (f g : Firing) (h : f.nextRep = some g) : g.slot = f.slot := by
  unfold Firing.nextRep at h
  split at h
  · cases h
  · split at h
    · cases h
    · cases h; rfl

/-- A request that waits is one more among those that wait. -/
theorem State.length_held_hold (s : State) (o : OpIn) (u : HUnit) (w : Wait) :
    ((s.hold o u w).core o.c).held.length = (s.core o.c).held.length + 1 := by
  rw [State.hold, State.core_modCore_same]
  split
  · simp
  · simp only [List.length_append, List.length_cons, List.length_take, List.length_drop]; omega

/-- The next iteration of a form of no unit goes to its element's queue or to its parked instance; that of a form of a unit
may wait at the unit's port. -/
theorem State.fireAgain_frame (s : State) (o : OpIn) (f : Firing) : OnlyTokens o.c s (s.fireAgain o f) ∨
    (unitOf (fieldOf (o.m.word f.slot) 25 7) ≠ none ∧
      ((s.fireAgain o f).core o.c).held.length = (s.core o.c).held.length + 1) := by
  unfold State.fireAgain
  split
  · exact .inl (onlyTokens_modCore s o.c _ (Core.modInst_fabric _ _ _))
  · split
    next u hu => exact .inr ⟨by simp [hu], s.length_held_hold { o with f := f } u .flight⟩
    · exact .inl (onlyTokens_modCore s o.c _ rfl)

/-- The end of an operation whose results' tags fit changes tokens, ports, matched sets and instances of its core, unless
its next iteration waits at its unit's port. -/
theorem State.finish_frame (s : State) (o : OpIn) (h : OpWord) (data : Bool) (r0 r1 : Run)
    (h0 : s.tagBad o h.tg.toNat r0 = false) (h1 : s.tagBad o h.tg.toNat r1 = false) :
    OnlyTokens o.c s (s.finish o h data r0 r1) ∨ (unitOf (fieldOf (o.m.word o.f.slot) 25 7) ≠ none ∧
      ((s.finish o h data r0 r1).core o.c).held.length = (s.core o.c).held.length + 1) := by
  have hsend : OnlyTokens o.c s (s.modCore o.c fun k => (k.sendTo o h.tg.toNat false r0).sendTo o h.tg.toNat true r1) :=
    onlyTokens_modCore s o.c _ (Core.sendTo_fabric _ o _ r0 r1)
  cases hr : o.f.nextRep with
  | none =>
    rw [s.finish_sends o h data r0 r1 h0 h1 hr]
    exact .inl (onlyTokens_trans hsend (State.retireOp_onlyTokens _ o))
  | some f =>
    let sent := if data then s.modCore o.c fun k => (k.sendTo o h.tg.toNat false r0).sendTo o h.tg.toNat true r1 else s
    have hsent : OnlyTokens o.c s sent := by
      cases data with
      | true => exact hsend
      | false => exact onlyTokens_refl o.c s
    have hfin : s.finish o h data r0 r1 = sent.fireAgain o f := by simp [State.finish, h0, h1, hr, sent]
    rw [hfin, ← o.f.nextRep_slot f hr, ← (Core.SameButFabric.eqs hsent.2.2).2.1]
    exact (sent.fireAgain_frame o f).imp_left (onlyTokens_trans hsent)

/-- A result of either run whose tag overflows traps, and nothing is sent (R92). -/
theorem State.finish_overflows (s : State) (o : OpIn) (h : OpWord) (data : Bool) (r0 r1 : Run)
    (hb : (s.tagBad o h.tg.toNat r0 || s.tagBad o h.tg.toNat r1) = true) :
    s.finish o h data r0 r1 = s.tagTrap o h.tg.toNat := by simp only [State.finish, hb, if_true]

/-- An instance of a core whose next trap waits for its delivery: it is not parked and not the handler's, and the ring is
not full. -/
def Core.TakesTraps (k : Core) (i : Instance) : Prop :=
  k.inst? i.iid = some i ∧ i.status ≠ .parked ∧ k.isHandler i = false ∧ k.ring.length < 32

theorem State.traps_trapOp (s : State) (o : OpIn) (cause addr detail aux lane : Nat) (h : (s.core o.c).TakesTraps o.i) :
    ((s.trapOp o cause addr detail aux lane).core o.c).traps =
      (s.core o.c).traps ++ [Trap.ofOp (s.core o.c) o.i o.f cause addr detail aux lane] := by
  obtain ⟨hi, hp, hh, hr⟩ := h
  rw [State.trapOp, s.raise_queues o.c _ o.i o.i.iid rfl hi (by simpa using hp) hh (by simp [hr]), State.core_modCore_same,
    State.core_setCore_same]
  rfl

/-- The instance of a matched set, by its own number. -/
theorem State.inst?_opIn (s : State) (o : OpIn) (h : s.opIn o.c o.f = some o) : (s.core o.c).inst? o.i.iid = some o.i := by
  obtain ⟨_, _, hi, _⟩ := s.opIn_eq o.c o.f o h
  have hiid : (o.i.iid == o.f.iid) = true := List.find?_some (p := fun i : Instance => i.iid == o.f.iid) hi
  rw [beq_iff_eq.mp hiid]; exact hi

/-! ### The frame of the element forms (R272 to R298) -/

theorem exec_unary {i : Instr} {h : OpWord} {g : Word → Word} (hi : unary i = some (h, g)) (s : State) :
    exec i s = elem1 h g s := by
  unfold unary at hi
  split at hi <;> cases hi <;> rfl

theorem exec_ternary {i : Instr} {h : OpWord} {g : Word → Word → Word → Word} (hi : ternary i = some (h, g)) (s : State) :
    exec i s = elem3 h g s := by
  unfold ternary at hi
  split at hi <;> cases hi <;> rfl

theorem exec_relation {i : Instr} {h : OpWord} {g : Word → Word → Bool} (hi : relation i = some (h, g)) (s : State) :
    exec i s = elemPred h g s := by
  unfold relation at hi
  split at hi <;> cases hi <;> rfl

/-- What an element form can do with its matched set: nothing (the partner word of a three-operand form), end with its
results, or trap. -/
def ElementEnd (s : State) (o : OpIn) (t : State) : Prop :=
  t = s ∨ (∃ h data r0 r1, t = s.finish o h data r0 r1) ∨
    ∃ cause addr detail aux lane, t = s.trapOp o cause addr detail aux lane

theorem elementEnd_finish (s : State) (o : OpIn) (h : OpWord) (data : Bool) (r0 r1 : Run) :
    ElementEnd s o (s.finish o h data r0 r1) := .inr (.inl ⟨h, data, r0, r1, rfl⟩)

theorem execUnt5_ends (h : OpWord) (ty : UntTy) (s : State) : ∃ g, execUnt5 h ty s = runOp s g ∧ ∀ o, ElementEnd s o (g o) := by
  refine ⟨_, rfl, fun o => ?_⟩
  split
  · exact .inr (.inr ⟨_, _, _, _, _, rfl⟩)
  · exact elementEnd_finish _ _ _ _ _ _

theorem elem3_ends (h : OpWord) (f : Word → Word → Word → Word) (s : State) :
    ∃ g, elem3 h f s = runOp s g ∧ ∀ o, ElementEnd s o (g o) := by
  unfold elem3
  split
  · exact ⟨_, rfl, fun o => .inl rfl⟩
  · exact ⟨_, rfl, fun o => elementEnd_finish _ _ _ _ _ _⟩

theorem exec_elementForm (i : Instr) (hi : elementForm i = true) (s : State) :
    ∃ g, exec i s = runOp s g ∧ ∀ o, ElementEnd s o (g o) := by
  simp only [elementForm, Bool.or_eq_true, Option.isSome_iff_exists, Prod.exists] at hi
  obtain (((⟨h, g, hu⟩ | ⟨h, g, hb⟩) | ⟨h, g, ht⟩) | ⟨h, g, hr⟩) | hother := hi
  · exact ⟨_, exec_unary hu s, fun o => elementEnd_finish _ _ _ _ _ _⟩
  · exact ⟨_, exec_binary hb s, fun o => elementEnd_finish _ _ _ _ _ _⟩
  · rw [exec_ternary ht]; exact elem3_ends h g s
  · exact ⟨_, exec_relation hr s, fun o => elementEnd_finish _ _ _ _ _ _⟩
  · split at hother
    case h_2 h ty => exact execUnt5_ends h ty s
    case h_10 => cases hother
    all_goals exact ⟨_, rfl, fun o => elementEnd_finish _ _ _ _ _ _⟩

/-- Settles O11: an element form ends or traps; its end is framed by `finish_frame`, and a trap would have been added. -/
theorem elementFormsFrame : Obligations.ElementFormsFrame := by
  unfold Obligations.ElementFormsFrame
  intro i s t o hf hu hi hp hh hr hexec htraps
  have hk : (s.core o.c).TakesTraps o.i := ⟨s.inst?_opIn o hf.2.1, hp, hh, hr⟩
  have hno : ∀ cause addr detail aux lane, t ≠ done (s.trapOp o cause addr detail aux lane) := by
    rintro cause addr detail aux lane rfl
    have hadded := (s.traps_trapOp o cause addr detail aux lane hk).symm.trans htraps
    simp at hadded
  obtain ⟨g, hg, hend⟩ := exec_elementForm i hi s
  obtain rfl : done (g o) = t := by rw [hg, runOp_fires hf] at hexec; injection hexec
  obtain hg | ⟨h, data, r0, r1, hg⟩ | ⟨cause, addr, detail, aux, lane, hg⟩ := hend o
  · rw [hg]; exact onlyTokens_done (onlyTokens_refl o.c s)
  · rw [hg]
    refine onlyTokens_done ?_
    cases hb : s.tagBad o h.tg.toNat r0 || s.tagBad o h.tg.toNat r1 with
    | true => exact absurd (congrArg done (s.finish_overflows o h data r0 r1 hb)) (hg ▸ hno _ _ _ _ _)
    | false =>
      obtain ⟨h0, h1⟩ := Bool.or_eq_false_iff.mp hb
      exact (s.finish_frame o h data r0 r1 h0 h1).resolve_right fun hw => hw.1 hu
  · exact absurd (congrArg done hg) (hno _ _ _ _ _)

end Sys2Proof.Machine

namespace Sys2Proof.Machine

open Sys2Proof Sys2Proof.Claims

/-! ### What noting an access leaves (R114, R165, R175) -/

/-- One core is another with other tokens, port data, matched sets, instances, cached translations and race records. -/
def Core.SameButRecords (k k' : Core) : Prop :=
  { k' with inflight := k.inflight, ports := k.ports, nodeData := k.nodeData, instances := k.instances, nextIid := k.nextIid,
            issueQ := k.issueQ, tlb := k.tlb, scratchRecs := k.scratchRecs } = k

theorem Core.SameButRecords.refl (k : Core) : k.SameButRecords k := rfl

theorem Core.SameButRecords.trans {a b c : Core} (h : a.SameButRecords b) (h' : b.SameButRecords c) :
    a.SameButRecords c := by
  unfold Core.SameButRecords at *; rw [← h, ← h']

theorem Core.SameButRecords.eqs {k k' : Core} (h : k.SameButRecords k') :
    k'.traps = k.traps ∧ k'.held = k.held ∧ k'.colours = k.colours ∧ k'.scratch = k.scratch := by
  unfold Core.SameButRecords at h
  rw [← h]; exact ⟨rfl, rfl, rfl, rfl⟩

theorem Core.SameButFabric.records {k k' : Core} (h : k.SameButFabric k') : k.SameButRecords k' := by
  unfold Core.SameButFabric at h
  unfold Core.SameButRecords
  rw [← h]

/-- One state is another but for race records, the counter of open values, and what `Core.SameButRecords` allows a core. -/
def State.SameButRecords (s t : State) : Prop :=
  { t with cores := s.cores, firing := s.firing, memRecs := s.memRecs, freeCtr := s.freeCtr } = s ∧
    ∀ c, (s.core c).SameButRecords (t.core c)

theorem State.SameButRecords.refl (s : State) : s.SameButRecords s := ⟨rfl, fun _ => rfl⟩

theorem State.SameButRecords.trans {s t u : State} (h : s.SameButRecords t) (h' : t.SameButRecords u) :
    s.SameButRecords u := by
  refine ⟨?_, fun c => (h.2 c).trans (h'.2 c)⟩
  rw [← h.1, ← h'.1]

theorem State.SameButRecords.foldl {α : Type} (f : State → α → State) (hf : ∀ s a, State.SameButRecords s (f s a))
    (l : List α) (s : State) : s.SameButRecords (l.foldl f s) :=
  List.foldlRecOn l f (.refl s) fun t h a _ => h.trans (hf t a)

theorem State.setCore_records (s : State) (c : Nat) (k : Core) (h : (s.core c).SameButRecords k) :
    s.SameButRecords (s.setCore c k) := by
  refine ⟨rfl, fun d => ?_⟩
  by_cases hd : d = c
  · subst hd; rw [s.core_setCore_same d k]; exact h
  · rw [s.core_setCore_other c d k hd]; exact .refl _

theorem State.modCore_records (s : State) (c : Nat) (f : Core → Core) (h : (s.core c).SameButRecords (f (s.core c))) :
    s.SameButRecords (s.modCore c f) := s.setCore_records c _ h

theorem State.modInst_records (s : State) (c iid : Nat) (f : Instance → Instance) :
    s.SameButRecords (s.modCore c fun k => k.modInst iid f) := s.modCore_records c _ rfl

theorem onlyTokens_records {c : Nat} {s t : State} (h : OnlyTokens c s t) : s.SameButRecords t := by
  obtain ⟨hother, hstate, hcore⟩ := h
  refine ⟨?_, fun d => ?_⟩
  · rw [← hstate]
  · by_cases hd : d = c
    · subst hd; exact Core.SameButFabric.records hcore
    · rw [hother d hd]; exact .refl _

theorem State.setRec_records (s : State) (l : Loc) (r : LineRec) : s.SameButRecords (s.setRec l r) := by
  cases l with
  | scratch c a => exact s.modCore_records c _ rfl
  | phys a => exact ⟨rfl, fun _ => rfl⟩

theorem State.recordAcc_records (s : State) (l : Loc) (x : Acc) : s.SameButRecords (s.recordAcc l x) := by
  unfold State.recordAcc
  split
  · exact s.setRec_records l _
  · split
    · exact .refl s
    · exact s.setRec_records l _

theorem State.cacheTlb_records (s : State) (c : Nat) (e : TlbEntry) : s.SameButRecords (s.cacheTlb c e) := by
  unfold State.cacheTlb
  dsimp only
  split
  · exact s.setCore_records c _ rfl
  · exact State.SameButRecords.trans (t := s.drawFree.2) ⟨rfl, fun _ => rfl⟩ (s.drawFree.2.setCore_records c _ rfl)

theorem State.cachePage_records (s : State) (c va : Nat) : s.SameButRecords (s.cachePage c va) := by
  unfold State.cachePage
  split
  · split
    · exact .refl s
    · split
      · exact s.cacheTlb_records c _
      · exact .refl s
  · exact .refl s

theorem State.noteAccess_records (s : State) (o : OpIn) (use : Use) (va : Nat) (ts : List (Target × Nat)) :
    s.SameButRecords (s.noteAccess o use va ts) := by
  refine (s.cachePage_records o.c va).trans (.foldl _ (fun u t => ?_) ts _)
  dsimp only
  split
  · refine State.SameButRecords.trans ?_ (State.modInst_records _ _ _ _)
    split
    · exact .refl u
    · exact u.recordAcc_records _ _
  · exact .refl u

theorem State.noteStores_records (s : State) (o : OpIn) (l : List (Nat × List (Target × Nat))) :
    s.SameButRecords (s.noteStores o l) := .foldl _ (fun u _ => u.noteAccess_records o _ _ _) l s

theorem State.atCommit_records (s : State) (o : OpIn) (e : Effect) : s.SameButRecords (s.atCommit o e) :=
  s.modInst_records o.c o.f.iid _

theorem State.load_records {s t : State} {o : OpIn} {va n : Nat} {bs : List Byte} {p : Bool}
    (h : s.load o va n = .ok (bs, p, t)) : s.SameButRecords t := by
  unfold State.load State.loadP at h
  split at h
  · cases h
  next hload =>
    split at hload
    · cases hload
    · cases hload
      cases h
      exact State.noteAccess_records _ o _ _ _

/-- The loads of a set's lanes note their accesses, one after another. -/
theorem State.loadLanes_records (s0 : State) (o : OpIn) (n : Nat) (ext : List Byte → Word) (addrs : List Nat) (j : Nat)
    (s t : State) (ls : List Lane) (h : s0.loadLanes o n ext j addrs s = .ok (ls, t)) : s.SameButRecords t := by
  induction addrs generalizing j s ls with
  | nil => cases h; exact .refl _
  | cons va rest ih =>
    unfold State.loadLanes at h
    split at h
    · cases h
    next hload =>
      split at h
      · cases h
      next hrest => cases h; exact (State.load_records hload).trans (ih (j + 1) _ _ hrest)

theorem State.loadLanes_error (s0 : State) (o : OpIn) (n : Nat) (ext : List Byte → Word) (addrs : List Nat) (j : Nat)
    (s t : State) (h : s0.loadLanes o n ext j addrs s = .error t) : ∃ k e, t = s0.accFail o .carder false k e := by
  induction addrs generalizing j s with
  | nil => cases h
  | cons va rest ih =>
    unfold State.loadLanes at h
    split at h
    · cases h; exact ⟨_, _, rfl⟩
    · split at h
      next hrest => cases h; exact ih _ _ hrest
      · cases h

theorem State.storeLanes_error (s : State) (o : OpIn) (n : Nat) (addrs : List Nat) (j : Nat) (t : State)
    (h : s.storeLanes o n j addrs = .error t) : ∃ k e, t = s.accFail o .carder true k e := by
  induction addrs generalizing j with
  | nil => cases h
  | cons va rest ih =>
    unfold State.storeLanes at h
    split at h
    · cases h; exact ⟨_, _, rfl⟩
    · split at h
      next hrest => cases h; exact ih _ hrest
      · cases h

/-! ### What posting and asking leave of the cores (R20, R56, R181) -/

theorem State.checkRoute_cores (s : State) (m : Nat) : (s.checkRoute m).cores = s.cores := by
  unfold State.checkRoute
  extract_lets one
  have h (t : State) : (one t).cores = t.cores := by
    dsimp only [one]; split
    · split <;> rfl
    · rfl
  exact (h _).trans (h s)

theorem State.sendAsk_cores (s : State) (q : Ask) : (s.sendAsk q).cores = s.cores := by
  unfold State.sendAsk; dsimp only; split
  · rfl
  · exact (congrArg State.cores (State.sendOn_frame _ _ _ _ _ _) :)

theorem State.askOne_cores (s : State) (asker : Asker) (acc : Acc) (atomic : List Nat) (release : Option Nat) (p : Nat × Nat) :
    (s.askOne asker acc atomic release p).cores = s.cores := by
  unfold State.askOne
  split
  · exact (State.sendAsk_cores _ _).trans (State.checkRoute_cores _ _)
  · exact (State.sendAsk_cores _ _).trans (State.checkRoute_cores _ _)

theorem State.askFor_cores (s : State) (asker : Asker) (acc : Acc) (atomic : List Nat) (release : Option Nat)
    (ps : List (Nat × Nat)) : (s.askFor asker acc atomic release ps).cores = s.cores := by
  refine List.foldlRecOn (motive := fun t : State => t.cores = s.cores) ps _ rfl fun t h p _ => ?_
  split
  · exact h
  · exact (t.askOne_cores asker acc atomic release p).trans h

theorem State.noteFar_cores (s : State) (c va : Nat) : (s.noteFar c va).cores = s.cores := by
  unfold State.noteFar
  split
  · split
    · dsimp only; split
      · exact s.checkRoute_cores _
      · rfl
    · rfl
  · rfl

/-- One state's cores are another's but for the bytes of their scratchpads. -/
def State.CoresStand (s t : State) : Prop := ∀ c, ∃ m, t.core c = { s.core c with scratch := m }

theorem State.CoresStand.of_cores {s t : State} (h : t.cores = s.cores) : s.CoresStand t :=
  fun c => ⟨(s.core c).scratch, by rw [State.core, h]; rfl⟩

theorem State.CoresStand.trans {s t u : State} (h : s.CoresStand t) (h' : t.CoresStand u) : s.CoresStand u := by
  intro c
  obtain ⟨m, hm⟩ := h c
  obtain ⟨n, hn⟩ := h' c
  exact ⟨n, by rw [hn, hm]⟩

theorem State.writeLoc_coresStand (s : State) (l : Loc) (bs : List Byte) : s.CoresStand (s.writeLoc l bs) := by
  cases l with
  | phys a => exact .of_cores rfl
  | scratch c a =>
    intro d
    by_cases hd : d = c
    · subst hd; exact ⟨_, s.core_modCore_same d _⟩
    · exact ⟨(s.core d).scratch, s.core_modCore_other c d _ hd⟩

theorem State.loseRec_cores (s : State) (f : FRec) : (s.loseRec f).cores = s.cores := by
  unfold State.loseRec; split <;> rfl

theorem State.noteHost_cores (s : State) (queue : Nat) (l : Loc) (bs : List Byte) : (s.noteHost queue l bs).cores = s.cores := by
  unfold State.noteHost; split
  · split <;> rfl
  · rfl

theorem State.ringVector_cores (s : State) (i : Nat) : (s.ringVector i).cores = s.cores := by
  unfold State.ringVector; dsimp only; split <;> rfl

theorem State.postRec_coresStand (s : State) (f : FRec) : s.CoresStand (s.postRec f) := by
  unfold State.postRec
  dsimp only
  split
  · exact .of_cores (s.loseRec_cores f)
  · split
    · exact .of_cores (State.loseRec_cores _ f)
    · exact (s.writeLoc_coresStand _ _).trans (.of_cores ((State.ringVector_cores _ _).trans (State.noteHost_cores _ _ _ _)))

theorem State.notePoisoned_coresStand (s : State) (c va : Nat) : s.CoresStand (s.notePoisoned c va) := by
  unfold State.notePoisoned
  split
  · split
    · exact s.postRec_coresStand _
    · exact .of_cores rfl
  · exact .of_cores rfl

/-! ### Operations that trap or wait (R57, R113, R120, R166, R181) -/

/-- An operation has trapped or waits: its core has another list of traps, or of requests that wait. -/
def Stopped (s t : State) (c : Nat) : Prop :=
  (t.core c).traps ≠ (s.core c).traps ∨ (t.core c).held ≠ (s.core c).held

theorem hold_stops (s t : State) (o : OpIn) (u : HUnit) (w : Wait) (h : s.CoresStand t) : Stopped s (t.hold o u w) o.c := by
  obtain ⟨m, hm⟩ := h o.c
  refine .inr fun heq => ?_
  have hlen := t.length_held_hold o u w
  rw [heq, hm] at hlen
  simp at hlen

section

variable (s : State) (o : OpIn) (hk : (s.core o.c).TakesTraps o.i)

include hk

theorem trapOp_stops (t : State) (cause addr detail aux lane : Nat) (h : s.CoresStand t) :
    Stopped s (t.trapOp o cause addr detail aux lane) o.c := by
  obtain ⟨m, hm⟩ := h o.c
  have ht : (t.core o.c).TakesTraps o.i := hm ▸ hk
  refine .inl fun heq => ?_
  rw [t.traps_trapOp o cause addr detail aux lane ht, hm] at heq
  simp at heq

theorem accFail_stops (u : HUnit) (write : Bool) (lane : Nat) (e : AccErr) : Stopped s (s.accFail o u write lane e) o.c := by
  cases e with
  | translation va =>
    have hfar : s.CoresStand (s.noteFar o.c va) := .of_cores (s.noteFar_cores o.c va)
    simp only [State.accFail]
    split
    · exact trapOp_stops s o hk _ _ _ _ _ _ hfar
    · refine hold_stops s _ o.unanswered u _ (hfar.trans ?_)
      exact State.CoresStand.trans (.of_cores rfl) (State.postRec_coresStand _ _)
  | protection va =>
    exact trapOp_stops s o hk _ _ _ _ _ _ ((s.notePoisoned_coresStand o.c va).trans (State.postRec_coresStand _ _))
  | race line a => exact trapOp_stops s o hk _ _ _ _ _ _ (.of_cores rfl)
  | remote who n r ps =>
    simp only [State.accFail, State.holdFar]
    refine hold_stops s _ { o with f := _ } u .remote (.of_cores ?_)
    exact s.askFor_cores _ _ _ _ _
  | farRace pa d x => exact trapOp_stops s o hk _ _ _ _ _ _ (.of_cores rfl)

/-- How an access form ends: it traps or waits, or it ends with its results in a state that differs from the one it began
in by what its accesses have noted. -/
def AccessEnd (s : State) (o : OpIn) (t : State) : Prop :=
  Stopped s t o.c ∨ ∃ s1 h data r, s.SameButRecords s1 ∧ s1.tagBad o (OpWord.tg h).toNat r = false ∧ t = s1.finish o h data r r

theorem loadForm_ends (h : OpWord) (n : Nat) (ext : List Byte → Word) (ls : List Lane) (addrs : List Nat) :
    AccessEnd s o (s.loadForm o h n ext ls addrs) := by
  have htrap : ∀ cause addr detail aux lane, AccessEnd s o (s.trapOp o cause addr detail aux lane) :=
    fun cause addr detail aux lane => .inl (trapOp_stops s o hk s cause addr detail aux lane (.of_cores rfl))
  unfold State.loadForm
  split
  · exact htrap _ _ _ _ _
  · split
    · exact htrap _ _ _ _ _
    · split
      next t hload =>
        obtain ⟨k, e, rfl⟩ := s.loadLanes_error o n ext addrs _ s t hload
        exact .inl (accFail_stops s o hk _ _ _ _)
      next ls s1 hload =>
        split
        · exact htrap _ _ _ _ _
        next hfit => exact .inr ⟨s1, h, true, _, s.loadLanes_records o n ext addrs _ s s1 ls hload, by simpa using hfit, rfl⟩

end

theorem State.SameButRecords.tagBad {s t : State} (h : s.SameButRecords t) (o : OpIn) (tg : Nat) (r : Run) :
    t.tagBad o tg r = s.tagBad o tg r := by
  simp [State.tagBad, Core.shape, Core.colour?, (h.2 o.c).eqs]

/-- A form of the Carder's port that does not go ahead waits. -/
theorem carderOp_ends (s : State) (o : OpIn) (acc : Bool) (g : OpIn → State) (hf : Fires s o) (hg : AccessEnd s o (g o)) :
    ∃ t, carderOp s acc g = .next (done t) ∧ AccessEnd s o t := by
  refine ⟨_, runOp_fires hf _, ?_⟩
  split
  · exact .inl (hold_stops s s o _ _ (.of_cores rfl))
  · split
    · exact .inl (hold_stops s s o _ _ (.of_cores rfl))
    · exact hg

section

variable (s : State) (o : OpIn) (hk : (s.core o.c).TakesTraps o.i)

include hk

theorem storeForm_ends (h : OpWord) (n : Nat) (addrs : List Nat) : AccessEnd s o (s.storeForm o h n addrs) := by
  have htrap : ∀ cause addr detail aux lane, AccessEnd s o (s.trapOp o cause addr detail aux lane) :=
    fun cause addr detail aux lane => .inl (trapOp_stops s o hk s cause addr detail aux lane (.of_cores rfl))
  unfold State.storeForm
  split
  · exact htrap _ _ _ _ _
  · split
    · exact htrap _ _ _ _ _
    · split
      · exact htrap _ _ _ _ _
      · split
        next t hstore =>
          obtain ⟨k, e, rfl⟩ := s.storeLanes_error o n addrs _ t hstore
          exact .inl (accFail_stops s o hk _ _ _ _)
        next l hstore =>
          dsimp only
          split
          · exact htrap _ _ _ _ _
          · split
            · exact htrap _ _ _ _ _
            next hfit =>
              have hnoted (e : Effect) := (s.noteStores_records o l).trans (State.atCommit_records _ o e)
              exact .inr ⟨_, h, false, _, hnoted _, ((hnoted _).tagBad o _ _).trans (Bool.eq_false_iff.mpr hfit), rfl⟩

theorem execLd_ends (h : OpWord) (ty : LdTy) (hf : Fires s o) : ∃ t, execLd h ty s = .next (done t) ∧ AccessEnd s o t := by
  refine carderOp_ends s o true _ hf ?_
  split
  · exact loadForm_ends s o hk _ _ _ _ _
  · split
    · exact .inl (trapOp_stops s o hk s _ _ _ _ _ (.of_cores rfl))
    · exact loadForm_ends s o hk _ _ _ _ _

theorem execLdv_ends (h : OpWord) (sh : BitVec 3) (high : BitVec 24) (hf : Fires s o) :
    ∃ t, execLdv h sh high s = .next (done t) ∧ AccessEnd s o t := by
  refine carderOp_ends s o true _ hf ?_
  dsimp only
  split
  · exact loadForm_ends s o hk _ _ _ _ _
  · exact loadForm_ends s o hk _ _ _ _ _

theorem execSt_ends (h : OpWord) (ty : StTy) (hf : Fires s o) : ∃ t, execSt h ty s = .next (done t) ∧ AccessEnd s o t :=
  carderOp_ends s o true _ hf (storeForm_ends s o hk _ _ _)

theorem execStv_ends (h : OpWord) (high : BitVec 24) (hf : Fires s o) :
    ∃ t, execStv h high s = .next (done t) ∧ AccessEnd s o t :=
  carderOp_ends s o true _ hf (storeForm_ends s o hk _ _ _)

end

/-- An access form that has neither trapped nor begun to wait leaves what `SameButRecords` says. -/
theorem AccessEnd.records {s t : State} {o : OpIn} (h : AccessEnd s o t) (hgo : ¬ Stopped s t o.c) : s.SameButRecords t := by
  obtain hstop | ⟨s1, h, data, r, hs1, hfit, rfl⟩ := h
  · exact absurd hstop hgo
  · obtain hend | ⟨-, hheld⟩ := s1.finish_frame o h data r r hfit hfit
    · exact hs1.trans (onlyTokens_records hend)
    · refine absurd (.inr fun heq => ?_) hgo
      rw [heq, (hs1.2 o.c).eqs.2.1] at hheld
      omega

/-- Settles O21: each of the four forms ends as `AccessEnd` says, and where it has not stopped, only its core's fabric, race
records and cached translations have changed. -/
theorem loadsAndStoresLeaveMemory : Obligations.LoadsAndStoresLeaveMemory := by
  unfold Obligations.LoadsAndStoresLeaveMemory
  intro i s t o h hform hf hp hh hr hexec htraps hheld
  have hk : (s.core o.c).TakesTraps o.i := ⟨s.inst?_opIn o hf.2.1, hp, hh, hr⟩
  have hends : ∃ u, exec i s = .next (done u) ∧ AccessEnd s o u := by
    obtain ⟨ty, rfl⟩ | ⟨high, rfl⟩ | ⟨ty, rfl⟩ | ⟨sh, high, rfl⟩ := hform
    · exact execSt_ends s o hk h ty hf
    · exact execStv_ends s o hk h high hf
    · exact execLd_ends s o hk h ty hf
    · exact execLdv_ends s o hk h sh high hf
  obtain ⟨u, hu, hend⟩ := hends
  obtain rfl : done u = t := by rw [hu] at hexec; injection hexec
  obtain ⟨hstate, hcores⟩ := hend.records fun hstop => hstop.elim (absurd htraps) (absurd hheld)
  refine ⟨fun a => congrArg (memByte · a) (congrArg State.mem hstate :), fun c a => congrArg (memByte · a) (hcores c).eqs.2.2.2,
    hstate, hcores⟩

end Sys2Proof.Machine

namespace Sys2Proof.Machine

open Sys2Proof Sys2Proof.Claims

/-! ### The commit of an instance with one effect (R101) -/

/-- The machine once an instance has committed: the requests of the commit and the instance are gone. -/
def State.committed (s : State) (c : Nat) (i : Instance) : State :=
  (s.dropCommitAsks c i.iid).modCore c fun k => k.retireInst i

section

variable (s : State) (c n : Nat) (i : Instance) (e : Effect)

theorem State.core_committed_same : (s.committed c i).core c = (s.core c).retireInst i :=
  State.core_modCore_same _ c _

/-- What a commit leaves where its effects have changed its own core alone. -/
theorem commitFrame_committed (t : State) (hother : ∀ d, d ≠ c → t.core d = s.core d) (hstate : { t with cores := s.cores } = s) :
    CommitFrame s (t.committed c i) c i := by
  refine ⟨fun d hd => (State.core_modCore_other _ c d _ hd).trans (hother d hd), ?_, ?_⟩
  · exact (congrArg (fun x : State => { x with asks := s.asks }) hstate :)
  · exact congrArg (List.filter _) (congrArg State.asks hstate :)

theorem State.commitEffects_ok (t : State) (he : i.effects = [(n, e)]) (h : s.commitEffect c i e = .ok t) :
    State.commitEffects c i s = (t, []) := by simp [State.commitEffects, he, h]

theorem State.commitEffects_error (x : CommitStop) (he : i.effects = [(n, e)]) (h : s.commitEffect c i e = .error x) :
    State.commitEffects c i s = (s, [x]) := by simp [State.commitEffects, he, h]

/-- The effects that are no stores, which a commit checks and performs together. -/
def Effect.plain : Effect → Bool
  | .store _ _ => false
  | .nodeData _ _ => false
  | _ => true

theorem State.checkStores_plain (he : i.effects = [(n, e)]) (hp : e.plain = true) : s.checkStores c i = [] := by
  cases e <;> simp_all [State.checkStores, Effect.plain]

theorem State.commitStores_plain (he : i.effects = [(n, e)]) (hp : e.plain = true) : s.commitStores c i = s := by
  cases e <;> simp_all [State.commitStores, Effect.plain]

theorem State.tryCommit_plain (t : State) (he : i.effects = [(n, e)]) (hp : e.plain = true)
    (h : s.commitEffect c i e = .ok t) : s.tryCommit c i = .ok (t.committed c i) := by
  have heff := s.commitEffects_ok c n i e t he h
  have hstops : s.commitStops c i = [] := by
    rw [State.commitStops, s.checkStores_plain c n i e he hp, s.commitStores_plain c n i e he hp, heff]; rfl
  rw [State.tryCommit, hstops, s.commitStores_plain c n i e he hp, heff]; rfl

theorem State.tryCommit_plain_trap (x : Trap) (he : i.effects = [(n, e)]) (hp : e.plain = true)
    (h : s.commitEffect c i e = .error (.trap x)) : s.tryCommit c i = .error (.trap x) := by
  have hstops : s.commitStops c i = [.trap x] := by
    rw [State.commitStops, s.checkStores_plain c n i e he hp, s.commitStores_plain c n i e he hp,
      s.commitEffects_error c n i e _ he h]; rfl
  rw [State.tryCommit, hstops]; rfl

theorem State.tryCommit_eq (t : State) (h : s.tryCommit c i = .ok t) :
    t = ((State.commitEffects c i (s.commitStores c i)).1).committed c i := by
  unfold State.tryCommit at h
  split at h
  · cases h
  · cases h; rfl

end

/-! ### A WRITE at its commit (R102) -/

theorem find?_modFirst_other {α : Type} (p q : α → Bool) (f : α → α) (l : List α) (hf : ∀ a, p a = true → q (f a) = false)
    (h : ∀ a, p a = true → q a = false) : (modFirst p f l).find? q = l.find? q := by
  induction l with
  | nil => rfl
  | cons x r ih =>
    by_cases hx : p x = true
    · simp [modFirst, hx, hf x hx, h x hx]
    · simp [modFirst, hx, List.find?_cons, ih]

section

variable (k : Core) (id : Nat) (f : Colour → Colour) (hf : ∀ c, (f c).id = c.id)

include hf

theorem Core.colour?_modColour_same (c : Colour) (h : k.colour? id = some c) : (k.modColour id f).colour? id = some (f c) := by
  have hid : (c.id == id) = true := List.find?_some (p := fun x : Colour => x.id == id) h
  exact find?_modFirst _ f k.colours c h (hf c ▸ hid)

theorem Core.colour?_modColour_other (d : Nat) (hd : d ≠ id) : (k.modColour id f).colour? d = k.colour? d := by
  refine find?_modFirst_other _ _ f k.colours (fun a ha => ?_) fun a ha => ?_
  · rw [hf a, beq_iff_eq.mp ha]; exact beq_false_of_ne hd.symm
  · rw [beq_iff_eq.mp ha]; exact beq_false_of_ne hd.symm

end

theorem commit_writeReg (s : State) (core reg n : Nat) (i : Instance) (c : Colour) (l : Lane)
    (he : i.effects = [(n, .writeReg reg l)]) (hc : (s.core core).colour? i.tag.colour = some c) :
    ∃ t : State, s.tryCommit core i = .ok t ∧
    (t.core core).colour? i.tag.colour = some { c with regs := c.regs.set reg l } ∧
    (∀ d, d ≠ i.tag.colour → (t.core core).colour? d = (s.core core).colour? d) ∧ CommitFrame s t core i ∧
    { t.core core with colours := (s.core core).colours, instances := (s.core core).instances,
                       nodeData := (s.core core).nodeData, regs := (s.core core).regs } = s.core core := by
  refine ⟨_, s.tryCommit_plain core n i _ _ he rfl rfl, ?_, fun d hd => ?_, ?_, ?_⟩
  · rw [State.core_committed_same, State.core_setCore_same]
    exact Core.colour?_modColour_same _ _ (fun x => { x with regs := setAt x.regs reg l }) (fun _ => rfl) c hc
  · rw [State.core_committed_same, State.core_setCore_same]
    exact Core.colour?_modColour_other _ _ (fun x => { x with regs := setAt x.regs reg l }) (fun _ => rfl) d hd
  · exact commitFrame_committed s core i _ (fun d hd => s.core_setCore_other core d _ hd) rfl
  · rw [State.core_committed_same, State.core_setCore_same]; rfl

/-! ### A store to the core's own scratchpad at its commit (R101, R166) -/

/-- A core whose scratchpad has bytes written at an address, with what goes with them: poison bits and race records. -/
def Core.stored (k : Core) (a : Nat) (bs : List Byte) (poison : List Nat) (recs : List (Nat × LineRec)) : Core :=
  { k with scratch := memWrite k.scratch a bs, scratchPoison := poison, scratchRecs := recs }

theorem State.setCore_setCore (s : State) (c : Nat) (k k' : Core) : (s.setCore c k).setCore c k' = s.setCore c k' := by
  simp [State.setCore, aset_aset]

section

variable (s : State) (c a : Nat)

theorem State.performWrite_own (acc : Option Acc) (bs : List Byte) : ∃ p,
    s.performWrite acc { loc := .scratch c a, bytes := bs, poison := false } =
      s.setCore c ((s.core c).stored a bs p (s.core c).scratchRecs) := by
  by_cases h : bs.length = 64
  · refine ⟨(s.core c).scratchPoison.filter fun x => x != lineOf a, ?_⟩
    simp only [State.performWrite, State.performSeg, State.transport, State.writeLoc, State.setPoison, h, if_true,
      Bool.false_eq_true, if_false, State.modCore_modCore]
    rfl
  · refine ⟨(s.core c).scratchPoison, ?_⟩
    simp only [State.performWrite, State.performSeg, State.transport, State.writeLoc, h, Bool.false_eq_true, if_false]
    rfl

theorem State.setRec_own (r : LineRec) : s.setRec (.scratch c a) r =
    s.setCore c { s.core c with scratchRecs := aset (s.core c).scratchRecs (lineOf a) r } := rfl

/-- A piece stored in the core's own scratchpad by a writer that is not counted: the bytes, poison bits and race records of
the core, and the epoch of a release. -/
theorem State.commitSeg_own (i : Instance) (atomic : Bool) (rel : Option Nat) (bs : List Byte) : ∃ ep p r,
    s.commitSeg c i atomic false rel { loc := .scratch c a, bytes := bs, poison := false } =
      { s with epochs := ep }.setCore c ((s.core c).stored a bs p r) := by
  have hbegin : ∃ ep, (if rel.isSome then (s.raiseEpoch (s.agent c i.tag.colour)).1 else s) = { s with epochs := ep } := by
    split
    · exact ⟨_, rfl⟩
    · exact ⟨s.epochs, rfl⟩
  obtain ⟨ep, hep⟩ := hbegin
  obtain ⟨p, hp⟩ := State.performWrite_own { s with epochs := ep } c a
    (some (State.accNow { s with epochs := ep } c i.tag.colour true atomic)) bs
  have hrecord (t : State) (x : Acc) (hx : x.write = true) : t.recordAcc (.scratch c (lineOf a)) x =
      t.setRec (.scratch c (lineOf a)) { lastWrite := some x, reads := .none, release := none } := by
    simp [State.recordAcc, hx]
  have hwrite (t : State) (who : Nat) : (t.accNow c who true atomic).write = true := rfl
  simp only [State.commitSeg, State.acquireSeg, Seg.countedLine, Bool.false_and, Bool.false_eq_true, if_false, hep, hp,
    Loc.recorded, if_true, Loc.line, hrecord _ _ (hwrite _ _), State.setRec_own]
  cases rel with
  | none =>
    simp only [State.core_setCore_same, State.setCore_setCore]
    exact ⟨ep, p, _, rfl⟩
  | some r =>
    simp only [State.markRelease, State.setRec_own, State.core_setCore_same, State.setCore_setCore]
    exact ⟨ep, p, _, rfl⟩

end

/-- What a commit does where a store of one piece in the core's own scratchpad is its one effect. -/
theorem State.tryCommit_storeOwn (s t : State) (core slot a n : Nat) (i : Instance) (bs : List Byte)
    (ht : s.tryCommit core i = .ok t) (hc : (s.core core).slotCounted i slot = false)
    (he : i.effects = [(n, .store slot [(Seg.mk (.scratch core a) bs false)])]) : ∃ ep p r,
    t = ({ s with epochs := ep }.setCore core ((s.core core).stored a bs p r)).committed core i := by
  have hstored : s.commitStores core i = s.commitSeg core i ((s.core core).slotAtomic i slot) false
      (s.slotRelease core i slot) ⟨.scratch core a, bs, false⟩ := by
    simp [State.commitStores, State.commitPieces, he, hc]
  obtain ⟨ep, p, r, hseg⟩ := s.commitSeg_own core a i ((s.core core).slotAtomic i slot) (s.slotRelease core i slot) bs
  refine ⟨ep, p, r, ?_⟩
  rw [s.tryCommit_eq core i t ht, hstored, hseg, State.commitEffects_ok _ core n i _ _ he rfl]

theorem memRead_memWrite (m : List Host.Cell) (a : Nat) (bs : List Byte) (w : Memory.wf m = true) :
    memRead (memWrite m a bs) a bs.length = bs := by
  rw [memRead_eq_map]
  refine List.ext_getElem (by simp) fun n _ hn => ?_
  simpa using memByte_memWrite_same m a n bs w hn

theorem commit_store (s t : State) (core slot a n : Nat) (i : Instance) (bs : List Byte) (ht : s.tryCommit core i = .ok t)
    (hw : Memory.wf (s.core core).scratch = true) (hc : (s.core core).slotCounted i slot = false)
    (he : i.effects = [(n, .store slot [(Seg.mk (.scratch core a) bs false)])]) :
    memRead (t.core core).scratch a bs.length = bs ∧
    (∀ b, b < a ∨ a + bs.length ≤ b → memByte (t.core core).scratch b = memByte (s.core core).scratch b) ∧
    CommitFrame { s with epochs := t.epochs, acquired := t.acquired } t core i ∧
    { t.core core with scratch := (s.core core).scratch, scratchPoison := (s.core core).scratchPoison,
                       scratchRecs := (s.core core).scratchRecs, instances := (s.core core).instances,
                       nodeData := (s.core core).nodeData, regs := (s.core core).regs } = s.core core := by
  obtain ⟨ep, p, r, rfl⟩ := s.tryCommit_storeOwn t core slot a n i bs ht hc he
  rw [State.core_committed_same, State.core_setCore_same]
  refine ⟨memRead_memWrite _ a bs hw, fun b hb => memByte_memWrite_other _ a b bs hw hb, ?_, rfl⟩
  exact commitFrame_committed _ core i _ (fun d hd => State.core_setCore_other _ core d _ hd) rfl

/-! ### An ERET at its commit (R190, R191) -/

/-- A core whose ring entry `e`, of the trap `x`, has been freed by an ERET. -/
def Core.freed (k : Core) (e : Nat) (x : Trap) : Core := { k.retrySpill x with ring := k.ring.filter fun p => p.1 != e }

/-- The machine once an ERET has freed an entry of its core's ring. -/
def State.freed (s : State) (c e : Nat) (x : Trap) : State := s.setCore c ((s.core c).freed e x)

section

variable (s : State) (core addr e n slot : Nat) (i : Instance) (x : Trap)

/-- A queue's spill that is tried again changes the queues alone. -/
theorem Core.retrySpill_fabric (k : Core) : { k.retrySpill x with queues := k.queues } = k := by
  unfold Core.retrySpill
  split <;> rfl

theorem Core.freed_fabric (k : Core) : { k.freed e x with queues := k.queues, ring := k.ring } = k :=
  (congrArg (fun y : Core => { y with ring := k.ring }) (Core.retrySpill_fabric x k) :)

theorem Core.freed_op (k : Core) (h : x.src = .op) : k.freed e x = { k with ring := k.ring.filter fun p => p.1 != e } := by
  simp [Core.freed, Core.retrySpill, h]

theorem State.eretAct_entry (h : (s.core core).ringAt addr = some (e, x)) : s.eretAct core addr =
    match ringByte s core addr 1 1 with
    | 0 => (s.freed core e x).resume core x (BitVec.ofNat 32 (ringByte s core addr 40 4))
    | 1 => if (s.freed core e x).substOk core x
        then (s.freed core e x).substTrap core x (BitVec.ofNat 32 (ringByte s core addr 40 4))
        else (s.freed core e x).endByHandler core (ringByte s core addr 44 2)
    | _ => (s.freed core e x).endByHandler core (ringByte s core addr 44 2) := by
  simp only [State.eretAct, h]
  rfl

theorem State.tryCommit_eret (he : i.effects = [(n, .eret slot addr)]) (h : (s.core core).ringAt addr = some (e, x)) :
    s.tryCommit core i = .ok ((s.eretAct core addr).committed core i) :=
  s.tryCommit_plain core n i _ _ he rfl (by simp only [State.commitEffect, h])

/-- An ERET of an entry that is not in use (R191). -/
theorem commit_eret_unused (he : i.effects = [(n, .eret slot addr)]) (h : (s.core core).ringAt addr = none) :
    s.tryCommit core i = .error (.trap { Trap.ofInst (s.core core) i 2 addr 191 0 .op with slot := slot }) :=
  s.tryCommit_plain_trap core n i _ _ he rfl (by simp only [State.commitEffect, h]; rfl)

/-- Whether SUBSTITUTE is allowed does not turn on the ring. -/
theorem State.substOk_freed : (s.freed core e x).substOk core x = s.substOk core x := by
  have hk : (s.freed core e x).core core = (s.core core).freed e x := s.core_setCore_same core _
  have hfab := Core.freed_fabric e x (s.core core)
  have hop (f : Firing) : (s.freed core e x).opIn core f = s.opIn core f :=
    State.opIn_congr s _ core f (hk ▸ (congrArg Core.instances hfab :)) (hk ▸ (congrArg Core.mappings hfab :))
  simp only [State.substOk, funext hop]

theorem State.coreLid_freed : (s.freed core e x).coreLid core = s.coreLid core := by
  have hk : (s.freed core e x).core core = (s.core core).freed e x := s.core_setCore_same core _
  have hplaced : ((s.core core).freed e x).placed = (s.core core).placed :=
    (congrArg Core.placed (Core.freed_fabric e x (s.core core)) :)
  rw [State.coreLid, hk, hplaced]; rfl

/-- END, or SUBSTITUTE where it is not allowed: the launch ends with status ERROR. -/
theorem commit_eret_end (l : Launch) (he : i.effects = [(n, .eret slot addr)]) (h : (s.core core).ringAt addr = some (e, x))
    (ha : 2 ≤ ringByte s core addr 1 1 ∨ (ringByte s core addr 1 1 = 1 ∧ s.substOk core x = false))
    (hl : s.launch (s.coreLid core) = some l) (hp : l.phase ≠ .ending) : ∃ t : State, s.tryCommit core i = .ok t ∧
    (t.core core).ring = (s.core core).ring.filter (fun p => p.1 != e) ∧
    t.launch (s.coreLid core) = some { l with phase := .ending,
                                              status := some (4, min 0xFFEF (ringByte s core addr 44 2)) } := by
  have hact : s.eretAct core addr = (s.freed core e x).endByHandler core (ringByte s core addr 44 2) := by
    rw [s.eretAct_entry core addr e x h]
    rcases ha with ha | ⟨ha, hok⟩
    · split
      · omega
      · omega
      · rfl
    · simp only [ha, s.substOk_freed core e x, hok, Bool.false_eq_true, if_false]
  refine ⟨_, s.tryCommit_eret core addr e n slot i x he h, ?_, ?_⟩
  · rw [State.core_committed_same, hact]
    exact congrArg Core.ring (s.core_setCore_same core _)
  · rw [hact, State.endByHandler, State.coreLid_freed, Nat.min_comm]
    exact State.launch_endLaunch_same (s.freed core e x) _ 4 _ l hl hp

/-- SUBSTITUTE where it is allowed: the operation retires with RESULT, its parked set gone. -/
theorem commit_eret_substitute (u : State) (j : Nat) (f : Firing) (o : OpIn) (m : Instr) (v : Word)
    (he : i.effects = [(n, .eret slot addr)]) (h : (s.core core).ringAt addr = some (e, x))
    (ha : ringByte s core addr 1 1 = 1) (hok : s.substOk core x = true) (hj : x.iid = some j) (hf : x.firing = some f)
    (hv : v = BitVec.ofNat 32 (ringByte s core addr 40 4))
    (hu : u = s.modCore core fun k => ((k.freed e x).dropParked j f).unpark j)
    (ho : u.opIn core { f with heldAt := none } = some o) (hm : o.m.instr? o.f.slot = some m) (hn : noResult m = false) :
    s.tryCommit core i = .ok ((((u.modCore core fun k => k.closeColl o).finish o o.head (dataForm m)
      (replaced o m v (predTargets m).1) (replaced o m v (predTargets m).2)).payOwed core j).committed core i) := by
  have hparked : ((s.freed core e x).modCore core fun k => (k.dropParked j f).unpark j) = u := by
    rw [hu, State.freed]
    simp only [State.modCore, State.core_setCore_same, State.setCore_setCore]
  have hact : s.eretAct core addr = (((u.modCore core fun k => k.closeColl o).finish o o.head (dataForm m)
      (replaced o m v (predTargets m).1) (replaced o m v (predTargets m).2)).payOwed core j) := by
    rw [s.eretAct_entry core addr e x h, ha]
    simp only [s.substOk_freed core e x, hok, if_true, State.substTrap, hj, hf, hparked, ho, State.substitute, hm, hn,
      Bool.false_eq_true, if_false, ← hv, replaced, Bool.or_eq_true, Bool.not_eq_true']
  rw [s.tryCommit_eret core addr e n slot i x he h, hact]

end

/-! ### RESUME of a parked operation (R190) -/

/-- The parked sets as RESUME lets them go on: the one that a SYSCALL or BREAK trapped for is answered (R269). -/
def Trap.setsAgain (x : Trap) (v : Word) (sets : List Firing) : List Firing :=
  match x.firing with
  | some f => if x.cause = 0x10 ∨ x.cause = 0x11 then modFirst (fun g => g == f) (fun g => { g with answered := some v }) sets
    else sets
  | none => sets

/-- A core whose instance `j` has been answered as RESUME answers it. -/
def Core.answeredBy (k : Core) (j : Nat) (x : Trap) (v : Word) : Core :=
  match x.firing with
  | some f => if x.cause = 0x10 ∨ x.cause = 0x11 then k.answer j f v else k
  | none => k

theorem Trap.setsAgain_unanswered (x : Trap) (v : Word) (sets : List Firing) (h : x.cause ≠ 0x10) (h' : x.cause ≠ 0x11) :
    x.setsAgain v sets = sets := by
  unfold Trap.setsAgain
  split
  · rw [if_neg (not_or.mpr ⟨h, h'⟩)]
  · rfl

theorem Trap.setsAgain_answered (x : Trap) (v : Word) (sets : List Firing) (f : Firing) (hf : x.firing = some f)
    (h : x.cause = 0x10 ∨ x.cause = 0x11) :
    x.setsAgain v sets = modFirst (fun g => g == f) (fun g => { g with answered := some v }) sets := by
  simp only [Trap.setsAgain, hf, if_pos h]

section

variable (k : Core) (j : Nat) (x : Trap) (v : Word) (y : Instance)

theorem Core.answeredBy_fabric : { k.answeredBy j x v with instances := k.instances } = k := by
  unfold Core.answeredBy
  split
  · split <;> rfl
  · rfl

theorem Core.inst?_answeredBy (h : k.inst? j = some y) :
    (k.answeredBy j x v).inst? j = some { y with parkedSets := x.setsAgain v y.parkedSets } := by
  unfold Core.answeredBy Trap.setsAgain
  split
  · split
    · exact Core.inst?_modInst_same k j _ y h rfl
    · exact h
  · exact h

theorem Core.unpark_eq (h : k.inst? j = some y) : k.unpark j =
    { k.modInst j fun z => { z with status := if y.frame.isSome then .admitted else .pending, parkedSets := [],
                                    frameBad := false } with issueQ := k.issueQ ++ y.parkedSets } := by
  simp only [Core.unpark, h]

theorem Core.inst?_unpark (h : k.inst? j = some y) : (k.unpark j).inst? j =
    some { y with status := if y.frame.isSome then .admitted else .pending, parkedSets := [], frameBad := false } := by
  rw [k.unpark_eq j y h]
  exact Core.inst?_modInst_same k j _ y h rfl

theorem Core.inst?_retireInst_other (i : Instance) (hj : j ≠ i.iid) : (k.retireInst i).inst? j = k.inst? j := by
  have hboth : (fun z : Instance => decide ((z.iid != i.iid) = true ∧ (z.iid == j) = true)) = fun z => z.iid == j := by
    funext z
    by_cases hz : z.iid = j
    · simp [hz, hj]
    · simp [hz]
  simp only [Core.inst?, Core.retireInst, List.find?_filter, hboth]

end

section

variable (s : State) (core j : Nat) (x : Trap) (v : Word) (y : Instance)

theorem State.payOwed_none (h : (s.core core).inst? j = some y) (ho : y.owed = none) : s.payOwed core j = s := by
  simp only [State.payOwed, h, ho]

/-- RESUME of an operation's trap: its instance is answered and goes on. -/
theorem State.resume_op (hx : x.src = .op) (hj : x.iid = some j) (hy : (s.core core).inst? j = some y) (ho : y.owed = none) :
    s.resume core x v = s.setCore core (((s.core core).answeredBy j x v).unpark j) := by
  have hans : (match x.firing with
      | some f => if x.cause = 0x10 ∨ x.cause = 0x11 then s.modCore core fun k => k.answer j f v else s
      | none => s).modCore core (fun k => k.unpark j) = s.setCore core (((s.core core).answeredBy j x v).unpark j) := by
    unfold Core.answeredBy
    split
    · split
      · exact State.modCore_modCore s core _ _
      · rfl
    · rfl
  have hz := Core.inst?_unpark _ j _ (Core.inst?_answeredBy _ j x v y hy)
  have hpay := State.payOwed_none (s.setCore core (((s.core core).answeredBy j x v).unpark j)) core j _
    ((congrArg (Core.inst? · j) (s.core_setCore_same core _)).trans hz) ho
  have hres : s.resume core x v = s.resumeInst core j x v := by
    simp only [State.resume, State.tryAgain, hx, hj]
  have hmap : x.src ≠ .mapping := by simp [hx]
  rw [hres]
  exact (congrArg (State.payOwed · core j) ((if_neg hmap).trans hans)).trans hpay

end

/-- RESUME: the parked instance goes on, its sets in the issue queue again. -/
theorem commit_eret_resume (s : State) (core addr e n slot j : Nat) (i y : Instance) (x : Trap)
    (he : i.effects = [(n, .eret slot addr)]) (h : (s.core core).ringAt addr = some (e, x))
    (ha : ringByte s core addr 1 1 = 0) (hx : x.src = .op) (hj : x.iid = some j) (hne : j ≠ i.iid)
    (hy : (s.core core).inst? j = some y) (ho : y.owed = none) : ∃ t : State, s.tryCommit core i = .ok t ∧
    (t.core core).ring = (s.core core).ring.filter (fun p => p.1 != e) ∧
    (t.core core).scratch = (s.core core).scratch ∧ CommitFrame s t core i ∧
    (∃ z, (t.core core).inst? j = some z ∧ z.parkedSets = [] ∧
      z.status = (if y.frame.isSome then .admitted else .pending)) ∧
    (t.core core).issueQ = (s.core core).issueQ ++
      x.setsAgain (BitVec.ofNat 32 (ringByte s core addr 40 4)) y.parkedSets := by
  set v := BitVec.ofNat 32 (ringByte s core addr 40 4)
  have hcore : (s.freed core e x).core core = { s.core core with ring := (s.core core).ring.filter fun p => p.1 != e } :=
    (s.core_setCore_same core _).trans (Core.freed_op e x (s.core core) hx)
  have hyf : ((s.freed core e x).core core).inst? j = some y := (congrArg (Core.inst? · j) hcore).trans hy
  set k := ((s.freed core e x).core core).answeredBy j x v
  have hans : { k with instances := ((s.freed core e x).core core).instances } = (s.freed core e x).core core :=
    Core.answeredBy_fabric _ j x v
  have hring : k.ring = (s.core core).ring.filter fun p => p.1 != e :=
    (congrArg Core.ring hans :).trans (congrArg Core.ring hcore :)
  have hscratch : k.scratch = (s.core core).scratch := (congrArg Core.scratch hans :).trans (congrArg Core.scratch hcore :)
  have hqueue : k.issueQ = (s.core core).issueQ := (congrArg Core.issueQ hans :).trans (congrArg Core.issueQ hcore :)
  have hyk : k.inst? j = some { y with parkedSets := x.setsAgain v y.parkedSets } := Core.inst?_answeredBy _ j x v y hyf
  have hpark := k.unpark_eq j _ hyk
  have hact : s.eretAct core addr = s.setCore core (k.unpark j) := by
    rw [s.eretAct_entry core addr e x h, ha]
    exact ((s.freed core e x).resume_op core j x v y hx hj hyf ho).trans (State.setCore_setCore s core _ _)
  rw [s.tryCommit_eret core addr e n slot i x he h, hact]
  refine ⟨_, rfl, ?_⟩
  rw [State.core_committed_same, State.core_setCore_same]
  refine ⟨?_, ?_, commitFrame_committed s core i _ (fun d hd => s.core_setCore_other core d _ hd) rfl, ?_, ?_⟩
  · rw [hpark]; exact hring
  · rw [hpark]; exact hscratch
  · exact ⟨_, (Core.inst?_retireInst_other _ j i hne).trans (k.inst?_unpark j _ hyk), rfl, rfl⟩
  · rw [hpark, ← hqueue]; rfl

/-- Settles O50: each effect by the lemma of its commit. -/
theorem commitTakesEffect : Obligations.CommitTakesEffect := by
  unfold Obligations.CommitTakesEffect
  refine ⟨?write, ?store, ?resume, ?substitute, ?error, ?unused⟩
  case write => exact fun s core reg n i c l he hc _ => commit_writeReg s core reg n i c l he hc
  case store => exact fun s t core slot a n i bs ht hw hc he => commit_store s t core slot a n i bs ht hw hc he
  case resume =>
    intro s core addr e n slot j i y x he h ha hx hj hne hy ho
    obtain ⟨t, ht, hring, hscratch, hframe, hinst, hqueue⟩ :=
      commit_eret_resume s core addr e n slot j i y x he h ha hx hj hne hy ho
    refine ⟨t, ht, hring, hscratch, hframe, hinst, fun hc hc' => ?_, fun f hf hc => ?_⟩
    · rw [hqueue, x.setsAgain_unanswered _ _ hc hc']
    · rw [hqueue, x.setsAgain_answered _ _ f hf hc]
  case substitute =>
    intro s u core addr e n slot j i x f o m v he h ha hok hj hf hv hu ho hm hn
    exact commit_eret_substitute s core addr e n slot i x u j f o m v he h ha hok hj hf hv hu ho hm hn
  case error =>
    intro s core addr e n slot i x l he h ha hl hp
    exact commit_eret_end s core addr e n slot i x l he h ha hl hp
  case unused => exact fun s core addr n slot i he h => commit_eret_unused s core addr n slot i he h

end Sys2Proof.Machine

/-! PROOFS. The family of the Conservatory (R143 to R160) and of collectives (R318 to R320): the steps of world stores
and the completion of a collective. -/

namespace Sys2Proof.Machine

open Sys2Proof Sys2Proof.Claims

/-! ### World steps (R154, R156, R159) -/

/-- A bound store changed by what keeps its partition and its id. -/
theorem State.store?_modStore_same (s : State) (part id : Nat) (f : Store → Store) (t : Store)
    (h : s.store? part id = some t) (hpart : (f t).part = t.part) (hid : (f t).id = t.id) :
    (s.modStore part id f).store? part id = some (f t) := by
  have hkey : (t.part == part && t.id == id) = true :=
    List.find?_some (p := fun x : Store => x.part == part && x.id == id) h
  exact find?_modFirst _ f s.stores t h (by rw [hpart, hid]; exact hkey)

/-- A write under way is taken off its store and buffered in the store that is left. -/
theorem execScatterWriteBuffer_buffers (s : State) (part store n : Nat) (t : Store) (w : SWrite)
    (ht : s.store? part store = some t) (hw : t.pending[n]? = some w) : execScatterWriteBuffer part store n s =
      .next ((s.modStore part store fun x => { x with pending := delAt x.pending n }).bufferWrite
        { t with pending := delAt t.pending n } w) := by
  have htaken := s.store?_modStore_same part store (fun x => { x with pending := delAt x.pending n }) t ht rfl rfl
  simp [execScatterWriteBuffer, ht, hw, htaken]

theorem execWorldStepArrival_arrives (s : State) (core n : Nat) (h : Held) (t : Store)
    (hh : (s.core core).heldWhere (fun h => (s.arrivesOn core h).isSome) = some (n, h))
    (ht : s.arrivesOn core h = some t) : execWorldStepArrival core s = .next ((s.modCore core fun k =>
      { k with held := setAt k.held n { h with wait := .worldClose t.id t.step } }).modStore t.part t.id fun x =>
        { x with arrived := addMem x.arrived (s.coreRank core) }) := by
  simp [execWorldStepArrival, hh, ht]

theorem execWorldStepClose_closes (s : State) (part store : Nat) (t : Store) (l : Launch)
    (ht : s.store? part store = some t) (hl : s.launch t.lid = some l) (hclose : t.mayClose l = true)
    (hsteps : s.stepsOn l = true) : execWorldStepClose part store s =
      .next (l.cores.foldl (fun s c => s.completeHeld c (fun h => h.wait == .worldClose t.id t.step)
        (BitVec.ofNat 32 t.step) (s.core c).held.length) (s.closeStep t)) := by
  simp [execWorldStepClose, ht, hl, hclose, hsteps]

/-! ### The completion of a collective (R319, R320) -/

/-- Participants that agree with the first agree as the completion asks it. -/
theorem Coll.sameParams_of_first (k : Coll) (p : CollPart) (ps : List CollPart) (hk : k.arrived = p :: ps)
    (hsame : ∀ q ∈ ps, q.params = p.params) :
    (k.arrived.all fun q => q.params == ((k.arrived.head?.map fun q => q.params).getD [])) = true := by
  simpa [hk] using hsame

theorem execCollectiveComplete_performs (s s1 s2 : State) (k : Coll) (p : CollPart) (ps : List CollPart)
    (blocks : List (List PByte)) (hready : s.colls.find? s.collReady = some k) (hk : k.arrived = p :: ps)
    (hsame : ∀ q ∈ ps, q.params = p.params) (hreads : s.collReads k (s.collParts k) s = .ok (blocks, s1))
    (hwrites : s.collWrites k (k.blocks blocks) (fun j => Config.freeNat (s1.drawFree.1 + j)) (s.collParts k)
      s1.drawFree.2 = .ok s2) : execCollectiveComplete s =
      .next (k.arrived.foldl (fun s p => s.collDone k p) (s2.endColl k)) := by
  have hagree := k.sameParams_of_first p ps hk hsame
  simp only [execCollectiveComplete, hready, hagree, Bool.not_true, Bool.false_eq_true, if_false, hreads, hwrites]

/-- Settles O54: each step by the lemma of its case. -/
theorem groupStepsComplete : Obligations.GroupStepsComplete := by
  unfold Obligations.GroupStepsComplete
  refine ⟨?buffer, execWorldStepArrival_arrives, execWorldStepClose_closes, execCollectiveComplete_performs⟩
  case buffer =>
    exact fun s part store n t w ht hw => ⟨_, execScatterWriteBuffer_buffers s part store n t w ht hw, rfl⟩

end Sys2Proof.Machine

/-! PROOFS. The family of traps and pre-emption (R186 to R207): the delivery of a trap, and the steps of a pre-emption
and of a restore. -/

namespace Sys2Proof.Machine

open Sys2Proof Sys2Proof.Claims

/-! ### The delivery of a trap (R141, R188, R189) -/

theorem Trap.length_bytes (x : Trap) (seq : Nat) : (x.bytes seq).length = 64 := by simp [Trap.bytes]

/-- A clean piece that fills its line of a scratchpad also clears the line's poison (R141). -/
theorem State.performSeg_fullLine (s : State) (c a : Nat) (bs : List Byte) (h : bs.length = 64) :
    s.performSeg { loc := .scratch c a, bytes := bs, poison := false } = s.setCore c
      ((s.core c).stored a bs ((s.core c).scratchPoison.filter fun y => y != lineOf a) (s.core c).scratchRecs) := by
  simp only [State.performSeg, State.writeLoc, State.setPoison, h, if_true, Bool.false_eq_true, if_false,
    State.modCore_modCore]
  rfl

/-- The token that gives a handler the address of its trap's record. -/
def handlerArg (iid a : Nat) : Token := Token.mk iid 0 0 1 (oneLane 0 (BitVec.ofNat 32 a)) none none none false

/-- The instance of the handler block that a delivered trap names. -/
def handlerInst (iid trapvec : Nat) : Instance := Instance.fresh iid { colour := 0, fields := [] } (64 * trapvec) true

/-- A core whose handler block is named for a trap whose record stands at a ring entry's address. -/
def Core.handlerNamed (k : Core) (x : Trap) (e a : Nat) : Core :=
  { k with
    ring := k.ring ++ [(e, x)],
    regs := { k.regs with trapSeq := (k.regs.trapSeq + 1) % 65536, trapWaiting := false },
    nextIid := k.nextIid + 1,
    instances := k.instances ++ [handlerInst k.nextIid k.regs.trapvec],
    inflight := k.inflight ++ [handlerArg k.nextIid a] }

/-- A core as the delivery of a trap leaves it, its record at a ring entry's address. The record is an argument, so that
what the core then holds is compared without its bytes being computed. -/
def Core.delivered (k : Core) (x : Trap) (e a : Nat) (record : List Byte) : Core :=
  (k.stored a record (k.scratchPoison.filter fun y => y != lineOf a) k.scratchRecs).handlerNamed x e a

theorem State.core_deliverTrap (s : State) (c : Nat) (x : Trap) (e a : Nat) (record : List Byte)
    (ha : a = (s.core c).regs.ringAddr e) (hr : record = x.bytes (s.core c).regs.trapSeq) :
    (s.deliverTrap c x e).core c = (s.core c).delivered x e a record := by
  have hlen : record.length = 64 := hr ▸ x.length_bytes _
  rw [State.deliverTrap, State.core_modCore_same, ← ha, ← hr, s.performSeg_fullLine c a record hlen,
    State.core_setCore_same]
  simp only [CoreRegs.handlerBlock, Nat.mul_comm _ 64]
  rfl

section

variable (s : State) (core : Nat) (x : Trap) (rest : List Trap) (hx : (s.core core).traps = x :: rest)
include hx

/-- With the ring full a trap waits. -/
theorem execTrapDelivery_waits (h : (s.core core).freeRing = none) : execTrapDelivery core s = .next
    (s.setCore core { s.core core with regs := { (s.core core).regs with trapWaiting := true } }) := by
  simp only [execTrapDelivery, hx, h]

theorem execTrapDelivery_delivers (e a : Nat) (record : List Byte) (he : (s.core core).freeRing = some e)
    (ha : a = (s.core core).regs.ringAddr e) (hr : record = x.bytes (s.core core).regs.trapSeq) : ∃ t,
    execTrapDelivery core s = .next t ∧
      t.core core = Core.delivered { s.core core with traps := rest } x e a record := by
  refine ⟨(s.setCore core { s.core core with traps := rest }).deliverTrap core x e, ?_, ?_⟩
  · simp only [execTrapDelivery, hx, he]
  · have hk := s.core_setCore_same core { s.core core with traps := rest }
    rw [State.core_deliverTrap _ core x e a record (by rw [hk]; exact ha) (by rw [hk]; exact hr), hk]

end

/-- Settles O51: the record is read back, and the bytes beside it stay, by the rules of a write to memory; a record
fills its line, so that the line's poison is cleared. -/
theorem trapsDelivered : Obligations.TrapsDelivered := by
  unfold Obligations.TrapsDelivered
  intro s core x rest hx hw
  refine ⟨fun hfull => ?waits, fun e a he ha => ?delivered⟩
  case waits =>
    refine ⟨_, execTrapDelivery_waits s core x rest hx hfull, ?_⟩
    rw [State.core_setCore_same]
    exact ⟨hx, rfl, rfl⟩
  case delivered =>
    obtain ⟨record, hr⟩ : ∃ record, record = x.bytes (s.core core).regs.trapSeq := ⟨_, rfl⟩
    have hlen : record.length = 64 := hr ▸ x.length_bytes _
    obtain ⟨t, ht, hcore⟩ := execTrapDelivery_delivers s core x rest hx e a record he ha hr
    refine ⟨t, handlerInst (s.core core).nextIid (s.core core).regs.trapvec, ht, ?_⟩
    rw [hcore, ← hr]
    refine ⟨rfl, ?read, ?clean, ?others, rfl, rfl, rfl, rfl, rfl, rfl, rfl⟩
    case read => exact hlen ▸ memRead_memWrite _ a record hw
    case clean => simp [Core.delivered, Core.handlerNamed, Core.stored]
    case others => exact fun b hb => memByte_memWrite_other _ a b record hw (hlen.symm ▸ hb)

/-! ### Gating (R195, R207) -/

/-- A core gated, as each core of a set is when its pre-emption begins. -/
def State.gate (s : State) (c : Nat) : State := s.modCore c fun k => { k with gated := true }

theorem State.gated_gate (s : State) (c d : Nat) : ((s.gate c).core d).gated = ((s.core d).gated || d == c) := by
  by_cases h : d = c
  · simp [State.gate, h]
  · simp [State.gate, s.core_modCore_other c d _ h, h]

theorem State.gated_foldl_gate (cores : List Nat) (s : State) (d : Nat) (h : (s.core d).gated = true ∨ d ∈ cores) :
    ((cores.foldl State.gate s).core d).gated = true := by
  induction cores generalizing s with
  | nil => simpa using h
  | cons c r ih =>
    exact ih (s.gate c) (by simpa [State.gated_gate, or_assoc] using h)

theorem State.postUndeliverable_coresStand (s : State) (lid : Option Nat) (core : Nat) (write : Bool) (addr : Nat) :
    s.CoresStand (s.postUndeliverable lid core write addr) := by
  unfold State.postUndeliverable; split <;> exact s.postRec_coresStand _

/-- A packet to another module leaves the cores as they are, but for a fault record where it has no route. -/
theorem State.sendPacket_coresStand (s : State) (m cls kind : Nat) (lid : Option Nat) (args : List Nat) (bs : List Byte) :
    s.CoresStand (s.sendPacket m cls kind lid args bs) := by
  have hroute : s.CoresStand (s.checkRoute m) := .of_cores (s.checkRoute_cores m)
  unfold State.sendPacket State.sendBody
  dsimp only
  split
  · exact hroute.trans (State.postUndeliverable_coresStand _ _ _ _ _)
  · exact hroute.trans (.of_cores (congrArg State.cores (State.sendOn_frame _ _ _ _ _ _) :))

theorem State.CoresStand.foldl {α : Type} (f : State → α → State) (hf : ∀ s a, State.CoresStand s (f s a)) (l : List α)
    (s : State) : s.CoresStand (l.foldl f s) :=
  List.foldlRecOn (motive := fun t : State => s.CoresStand t) l f (.of_cores rfl) fun t h a _ => h.trans (hf t a)

theorem State.CoresStand.gated {s t : State} (h : s.CoresStand t) (c : Nat) : (t.core c).gated = (s.core c).gated := by
  obtain ⟨m, hm⟩ := h c
  rw [hm]

/-- The absence of a launch told to the modules and groups that must hear of it (R207). -/
def State.tellAbsence (s : State) (l : Launch) : State :=
  ((s.openProxies l).foldl (fun t q => t.sendPacket q.1 3 2 (some l.lid) [q.1, q.2] []) s).modLaunch l.lid fun x =>
    { x with proxies := x.proxies ++ s.openProxies l }

theorem State.tellAbsence_coresStand (s : State) (l : Launch) : s.CoresStand (s.tellAbsence l) :=
  (State.CoresStand.foldl _ (fun t _ => t.sendPacket_coresStand _ _ _ _ _ _) _ s).trans (.of_cores rfl)

theorem execPreemptGating_gates (s : State) (l : Launch) (h : s.launch l.lid = some l) (hp : l.phase = .preempting)
    (hopen : ∃ c ∈ l.cores, (s.core c).gated = false) :
    execPreemptGating l.lid s = .next ((l.cores.foldl State.gate s).tellAbsence l) := by
  have hall : (l.cores.all fun c => (s.core c).gated) = false := by simpa using hopen
  simp only [execPreemptGating, h, hp, hall, bne_self_eq_false, Bool.or_self, Bool.false_eq_true, if_false]
  rfl

/-! ### The drain (R195, R201) -/

/-- A core that has stopped to write an image of a kind into a slot and leaves the header's 256 bytes for the end. -/
def Core.beginsSave (k : Core) (slot : Nat) (full inflight : Bool) : Prop :=
  k.frozen = true ∧ ∃ x, k.saving = some x ∧ x.slot = slot ∧ x.full = full ∧ x.inflight = inflight ∧ x.written = 256

section

variable (s : State) (core : Nat) (l : Launch)

/-- A core that drains for no cancel, and whose image fits the free slot, begins its save (R201). -/
theorem State.drained_beginsSave (slot : Nat) (full inflight : Bool) (hpre : ∀ r, l.pre = some r → r.status = none)
    (hslot : s.freeSlot l.part = some slot)
    (hfit : (s.core core).imageSize full ≤ (s.part l.part).saveSlotSz * 65536) :
    ((s.drained core l full inflight).core core).beginsSave slot full inflight := by
  have hstatus : l.pre.bind PreReason.status = none := by
    cases h : l.pre with
    | none => rfl
    | some r => exact hpre r h
  simp only [State.drained, hstatus, State.probeSave, hslot, hfit, if_true]
  have hcore (k : Core) (n : Nat) : State.core { s.setCore core k with freeCtr := n } core = k := s.core_setCore_same core k
  rw [hcore]
  exact ⟨rfl, _, rfl, rfl, rfl, rfl, rfl⟩

theorem execQuiescence_atRest (hd : s.draining core = some l)
    (hrest : ∀ c ∈ l.cores, ((s.core c).atRest = true ∧ s.asksOut c = false) ∨ (s.core c).saving.isSome = true) :
    execQuiescence core s = .next (s.drained core l (!(s.core core).noTokens) false) := by
  have hall : (l.cores.all fun c => ((s.core c).atRest && !s.asksOut c) || (s.core c).saving.isSome) = true := by
    simpa using hrest
  simp only [execQuiescence, hd, hall, if_true]

theorem execDrainLimitExpiry_expires (hd : s.draining core = some l) :
    execDrainLimitExpiry core s = .next (s.drained core l true true) := by
  simp only [execDrainLimitExpiry, hd]

end

/-! ### The save and the answers to its faults (R198, R202, R203, R391) -/

/-- The state in which a core has its image written and kept: the image stands in its slot, and the save is complete. -/
def State.imageKept (s : State) (core : Nat) (l : Launch) (sv : Saving) (rank size : Nat) : State :=
  State.modCore { s with images := s.images ++ [(Image.mk l.part sv.slot l.lid rank sv.full size
    { s.core core with saving := none })] } core fun k => { k with saving := some { sv with complete := true } }

theorem execImageSave_completes (s s1 s2 s3 : State) (core slot : Nat) (sv : Saving) (l : Launch) (secs : List (List Byte))
    (body : List Byte) (hsv : (s.core core).saving = some sv) (hl : s.coreLaunch core = some l)
    (hc : sv.complete = false) (hf : sv.fault = none) (hslot : slot = s.slotAddr l.part sv.slot)
    (h1 : saveCands core l.part (s.core core).binds s = (s1, none)) (hsecs : secs = (s1.core core).sections sv.base sv.full)
    (hbody : body = secs.flatMap pad64)
    (h2 : s1.saveRange l.part (slot + sv.written) (body.drop (sv.written - 256)) = (s2, none))
    (h3 : s2.saveRange l.part slot ((s1.core core).imageHeader (s.imageOf core l) sv.full sv.inflight secs) = (s3, none)) :
    execImageSave core s =
      .next ((s3.imageKept core l sv (s.coreRank core) (256 + body.length)).releaseSaved l.lid) := by
  have hgo : (sv.complete || sv.fault.isSome) = false := by simp [hc, hf]
  simp only [execImageSave, hsv, hl, hgo, Bool.false_eq_true, if_false, ← hslot, h1, ← hsecs, ← hbody, h2, h3]
  rfl

section

variable (s : State) (part id lid rank : Nat) (o : Outstanding) (h : s.saveAnswered part id = some o)
include h

theorem execSaveResume_save (c : Nat) (ho : o.owner = .save lid rank) (hc : s.rankOf lid rank = some c) :
    execSaveResume part id s = .next ((s.withdrawFault id).modCore c fun k =>
      { k with saving := k.saving.map fun x => { x with fault := none } }) := by
  simp only [execSaveResume, h, ho, hc]

theorem execSaveAbandon_save (c : Nat) (ho : o.owner = .save lid rank) (hc : s.rankOf lid rank = some c) :
    execSaveAbandon part id s =
      .next ((s.withdrawFault id).failPreempt lid (s.saveAt c o.va).1 (s.saveAt c o.va).2) := by
  simp only [execSaveAbandon, h, ho, hc]

theorem execSaveResume_restore (ho : o.owner = .restore lid rank) :
    execSaveResume part id s = .next (s.withdrawFault id) := by
  simp only [execSaveResume, h, ho]

theorem execSaveAbandon_restore (ho : o.owner = .restore lid rank) :
    execSaveAbandon part id s = .next ((s.withdrawFault id).endLaunch lid 4 0xFFFD) := by
  simp only [execSaveAbandon, h, ho]

end

theorem execPreemptRetry_again (s : State) (l : Launch) (h : s.launch l.lid = some l) (hp : l.phase = .running)
    (hr : l.pre = some .resize ∨ l.pre = some .retire) :
    execPreemptRetry l.lid s = .next (s.modLaunch l.lid fun x => { x with phase := .preempting }) := by
  obtain hr | hr := hr <;> simp [execPreemptRetry, h, hp, hr]

/-! ### The restore (R205) -/

section

variable (s : State) (core : Nat) (l : Launch) (img : Image) (bs : List PByte) (hl : s.coreLaunch core = some l)
  (hp : l.phase = .resuming) (hr : has l.restored (s.coreRank core) = false)
  (hw : s.restoreWaits l.lid (s.coreRank core) = false)
  (hi : s.images.find? (fun x => x.lid == l.lid && x.rank == s.coreRank core) = some img)
  (hb : s.pavRead l.part (s.slotAddr l.part img.slot) img.size = .ok bs)
include hl hp hr hw hi hb

theorem execLaunchRestore_restores (hgood : imageGood (bs.map fun b => b.1) = true)
    (hclean : bs.any (fun b => b.2) = false)
    (hcands : s.candFault core l.part (img.kept.load9 (imageSection (bs.map fun b => b.1) 9)).binds = none) :
    execLaunchRestore core s = .next (s.restoreCore core l img (bs.map fun b => b.1)) := by
  simp only [execLaunchRestore, hl, hp, hr, hw, hi, hb, hgood, hclean, hcands, bne_self_eq_false, Bool.or_self,
    Bool.not_true, Bool.false_eq_true, if_false]

/-- An image whose header or digest is not good ends its launch. -/
theorem execLaunchRestore_badImage (hbad : imageGood (bs.map fun b => b.1) = false) :
    execLaunchRestore core s = .next (s.endLaunch l.lid 4 0xFFFD) := by
  simp only [execLaunchRestore, hl, hp, hr, hw, hi, hb, hbad, bne_self_eq_false, Bool.or_self, Bool.not_false,
    Bool.true_or, Bool.false_eq_true, if_false, if_true]

end

/-- Settles O55: the set's cores are gated before the absence tokens go, which leave them; a core at rest and one whose
drain limit has passed begin their saves alike; every other step by the lemma of its case. -/
theorem preemptionStepsComplete : Obligations.PreemptionStepsComplete := by
  unfold Obligations.PreemptionStepsComplete
  refine ⟨?gating, ?quiescence, ?drainLimit, execImageSave_completes, ?save, ?restore, execPreemptRetry_again, ?image⟩
  case gating =>
    intro s l h hp hopen
    exact ⟨_, execPreemptGating_gates s l h hp hopen, fun c hc =>
      ((State.tellAbsence_coresStand _ l).gated c).trans (State.gated_foldl_gate l.cores s c (.inr hc))⟩
  case quiescence =>
    intro s core slot size full l hd hpre hslot hfull hsize hfit hrest
    subst hfull hsize
    exact ⟨_, execQuiescence_atRest s core l hd hrest, s.drained_beginsSave core l slot _ false hpre hslot hfit⟩
  case drainLimit =>
    intro s core slot size l hd hpre hslot hsize hfit
    subst hsize
    exact ⟨_, execDrainLimitExpiry_expires s core l hd, s.drained_beginsSave core l slot true true hpre hslot hfit⟩
  case save =>
    exact fun s part id lid rank c o h ho hc =>
      ⟨execSaveResume_save s part id lid rank o h c ho hc, execSaveAbandon_save s part id lid rank o h c ho hc⟩
  case restore =>
    exact fun s part id lid rank o h ho =>
      ⟨execSaveResume_restore s part id lid rank o h ho, execSaveAbandon_restore s part id lid rank o h ho⟩
  case image =>
    exact fun s core l img bs hl hp hr hw hi hb =>
      ⟨execLaunchRestore_restores s core l img bs hl hp hr hw hi hb,
        execLaunchRestore_badImage s core l img bs hl hp hr hw hi hb⟩

end Sys2Proof.Machine

/-! PROOFS. The family of the encodings (R231 to R246, R277, R287): what the decoder reads in the words of the encoder, which
instructions it gives back, the three-operand forms, and the words of the spec. -/

namespace Sys2Proof

/-! ### Words and their bytes (R4, R247) -/

theorem takeWord_wordBytes (w : Nat) (rest : List Byte) (hw : w < 2 ^ 32) :
    takeWord (wordBytes w ++ rest) = some (w, rest) := by
  simp only [wordBytes, List.cons_append, List.nil_append, takeWord, BitVec.toNat_ofNat, Option.some.injEq, Prod.mk.injEq,
    and_true]
  omega

theorem decode_word {w : Nat} {i : Instr} (hw : w < 2 ^ 32) (hext : hasExt w = false) (hdec : decodeWords w 0 = .ok i)
    (rest : List Byte) : decode (wordBytes w ++ rest) = .ok (i, rest) := by
  rw [decode, takeWord_wordBytes w rest hw]
  simp only [hext, hdec, Except.map, Bool.false_eq_true, if_false]

theorem decode_words {w x : Nat} {i : Instr} (hw : w < 2 ^ 32) (hx : x < 2 ^ 32) (hext : hasExt w = true)
    (hdec : decodeWords w x = .ok i) (rest : List Byte) : decode (wordBytes w ++ (wordBytes x ++ rest)) = .ok (i, rest) := by
  rw [decode, takeWord_wordBytes w _ hw]
  simp only [hext, takeWord_wordBytes x rest hx, hdec, Except.map, if_true]

/-! ### The fields of an operation word (R231) -/

/-- What the decoder reads in an operation word with opcode `op`, type field `ty` and the fields `h`: the opcode whole and
in its two parts, the type field whole and in its two parts, and `h`. Facts about a word stated through it keep the word
itself a variable, which the kernel does not evaluate. -/
structure Spells (w op ty : Nat) (h : OpWord) : Prop where
  lt : w < 2 ^ 32
  opcode : fieldOf w 25 7 = op
  group : fieldOf w 29 3 = op / 16
  low : fieldOf w 25 4 = op % 16
  tyAll : fieldOf w 18 3 = ty
  tyHigh : fieldOf w 20 1 = ty / 4
  tyLow : fieldOf w 18 2 = ty % 4
  ar : fieldOf w 23 2 = h.ar.toNat
  word : opWord w = h

theorem encOp_spells {op ty : Nat} (h : OpWord) (hop : op < 128) (hty : ty < 8) : Spells (encOp op ty h) op ty h := by
  obtain ⟨ar, tg, t0, t1⟩ := h
  constructor <;>
    simp only [encOp, fieldOf, opWord, OpWord.mk.injEq, BitVec.toNat_eq, BitVec.toNat_ofNat] <;> omega

@[simp] theorem fieldOf_zero (lo width : Nat) : fieldOf 0 lo width = 0 := by simp [fieldOf]

/-! ### The codes of the fields (R209, R234) -/

@[simp] theorem ITy.ofCode_code (t : ITy) : ITy.ofCode t.code = some t := by cases t <;> rfl

@[simp] theorem I32Ty.ofCode_code (t : I32Ty) : I32Ty.ofCode t.code = some t := by cases t <;> rfl

@[simp] theorem I8Ty.ofCode_code (t : I8Ty) : I8Ty.ofCode t.code = some t := by cases t <;> rfl

@[simp] theorem CondTy.ofCode_code (t : CondTy) : CondTy.ofCode t.code = some t := by cases t <;> rfl

@[simp] theorem FTy.ofCode_code (t : FTy) : FTy.ofCode t.code = some t := by cases t <;> rfl

@[simp] theorem UntTy.ofCode_code (t : UntTy) : UntTy.ofCode t.code = some t := by cases t <;> rfl

@[simp] theorem VOp.ofCode_code (t : VOp) : VOp.ofCode t.code = some t := by cases t <;> rfl

@[simp] theorem LdTy.ofCode_code (t : LdTy) : LdTy.ofCode t.code = some t := by cases t <;> rfl

@[simp] theorem StTy.ofCode_code (t : StTy) : StTy.ofCode t.code = some t := by cases t <;> rfl

@[simp] theorem Rm.ofCode_code (t : Rm) : Rm.ofCode t.code = some t := by cases t <;> rfl

@[simp] theorem Fmt.ofCode_code (t : Fmt) : Fmt.ofCode t.code = some t := by cases t <;> rfl

@[simp] theorem FsgnMode.ofCode_code (t : FsgnMode) : FsgnMode.ofCode t.code = some t := by cases t <;> rfl

@[simp] theorem FcmpCond.ofCode_code (t : FcmpCond) : FcmpCond.ofCode t.code = some t := by cases t <;> rfl

@[simp] theorem VlaneMode.ofCode_code (t : VlaneMode) : VlaneMode.ofCode t.code = some t := by cases t <;> rfl

@[simp] theorem AtomOp.ofCode_code (t : AtomOp) : AtomOp.ofCode t.code = some t := by cases t <;> rfl

@[simp] theorem MemOrd.ofCode_code (t : MemOrd) : MemOrd.ofCode t.code = some t := by cases t <;> rfl

@[simp] theorem FenceKind.ofCode_code (t : FenceKind) : FenceKind.ofCode t.code = some t := by cases t <;> rfl

@[simp] theorem CredOp.ofCode_code (t : CredOp) : CredOp.ofCode t.code = some t := by cases t <;> rfl

@[simp] theorem MKind.ofCode_code (t : MKind) : MKind.ofCode t.code = some t := by cases t <;> rfl

@[simp] theorem PtOp.ofCode_code (t : PtOp) : PtOp.ofCode t.code = some t := by cases t <;> rfl

@[simp] theorem PSel.ofCode_code (t : PSel) : PSel.ofCode t.code = some t := by cases t <;> rfl

@[simp] theorem PWhich.ofCode_code (t : PWhich) : PWhich.ofCode t.code = some t := by cases t <;> rfl

@[simp] theorem ITy.code_lt (t : ITy) : t.code < 8 := by cases t <;> decide

@[simp] theorem I32Ty.code_lt (t : I32Ty) : t.code < 8 := by cases t <;> decide

@[simp] theorem I8Ty.code_lt (t : I8Ty) : t.code < 8 := by cases t <;> decide

@[simp] theorem CondTy.code_lt (t : CondTy) : t.code < 8 := by cases t <;> decide

@[simp] theorem FTy.code_lt (t : FTy) : t.code < 4 := by cases t <;> decide

@[simp] theorem UntTy.code_lt (t : UntTy) : t.code < 8 := by cases t <;> decide

@[simp] theorem VOp.code_lt (t : VOp) : t.code < 8 := by cases t <;> decide

@[simp] theorem LdTy.code_lt (t : LdTy) : t.code < 8 := by cases t <;> decide

@[simp] theorem StTy.code_lt (t : StTy) : t.code < 8 := by cases t <;> decide

theorem Rm.code_lt (t : Rm) : t.code < 4 := by cases t <;> decide

theorem Fmt.code_lt (t : Fmt) : t.code < 16 := by cases t <;> decide

theorem FsgnMode.code_lt (t : FsgnMode) : t.code < 4 := by cases t <;> decide

theorem FcmpCond.code_lt (t : FcmpCond) : t.code < 8 := by cases t <;> decide

theorem VlaneMode.code_lt (t : VlaneMode) : t.code < 4 := by cases t <;> decide

theorem AtomOp.code_lt (t : AtomOp) : t.code < 16 := by cases t <;> decide

theorem MemOrd.code_lt (t : MemOrd) : t.code < 4 := by cases t <;> decide

theorem FenceKind.code_lt (t : FenceKind) : t.code < 4 := by cases t <;> decide

theorem CredOp.code_lt (t : CredOp) : t.code < 16 := by cases t <;> decide

theorem MKind.code_lt (t : MKind) : t.code < 4 := by cases t <;> decide

theorem PtOp.code_lt (t : PtOp) : t.code < 4 := by cases t <;> decide

theorem PSel.code_lt (t : PSel) : t.code < 4 := by cases t <;> decide

theorem PWhich.code_lt (t : PWhich) : t.code < 8 := by cases t <;> decide

@[simp] theorem FTy.code_lt_eight (t : FTy) : t.code < 8 := t.code_lt.trans (by decide)

@[simp] theorem FTy.code_add_four_lt (t : FTy) : t.code + 4 < 8 := Nat.add_lt_add_right t.code_lt 4

@[simp] theorem FTy.code_mod_four (t : FTy) : t.code % 4 = t.code := Nat.mod_eq_of_lt t.code_lt

/-- The rounding mode in an extension word of its own (R212). -/
theorem Rm.reads {x : Nat} {rm : Rm} (hx : x = rm.code) : fieldOf x 2 30 = 0 ∧ fieldOf x 0 2 = rm.code := by
  have hrm := rm.code_lt
  simp only [fieldOf]
  omega

/-! ### Instructions that the decoder gives back -/

/-- Whether an instruction's bytes decode to it, whatever follows them. -/
def Instr.RoundTrips (i : Instr) : Prop := ∀ rest, decode (encode i ++ rest) = .ok (i, rest)

section

variable {i : Instr} {op ty ext : Nat} {h : OpWord}

theorem roundTrips_word (hop : op < 128) (hty : ty < 8) (hwords : encodeWords i = [encOp op ty h])
    (hext : ∀ w, Spells w op ty h → hasExt w = false) (hdec : ∀ w, Spells w op ty h → decodeWords w 0 = .ok i) :
    i.RoundTrips := by
  intro rest
  have hw := encOp_spells h hop hty
  rw [encode, hwords, List.flatMap_singleton]
  exact decode_word hw.lt (hext _ hw) (hdec _ hw) rest

theorem roundTrips_words (hop : op < 128) (hty : ty < 8) (hwords : encodeWords i = [encOp op ty h, ext]) (hlt : ext < 2 ^ 32)
    (hext : ∀ w, Spells w op ty h → hasExt w = true)
    (hdec : ∀ w x, Spells w op ty h → x = ext → decodeWords w x = .ok i) : i.RoundTrips := by
  intro rest
  have hw := encOp_spells h hop hty
  rw [encode, hwords, List.flatMap_cons, List.flatMap_singleton, List.append_assoc]
  exact decode_words hw.lt hlt (hext _ hw) (hdec _ _ hw rfl) rest

/-- A form whose unlisted bits must be zero. -/
theorem guard_eq_ok_iff {c : Prop} [Decidable c] {e : DecodeError} {j : Instr} :
    (if c then Except.ok i else Except.error e) = .ok j ↔ c ∧ i = j := by
  by_cases hc : c <;> simp [hc]

end

/-- Whether the decoder admits every element format of an instruction in its field (R290, R318, R338, R341, R342), which
`Instr.extOk` does not ask. -/
def Instr.FormatsAdmitted : Instr → Prop
  | .fcvt _ _ _ src dst => cvtFmt.ofCode src.code = some src ∧ cvtFmt.ofCode dst.code = some dst
  | .cred _ _ fmt _ _ => credFmt.ofCode fmt.code = some fmt
  | .mma _ fmt _ _ _ => mmaFmt.ofCode fmt.code = some fmt
  | .mmsp _ fmt _ _ _ _ _ => mmaFmt.ofCode fmt.code = some fmt
  | .mcomp _ fmt _ _ _ _ _ => mmaFmt.ofCode fmt.code = some fmt
  | .mqnt _ fmt _ _ _ _ => mqntFmt.ofCode fmt.code = some fmt
  | .mdeq _ df _ _ _ _ => mdeqFmt.ofCode df.code = some df
  | _ => True

/-- A partner word (R236) has no extension word, and reads as if its extension fields were zero. -/
def Instr.PartnerBare : Instr → Prop
  | .cas h ord scope g hi => h.ar = 1 → ord = .relaxed ∧ scope = 0 ∧ g = 0 ∧ hi = 0
  | .fmaRounding h _ rm => h.ar = 1 → rm = .rne
  | _ => True

theorem Instr.partnerBare_of_wellFormed (i : Instr) (hwf : i.wellFormed = true) : i.PartnerBare := by
  cases i
  case cas h ord scope g hi =>
    intro har
    simp_all [Instr.wellFormed, Instr.opWord?, Instr.extOk]
  case fmaRounding h ty rm =>
    intro har
    simp_all [Instr.wellFormed, Instr.opWord?, Instr.extOk]
  all_goals trivial

/-- The secondary opcode of a form behind the escape opcode (R246). -/
def Instr.secondary? : Instr → Option Nat
  | .mtrn _ _ _ => some 0
  | .maccr _ _ _ _ _ => some 1
  | .mcor _ _ _ _ _ _ _ _ => some 2
  | .mtri _ _ _ _ _ => some 3
  | .mwy _ _ _ _ _ _ _ => some 4
  | .mstep _ _ _ => some 5
  | .mgrd _ _ => some 6
  | .ptset _ _ _ => some 7
  | .ptop _ _ _ _ _ => some 8
  | .ply _ _ _ _ _ _ _ => some 16
  | .plyc _ _ _ => some 17
  | .plyf _ _ => some 18
  | .warp _ => some 19
  | .reel _ _ => some 20
  | _ => none

theorem roundTrips_escape {i : Instr} {ext sec : Nat} {h : OpWord} (hwords : encodeWords i = [encOp 127 0 h, ext])
    (hsec : i.secondary? = some sec ∧ ext / 2 ^ 22 = sec) (hlt : ext < 2 ^ 32)
    (hdec : ∀ w x, opWord w = h → fieldOf w 18 3 = 0 → fieldOf x 22 10 = sec → x = ext → decEscape w x = .ok i) :
    i.RoundTrips := by
  refine roundTrips_words (by decide) (by decide) hwords hlt (fun w hw => ?_) fun w x hw hx => ?_
  · simp [hasExt, hw.opcode]
  · have hread : fieldOf x 22 10 = sec := by simp only [fieldOf]; omega
    simpa [decodeWords, hw.group, hw.low, decGroup7] using hdec w x hw.word hw.tyAll hread hx

/-! ### Forms with named codes in the extension word -/

section

variable (h : OpWord)

theorem roundTrips_fsgn (ty : FTy) (mode : FsgnMode) : (Instr.fsgn h ty mode).RoundTrips := by
  have hmode := mode.code_lt
  refine roundTrips_words (by decide) (by simp) rfl (by omega) (fun w hw => ?_) fun w x hw hx => ?_
  · simp [hasExt, hw.opcode]
  · have hread : fieldOf x 0 2 = mode.code := by simp only [fieldOf]; omega
    simp [decodeWords, hw.group, hw.low, hw.tyAll, hw.word, decGroup3, decFsgn, hread]
    simp only [fieldOf]
    omega

theorem roundTrips_fcmp (ty : FTy) (cond : FcmpCond) : (Instr.fcmp h ty cond).RoundTrips := by
  have hcond := cond.code_lt
  refine roundTrips_words (by decide) (by simp) rfl (by omega) (fun w hw => ?_) fun w x hw hx => ?_
  · simp [hasExt, hw.opcode]
  · have hread : fieldOf x 0 3 = cond.code := by simp only [fieldOf]; omega
    simp [decodeWords, hw.group, hw.low, hw.tyAll, hw.word, decGroup3, decFcmp, hread]
    simp only [fieldOf]
    omega

theorem roundTrips_fcvt (group : BitVec 3) (rm : Rm) (src dst : Fmt) (hsrc : cvtFmt.ofCode src.code = some src)
    (hdst : cvtFmt.ofCode dst.code = some dst) : (Instr.fcvt h group rm src dst).RoundTrips := by
  have hrmLt := rm.code_lt
  have hsrcLt := src.code_lt
  have hdstLt := dst.code_lt
  refine roundTrips_words (by decide) (by decide) rfl (by omega) (fun w hw => ?_) fun w x hw hx => ?_
  · simp [hasExt, hw.opcode]
  · have hreadRm : fieldOf x 8 2 = rm.code := by simp only [fieldOf]; omega
    have hreadSrc : fieldOf x 4 4 = src.code := by simp only [fieldOf]; omega
    have hreadDst : fieldOf x 0 4 = dst.code := by simp only [fieldOf]; omega
    simp [decodeWords, hw.group, hw.low, hw.tyAll, hw.word, tyZero, decGroup4, decFcvt, hreadRm, hreadSrc, hreadDst, hsrc,
      hdst, guard_eq_ok_iff]
    simp only [fieldOf, BitVec.toNat_eq, BitVec.toNat_ofNat]
    omega

theorem roundTrips_vlane (mode : VlaneMode) (k : BitVec 5) : (Instr.vlane h mode k).RoundTrips := by
  have hmode := mode.code_lt
  refine roundTrips_words (by decide) (by decide) rfl (by omega) (fun w hw => ?_) fun w x hw hx => ?_
  · simp [hasExt, hw.opcode]
  · have hread : fieldOf x 5 2 = mode.code := by simp only [fieldOf]; omega
    simp [decodeWords, hw.group, hw.low, hw.tyAll, hw.word, tyZero, decGroup5, decVlane, hread, guard_eq_ok_iff]
    simp only [fieldOf, BitVec.toNat_eq, BitVec.toNat_ofNat]
    omega

theorem roundTrips_atom (opc : AtomOp) (ord : MemOrd) (scope : BitVec 3) (g : BitVec 1) (hi : BitVec 16) :
    (Instr.atom h opc ord scope g hi).RoundTrips := by
  have hopc := opc.code_lt
  have hord := ord.code_lt
  refine roundTrips_words (by decide) (by decide) rfl (by omega) (fun w hw => ?_) fun w x hw hx => ?_
  · simp [hasExt, hw.opcode]
  · have hreadOpc : fieldOf x 28 4 = opc.code := by simp only [fieldOf]; omega
    have hreadOrd : fieldOf x 26 2 = ord.code := by simp only [fieldOf]; omega
    simp [decodeWords, hw.group, hw.low, hw.tyAll, hw.word, tyZero, decGroup5, decAtom, hreadOpc, hreadOrd, guard_eq_ok_iff]
    simp only [fieldOf, BitVec.toNat_eq, BitVec.toNat_ofNat]
    omega

theorem roundTrips_cas (ord : MemOrd) (scope : BitVec 3) (g : BitVec 1) (hi : BitVec 16)
    (hpartner : (Instr.cas h ord scope g hi).PartnerBare) : (Instr.cas h ord scope g hi).RoundTrips := by
  by_cases har : h.ar = 1
  · obtain ⟨rfl, rfl, rfl, rfl⟩ := hpartner har
    refine roundTrips_word (op := 93) (h := h) (by decide) (by decide) (if_pos har) (fun w hw => ?_) fun w hw => ?_
    · simp [hasExt, hw.opcode, hw.ar, har]
    · simp [decodeWords, hw.group, hw.low, hw.tyAll, hw.word, tyZero, decGroup5, decCas, MemOrd.ofCode]
  · have hord := ord.code_lt
    have harNat : h.ar.toNat ≠ 1 := fun he => har (BitVec.eq_of_toNat_eq he)
    refine roundTrips_words (op := 93) (h := h) (by decide) (by decide) (if_neg har) (by omega) (fun w hw => ?_)
      fun w x hw hx => ?_
    · simp [hasExt, hw.opcode, hw.ar, harNat]
    · have hread : fieldOf x 26 2 = ord.code := by simp only [fieldOf]; omega
      simp [decodeWords, hw.group, hw.low, hw.tyAll, hw.word, tyZero, decGroup5, decCas, hread, guard_eq_ok_iff]
      simp only [fieldOf, BitVec.toNat_eq, BitVec.toNat_ofNat]
      omega

theorem roundTrips_fmaRounding (ty : FTy) (rm : Rm) (hpartner : (Instr.fmaRounding h ty rm).PartnerBare) :
    (Instr.fmaRounding h ty rm).RoundTrips := by
  by_cases har : h.ar = 1
  · obtain rfl := hpartner har
    refine roundTrips_word (op := 59) (ty := ty.code + 4) (h := h) (by decide) (by simp) (if_pos har) (fun w hw => ?_)
      fun w hw => ?_
    · simp [hasExt, hw.opcode, hw.ar, har]
    · simp [decodeWords, hw.group, hw.low, hw.tyHigh, hw.tyLow, hw.word, decGroup3, decFmaRounding, Rm.ofCode]
  · have harNat : h.ar.toNat ≠ 1 := fun he => har (BitVec.eq_of_toNat_eq he)
    refine roundTrips_words (op := 59) (ty := ty.code + 4) (h := h) (by decide) (by simp) (if_neg har)
      (rm.code_lt.trans (by decide)) (fun w hw => ?_) fun w x hw hx => ?_
    · simp [hasExt, hw.opcode, hw.tyAll, hw.ar, harNat]
    · simp [decodeWords, hw.group, hw.low, hw.tyHigh, hw.tyLow, hw.word, decGroup3, decFmaRounding, Rm.reads hx]

theorem roundTrips_fence (kind : FenceKind) (scope : BitVec 3) : (Instr.fence h kind scope).RoundTrips := by
  have hkind := kind.code_lt
  refine roundTrips_words (by decide) (by decide) rfl (by omega) (fun w hw => ?_) fun w x hw hx => ?_
  · simp [hasExt, hw.opcode]
  · have hread : fieldOf x 3 2 = kind.code := by simp only [fieldOf]; omega
    simp [decodeWords, hw.group, hw.low, hw.tyAll, hw.word, tyZero, decGroup6, decFence, hread, guard_eq_ok_iff]
    simp only [fieldOf, BitVec.toNat_eq, BitVec.toNat_ofNat]
    omega

theorem roundTrips_cred (op : CredOp) (fmt : Fmt) (mode : BitVec 1) (scope : BitVec 3)
    (hadm : credFmt.ofCode fmt.code = some fmt) : (Instr.cred h op fmt mode scope).RoundTrips := by
  have hop := op.code_lt
  have hfmt := fmt.code_lt
  refine roundTrips_words (by decide) (by decide) rfl (by omega) (fun w hw => ?_) fun w x hw hx => ?_
  · simp [hasExt, hw.opcode]
  · have hreadOp : fieldOf x 28 4 = op.code := by simp only [fieldOf]; omega
    have hreadFmt : fieldOf x 24 4 = fmt.code := by simp only [fieldOf]; omega
    simp [decodeWords, hw.group, hw.low, hw.tyAll, hw.word, decGroup7, decTy126, decCred, hreadOp, hreadFmt, hadm,
      guard_eq_ok_iff]
    simp only [fieldOf, BitVec.toNat_eq, BitVec.toNat_ofNat]
    omega

theorem roundTrips_mdeq (df sf : Fmt) (ma ms : BitVec 4) (strict : BitVec 1) (hadm : mdeqFmt.ofCode df.code = some df) :
    (Instr.mdeq h df sf ma ms strict).RoundTrips := by
  have hdf := df.code_lt
  have hsf := sf.code_lt
  refine roundTrips_words (by decide) (by decide) rfl (by omega) (fun w hw => ?_) fun w x hw hx => ?_
  · simp [hasExt, hw.opcode]
  · have hreadDf : fieldOf x 28 4 = df.code := by simp only [fieldOf]; omega
    have hreadSf : fieldOf x 24 4 = sf.code := by simp only [fieldOf]; omega
    simp [decodeWords, hw.group, hw.low, hw.tyAll, hw.word, tyZero, decGroup7, decMdeq, hreadDf, hreadSf, hadm,
      guard_eq_ok_iff]
    simp only [fieldOf, BitVec.toNat_eq, BitVec.toNat_ofNat]
    omega

theorem roundTrips_ptop (pd pa pb : BitVec 4) (op : PtOp) : (Instr.ptop h pd pa pb op).RoundTrips := by
  have hop := op.code_lt
  refine roundTrips_escape rfl ⟨rfl, by omega⟩ (by omega) fun w x hw hty hsec hx => ?_
  have hread : fieldOf x 8 2 = op.code := by simp only [fieldOf]; omega
  simp [decEscape, hty, hsec, hw, decPtop, hread, guard_eq_ok_iff]
  simp only [fieldOf, BitVec.toNat_eq, BitVec.toNat_ofNat]
  omega

theorem roundTrips_pstat (clr : BitVec 1) (which : PWhich) (bv : BitVec 3) : (Instr.pstat h clr which bv).RoundTrips := by
  have hwhich := which.code_lt
  refine roundTrips_words (by decide) (by decide) rfl (by omega) (fun w hw => ?_) fun w x hw hx => ?_
  · simp [hasExt, hw.opcode]
  · have hread : fieldOf x 4 3 = which.code := by simp only [fieldOf]; omega
    simp [decodeWords, hw.group, hw.low, hw.tyAll, hw.word, decGroup7, decTy123, decPstat, hread, guard_eq_ok_iff]
    simp only [fieldOf, BitVec.toNat_eq, BitVec.toNat_ofNat]
    omega

end

/-! ### Every instruction, by what its words hold -/

/-- The forms of one word, a partner word among them. -/
theorem Instr.roundTrips_of_one_word (i : Instr) (hlen : (encodeWords i).length = 1) (hpartner : i.PartnerBare) :
    i.RoundTrips := by
  cases i
  -- One word, whose type field is a part of the opcode.
  case bri | retb | sret | tagleave | phase | join | shadv | trapif | eret | endl | mov | and | or | xor | andn | rotl |
      clz | popc | sel | tst | frcp | frsq | frcps | frsqs | fexp2f | flog2f | vshuf | ldlk | stul | pref | tstateFill |
      tstatePublish | tstateDrain | tstateRelease | twait =>
    refine roundTrips_word (by decide) (by decide) rfl (fun w hw => ?_) fun w hw => ?_
    · simp [hasExt, hw.opcode, hw.tyAll]
    · simp [decodeWords, hw.group, hw.low, hw.tyAll, hw.word, tyZero, decGroup0, decGroup1, decGroup2, decGroup4, decGroup5,
        decGroup6, decTy13, decTy14, decTy98, decBri, decRetb, decSret, decTagleave, decPhase, decJoin, decShadv, decTrapif,
        decEret, decEndl, decMov, decAnd, decOr, decXor, decAndn, decRotl, decClz, decPopc, decSel, decTst, decFrcp, decFrsq,
        decFrcps, decFrsqs, decFexp2f, decFlog2f, decVshuf, decLdlk, decStul, decPref, decTstateFill, decTstatePublish,
        decTstateDrain, decTstateRelease, decTwait]
  -- One word, whose type field names a type.
  case add | sub | mul | mulh | mad | div | rem | shl | shr | sra | min | max | abs | neg | addsat | subsat | cmp | packn |
      unt5 | acct | dotp | fadd | fsub | fmul | fma | fmin | fmax | fclass | fexpi | fgetx | fdiv | fsqrt | vred | vscan |
      ld | st =>
    refine roundTrips_word (by decide) (by simp) rfl (fun w hw => ?_) fun w hw => ?_
    · simp [hasExt, hw.opcode, hw.tyAll]
    · simp [decodeWords, hw.group, hw.low, hw.tyAll, hw.tyHigh, hw.word, decGroup1, decGroup2, decGroup3, decGroup4,
        decGroup5, decAdd, decSub, decMul, decMulh, decMad, decDiv, decRem, decShl, decShr, decSra, decMin, decMax, decAbs,
        decNeg, decAddsat, decSubsat, decCmp, decPackn, decUnt5, decAcct, decDotp, decFadd, decFsub, decFmul, decFma,
        decFmin, decFmax, decFclass, decFexpi, decFgetx, decFdiv, decFsqrt, decVred, decVscan, decLd, decSt]
  case cas h ord scope g hi => exact roundTrips_cas h ord scope g hi hpartner
  case fmaRounding h ty rm => exact roundTrips_fmaRounding h ty rm hpartner
  -- No other form has one word.
  all_goals cases hlen

/-- The forms behind the escape opcode. -/
theorem Instr.roundTrips_of_secondary (i : Instr) (hsec : i.secondary? ≠ none) : i.RoundTrips := by
  cases i
  case ptop h pd pa pb op => exact roundTrips_ptop h pd pa pb op
  case mtrn | maccr | mcor | mtri | mwy | mstep | mgrd | ptset | ply | plyc | plyf | warp | reel =>
    refine roundTrips_escape rfl ⟨rfl, by omega⟩ (by omega) fun w x hw hty hsec hx => ?_
    simp [decEscape, hty, hsec, hw, decMtrn, decMaccr, decMcor, decMtri, decMwy, decMstep, decMgrd,
      decPtset, decPly, decPlyc, decPlyf, decWarp, decReel, guard_eq_ok_iff]
    simp only [fieldOf, BitVec.toNat_eq, BitVec.toNat_ofNat]
    omega
  all_goals exact absurd rfl hsec

/-- The forms with an extension word, outside the escape opcode. -/
theorem Instr.roundTrips_of_two_words (i : Instr) (hop : i.opWord? ≠ none) (hlen : (encodeWords i).length ≠ 1)
    (hsec : i.secondary? = none) (hformats : i.FormatsAdmitted) (hpartner : i.PartnerBare) : i.RoundTrips := by
  cases i
  -- An extension word that holds numbers alone.
  case spawn | tagenter | read | write | rep | bobinit | bobwait | bobrel | syscall | brk | mfsr | mtsr | extr | ins | lea |
      vrun | vbcast | ldv | stv | sopen | sclose | cwalk | stld | sisect | sunion | sdiff | smadd | snext | stst | cbc |
      cag | ca2a | mzero | camld | camst | camcomp | pscat | pstep | skbind | spin | draw | skupd | skrd | skwr | bra |
      callb | const | viota | grows | scat =>
    refine roundTrips_words (by decide) (by decide) rfl (by omega) (fun w hw => ?_) fun w x hw hx => ?_
    · simp [hasExt, hw.opcode, hw.tyAll]
    · simp [decodeWords, hw.group, hw.low, hw.tyAll, hw.word, tyZero, decGroup0, decGroup1, decGroup2, decGroup5, decGroup6,
        decGroup7, decTy13, decTy14, decTy15, decTy102, decTy120, decTy123, decTy124, decTy125, decTy126, decSpawn,
        decTagenter, decRead, decWrite, decRep, decBobinit, decBobwait, decBobrel, decSyscall, decBrk, decMfsr, decMtsr,
        decExtr, decIns, decLea, decVrun, decVbcast, decLdv, decStv, decSopen, decSclose, decCwalk, decStld, decSisect,
        decSunion, decSdiff, decSmadd, decSnext, decStst, decCbc, decCag, decCa2a, decMzero, decCamld, decCamst, decCamcomp,
        decPscat, decPstep, decSkbind, decSpin, decDraw, decSkupd, decSkrd, decSkwr, decBra, decCallb, decConst, decViota,
        decGrows, decScat, guard_eq_ok_iff]
      simp only [fieldOf, BitVec.toNat_eq, BitVec.toNat_ofNat]
      omega
  case unpackn =>
    refine roundTrips_words (by decide) (by simp) rfl (by omega) (fun w hw => ?_) fun w x hw hx => ?_
    · simp [hasExt, hw.opcode]
    · simp [decodeWords, hw.group, hw.low, hw.tyAll, hw.word, decGroup3, decUnpackn, guard_eq_ok_iff]
      simp only [fieldOf, BitVec.toNat_eq, BitVec.toNat_ofNat]
      omega
  -- An extension word that holds a rounding mode alone.
  case faddRounding h ty rm | fsubRounding h ty rm | fmulRounding h ty rm | fexpiRounding h ty rm | fdivRounding h ty rm |
      fsqrtRounding h ty rm =>
    refine roundTrips_words (by decide) (by simp) rfl (rm.code_lt.trans (by decide)) (fun w hw => ?_) fun w x hw hx => ?_
    · simp [hasExt, hw.opcode, hw.tyAll]
    · simp [decodeWords, hw.group, hw.low, hw.tyHigh, hw.tyLow, hw.word, Rm.reads hx, decGroup3, decGroup4, decFaddRounding,
        decFsubRounding, decFmulRounding, decFexpiRounding, decFdivRounding, decFsqrtRounding]
  case frint h ty rm =>
    refine roundTrips_words (by decide) (by simp) rfl (rm.code_lt.trans (by decide)) (fun w hw => ?_) fun w x hw hx => ?_
    · simp [hasExt, hw.opcode]
    · simp [decodeWords, hw.group, hw.low, hw.tyAll, hw.word, Rm.reads hx, decGroup4, decFrint]
  -- An extension word that holds other codes.
  case mma h fmt _ _ _ | mmsp h fmt _ _ _ _ _ | mcomp h fmt _ _ _ _ _ | mqnt h fmt _ _ _ _ =>
    have hfmt := fmt.code_lt
    simp only [Instr.FormatsAdmitted] at hformats
    refine roundTrips_words (by decide) (by decide) rfl (by omega) (fun w hw => ?_) fun w x hw hx => ?_
    · simp [hasExt, hw.opcode]
    · have hread : fieldOf x 28 4 = fmt.code := by simp only [fieldOf]; omega
      simp [decodeWords, hw.group, hw.low, hw.tyAll, hw.word, tyZero, decGroup7, decMma, decMmsp, decMcomp, decMqnt, hread,
        hformats, guard_eq_ok_iff]
      simp only [fieldOf, BitVec.toNat_eq, BitVec.toNat_ofNat]
      omega
  case mld h fmt _ _ _ _ _ _ kind | mst h fmt _ _ _ _ _ _ kind =>
    have hfmt := fmt.code_lt
    have hkind := kind.code_lt
    refine roundTrips_words (by decide) (by decide) rfl (by omega) (fun w hw => ?_) fun w x hw hx => ?_
    · simp [hasExt, hw.opcode]
    · have hreadFmt : fieldOf x 28 4 = fmt.code := by simp only [fieldOf]; omega
      have hreadKind : fieldOf x 7 2 = kind.code := by simp only [fieldOf]; omega
      simp [decodeWords, hw.group, hw.low, hw.tyAll, hw.word, tyZero, decGroup7, decMld, decMst, hreadFmt, hreadKind,
        guard_eq_ok_iff]
      simp only [fieldOf, BitVec.toNat_eq, BitVec.toNat_ofNat]
      omega
  case pgath h _ _ _ psel | pmarch h _ _ _ psel =>
    have hpsel := psel.code_lt
    refine roundTrips_words (by decide) (by decide) rfl (by omega) (fun w hw => ?_) fun w x hw hx => ?_
    · simp [hasExt, hw.opcode]
    · have hread : fieldOf x 7 2 = psel.code := by simp only [fieldOf]; omega
      simp [decodeWords, hw.group, hw.low, hw.tyAll, hw.word, decGroup7, decTy121, decPgath, decPmarch, hread,
        guard_eq_ok_iff]
      simp only [fieldOf, BitVec.toNat_eq, BitVec.toNat_ofNat]
      omega
  case fsgn h ty mode => exact roundTrips_fsgn h ty mode
  case fcmp h ty cond => exact roundTrips_fcmp h ty cond
  case fcvt h group rm src dst =>
    obtain ⟨hsrc, hdst⟩ := hformats
    exact roundTrips_fcvt h group rm src dst hsrc hdst
  case vlane h mode k => exact roundTrips_vlane h mode k
  case atom h opc ord scope g hi => exact roundTrips_atom h opc ord scope g hi
  case cas h ord scope g hi => exact roundTrips_cas h ord scope g hi hpartner
  case fmaRounding h ty rm => exact roundTrips_fmaRounding h ty rm hpartner
  case fence h kind scope => exact roundTrips_fence h kind scope
  case cred h op fmt mode scope => exact roundTrips_cred h op fmt mode scope hformats
  case mdeq h df sf ma ms strict => exact roundTrips_mdeq h df sf ma ms strict hformats
  case pstat h clr which bv => exact roundTrips_pstat h clr which bv
  -- The forms behind the escape opcode, those of one word, and the device steps, which have none.
  case mtrn | maccr | mcor | mtri | mwy | mstep | mgrd | ptset | ptop | ply | plyc | plyf | warp | reel => cases hsec
  all_goals first | exact absurd rfl hlen | exact absurd rfl hop

/-- Every instruction with an operation word is given back, where the decoder admits its formats and a partner word is
bare. -/
theorem Instr.roundTrips (i : Instr) (hop : i.opWord? ≠ none) (hformats : i.FormatsAdmitted) (hpartner : i.PartnerBare) :
    i.RoundTrips := by
  by_cases hlen : (encodeWords i).length = 1
  · exact i.roundTrips_of_one_word hlen hpartner
  · by_cases hsec : i.secondary? = none
    · exact i.roundTrips_of_two_words hop hlen hsec hformats hpartner
    · exact i.roundTrips_of_secondary hsec

/-- What holds of O57's statement: a well-formed instruction whose formats the decoder admits is given back, with the bytes
behind it. -/
theorem decode_encode_of_formatsAdmitted (i : Instr) (rest : List Byte) (hwf : i.wellFormed = true) (hop : i.opWord? ≠ none)
    (hformats : i.FormatsAdmitted) : decode (encode i ++ rest) = .ok (i, rest) :=
  i.roundTrips hop hformats (i.partnerBare_of_wellFormed hwf) rest

/-- An MMA in a format of R338, which meets the hypotheses. -/
theorem decode_encode_mma_bf16 :
    decode (encode (.mma { ar := 1, tg := 0, t0 := 0, t1 := 0 } .bf16 7 15 14) ++ [7]) =
      .ok (.mma { ar := 1, tg := 0, t0 := 0, t1 := 0 } .bf16 7 15 14, [7]) :=
  decode_encode_of_formatsAdmitted _ [7] (by decide) nofun rfl

/-- An MMA in FP32, which R338 does not list: `Instr.extOk` asks nothing of the format, so it is well formed. -/
theorem mma_fp32_wellFormed : (Instr.mma { ar := 1, tg := 0, t0 := 0, t1 := 0 } .fp32 0 0 0).wellFormed = true := by decide

/-- The decoder refuses the format of that MMA. -/
theorem decode_encode_mma_fp32 :
    decode (encode (.mma { ar := 1, tg := 0, t0 := 0, t1 := 0 } .fp32 0 0 0)) = .error .reservedField := rfl

end Sys2Proof

namespace Sys2Proof.Machine

open Sys2Proof Sys2Proof.Claims

/-- Refutes O57: an MMA in FP32 is well formed, as `Instr.extOk` asks nothing of an MMA's format, but the decoder admits only
the formats of R338 and refuses its encoding. Where the formats are admitted, `decode_encode_of_formatsAdmitted` holds. -/
theorem not_decodeEncode : ¬ Obligations.DecodeEncode := by
  unfold Obligations.DecodeEncode
  intro hround
  have hread := hround (.mma { ar := 1, tg := 0, t0 := 0, t1 := 0 } .fp32 0 0 0) [] mma_fp32_wellFormed nofun
  rw [List.append_nil, decode_encode_mma_fp32] at hread
  cases hread

/-- Settles O3: a partner word's set runs an operation that leaves the state as it is (R236); any other set ends with the
lanes of its three operands, by `runOp_fires`. -/
theorem ternaryFormsComplete : Obligations.TernaryFormsComplete := by
  unfold Obligations.TernaryFormsComplete
  intro i h g s o hi hf _
  rw [exec_ternary hi, elem3]
  by_cases hpartner : h.ar = 1
  · rw [if_pos hpartner, if_pos hpartner]
    exact runOp_fires hf _
  · rw [if_neg hpartner, if_neg hpartner]
    exact runOp_fires hf _

end Sys2Proof.Machine

namespace Sys2Proof.Encoding

open Sys2Proof

/-- Settles O56: each word is a closed term, which the decoder evaluates to its instruction. -/
theorem decodeWords : Obligations.DecodeWords := by
  unfold Obligations.DecodeWords
  exact ⟨rfl, rfl, rfl, rfl, rfl, rfl, rfl, rfl, rfl, rfl, rfl, rfl⟩

end Sys2Proof.Encoding

/-! PROOFS. The family of the control instructions (R254 to R273): branches, colours and tags, Shuttle stages, steps and
bobbins, the supervisor's forms, the element forms of one operand, and what a form under REP does between two iterations. -/

namespace Sys2Proof.Machine

open Sys2Proof Sys2Proof.Claims

/-! ### Branches (R256 to R259, R261, R271) -/

theorem sval_toNat_eq_toInt {w : Nat} (d : BitVec w) : sval w d.toNat = d.toInt := by
  rw [sval, Nat.mod_eq_of_lt d.isLt, BitVec.toInt_eq_toNat_cond]
  cases w with
  | zero => simp [BitVec.of_length_zero]
  | succ w =>
    have hhalf : d.toNat < 2 ^ w ↔ 2 * d.toNat < 2 ^ (w + 1) := by rw [Nat.pow_succ]; omega
    simp [hhalf]

/-- `blockDisp_eq_blockAt` for a displacement of any width. -/
theorem blockDisp_toNat {w : Nat} (pc : Nat) (d : BitVec w) : blockDisp pc w d.toNat = blockAt pc d := by
  simp [blockDisp, blockAt, wrap, sval_toNat_eq_toInt]

theorem bits_toNat {w : Nat} (d : BitVec w) (lo n : Nat) : bits d.toNat lo n = (d.extractLsb' lo n).toNat := by
  simp [bits, Nat.shiftRight_eq_div_pow]

theorem State.colourOf_eq {s : State} {o : OpIn} {c : Colour} (hc : HasColour s o c) : s.colourOf o = c :=
  congrArg (Option.getD · _) hc

theorem lane0_left (o : OpIn) : lane0 o.f.left = left0 o := rfl

/-- The first branch of an instance (R100, R257): it acts, names its successor and retires. -/
theorem State.asBranch_first {s : State} {o : OpIn} {h : OpWord} {t : Tag} (hb : MayBranch s o h t) (next : Option Nat)
    (act : State → State) : s.asBranch o h next act =
      ((act s).modCore o.c (branched o (next.map fun b => (b, t)))).finishN o h := by
  obtain ⟨hnone, hroom, b, htag⟩ := hb
  simp only [State.asBranch, hnone, hroom, htag]
  cases next <;> rfl

section

variable {s : State} {o : OpIn} (hf : Fires s o) (h : OpWord) {t : Tag}

include hf

theorem execBra_branches (d : BitVec 32) (hb : MayBranch s o h t) (hp : h.ar ≠ 0 → (left0 o).poison = false) :
    execBra h d s = .next (done ((s.modCore o.c (branched o (some
      (if h.ar = 0 then blockAt o.i.block d
       else if (left0 o).val ≠ 0 then blockAt o.i.block (d.extractLsb' 16 16)
       else blockAt o.i.block (d.extractLsb' 0 16), t)))).finishN o h)) := by
  rw [execBra, runOp_fires hf]
  by_cases har : h.ar = 0
  · simp only [har, if_true, State.asBranch_first hb, blockDisp_toNat]
    rfl
  · simp only [har, if_false, lane0_left, hp har, Bool.false_eq_true, State.asBranch_first hb, bits_toNat,
      apply_ite (blockDisp o.i.block 16), blockDisp_toNat]
    rfl

theorem execBri_branches (hb : MayBranch s o h t) (hp : (left0 o).poison = false) :
    execBri h s = .next (done ((s.modCore o.c (branched o (some
      (blkaddr o.i.block (left0 o).val.toNat, t)))).finishN o h)) := by
  rw [execBri, runOp_fires hf]
  simp only [lane0_left, hp, Bool.false_eq_true, if_false, State.asBranch_first hb]
  rfl

/-- A call notes the store of its return address at the top of its colour's stack, and branches to the callee. -/
theorem execCallb_branches (dc dr : BitVec 16) {c : Colour} {x : Target × Nat} {ts : List (Target × Nat)}
    (hc : HasColour s o c) (hp : h.ar = 1 → (left0 o).poison = false) (htop : c.top ≠ 0) (hdepth : c.depth ≠ 255)
    (ha : s.hasArrived o.c = false) (hx : s.access o .write c.top 8 = .ok (x :: ts)) (hb : MayBranch s o h t) :
    execCallb h dc dr s = .next (done ((((s.noteAccess o .write c.top (x :: ts)).atCommit o
      (.push o.f.slot c.top x.1.loc (blockAt o.i.block dr))).modCore o.c (branched o (some
        (if h.ar = 0 then blockAt o.i.block dc else blkaddr o.i.block (left0 o).val.toNat, t)))).finishN o h)) := by
  have hclean : (decide (h.ar = 1) && (left0 o).poison) = false := by
    simpa [imp_iff_not_or, Bool.and_eq_false_iff] using hp
  rw [execCallb, runOp_fires hf]
  simp only [lane0_left, hclean, State.colourOf_eq hc, htop, hdepth, or_self, ha, State.stackAccess, hx, Bool.false_eq_true, if_false,
    State.asBranch_first hb, blockDisp_toNat]
  rfl

/-- A return reads the address at the top of its colour's stack, and branches to it. -/
theorem execRetb_branches {s1 : State} {c : Colour} {bs : List Byte} (hc : HasColour s o c) (he : s.earlier o = false)
    (ha : s.hasArrived o.c = false) (hdepth : c.depth ≠ 0)
    (hl : s.load o (((c.top : Int) - 8) % (2 ^ 56 : Int)).toNat 8 = .ok (bs, false, s1)) (hb : MayBranch s1 o h t) :
    execRetb h s = .next (done (((s1.atCommit o .pop).modCore o.c
      (branched o (some (ofBytes bs % 2 ^ 56, t)))).finishN o h)) := by
  have hread : s.load o (wrap 56 ((c.top : Int) - 8)) 8 = .ok (bs, false, s1) := hl
  rw [execRetb, runOp_fires hf]
  simp only [he, ha, State.colourOf_eq hc, hdepth, hread, Bool.false_eq_true, if_false, State.asBranch_first hb]
  rfl

theorem execSret_branches (hb : MayBranch s o h t) (hc : 2 ≤ o.i.tag.colour) :
    execSret h s = .next (done (((s.atCommit o (.sret { first := o.f.first, lanes := o.f.left })).modCore o.c
      (branched o none)).finishN o h)) := by
  rw [execSret, runOp_fires hf]
  simp only [OpIn.colour, Nat.not_lt.mpr hc, if_false, State.asBranch_first hb]
  rfl

theorem execEndl_branches (hb : MayBranch s o h t) (hc : o.i.tag.colour = 1) :
    execEndl h s = .next (done (((s.atCommit o .endl).modCore o.c (branched o none)).finishN o h)) := by
  rw [execEndl, runOp_fires hf]
  simp only [OpIn.colour, hc, ne_eq, not_true_eq_false, if_false, State.asBranch_first hb]
  rfl

end

/-! ### The successor that a branch names (R257, R261, R361) -/

section

variable {k : Core} {iid : Nat} {i : Instance} (hi : k.inst? iid = some i)

include hi

/-- An instance is found as before where another is named. -/
theorem Core.inst?_nameInstance (t : Tag) (block : Nat) (handler : Bool) :
    (k.nameInstance t block handler).1.inst? iid = some i := by
  have hfind : k.instances.find? (fun i => i.iid == iid) = some i := hi
  simp [Core.nameInstance, Core.inst?, List.find?_append, hfind]

theorem Core.inst?_nameSuccessor (colour block : Nat) (t : Tag) : (k.nameSuccessor colour block t).inst? iid = some i := by
  simp only [Core.nameSuccessor, apply_ite (Core.inst? · iid), Core.inst?_nameInstance hi, hi, ite_self]

end

theorem Tag.colour_setInner (t : Tag) (x : Nat) : (t.setInner x).colour = t.colour := by
  unfold Tag.setInner; split <;> rfl

theorem normTag_colour (vec : Bool) (t : Tag) : (normTag vec t).colour = t.colour := by
  unfold normTag
  split
  · exact t.colour_setInner _
  · rfl

/-- In colour 0 a branch to the handler block names nothing (R361). -/
theorem Core.nameSuccessor_handlerBlock (k : Core) (t : Tag) : k.nameSuccessor 0 k.regs.handlerBlock t = k := by
  simp [Core.nameSuccessor]

/-- A branch to any other block names an instance of it in its colour, unless that colour has ended. -/
theorem Core.nameSuccessor_names (k : Core) {block : Nat} {t : Tag} {c : Colour} (hc : k.colour? 0 = some c)
    (hs : c.sret = false) (hblock : block ≠ k.regs.handlerBlock) :
    ∃ t', t'.colour = t.colour ∧ k.nameSuccessor 0 block t = (k.nameInstance t' block false).1 := by
  simp only [Core.nameSuccessor, hc, hs, beq_self_eq_true, beq_eq_false_iff_ne.mpr hblock, Bool.and_false, Bool.or_self,
    Bool.false_eq_true, if_false]
  split
  · exact ⟨_, normTag_colour _ t, rfl⟩
  · exact ⟨_, rfl, rfl⟩

theorem Core.branch_branched (k : Core) (o : OpIn) (next : Option (Nat × Tag)) {i : Instance}
    (hi : k.inst? o.f.iid = some i) :
    ∃ j, (branched o next k).inst? o.f.iid = some j ∧ j.branch = some (o.f.slot, o.operandTag) := by
  refine ⟨{ i with branch := some (o.f.slot, o.operandTag) }, ?_, rfl⟩
  cases next with
  | none => exact Core.inst?_modInst_same _ _ _ i hi rfl
  | some p => exact Core.inst?_modInst_same _ _ _ i (Core.inst?_nameSuccessor hi _ p.1 p.2) rfl

/-- Settles O12: each form by its equation, all of them by `asBranch_first`; what a branch in colour 0 names by
`nameSuccessor_handlerBlock` and `nameSuccessor_names`. -/
theorem branchesComplete : Obligations.BranchesComplete := by
  unfold Obligations.BranchesComplete
  refine ⟨fun h d s o t hf hb hp => execBra_branches hf h d hb hp, fun h s o t hf hb hp => execBri_branches hf h hb hp,
    ?call, fun h s s1 o t c bs hf hc he ha hd hl hb => execRetb_branches hf h hc he ha hd hl hb,
    fun h s o t hf hb hc => execSret_branches hf h hb hc, fun h s o t hf hb hc => execEndl_branches hf h hb hc, ?names⟩
  case call =>
    intro h dc dr s s1 o t c x ts hf hc hp htop hdepth ha hx hs1 hb
    subst hs1
    exact execCallb_branches hf h dc dr hc hp htop hdepth ha hx hb
  case names =>
    intro k o block t c hcolour hc hs
    have hsuccessor : branched o (some (block, t)) k = branched o none (k.nameSuccessor 0 block t) := by
      rw [← hcolour]; rfl
    refine ⟨fun hhandler => ?_, fun hother => ?_, fun i next hi => k.branch_branched o next hi⟩
    · rw [hsuccessor, hhandler]
      exact congrArg (branched o none) (k.nameSuccessor_handlerBlock t)
    · obtain ⟨t', ht', hnamed⟩ := k.nameSuccessor_names (t := t) hc hs hother
      rw [hsuccessor, hnamed]
      exact ⟨Instance.fresh k.nextIid t' block false, rfl, ht', rfl, rfl, rfl⟩

/-! ### Colours and tags (R260, R262) -/

/-- Where a TAGENTER of a width overflows (R262): by the depth, the sum of the widths, the innermost field, which it
increments, or the set's lanes in the new one. -/
def EnterOverflows (shape : List Nat) (t : Tag) (n w : Nat) : Prop :=
  12 ≤ t.depth ∨ 50 < (shape.take t.depth).foldl (fun a b => a + b) 0 + w ∨
    (0 < t.depth ∧ fieldTop (shape.getD (t.depth - 1) 1) < t.inner + 1) ∨ fieldTop w < n - 1

theorem not_enterOverflows {shape : List Nat} {t : Tag} {n w : Nat} (hdepth : t.fields.length < 12)
    (hsum : (shape.take t.fields.length).sum + w ≤ 50)
    (hinner : t.fields ≠ [] → t.inner + 1 < 2 ^ shape.getD (t.fields.length - 1) 1) (hn : n ≤ 2 ^ w) :
    ¬EnterOverflows shape t n w := by
  rintro (hdeep | hwide | ⟨hfield, hlast⟩ | hlanes)
  · exact absurd hdepth (Nat.not_lt.mpr hdeep)
  · rw [← List.sum_eq_foldl] at hwide
    exact absurd hsum (Nat.not_le.mpr hwide)
  · exact absurd ((le_fieldTop_iff _ _).mpr (hinner (List.length_pos_iff.mp hfield))) (Nat.not_le.mpr hlast)
  · rw [← fieldTop_add_one] at hn
    omega

/-- The width recorded, and the lanes sent on with the new field at 0. -/
theorem execTagenter_go_sends (h : OpWord) (s : State) (o : OpIn) {shape : List Nat} {w base : Nat} {t t2 : Tag}
    (htag : tagStep (recordWidth shape t.depth w) h.tg.toNat
      { t with fields := (t.setInner (t.inner + 1)).fields ++ [0] } 0 o.f.n = some (t2, base)) :
    execTagenter.go h s o shape w t = (s.modCore o.c fun k => k.modColour o.i.tag.colour fun c =>
      { c with shape := recordWidth shape t.depth w }).sendTagged o t2 base := by
  rw [← t.colour_setInner (t.inner + 1)] at htag
  simp only [execTagenter.go, htag]
  rfl

section

variable {s : State} {o : OpIn} (hf : Fires s o) (h : OpWord)

include hf

/-- TAGENTER goes on where its width fits and no other is in use at its depth. -/
theorem execTagenter_goes {width : BitVec 5} {shape : List Nat} {t : Tag}
    (hshape : shape = (s.core o.c).shape o.i.tag.colour) (ht : t = o.operandTag) (hfits : ¬EnterOverflows shape t o.f.n (width.toNat + 1))
    (huse : ∀ w, shape[t.depth]? = some w →
      w = width.toNat + 1 ∨ (s.core o.c).depthInUse o.i.tag.colour t.depth = false) :
    execTagenter h width s = .next (done (execTagenter.go h s o shape (width.toNat + 1) t)) := by
  subst hshape ht
  rw [execTagenter, runOp_fires hf]
  refine congrArg (fun u => Host.Outcome.next (done u)) ((if_neg hfits).trans ?_)
  split
  next w hw =>
    refine if_neg fun ⟨hother, hused⟩ => ?_
    obtain hsame | hfree := huse w hw
    · exact hother hsame
    · exact Bool.false_ne_true (hfree.symm.trans hused)
  next => rfl

theorem execTagleave_leaves {t1 t2 : Tag} {b1 b2 : Nat}
    (hout : tagStep ((s.core o.c).shape o.i.tag.colour) 3 o.operandTag o.operandTag.inner o.f.n = some (t1, b1))
    (htag : tagStep ((s.core o.c).shape o.i.tag.colour) h.tg.toNat t1 b1 o.f.n = some (t2, b2)) :
    execTagleave h s = .next (done (s.sendTagged o t2 b2)) := by
  rw [execTagleave, runOp_fires hf]
  simp only [OpIn.colour, hout, htag]

end

/-- Settles O13: SPAWN asks by `execSpawn_asks`; TAGENTER goes on by `not_enterOverflows`, and sends its lanes
by `execTagenter_go_sends`. -/
theorem colourAndTagFormsComplete : Obligations.ColourAndTagFormsComplete := by
  unfold Obligations.ColourAndTagFormsComplete
  refine ⟨?spawn, ?enter, fun h s o t1 t2 b1 b2 hf hout htag => execTagleave_leaves hf h hout htag⟩
  case spawn =>
    intro h ds s o w hf he hw hok hre hn hfit
    have hargs : bits w 0 4 = w % 16 := by simp [bits]
    rw [← hargs]
    exact execSpawn_asks h ds s o w hf he hw hok hre hn hfit
  case enter =>
    intro h width s o shape t t2 base hf hshape ht hdepth hsum hinner hn huse htag
    have hfits := not_enterOverflows (w := width.toNat + 1) hdepth hsum hinner hn
    exact (execTagenter_goes hf h hshape ht hfits huse).trans
      (congrArg (fun u => Host.Outcome.next (done u)) (execTagenter_go_sends h s o htag))

/-! ### Shuttle stages (R267) -/

/-- The completion token of a form fits where a run of one lane does. -/
theorem tagBad_single {s : State} {o : OpIn} {h : OpWord} {v : Word} (hfit : Fits s o h (oneLane o.f.first v)) :
    s.tagBad o h.tg.toNat (single o.f.first v) = false := hfit

section

variable {s : State} {o : OpIn} (hf : Fires s o) (h : OpWord)

include hf

theorem execShadv_waits (hw : s.releaseWaits o = true) : execShadv h s = .next (done (s.hold o .sequencer .earlier)) := by
  rw [execShadv, runOp_fires hf, if_pos hw]

/-- SHADV hands its colour's writes over to the Shuttle, and sends the count that it has advanced. -/
theorem execShadv_advances {s1 : State} (hw : s.releaseWaits o = false) (hfit : Fits s o h (oneLane o.f.first 0))
    (hs1 : s1 = s.modCore o.c fun k => { k with regs := { k.regs with shadv := (k.regs.shadv + 1) % 2 ^ 32 } }) :
    execShadv h s = .next (done ((s1.handOver (s1.agent o.c o.i.tag.colour) (s1.agent o.c shuttleAgent)).finish o h false
      (oneLane o.f.first (BitVec.ofNat 32 (s1.core o.c).regs.shadv))
      (oneLane o.f.first (BitVec.ofNat 32 (s1.core o.c).regs.shadv)))) := by
  subst hs1
  rw [execShadv, runOp_fires hf]
  simp only [hw, tagBad_single hfit, Bool.false_eq_true, if_false, State.core_modCore_same]
  rfl

end

/-- Settles O16: SHADV waits or advances, and its hand-over to the Shuttle is the release and the acquire of R177. -/
theorem shuttleAdvance : Obligations.ShuttleAdvance := by
  unfold Obligations.ShuttleAdvance
  exact fun h s s1 o hf => ⟨execShadv_waits hf h, execShadv_advances hf h⟩

/-! ### Steps, repetition and bobbins (R265, R266, R268) -/

theorem State.agent_raiseAcq (s : State) (b a : Agent) (e c who : Nat) : (s.raiseAcq b a e).agent c who = s.agent c who := by
  unfold State.raiseAcq; split <;> rfl

/-- Acquires by an agent of a core, which stays the same agent while they are made. -/
theorem State.acquireAll_agent (s : State) (c who : Nat) (rels : List (Agent × Nat)) :
    rels.foldl (fun s p => s.raiseAcq (s.agent c who) p.1 p.2) s = s.acquireAll (s.agent c who) rels := by
  induction rels generalizing s with
  | nil => rfl
  | cons p ps ih => rw [List.foldl_cons, ih, State.agent_raiseAcq]; rfl

theorem b2n_mul (b : Bool) (n : Nat) : b2n b * n = if b then n else 0 := by cases b <;> simp [b2n]

section

variable {s : State} {o : OpIn} (hf : Fires s o) (h : OpWord)

include hf

theorem execPhase_asks (ha : o.f.answered = none) (hfit : Fits s o h (oneLane o.f.first 0)) :
    execPhase h s = .next (done (s.hold o .sequencer .phase)) := by
  rw [execPhase, runOp_fires hf]
  simp only [ha, tagBad_single hfit, Bool.false_eq_true, if_false]

theorem execPhase_completes {v : Word} (ha : o.f.answered = some v) :
    execPhase h s = .next (done (s.finish o h false (oneLane o.f.first v) (oneLane o.f.first v))) := by
  rw [execPhase, runOp_fires hf]
  simp only [ha]
  rfl

theorem execBobinit_sets {slots : BitVec 8} {b : BitVec 4} (hb : ((s.core o.c).bob b.toNat).infl = 0)
    (hfit : Fits s o h (oneLane o.f.first 0)) :
    execBobinit h slots b s = .next (done ((s.modCore o.c fun k =>
      k.modBob b.toNat fun _ => { Bobbin.zero with slots := slots.toNat }).finish o h false
        (oneLane o.f.first 0) (oneLane o.f.first 0))) := by
  rw [execBobinit, runOp_fires hf]
  simp only [hb, tagBad_single hfit, Nat.lt_irrefl, Bool.false_eq_true, if_false]
  rfl

theorem execBobwait_answers {n : BitVec 8} {b : BitVec 4} {x : Bobbin} (hx : x = (s.core o.c).bob b.toNat)
    (hn : n.toNat < x.avail) :
    execBobwait h n b s = .next (done ((s.acquireAll (s.agent o.c o.i.tag.colour) x.filled).finish o h false
      (oneLane o.f.first (BitVec.ofNat 32 (x.avail + (if x.poison then 2 ^ 16 else 0) + (if x.err then 2 ^ 17 else 0))))
      (oneLane o.f.first (BitVec.ofNat 32 (x.avail + (if x.poison then 2 ^ 16 else 0) + (if x.err then 2 ^ 17 else 0)))))) := by
  subst hx
  rw [execBobwait, runOp_fires hf]
  simp only [Nat.not_le.mpr hn, if_false, State.acquireAll_agent, b2n_mul]
  rfl

theorem execBobrel_releases {count : BitVec 8} {b : BitVec 4} {x : Bobbin} (hw : s.releaseWaits o = false)
    (hx : x = (s.core o.c).bob b.toNat) (hn : count.toNat ≤ x.avail) (hfit : Fits s o h (oneLane o.f.first 0)) :
    execBobrel h count b s = .next (done (((s.raiseEpoch (s.agent o.c o.i.tag.colour)).1.modCore o.c fun k =>
      k.modBob b.toNat fun y => { y with rp := (x.rp + count.toNat) % 65536, freed := y.freed ++
        [((x.rp + count.toNat) % 65536, s.agent o.c o.i.tag.colour, s.epoch (s.agent o.c o.i.tag.colour) + 1)] }).finish o h
          false (oneLane o.f.first 0) (oneLane o.f.first 0))) := by
  subst hx
  rw [execBobrel, runOp_fires hf]
  simp only [hw, Nat.not_lt.mpr hn, tagBad_single hfit, Bool.false_eq_true, if_false]
  rfl

end

/-- Settles O17: each form by its equation, PHASE by whether a close has answered it. -/
theorem stepAndBobbinFormsComplete : Obligations.StepAndBobbinFormsComplete := by
  unfold Obligations.StepAndBobbinFormsComplete
  refine ⟨fun h s o hf hfit => ?phase, fun h n stride s o hf => runOp_fires hf _,
    fun h slots b s o hf hb hfit => execBobinit_sets hf h hb hfit, fun h n b s o x v hf hx hn _ hv => ?wait,
    fun h count b s o x rp hf hw hx hn hfit hrp => ?release⟩
  case phase =>
    split
    next ha => exact execPhase_asks hf h ha hfit
    next v ha => exact execPhase_completes hf h ha
  case wait => subst hv; exact execBobwait_answers hf h hx hn
  case release => subst hrp; exact execBobrel_releases hf h hw hx hn hfit

/-! ### The supervisor's forms (R269, R270) -/

section

variable {s : State} {o : OpIn} (hf : Fires s o) (h : OpWord)

include hf

theorem execSyscall_traps (code : BitVec 16) (ha : o.f.answered = none) : execSyscall h code s =
    .next (trapped s o 0x10 0 (code.toNat * 2 ^ 32 + (left0 o).val.toNat) 0 o.f.first) := by
  rw [execSyscall, runOp_fires hf]
  simp only [ha]
  rfl

theorem execSyscall_completes (code : BitVec 16) {v : Word} (ha : o.f.answered = some v) : execSyscall h code s =
    .next (done (s.finish o h true (oneLane o.f.first v) (oneLane o.f.first v))) := by
  rw [execSyscall, runOp_fires hf]
  simp only [ha]
  rfl

theorem execBrk_traps (code : BitVec 16) (ha : o.f.answered = none) : execBrk h code s =
    .next (trapped s o 0x11 0 0 (code.toNat + (if h.ar = 0 then 0 else (left0 o).val.toNat) * 2 ^ 32) o.f.first) := by
  rw [execBrk, runOp_fires hf]
  simp only [ha]
  rfl

theorem execBrk_completes (code : BitVec 16) {v : Word} (ha : o.f.answered = some v) : execBrk h code s =
    .next (done (s.finish o h false (oneLane o.f.first 0) (oneLane o.f.first 0))) := by
  rw [execBrk, runOp_fires hf]
  simp only [ha]
  rfl

theorem execTrapif_passes (hp : (lane0 o.f.right).poison = false)
    (hv : o.f.answered.isSome = true ∨ (lane0 o.f.right).val = 0) : execTrapif h s =
      .next (done (s.finish o h true { first := o.f.first, lanes := o.f.left } { first := o.f.first, lanes := o.f.left })) := by
  rw [execTrapif, runOp_fires hf]
  obtain ha | hz := hv
  · simp only [ha, if_true]
    rfl
  · simp only [hp, hz, ne_eq, not_true_eq_false, Bool.false_eq_true, if_false, ite_self]
    rfl

theorem execTrapif_traps (ha : o.f.answered = none) (hp : (lane0 o.f.right).poison = false)
    (hv : (lane0 o.f.right).val ≠ 0) :
    execTrapif h s = .next (trapped s o 0x11 0 1 ((left0 o).val.toNat * 2 ^ 32) o.f.first) := by
  rw [execTrapif, runOp_fires hf]
  simp only [ha, hp, hv, Option.isSome_none, Bool.false_eq_true, if_false, ne_eq, not_false_eq_true, if_true]
  rfl

theorem execEret_notes (hc : o.i.tag.colour = 0) (hp : (left0 o).poison = false) (ho : o.overCount = false) :
    execEret h s = .next (done ((s.atCommit o (.eret o.f.slot (left0 o).val.toNat)).finishN o h)) := by
  rw [execEret, runOp_fires hf]
  simp only [OpIn.colour, hc, ne_eq, not_true_eq_false, lane0_left, hp, ho, Bool.false_eq_true, if_false]
  rfl

end

/-- Settles O18: each form by the equation of its case. -/
theorem supervisorFormsComplete : Obligations.SupervisorFormsComplete := by
  unfold Obligations.SupervisorFormsComplete
  refine ⟨fun h code s o hf ha => execSyscall_traps hf h code ha,
    fun h code s o v hf ha _ => execSyscall_completes hf h code ha, fun h code s o hf ha => execBrk_traps hf h code ha,
    fun h code s o v hf ha _ => execBrk_completes hf h code ha, fun h s o l hf hl hp _ hv => ?passes,
    fun h s o l hf hl hp ha hv => ?traps, fun h s o hf hc hp ho => execEret_notes hf h hc hp ho⟩
  case passes => subst hl; exact execTrapif_passes hf h hp hv
  case traps => subst hl; exact execTrapif_traps hf h ha hp hv

/-! ### Element forms of one operand (R279, R280, R288) -/

/-- Settles O1: a form of one operand ends with its function's lanes, by `exec_unary` and `runOp_fires`. -/
theorem unaryFormsComplete : Obligations.UnaryFormsComplete := by
  unfold Obligations.UnaryFormsComplete
  intro i h g s o hi hf _
  rw [exec_unary hi, elem1, sendData]
  exact runOp_fires hf _

/-! ### Repetition (R266) -/

/-! Sending a result leaves every instance where it is found: those it names come after (R92). -/

section

variable {k : Core} {iid : Nat} {i : Instance} (hi : k.inst? iid = some i) (o : OpIn)

include hi

theorem Core.inst?_sendRun (target : Nat) (d : Nat × Nat) (r : Run) (ot : Option Tag) :
    (k.sendRun o target d r ot).inst? iid = some i := by rw [Core.inst?, k.sendRun_instances]; exact hi

theorem Core.inst?_instanceFor (t : Tag) : (k.instanceFor o t).1.inst? iid = some i := by
  unfold Core.instanceFor
  split
  · exact hi
  · split
    · exact hi
    · split
      · exact hi
      · exact Core.inst?_nameInstance hi _ _ _

theorem Core.inst?_sendPiece (second : Bool) (p : Tag × Run) (ot : Option Tag) :
    (k.sendPiece o second p ot).inst? iid = some i := by
  unfold Core.sendPiece
  refine List.foldlRecOn (motive := fun x : Core => x.inst? iid = some i) _ _ ?_ fun x hx d _ =>
    Core.inst?_sendRun hx o _ d p.2 ot
  split
  · exact Core.inst?_instanceFor hi o p.1
  · exact hi

theorem Core.inst?_sendTo (tg : Nat) (second : Bool) (r : Run) : (k.sendTo o tg second r).inst? iid = some i := by
  unfold Core.sendTo
  split
  · exact hi
  · split
    · exact Core.inst?_sendPiece hi o second _ none
    · split
      · exact hi
      · exact List.foldlRecOn (motive := fun x : Core => x.inst? iid = some i) _ _ hi fun x hx p _ =>
          Core.inst?_sendPiece hx o second p none

end

/-- The end of an iteration that is not the last: data results are sent, and the set fires again. -/
theorem State.finish_again (s : State) (o : OpIn) (h : OpWord) (data : Bool) (r0 r1 : Run) {f : Firing}
    (h0 : Fits s o h r0) (h1 : Fits s o h r1) (hn : o.f.nextRep = some f) : s.finish o h data r0 r1 =
      (if data then s.modCore o.c fun k => (k.sendTo o h.tg.toNat false r0).sendTo o h.tg.toNat true r1 else s).fireAgain o f := by
  have hfit0 : s.tagBad o h.tg.toNat r0 = false := h0
  have hfit1 : s.tagBad o h.tg.toNat r1 = false := h1
  simp only [State.finish, hfit0, hfit1, hn, Bool.or_self, Bool.false_eq_true, if_false]

section

variable {s : State} {o : OpIn} {f : Firing} {i : Instance} (hi : (s.core o.c).inst? f.iid = some i)

include hi

theorem State.fireAgain_queues (hp : i.status ≠ .parked) (hu : unitOf (fieldOf (o.m.word f.slot) 25 7) = none) :
    s.fireAgain o f = s.modCore o.c fun k => { k with issueQ := { f with heldAt := none } :: k.issueQ } := by
  simp [State.fireAgain, hi, hp, hu]

theorem State.fireAgain_holds {u : HUnit} (hp : i.status ≠ .parked)
    (hu : unitOf (fieldOf (o.m.word f.slot) 25 7) = some u) : s.fireAgain o f = s.hold { o with f := f } u .flight := by
  simp [State.fireAgain, hi, hp, hu]

theorem State.fireAgain_parks (hp : i.status = .parked) : s.fireAgain o f = s.modCore o.c fun k => k.modInst f.iid fun j =>
    { j with parkedSets := { f with heldAt := none } :: j.parkedSets } := by
  simp [State.fireAgain, hi, hp]

end

/-- Settles O10: an iteration that is not the last ends by `finish_again`, and its set fires again where the three lemmas of
`fireAgain` say; the results that are sent leave the issue queue, and the instance is still found. -/
theorem repetitionGoesOn : Obligations.RepetitionGoesOn := by
  unfold Obligations.RepetitionGoesOn
  intro s o h r0 r1 p i f hrep hleft hi hf h0 h1
  have hnext : o.f.nextRep = some f := by simp [Firing.nextRep, hrep, Nat.not_le.mpr hleft, hf]
  have hquiet : s.finish o h false r0 r1 = s.fireAgain o f := s.finish_again o h false r0 r1 h0 h1 hnext
  have hsent := s.finish_again o h true r0 r1 h0 h1 hnext
  have hiid : f.iid = o.f.iid := hf ▸ rfl
  have hslot : f.slot = o.f.slot := hf ▸ rfl
  rw [← hiid] at hi ⊢
  rw [← hslot]
  refine ⟨fun hp hu => ⟨hquiet.trans (State.fireAgain_queues hi hp hu), ?data⟩,
    fun u hp hu => hquiet.trans (State.fireAgain_holds hi hp hu), fun hp => hquiet.trans (State.fireAgain_parks hi hp)⟩
  case data =>
    have hstill := Core.inst?_sendTo (Core.inst?_sendTo hi o h.tg.toNat false r0) o h.tg.toNat true r1
    have hqueue := ((s.core o.c).sendTo_frame o h.tg.toNat false r0).trans (Core.sendTo_frame _ o h.tg.toNat true r1)
    rw [hsent, if_pos rfl, State.fireAgain_queues (i := i) _ hp hu, State.core_modCore_same, State.core_modCore_same]
    · exact congrArg _ hqueue.issueQ
    · rw [State.core_modCore_same]; exact hstill

end Sys2Proof.Machine

/-! PROOFS. The family of the element instructions (R272 to R298): forms of two operands and the integers that they give
element by element, DIV and REM, predicates, SEL and UNT5, and the vector-run forms. -/

namespace Sys2Proof.Machine

open Sys2Proof Sys2Proof.Claims

/-! ### Element forms of two operands, predicates and steered pairs (R276, R279, R281, R282, R287, R289) -/

theorem sendData_fires {s : State} {o : OpIn} (hf : Fires s o) (h : OpWord) (lanes : OpIn → List Lane) :
    sendData h s lanes = .next (done (s.finish o h true (o.f.run (lanes o)) (o.f.run (lanes o)))) := runOp_fires hf _

/-- Settles O2: a form of two operands sends its function's lanes, by `exec_binary` and `sendData_fires`. -/
theorem binaryFormsComplete : Obligations.BinaryFormsComplete := by
  unfold Obligations.BinaryFormsComplete
  intro i h g s o hi hf _
  rw [exec_binary hi]
  exact sendData_fires hf h _

/-- The illegal byte of R285 by its value: T0 has the codes of the legal bytes. -/
theorem unt5_codes (a : Word) :
    (if unt5Illegal a then 0 else laneUnt5 a) = if a.toNat % 256 < 243 then laneUnt5 a else 0 := by
  by_cases hlegal : a.toNat % 256 < 243
  · simp [unt5Illegal, hlegal]
  · simp [unt5Illegal, hlegal, Nat.le_of_not_lt hlegal]

/-- A set without an illegal byte has no lane at which the strict form traps. -/
theorem findIdx?_unt5Illegal {l : List Lane} (h : ∀ x ∈ l, x.val.toNat % 256 < 243) :
    findIdx? (fun x => unt5Illegal x.val) l 0 = none :=
  firstIdx_none _ l fun x hx => decide_eq_false (Nat.not_le.mpr (h x hx))

theorem execUnt5_completes {s : State} {o : OpIn} (hf : Fires s o) (h : OpWord) (ty : UntTy)
    (hlegal : ty = .strict → ∀ l ∈ o.f.left, l.val.toNat % 256 < 243) :
    execUnt5 h ty s = .next (done (s.finish o h true
      (o.f.run (lanes1 (fun a => if unt5Illegal a then 0 else laneUnt5 a) o.f.left))
      (o.f.run (lanes1 (fun a => predWord (unt5Illegal a)) o.f.left)))) := by
  rw [execUnt5, runOp_fires hf]
  cases ty with
  | lenient => rfl
  | strict => rw [findIdx?_unt5Illegal (hlegal rfl)]

/-- Settles O4: the relations by `exec_relation`, SEL as it stands, and UNT5 by `execUnt5_completes`. -/
theorem predicateFormsComplete : Obligations.PredicateFormsComplete := by
  unfold Obligations.PredicateFormsComplete
  refine ⟨fun i h g s o hi hf _ => ?relation, fun h s o hf _ => runOp_fires hf _, fun h ty s o hf _ hlegal => ?unt5⟩
  case relation =>
    rw [exec_relation hi]
    exact runOp_fires hf _
  case unt5 =>
    have hcodes : lanes1 (fun a => if unt5Illegal a then 0 else laneUnt5 a) o.f.left =
        map1 (fun a => if a.toNat % 256 < 243 then laneUnt5 a else 0) o.f.left :=
      congrArg (lanes1 · o.f.left) (funext unt5_codes)
    exact hcodes ▸ execUnt5_completes hf h ty hlegal

/-! ### DIV and REM (R278) -/

/-- The quotient of −2³¹ by −1 is 2³¹, which is −2³¹ modulo 2³². -/
theorem laneDiv_eq_divided (ty : I32Ty) : laneDiv ty = divided ty := by
  funext a b
  unfold laneDiv divided
  refine ite_congr rfl (fun _ => rfl) fun _ => ?_
  cases ty with
  | u32 => rw [← BitVec.toNat_udiv, BitVec.ofNat_toNat, BitVec.setWidth_eq]
  | s32 =>
    by_cases hcorner : a = 0x80000000 ∧ b = 0xFFFFFFFF
    · obtain ⟨rfl, rfl⟩ := hcorner
      decide
    · exact (if_neg hcorner).symm

theorem laneRem_eq_leftOver (ty : I32Ty) : laneRem ty = leftOver ty := by
  funext a b
  unfold laneRem leftOver
  refine ite_congr rfl (fun _ => rfl) fun _ => ?_
  cases ty with
  | u32 => rw [← BitVec.toNat_umod, BitVec.ofNat_toNat, BitVec.setWidth_eq]
  | s32 =>
    by_cases hcorner : a = 0x80000000 ∧ b = 0xFFFFFFFF
    · obtain ⟨rfl, rfl⟩ := hcorner
      decide
    · simp only [if_neg hcorner, Int.tmod_def]

/-- Settles O7: both are forms of two operands, whose lanes are R278's by the two equations above. -/
theorem divideAndRemainder : Obligations.DivideAndRemainder := by
  unfold Obligations.DivideAndRemainder
  intro h ty s o hf _ _ _
  rw [← laneDiv_eq_divided, ← laneRem_eq_leftOver]
  exact ⟨sendData_fires hf h _, sendData_fires hf h _⟩

/-! ### The elements of a packed lane (R210, R276) -/

theorem length_elems (w n x : Nat) : (elems w n x).length = n := by simp [elems]

theorem getElem?_elems {w n j : Nat} (x : Nat) (hj : j < n) : (elems w n x)[j]? = some (bits x (w * j) w) := by
  simp [elems, hj]

theorem packElems_lt (w : Nat) (l : List Nat) : packElems w l < 2 ^ (w * l.length) := by
  induction l with
  | nil => simp [packElems]
  | cons x r ih =>
    have hlow : x % 2 ^ w < 2 ^ w := Nat.mod_lt _ (Nat.two_pow_pos w)
    calc x % 2 ^ w + 2 ^ w * packElems w r < 2 ^ w * (packElems w r + 1) := by rw [Nat.mul_add_one]; omega
      _ ≤ 2 ^ w * 2 ^ (w * r.length) := Nat.mul_le_mul_left _ ih
      _ = 2 ^ (w * (r.length + 1)) := by rw [← Nat.pow_add, Nat.mul_add_one, Nat.add_comm]

theorem bits_packElems (w : Nat) {l : List Nat} {j x : Nat} (hx : l[j]? = some x) :
    bits (packElems w l) (w * j) w = x % 2 ^ w := by
  induction l generalizing j with
  | nil => cases hx
  | cons y r ih =>
    cases j with
    | zero =>
      obtain rfl : y = x := by simpa using hx
      simp [packElems, bits]
    | succ j =>
      have hdrop : packElems w (y :: r) / 2 ^ w = packElems w r := by
        rw [packElems, Nat.add_mul_div_left _ _ (Nat.two_pow_pos w),
          Nat.div_eq_of_lt (Nat.mod_lt _ (Nat.two_pow_pos w)), Nat.zero_add]
      rw [← ih (by simpa using hx), bits, bits, Nat.mul_add_one, Nat.add_comm, Nat.pow_add, ← Nat.div_div_eq_div_mul,
        hdrop]

theorem bits_mapElems2 {w j : Nat} (f : Nat → Nat → Nat) (a b : Nat) (hj : j < 32 / w) :
    bits (mapElems2 w f a b) (w * j) w = f (bits a (w * j) w) (bits b (w * j) w) % 2 ^ w := by
  refine bits_packElems w ?_
  rw [List.getElem?_zipWith, getElem?_elems a hj, getElem?_elems b hj]

theorem mapElems2_lt (w : Nat) (f : Nat → Nat → Nat) (a b : Nat) : mapElems2 w f a b < 2 ^ 32 := by
  refine (packElems_lt w _).trans_le (Nat.pow_le_pow_right Nat.two_pos ?_)
  rw [List.length_zipWith, length_elems, length_elems, Nat.min_self]
  exact Nat.mul_div_le 32 w

/-- A lane-wise form acts on each element by itself, and what it gives is cut to the element's width. -/
theorem bits_intOp2 (ty : ITy) (f : Nat → Nat → Nat) (a b : Word) {j : Nat} (hj : j < 32 / ITy.width ty) :
    bits (intOp2 ty f a b).toNat (ITy.width ty * j) (ITy.width ty) =
      f (bits a.toNat (ITy.width ty * j) (ITy.width ty)) (bits b.toNat (ITy.width ty * j) (ITy.width ty)) %
        2 ^ ITy.width ty := by
  rw [intOp2, BitVec.toNat_ofNat, Nat.mod_eq_of_lt (mapElems2_lt _ f _ _), bits_mapElems2 f _ _ hj]

/-! ### R276's table -/

theorem natCast_wrap (w : Nat) (x : Int) : (wrap w x : Int) = x % ((2 ^ w : Nat) : Int) :=
  Int.toNat_of_nonneg (Int.emod_nonneg _ (by exact_mod_cast (Nat.two_pow_pos w).ne'))

theorem natCast_satS (w : Nat) (x : Int) : (satS w x : Int) =
    (if x < -(2 ^ (w - 1) : Int) then -(2 ^ (w - 1) : Int) else if (2 ^ (w - 1) : Int) ≤ x then 2 ^ (w - 1) - 1 else x) %
      ((2 ^ w : Nat) : Int) := by
  have hpos : (0 : Int) < 2 ^ (w - 1) := by positivity
  rw [satS, natCast_wrap]
  push_cast
  generalize (2 : Int) ^ (w - 1) = half at hpos ⊢
  congr 1
  split_ifs <;> omega

theorem natCast_satU (w : Nat) (x : Int) :
    (satU w x : Int) = if x < 0 then 0 else if (2 ^ w : Int) ≤ x then 2 ^ w - 1 else x := by
  have hpos : (0 : Int) < 2 ^ w := by positivity
  rw [satU]
  push_cast
  generalize (2 : Int) ^ w = top at hpos ⊢
  split_ifs <;> omega

/-- A form's function on the elements gives the integer of the table, when both are cut to the element's width. -/
def GivesElement (ty : ITy) (f : Nat → Nat → Nat) (g : Nat → Nat → Int) : Prop :=
  ∀ x y, ((f x y % 2 ^ ITy.width ty : Nat) : Int) = g x y % ((2 ^ ITy.width ty : Nat) : Int)

theorem givesElement_natCast (ty : ITy) (f : Nat → Nat → Nat) : GivesElement ty f fun x y => (f x y : Int) :=
  fun _ _ => Int.natCast_emod _ _

theorem givesElement_mod (ty : ITy) (f : Nat → Nat → Nat) :
    GivesElement ty (fun x y => f x y % 2 ^ ITy.width ty) fun x y => (f x y : Int) :=
  fun x y => by rw [Nat.mod_mod, Int.natCast_emod]

theorem givesElement_wrap (ty : ITy) (g : Nat → Nat → Int) :
    GivesElement ty (fun x y => wrap (ITy.width ty) (g x y)) g :=
  fun x y => by rw [Int.natCast_emod, natCast_wrap, Int.emod_emod]

theorem givesElement_sat (ty : ITy) (g : Nat → Nat → Int) :
    GivesElement ty (fun x y => ITy.sat ty (g x y)) fun x y => table276.clamp ty (g x y) := by
  intro x y
  simp only [Int.natCast_emod, ITy.sat, table276.clamp]
  split
  · rw [natCast_satS, Int.emod_emod]
  · rw [natCast_satU]

/-- The model divides with rounding down, which for a positive divisor is the table's division. -/
theorem givesElement_wrap_fdiv (ty : ITy) (g : Nat → Nat → Int) (d : Nat → Nat → Nat) :
    GivesElement ty (fun x y => wrap (ITy.width ty) ((g x y).fdiv (d x y : Int))) fun x y => g x y / (d x y : Int) := by
  simp only [Int.fdiv_eq_ediv_of_nonneg _ (Int.natCast_nonneg _)]
  exact givesElement_wrap ty _

/-- Each form of the table is a lane-wise form of two operands whose function gives the table's integer. -/
theorem table276_givesElement {i : Instr} {h : OpWord} {ty : ITy} {g : Nat → Nat → Int}
    (hi : table276 i = some (h, ty, g)) : ∃ f, binary i = some (h, intOp2 ty f) ∧ GivesElement ty f g := by
  cases i with
  | add => cases hi; exact ⟨_, rfl, givesElement_mod ty fun x y => x + y⟩
  | sub => cases hi; exact ⟨_, rfl, givesElement_wrap ty _⟩
  | mul => cases hi; exact ⟨_, rfl, givesElement_mod ty fun x y => x * y⟩
  | mulh => cases hi; exact ⟨_, rfl, givesElement_wrap_fdiv ty _ _⟩
  | min => cases hi; exact ⟨_, rfl, fun x y => by simp [apply_ite]⟩
  | max => cases hi; exact ⟨_, rfl, fun x y => by simp [apply_ite]⟩
  | shl => cases hi; exact ⟨_, rfl, fun x y => by rw [Nat.mod_mod]; push_cast; rfl⟩
  | shr => cases hi; exact ⟨_, rfl, givesElement_natCast ty _⟩
  | sra => cases hi; exact ⟨_, rfl, givesElement_wrap_fdiv ty _ _⟩
  | addsat => cases hi; exact ⟨_, rfl, givesElement_sat ty _⟩
  | subsat => cases hi; exact ⟨_, rfl, givesElement_sat ty _⟩
  | _ => cases hi

/-- Settles O6: the form's lanes are those of `intOp2`, which acts on each element by `bits_intOp2`. -/
theorem integerElements : Obligations.IntegerElements := by
  unfold Obligations.IntegerElements
  intro i h ty g s o hi hf hleft hright _
  obtain ⟨f, hbinary, hgives⟩ := table276_givesElement hi
  refine ⟨lanes2 (intOp2 ty f) o.f.left o.f.right, ?length, fun n a b l ha hb hl => ?lane, ?ends⟩
  case length => rw [lanes2, List.length_zipWith, hleft, hright, Nat.min_self]
  case lane =>
    rw [lanes2, List.getElem?_zipWith, ha, hb] at hl
    obtain rfl := Option.some.inj hl
    exact ⟨rfl, fun j hj => by rw [bits_intOp2 ty f a.val b.val hj, hgives]⟩
  case ends =>
    rw [exec_binary hbinary]
    exact sendData_fires hf h _

/-! ### The vector-run forms (R295 to R298) -/

section

variable {s : State} {o : OpIn} (hf : Fires s o) (h : OpWord)

include hf

/-- A form that computes its lanes by their index sends any run that has those lanes. -/
theorem sendData_range_fires (g : OpIn → Nat → Lane) {ls : List Lane} (hlen : ls.length = o.f.n)
    (hls : ∀ i, i < o.f.n → ls.getD i zeroLane = g o i) :
    sendData h s (fun o => (List.range o.f.n).map (g o)) = .next (done (s.finish o h true (o.f.run ls) (o.f.run ls))) := by
  have hlanes : (List.range o.f.n).map (g o) = ls := by
    refine List.ext_getElem (by simp [hlen]) fun i hi hi' => ?_
    rw [List.getElem_map, List.getElem_range, ← hls i (hlen ▸ hi'), List.getD_eq_getElem _ _ hi']
  rw [sendData_fires hf, hlanes]

theorem execViota_completes (offset : BitVec 32) {ls : List Lane} (hlen : ls.length = o.f.n)
    (hls : ∀ i, i < o.f.n → ls.getD i zeroLane =
      { val := BitVec.ofNat 32 (baseOf o.m.vec o.i.tag o.f.first + i + offset.toNat), poison := false }) :
    execViota h offset s = .next (done (s.finish o h true (o.f.run ls) (o.f.run ls))) := by
  refine sendData_range_fires hf h _ hlen fun i hi => (hls i hi).trans ?_
  rw [BitVec.ofNat_add, BitVec.ofNat_toNat, BitVec.setWidth_eq]

/-- The lanes of VRUN's range are those from the later of the two starts to the earlier of the two ends. -/
theorem execVrun_completes (count first : BitVec 5) {a : Nat} {ls : List Lane} (ha : a = max first.toNat o.f.first)
    (hls : ls = (o.f.left.drop (a - o.f.first)).take (min (first.toNat + count.toNat + 1) (o.f.first + o.f.n) - a)) :
    execVrun h count first s = .next (done (s.finish o h true
      { first := a, lanes := if h.ar = 0 then lanes1 (fun _ => 0) ls else ls }
      { first := a, lanes := if h.ar = 0 then lanes1 (fun _ => 0) ls else ls })) := by
  have hstart : (if first.toNat < o.f.first then o.f.first else first.toNat) = a := by split <;> omega
  have hend : (if first.toNat + count.toNat + 1 < o.f.first + o.f.n then first.toNat + count.toNat + 1
      else o.f.first + o.f.n) = min (first.toNat + count.toNat + 1) (o.f.first + o.f.n) := by split <;> omega
  rw [execVrun, runOp_fires hf]
  simp only [hstart, hend, ← hls]

end

/-- Settles O5: VLANE and VIOTA by the index of each lane, VRUN by the bounds of its range, the others as their definitions
stand. -/
theorem vectorFormsComplete : Obligations.VectorFormsComplete := by
  unfold Obligations.VectorFormsComplete
  refine ⟨fun h j s o hf _ => sendData_fires hf h _, fun h s o ls hf hls _ => ?vshuf,
    fun h mode k s o ls hf hlen hls _ => sendData_range_fires hf h _ hlen fun i hi => (hls i hi).trans ?vlane,
    fun h offset s o ls hf hlen hls _ => execViota_completes hf h offset hlen hls,
    fun h count first s o a ls hf ha hls _ => (execVrun_completes hf h count first ha hls).trans ?vrun,
    fun h ty s o l hf hl _ => ?vred, fun h ty s o ls hf hls _ => ?vscan⟩
  case vshuf => subst hls; exact sendData_fires hf h _
  case vlane =>
    cases mode with
    | up => exact (if_congr Nat.not_lt.symm rfl rfl).trans (ite_not ..)
    | down => exact (if_congr (Nat.lt_succ_iff.trans Nat.not_lt.symm) rfl rfl).trans (ite_not ..)
    | rot => rfl
  case vrun =>
    by_cases hzero : h.ar = 0
    · simp only [if_pos hzero]; rfl
    · simp only [if_neg hzero]
  case vred => subst hl; exact runOp_fires hf _
  case vscan => subst hls; exact runOp_fires hf _

end Sys2Proof.Machine

/-! PROOFS. The family of the memory, matrix, projective and Spindle instructions (R299 to R387): loads, fences, tiles,
rows and streams; the matrix unit's forms and the elements that its registers hold; the Warper, the Reel and the
collectives; cameras, gathers and scatters; and the Spindle's forms. -/

namespace Sys2Proof.Machine

open Sys2Proof Sys2Proof.Claims

/-! ### Completion tokens and checks that pass (R92, R300) -/

theorem tagBadM_false {s : State} {o : OpIn} {h : OpWord} (hfit : TokenFits s o h) : s.tagBadM o h = false := hfit

/-- The end of a form with a completion token is its end on the machine (R300). -/
theorem done_finishM (s : State) (o : OpIn) (h : OpWord) (v : Word) : done (s.finishM o h v) = completes s o h v := rfl

theorem left0_poison {o : OpIn} (hp : (left0 o).poison = false) : (lane0 o.f.left).poison = false := hp

/-- A lane that is read past the end of a list of whole lanes is whole. -/
theorem poison_getD_false {l : List Lane} (h : Clean l) (j : Nat) : (l.getD j (Lane.mk 0 false)).poison = false := by
  rw [List.getD_eq_getElem?_getD]
  cases hj : l[j]? with
  | none => rfl
  | some x => exact h x (List.mem_of_getElem? hj)

theorem clean_orPoison {a b : List Lane} (ha : Clean a) (hb : Clean b) : Clean (orPoison a b) := by
  intro x hx
  obtain ⟨j, -, rfl⟩ := List.mem_map.mp hx
  rw [poison_getD_false ha, poison_getD_false hb]
  rfl

theorem zipWith_congr_mem {α β γ : Type} (f g : α → β → γ) (l : List α) (r : List β)
    (h : ∀ a ∈ l, ∀ b ∈ r, f a b = g a b) : List.zipWith f l r = List.zipWith g l r := by
  rw [← List.map_uncurry_zip_eq_zipWith, ← List.map_uncurry_zip_eq_zipWith]
  exact List.map_congr_left fun p hp => h p.1 (List.of_mem_zip hp).1 p.2 (List.of_mem_zip hp).2

/-! ### Loads (R300 to R303, R315) -/

/-- A load form whose lanes are whole, aligned and read sends what they hold to both targets. -/
theorem State.loadForm_completes (s : State) {s1 : State} {o : OpIn} {h : OpWord} {n : Nat} {ext : List Byte → Word}
    {al : List Lane} {addrs : List Nat} {ls : List Lane} (hp : Clean al) (ha : ∀ a ∈ addrs, a % n = 0)
    (hl : s.loadLanes o n ext o.f.first addrs s = .ok (ls, s1)) (hfit : Fits s1 o h { first := o.f.first, lanes := ls }) :
    s.loadForm o h n ext al addrs =
      s1.finish o h true { first := o.f.first, lanes := ls } { first := o.f.first, lanes := ls } := by
  have halign : firstIdx (fun a => a % n != 0) addrs = none := firstIdx_none _ _ fun a hm => by simp [ha a hm]
  have htag : s1.tagBad o h.tg.toNat (o.f.run ls) = false := hfit
  simp only [State.loadForm, anyPoison_false _ hp, halign, hl, htag, Bool.false_eq_true, if_false]
  rfl

section

variable {s : State} {o : OpIn} (hf : Fires s o) (h : OpWord)

include hf

theorem execLd_completes {ty : LdTy} {s1 : State} {addrs : List Nat} {ls : List Lane} (hport : PortFree s o true)
    (hp : Clean o.f.left) (h1 : h.ar = 1 → addrs = o.f.left.map fun l => l.val.toNat)
    (h2 : h.ar ≠ 1 → Clean o.f.right ∧ (∀ r ∈ o.f.right, r.val.toNat < 2 ^ 24) ∧
      addrs = List.zipWith (fun l r => addrOf r.val.toNat l.val.toNat) o.f.left o.f.right)
    (ha : ∀ a ∈ addrs, a % ldBytes ty = 0)
    (hl : s.loadLanes o (ldBytes ty) (ldExtend ty) o.f.first addrs s = .ok (ls, s1))
    (hfit : Fits s1 o h { first := o.f.first, lanes := ls }) :
    execLd h ty s = .next (done (s1.finish o h true { first := o.f.first, lanes := ls }
      { first := o.f.first, lanes := ls })) := by
  rw [execLd, carderOp_fires hf hport]
  by_cases har : h.ar = 1
  · obtain rfl := h1 har
    rw [if_pos har, s.loadForm_completes hp ha hl hfit]
  · obtain ⟨hr, hhigh, hz⟩ := h2 har
    have hnone : firstIdx (fun (l : Lane) => !l.poison && l.val.toNat / 2 ^ 24 != 0) o.f.right = none :=
      firstIdx_none _ _ fun r hm => by rw [Nat.div_eq_of_lt (hhigh r hm), bne_self_eq_false, Bool.and_false]
    have haddrs : List.zipWith (fun (l r : Lane) => bits r.val.toNat 0 24 * 2 ^ 32 + l.val.toNat) o.f.left o.f.right = addrs := by
      rw [hz]
      refine zipWith_congr_mem _ _ _ _ fun l _ r hm => ?_
      rw [bits, pow_zero, Nat.div_one, Nat.mod_eq_of_lt (hhigh r hm), addrOf]
    simp only [if_neg har, hnone, haddrs, s.loadForm_completes (clean_orPoison hp hr) ha hl hfit]

theorem execLdv_completes {sh : BitVec 3} {high : BitVec 24} {s1 : State} {addrs : List Nat} {ls : List Lane}
    (hport : PortFree s o true) (hp : Clean o.f.left)
    (h1 : h.ar = 1 → addrs = o.f.left.map fun l => addrOf high.toNat l.val.toNat)
    (h2 : h.ar ≠ 1 → Clean o.f.right ∧ addrs = List.zipWith (fun l r =>
      addrOf high.toNat ((l.val.toNat + r.val.toNat * 2 ^ sh.toNat) % 2 ^ 32)) o.f.left o.f.right)
    (ha : ∀ a ∈ addrs, a % 4 = 0) (hl : s.loadLanes o 4 (ldExtend .w32) o.f.first addrs s = .ok (ls, s1))
    (hfit : Fits s1 o h { first := o.f.first, lanes := ls }) :
    execLdv h sh high s = .next (done (s1.finish o h true { first := o.f.first, lanes := ls }
      { first := o.f.first, lanes := ls })) := by
  rw [execLdv, carderOp_fires hf hport]
  by_cases har : h.ar = 1
  · have haddrs : (o.f.left.map fun l => high.toNat * 2 ^ 32 + (l.val.toNat + 0 * 2 ^ sh.toNat) % 2 ^ 32) = addrs := by
      rw [h1 har]
      refine List.map_congr_left fun l _ => ?_
      simp [addrOf, Nat.mod_eq_of_lt l.val.isLt]
    simp only [if_pos har, haddrs, s.loadForm_completes hp ha hl hfit]
  · obtain ⟨hr, rfl⟩ := h2 har
    rw [if_neg har]
    exact congrArg (fun t => Host.Outcome.next (done t)) (s.loadForm_completes (clean_orPoison hp hr) ha hl hfit)

theorem execCwalk_completes {first cnt : BitVec 5} {s1 : State} {ls : List Lane} (hport : PortFree s o true)
    (hp : (left0 o).poison = false) (hvec : o.m.vec = true ∨ (first = 0 ∧ cnt = 0))
    (ha : (left0 o).val.toNat % 4 = 0) (hend : (left0 o).val.toNat + 4 * (cnt.toNat + 1) ≤ 0x200000)
    (hl : s.loadLanes o 4 (ldExtend .w32) o.f.first
      ((List.range (cnt.toNat + 1)).map fun j => (left0 o).val.toNat + 4 * j) s = .ok (ls, s1))
    (hfit : Fits s1 o h { first := first.toNat, lanes := map1 (fun x => BitVec.ofNat 32 (x.toNat % 65536)) ls }) :
    execCwalk h first cnt s = .next (done (s1.finish o h true
      { first := first.toNat, lanes := map1 (fun x => BitVec.ofNat 32 (x.toNat % 65536)) ls }
      { first := first.toNat, lanes := map1 (fun x => BitVec.ofNat 32 (x.toNat / 65536)) ls })) := by
  have hone : (!o.m.vec && (first != 0 || cnt.toNat + 1 != 1)) = false := by
    obtain hv | ⟨rfl, rfl⟩ := hvec
    · simp [hv]
    · simp
  have hin : ¬ (o.value % 4 ≠ 0 ∨ 0x200000 < o.value + 4 * (cnt.toNat + 1)) :=
    not_or.mpr ⟨not_not.mpr ha, Nat.not_lt.mpr hend⟩
  have hread : s.loadLanes o 4 (ldExtend .w32) o.f.first
      ((List.range (cnt.toNat + 1)).map fun j => o.value + 4 * j) s = .ok (ls, s1) := hl
  have htag : s1.tagBad o h.tg.toNat
      { first := first.toNat, lanes := lanes1 (fun x => BitVec.ofNat 32 (x.toNat % 65536)) ls } = false := hfit
  rw [execCwalk, carderOp_fires hf hport]
  simp only [left0_poison hp, hone, if_neg hin, hread, htag, Bool.false_eq_true, if_false]
  rfl

end

/-- Settles O19: LD and LDV are one load form at the addresses that each forms; CWALK by its own equation. -/
theorem loadsComplete : Obligations.LoadsComplete := by
  unfold Obligations.LoadsComplete
  exact ⟨fun h ty s s1 o addrs ls hf hport hp h1 h2 ha hl hfit => execLd_completes hf h hport hp h1 h2 ha hl hfit,
    fun h sh high s s1 o addrs ls hf hport hp h1 h2 ha hl hfit => execLdv_completes hf h hport hp h1 h2 ha hl hfit,
    fun h first cnt s s1 o ls hf hport hp hvec ha hend hl hfit => execCwalk_completes hf h hport hp hvec ha hend hl hfit⟩

end Sys2Proof.Machine

namespace Sys2Proof.Machine

open Sys2Proof Sys2Proof.Claims

/-! ### Fences and prefetch (R308, R309) -/

theorem State.raiseAcq_frame (s : State) (b a : Agent) (e : Nat) :
    (s.raiseAcq b a e).cores = s.cores ∧ (s.raiseAcq b a e).mem = s.mem := by
  unfold State.raiseAcq
  split
  · exact ⟨rfl, rfl⟩
  · exact ⟨rfl, rfl⟩

/-- The acquires of an acquire fence (R174): those of its instance's relaxed atomics that an arc leads from, within the
radii of both. -/
def State.fenceAcquires (s : State) (o : OpIn) (scope : Nat) (accs : List InstAcc) : State :=
  accs.foldl (fun u a =>
    match a.seen with
    | some r =>
      if o.m.arc a.slot o.f.slot && decide (u.dist r.agent (s.agent o.c o.colour) r.core o.c ≤ r.radius) &&
          decide (u.dist r.agent (s.agent o.c o.colour) r.core o.c ≤ u.radius scope) then
        u.raiseAcq (s.agent o.c o.colour) r.agent r.epoch
      else u
    | none => u) s

theorem State.fenceAcquires_frame (s : State) (o : OpIn) (scope : Nat) (accs : List InstAcc) :
    (s.fenceAcquires o scope accs).cores = s.cores ∧ (s.fenceAcquires o scope accs).mem = s.mem := by
  refine List.foldlRecOn (motive := fun u : State => u.cores = s.cores ∧ u.mem = s.mem) accs _ ⟨rfl, rfl⟩ fun u hu a _ => ?_
  split
  · split
    · exact ⟨(u.raiseAcq_frame _ _ _).1.trans hu.1, (u.raiseAcq_frame _ _ _).2.trans hu.2⟩
    · exact hu
  · exact hu

section

variable {s : State} {o : OpIn} (hf : Fires s o) (h : OpWord)

include hf

theorem execFence_completes {kind : FenceKind} {scope : BitVec 3} (hport : PortFree s o false) (hs : scope ≠ 7)
    (hw : (if kind = .acquire then s.earlier o else s.releaseWaits o) = false) (hfit : TokenFits s o h) :
    execFence h kind scope s = .next (completes (if kind = .release ∨ h.ar = 0 then s
      else s.fenceAcquires o scope.toNat o.i.accs) o h 0) := by
  have hwait : (if kind == .acquire then s.earlier o else s.releaseWaits o) = false := by
    simpa only [beq_iff_eq] using hw
  rw [execFence, carderOp_fires hf hport]
  simp only [if_neg hs, hwait, tagBadM_false hfit, Bool.false_eq_true, if_false]
  rfl

/-- A TSTATE form makes the change of R119 that its event names. -/
theorem tstateOp_completes {ev st : Nat} {t : Tile} (hport : PortFree s o false) (hw : s.releaseWaits o = false)
    (hn : (left0 o).val.toNat < 256) (ht : t = (s.core o.c).tile (left0 o).val.toNat) (hv : t.valid = true)
    (he : tileEvent ev t.state = some st) (hfit : TokenFits s o h) :
    tstateOp h ev s = .next (completes
      ((if ev = 1 ∨ ev = 3 then s.releaseAll (tstateOp.addAgent (s.agent o.c o.colour) t.users) else (s, t.rels)).1.modCore o.c
        fun k => k.modTile (left0 o).val.toNat fun x => { x with
          state := st, users := [],
          rels := (if ev = 1 ∨ ev = 3 then s.releaseAll (tstateOp.addAgent (s.agent o.c o.colour) t.users) else (s, t.rels)).2,
          count := if ev = 0 ∨ ev = 2 then 0 else x.count, poison := if ev = 0 then false else x.poison })
      o h (BitVec.ofNat 32 st)) := by
  subst ht
  have hin : ¬ (256 ≤ o.value ∨ ((s.core o.c).tile o.value).valid = false) := by
    rw [not_or, Bool.not_eq_false]
    exact ⟨Nat.not_le.mpr hn, hv⟩
  have hev : tileEvent ev ((s.core o.c).tile o.value).state = some st := he
  rw [tstateOp, carderOp_fires hf hport]
  simp only [hw, hin, hev, tagBadM_false hfit, Bool.false_eq_true, if_false]
  rfl

theorem execTwait_completes {t : Tile} (hport : s.portBusy o .carder = false) (hn : (left0 o).val.toNat < 1024)
    (ht : t = (s.core o.c).tile ((left0 o).val.toNat % 256)) (hv : t.valid = true)
    (hs : t.state = (left0 o).val.toNat / 256) :
    execTwait h s = .next (completes (if t.state = 2 then s.acquireAll (s.agent o.c o.i.tag.colour) t.rels else s) o h
      (BitVec.ofNat 32 (t.count % 65536 + if t.poison then 65536 else 0))) := by
  have hin : ¬ (1024 ≤ o.value ∨ ((s.core o.c).tile (o.value % 256)).valid = false) := by
    rw [not_or, Bool.not_eq_false]
    exact ⟨Nat.not_le.mpr hn, ht ▸ hv⟩
  have hwanted : bits o.value 8 2 = (left0 o).val.toNat / 256 :=
    Nat.mod_eq_of_lt (Nat.div_lt_of_lt_mul hn)
  have hstate : ¬ ((s.core o.c).tile (o.value % 256)).state ≠ bits o.value 8 2 := by
    rw [hwanted, not_not]
    exact ht ▸ hs
  subst ht
  rw [execTwait, runOp_fires hf]
  simp only [hport, hin, hstate, b2n_mul, Bool.false_eq_true, if_false]
  rfl

/-! ### Streams opened and closed (R312, R313) -/

theorem execSopen_completes {node : BitVec 4} {s1 : State} {bs : List Byte} (hport : PortFree s o true)
    (he : s.earlier o = false) (hp : (left0 o).poison = false) (ha : (left0 o).val.toNat % 64 = 0)
    (hown : (left0 o).val.toNat < 0x200000) (hb : s.readBlock o .carder (left0 o).val.toNat 64 = .ok (bs, s1))
    (hok : s.streamOk o.c (words64 bs) = true) (hbad : (s.core o.c).openBad node.toNat (words64 bs) = false)
    (hfit : TokenFits s o h) :
    execSopen h node s = .next (completes (s1.modCore o.c fun k => k.modNode node.toNat fun _ =>
      { Node.zero with state := 1, desc := words64 bs, opener := o.i.tag.colour }) o h 0) := by
  have hin : ¬ (o.value % 64 ≠ 0 ∨ 0x200000 ≤ o.value) := not_or.mpr ⟨not_not.mpr ha, Nat.not_le.mpr hown⟩
  have hread : s.readBlock o .carder o.value 64 = .ok (bs, s1) := hb
  rw [execSopen, carderOp_fires hf hport]
  simp only [he, left0_poison hp, if_neg hin, hread, hok, hbad, tagBadM_false hfit, Bool.not_true, Bool.false_eq_true, if_false]
  rfl

theorem execSclose_completes {node : BitVec 4} {n : Node} (hport : PortFree s o false) (he : s.earlier o = false)
    (hfit : TokenFits s o h) (hn : n = (s.core o.c).node node.toNat) (hnf : n.fault = none) :
    execSclose h node s = .next (if n.state = 0 then completes s o h 0
      else completes (s.modCore o.c fun k => { k with nodes := aset k.nodes node.toNat Node.zero,
                                                      matPath := k.matPath.filter fun p => p.1 != node.toNat }) o h
        (BitVec.ofNat 32 (n.visited - ((s.core o.c).matPath.filter fun p => p.1 == node.toNat).length))) := by
  subst hn
  rw [execSclose, carderOp_fires hf hport]
  simp only [he, tagBadM_false hfit, hnf, Bool.false_eq_true, if_false]
  split
  · rfl
  · rfl

end

/-- The tile that a core holds after a change of it. -/
theorem Core.tile_modTile_same (k : Core) (i : Nat) (f : Tile → Tile) : (k.modTile i f).tile i = f (k.tile i) := by
  simp [Core.modTile, Core.tile]

theorem State.tile_modTile_same (s : State) (c i : Nat) (f : Tile → Tile) :
    ((s.modCore c fun k => k.modTile i f).core c).tile i = f ((s.core c).tile i) := by
  rw [State.core_modCore_same, Core.tile_modTile_same]

/-- Settles O24: each form by its equation, the events of TSTATE by `tstateOp_completes`. -/
theorem orderingAndTileFormsComplete : Obligations.OrderingAndTileFormsComplete := by
  unfold Obligations.OrderingAndTileFormsComplete
  refine ⟨?fence, fun h s o hf hport => carderOp_fires hf hport _, ?tstate,
    fun h s o t hf hport hn ht hv hs _ => execTwait_completes hf h hport hn ht hv hs,
    fun h node s s1 o bs hf hport he hp ha hown hb hok hbad hfit =>
      execSopen_completes hf h hport he hp ha hown hb hok hbad hfit,
    fun h node s o n hf hport he hfit hn hnf => execSclose_completes hf h hport he hfit hn hnf⟩
  case fence =>
    intro h kind scope s o hf hport hs hw hfit
    refine ⟨_, execFence_completes hf h hport hs hw hfit, ?_⟩
    have hframe := s.fenceAcquires_frame o scope.toNat o.i.accs
    split
    next => exact ⟨rfl, rfl, fun _ => rfl⟩
    next hgo =>
      refine ⟨hframe.1, hframe.2, fun hnone => ?_⟩
      obtain hrel | har | haccs := hnone
      · exact absurd (Or.inl hrel) hgo
      · exact absurd (Or.inr har) hgo
      · rw [haccs]; rfl
  case tstate =>
    intro h s o t hf hport hw hn ht hv hfit
    have hgo := fun {ev st : Nat} (he : tileEvent ev t.state = some st) =>
      tstateOp_completes hf h hport hw hn ht hv he hfit
    refine ⟨fun hs => hgo (ev := 0) (by rw [hs]; rfl), fun hs => ⟨_, hgo (ev := 1) (st := 2) (by rw [hs]; rfl), ?_⟩,
      fun hs => hgo (ev := 2) (by rw [hs]; rfl), fun hs => ⟨_, hgo (ev := 3) (st := 0) ?_, ?_⟩⟩
    · rw [State.tile_modTile_same]
    · obtain hs | hs := hs
      · rw [hs]; rfl
      · rw [hs]; rfl
    · rw [State.tile_modTile_same]

/-! ### Row gathers and scatters (R314) -/

/-- What a row form does once its tile, operands, descriptor and rows have passed their checks. -/
theorem State.rowForm_ready {s s1 : State} {o : OpIn} {h : OpWord} {tile desc rowoff state rb : Nat} {t : Tile}
    {bs : List Byte} {rows : List (Nat × Nat)} (hr : RowsReady s s1 o h tile desc rowoff state t bs rb rows)
    (go : State → Nat → List (Nat × Nat) → State) : s.rowForm o h tile desc rowoff state go = go s1 rb rows := by
  obtain ⟨-, ht, hv, hs, hl, har, hb, ⟨base, pitch, hd, hrows⟩, hbad, hfit⟩ := hr
  subst ht hrows
  have hclean : (anyPoison o.f.left || (h.ar == 2 && anyPoison o.f.right)) = false := by
    rw [anyPoison_false _ hl, Bool.false_or, Bool.and_eq_false_imp]
    exact fun h2 => anyPoison_false _ (har (beq_iff_eq.mp h2))
  simp only [State.rowForm, hv, hclean, hs, hb, hd, hbad, tagBadM_false hfit, Bool.true_eq_false, Bool.false_eq_true,
    ne_eq, not_true_eq_false, if_false]

section

variable {s s1 : State} {o : OpIn} (hf : Fires s o) (h : OpWord) {tile : BitVec 8} {desc rowoff : BitVec 12} {t : Tile}
  {bs : List Byte} {rb : Nat} {rows : List (Nat × Nat)} {data : List (List PByte)}

include hf

theorem execGrows_completes {s2 s3 : State}
    (hr : RowsReady s s1 o h tile.toNat desc.toNat rowoff.toNat 1 t bs rb rows)
    (hd : s.readRows o rb o.f.first (rows.map fun p => p.1) s1 = .ok (data, s2))
    (hw : s.writeRows o o.f.first (List.zipWith (fun (p : Nat × Nat) d => (p.2, d)) rows data) s2 = .ok s3) :
    execGrows h tile desc rowoff s = .next (completes s3 o h 0) := by
  rw [execGrows, carderOp_fires hf hr.1]
  simp only [State.rowForm_ready hr, hd, hw]
  rfl

theorem execScat_completes {s3 : State} {l : List (Nat × List (Target × Nat))} (ho : o.overCount = false)
    (hr : RowsReady s s1 o h tile.toNat desc.toNat rowoff.toNat 2 t bs rb rows)
    (hd : s.readRows o rb o.f.first (rows.map fun p => p.2)
      (s1.acquireAll (s1.agent o.c o.colour) ((s1.core o.c).tile tile.toNat).rels) = .ok (data, s3))
    (hl : s.storeLanes o rb o.f.first (rows.map fun p => p.1) = .ok l)
    (hp : ∀ r ∈ rowSegs data l, ∀ g ∈ r, g.1.t3 = true → g.2.poison = false) :
    execScat h tile desc rowoff s = .next (completes ((s3.noteStores o l).atCommit o (.store o.f.slot
      ((rowSegs data l).flatten.map fun g => g.2))) o h 0) := by
  have hclean : anyPoison ((rowSegs data l).map fun r =>
      ({ val := 0, poison := r.any fun g => g.1.t3 && g.2.poison } : Lane)) = false := by
    refine anyPoison_false _ fun x hx => ?_
    obtain ⟨r, hr, rfl⟩ := List.mem_map.mp hx
    refine List.any_eq_false.mpr fun g hg => ?_
    rw [Bool.not_eq_true, Bool.and_eq_false_imp]
    exact hp r hr g hg
  rw [execScat, carderOp_fires hf hr.1]
  simp only [ho, State.rowForm_ready hr, hd, hl, hclean, Bool.false_eq_true, if_false]
  rfl

end

/-- Settles O26: both forms come past the checks of `rowForm_ready`, and each moves its rows. -/
theorem rowFormsComplete : Obligations.RowFormsComplete := by
  unfold Obligations.RowFormsComplete
  exact ⟨fun h tile desc rowoff s s1 s2 s3 o t bs rb rows data hf hr hd hw => execGrows_completes hf h hr hd hw,
    fun h tile desc rowoff s s1 s3 o t bs rb rows data l hf ho hr hd hl hp => execScat_completes hf h ho hr hd hl hp⟩

/-! ### Stream registers (R316, R317) -/

theorem streamOp_fires {s : State} {o : OpIn} {acc : Bool} (hf : Fires s o) (hp : StreamFree s o acc) (g : OpIn → State) :
    streamOp s acc g = .next (done (g o)) := by
  rw [streamOp, carderOp_fires hf hp.1, hp.2]
  rfl

theorem exec_merging {i : Instr} {h : OpWord} {m : MergeKind} {n : BitVec 5} {b a : BitVec 3}
    (hi : merging i = some (h, m, n, b, a)) (s : State) : exec i s = mergeOp h m n b a s := by
  unfold merging at hi
  split at hi <;> cases hi <;> rfl

/-- In a block without VEC a stream form has one lane (R317). -/
theorem lanesBad_false {o : OpIn} {n : BitVec 5} (hv : o.m.vec = true ∨ n = 0) :
    (!o.m.vec && n.toNat + 1 != 1) = false := by
  obtain hv | rfl := hv
  · simp [hv]
  · simp

section

variable {s : State} {o : OpIn} (hf : Fires s o) (h : OpWord)

include hf

theorem mergeOp_completes {m : MergeKind} {n : BitVec 5} {b a : BitVec 3} {r : Merge} (hfree : StreamFree s o true)
    (hv : o.m.vec = true ∨ n = 0) (hb : s.pairsBad o h (n.toNat + 1) = false)
    (hr : merge o m (n.toNat + 1) (((s.core o.c).stream a.toNat).left + ((s.core o.c).stream b.toNat).left + 1)
      { a := (s.core o.c).stream a.toNat, b := (s.core o.c).stream b.toNat, out := [], st := s } = .ok r) :
    mergeOp h m n b a s = .next (done ((r.st.modCore o.c fun k =>
      { k with streams := aset (aset k.streams a.toNat r.a) b.toNat r.b }).sendPairs o h (n.toNat + 1) r.out)) := by
  rw [mergeOp, streamOp_fires hf hfree]
  simp only [lanesBad_false hv, hb, hr, Bool.false_eq_true, if_false]

theorem execSnext_completes {n : BitVec 5} {a : BitVec 3} {r : Merge} (hfree : StreamFree s o true)
    (hv : o.m.vec = true ∨ n = 0) (hb : s.pairsBad o h (n.toNat + 1) = false)
    (hr : nextPairs o (n.toNat + 1) { a := (s.core o.c).stream a.toNat, b := Stream.zero, out := [], st := s } = .ok r) :
    execSnext h n a s = .next (done ((r.st.modCore o.c fun k =>
      { k with streams := aset k.streams a.toNat r.a }).sendPairs o h (n.toNat + 1) r.out)) := by
  rw [execSnext, streamOp_fires hf hfree]
  simp only [lanesBad_false hv, hb, hr, Bool.false_eq_true, if_false]

theorem execStld_invalidates {a : BitVec 3} (hfree : StreamFree s o true) (hfit : TokenFits s o h) (har : h.ar = 0) :
    execStld h a s = .next (done ((s.modCore o.c fun k =>
      { k with streams := aset k.streams a.toNat ({ (s.core o.c).stream a.toNat with flags := 0 } : Stream) }).finish o h
        false (allLanes o 0) { first := 0, lanes := [] })) := by
  rw [execStld, streamOp_fires hf hfree]
  simp only [tagBadM_false hfit, if_pos har, Bool.false_eq_true, if_false]
  rfl

theorem execStld_loads {a : BitVec 3} {s1 : State} {bs : List Byte} (hfree : StreamFree s o true) (hfit : TokenFits s o h)
    (har : h.ar ≠ 0) (hp : (left0 o).poison = false) (ha : (left0 o).val.toNat % 16 = 0)
    (hown : (left0 o).val.toNat < 0x200000) (hb : s.readBlock o .carder (left0 o).val.toNat 16 = .ok (bs, s1)) :
    execStld h a s = .next (done ((s1.modCore o.c fun k =>
      { k with streams := aset k.streams a.toNat (Stream.mk (leAt bs 0 7) (leAt bs 8 4) 0 0 1) }).finish o h false
        (allLanes o 0) { first := 0, lanes := [] })) := by
  have hin : ¬ (o.value % 16 ≠ 0 ∨ 0x200000 ≤ o.value) := not_or.mpr ⟨not_not.mpr ha, Nat.not_le.mpr hown⟩
  have hread : s.readBlock o .carder o.value 16 = .ok (bs, s1) := hb
  rw [execStld, streamOp_fires hf hfree]
  simp only [tagBadM_false hfit, if_neg har, left0_poison hp, if_neg hin, hread, Bool.false_eq_true, if_false]
  rfl

theorem execStst_answers {a : BitVec 3} {t : Stream} (hfree : StreamFree s o false)
    (ht : t = (s.core o.c).stream a.toNat) :
    execStst h a s = .next (done (s.finish o h true
      (oneLane 0 (if t.flags % 2 = 1 then BitVec.ofNat 32 (t.len - t.pos) else 0))
      (oneLane 0 (truth (t.flags % 2 == 0 || decide (t.len ≤ t.pos)))))) := by
  have hvalid : t.valid = (t.flags % 2 == 1) := by simp [Stream.valid, bit]
  have hend : t.atEnd = (t.flags % 2 == 0 || decide (t.len ≤ t.pos)) := by
    obtain he | he := Nat.mod_two_eq_zero_or_one t.flags
    · simp [Stream.atEnd, hvalid, he]
    · simp [Stream.atEnd, hvalid, he]
  rw [execStst, streamOp_fires hf hfree]
  simp only [← ht, hvalid, hend, beq_iff_eq]
  rfl

end

/-- Settles O27: the merging forms are one `mergeOp`; SNEXT, STLD and STST by their equations. -/
theorem streamFormsComplete : Obligations.StreamFormsComplete := by
  unfold Obligations.StreamFormsComplete
  exact ⟨fun i h m n b a s o r hi hf hfree hv hb hr => (exec_merging hi s).trans (mergeOp_completes hf h hfree hv hb hr),
    fun h n a s o r hf hfree hv hb hr => execSnext_completes hf h hfree hv hb hr,
    fun h a s o hf hfree hfit har => execStld_invalidates hf h hfree hfit har,
    fun h a s s1 o bs hf hfree hfit har hp ha hown hb => execStld_loads hf h hfree hfit har hp ha hown hb,
    fun h a s o t hf hfree ht _ => execStst_answers hf h hfree ht⟩

end Sys2Proof.Machine

namespace Sys2Proof.Machine

open Sys2Proof Sys2Proof.Claims

/-! ### A form of the matrix port that goes ahead (R266, R328, R330) -/

theorem matOp_fires {names : MNames} {s : State} {o : OpIn} {h : OpWord} {d : Nat} (hm : MatReady names s o h d)
    (g : OpIn → Nat → State) : matOp names s g = .next (done (g o d)) := by
  obtain ⟨hf, rfl, hport, hstep, hfit, rfl, htop, hregs⟩ := hm
  have harr : (names.mem && s.hasArrived o.c) = false := Bool.and_eq_false_imp.mpr hstep
  have hroom : ¬ names.top < names.field + lastStep o := Nat.not_lt.mpr htop
  have hallowed : ((names.regs (lastStep o) ++ names.regs o.f.stepBy).find? fun r =>
      !r.allowed (o.f.ticket.allot.getD (s.colourOf o).allot)) = none := by
    refine List.find?_eq_none.mpr fun r hr => ?_
    obtain hr | hr := List.mem_append.mp hr
    · simp [hregs _ (.inr rfl) r hr]
    · simp [hregs _ (.inl rfl) r hr]
  unfold lastStep at hroom hallowed
  rw [matOp, runOp_fires hf]
  cases hrep : o.f.rep with
  | none =>
    simp only [hrep] at hroom hallowed
    simp only [hport, harr, tagBadM_false hfit, hroom, hallowed, Bool.false_eq_true, if_false]
  | some r =>
    simp only [hrep] at hroom hallowed
    simp only [hport, harr, tagBadM_false hfit, hroom, hallowed, Bool.false_eq_true, if_false]

/-! ### MLD and MST (R331, R334 to R336) -/

theorem State.firedLeft_eq {s : State} {o : OpIn} (hf : Fires s o) : s.firedLeft = o.f.left := by
  rw [State.firedLeft, hf.1]

theorem fromPath_eq_false {o : OpIn} {kind : MKind} (hk : kind = .ma → (left0 o).val ≠ 0xFFFFFFFF) :
    fromPath kind o.f.left = false := by
  rw [fromPath, Bool.and_eq_false_imp]
  exact fun h => beq_false_of_ne (hk (beq_iff_eq.mp h))

theorem execMld_fromTile {s s2 s3 : State} {o : OpIn} {h : OpWord} {fmt : Fmt} {reg : BitVec 4} {tile : BitVec 8}
    {pten : BitVec 1} {pt : BitVec 4} {t mo : BitVec 1} {kind : MKind} {d : Nat} {tl : Tile} {x : Operand}
    (hm : MatReady (loadNames kind reg.toNat tile.toNat pten.toNat pt.toNat) s o h d) (hp : (left0 o).poison = false)
    (hk : kind = .ma → (left0 o).val ≠ 0xFFFFFFFF) (hpred : s.tilePred o.c pten.toNat pt.toNat (tile.toNat + d) = true)
    (ht : tl = (s.core o.c).tile (tile.toNat + d)) (hv : tl.valid = true) (hs : tl.state = 2)
    (hx : (s.acquireAll (s.agent o.c o.i.tag.colour) tl.rels).readOperand (o.afterFill tl) = .ok (x, s2))
    (he : mldEffect s2 (o.afterFill tl) fmt kind t mo (reg.toNat + d) x = .ok s3) :
    execMld h fmt reg tile pten pt t mo kind s = .next (completes s3 o h 0) := by
  subst ht
  have hread : (s.acquireAll (s.agent o.c o.colour) ((s.core o.c).tile (tile.toNat + d)).rels).readOperand
      (o.afterFill ((s.core o.c).tile (tile.toNat + d))) = .ok (x, s2) := hx
  have hpath := fromPath_eq_false hk
  rw [execMld, State.firedLeft_eq hm.1, hpath]
  refine (matOp_fires hm _).trans (congrArg (fun t => Host.Outcome.next (done t)) ?_)
  simp only [hpath, hpred, left0_poison hp, hv, hs, hread, Bool.not_true, Bool.and_false, Bool.false_eq_true, Bool.true_eq_false,
    ne_eq, not_true_eq_false, if_false]
  cases kind <;> (simp only [mldEffect] at he; simp only [he]; rfl)

theorem execMst_notes {s s1 : State} {o : OpIn} {h : OpWord} {fmt : Fmt} {reg : BitVec 4} {tile : BitVec 8}
    {pten : BitVec 1} {pt : BitVec 4} {t mo : BitVec 1} {kind : MKind} {d : Nat} {x : Operand}
    {l : List (Nat × List (Target × Nat))} {segs : List Seg}
    (hm : MatReady (loadNames kind reg.toNat tile.toNat pten.toNat pt.toNat) s o h d) (ho : o.overCount = false)
    (hp : (left0 o).poison = false) (hpred : s.tilePred o.c pten.toNat pt.toNat (tile.toNat + d) = true)
    (hv : ((s.core o.c).tile (tile.toNat + d)).valid = true) (hs : ((s.core o.c).tile (tile.toNat + d)).state = 1)
    (hx : s.readOperand o = .ok (x, s1)) (hfits : mstFits (s.core o.c) fmt kind (reg.toNat + d))
    (hin : ∀ r ∈ mstRows (s.core o.c) fmt kind t (reg.toNat + d), x.fits (r.1 + 1) r.2.length = true)
    (hl : s1.storeRows o x (mstRows (s.core o.c) fmt kind t (reg.toNat + d)) = .ok (l, segs)) :
    execMst h fmt reg tile pten pt t mo kind s =
      .next (completes ((s1.noteStores o l).atCommit o (.store o.f.slot segs)) o h 0) := by
  have hrows : ((mstRows (s.core o.c) fmt kind t (reg.toNat + d)).find? fun p => !x.fits (p.1 + 1) p.2.length) = none :=
    List.find?_eq_none.mpr fun r hr => by rw [hin r hr]; decide
  rw [execMst, matOp_fires hm]
  simp only [ho, hpred, left0_poison hp, hv, hs, hx, Bool.not_true, Bool.false_eq_true, Bool.true_eq_false, ne_eq,
    not_true_eq_false, if_false]
  cases kind with
  | ma =>
    simp only [mstRows] at hrows hl
    have hfmt : ((s.core o.c).ma (reg.toNat + d)).fmt = fmtCode fmt := hfits
    simp only [hfmt, if_true, hrows, hl]
    rfl
  | md =>
    simp only [mstRows] at hrows hl
    simp only [hrows, hl]
    rfl
  | acc =>
    simp only [mstRows] at hrows hl
    have hfmt := hfits
    simp only [mstFits] at hfmt
    simp only [hfmt, if_true, hrows, hl]
    rfl

/-- MLD from the matrix operand path takes its 64 rows, and writes its register in the form's format (R336). -/
theorem State.mldPath_takes (s : State) (o : OpIn) (h : OpWord) {fmt : Fmt} {r : Nat} {p : Nat × List Lane}
    {rest : List (Nat × List Lane)} (hfb : fmtFB fmt = false) (ht5 : fmt ≠ .tern5) (hpath : (s.core o.c).matPath = p :: rest)
    (hw : descEwords ((s.core o.c).node p.1).desc = maRowBytes fmt / 4) (hn : 63 ≤ rest.length) :
    ∃ u, done (s.mldPath o h fmt r) = completes u o h 0 ∧ (u.core o.c).matPath = (p :: rest).drop 64 ∧
      ((u.core o.c).ma r).fmt = fmtCode fmt ∧ ((u.core o.c).ma r).written = true := by
  have hfmt : (fmtFB fmt || fmt == Fmt.tern5) = false := by simp [hfb, ht5]
  have hfull : ¬ (p :: rest).length < 64 := by rw [List.length_cons]; omega
  obtain ⟨i, ls⟩ := p
  simp only [State.mldPath, hfmt, hpath, hw, hfull, ne_eq, not_true_eq_false, Bool.false_eq_true, if_false]
  refine ⟨_, rfl, ?_⟩
  rw [State.core_modCore_same]
  refine ⟨congrArg (List.drop 64) hpath, ?_⟩
  simp [Core.ma, Core.setMa]

theorem execMld_fromPath {s : State} {o : OpIn} {h : OpWord} {fmt : Fmt} {reg : BitVec 4} {tile : BitVec 8}
    {pten : BitVec 1} {pt : BitVec 4} {t mo : BitVec 1} {d : Nat}
    (hm : MatReady (namesOf fun d => [.ma (reg.toNat + d)]) s o h d) (hp : (left0 o).poison = false)
    (hv : (left0 o).val = 0xFFFFFFFF) :
    execMld h fmt reg tile pten pt t mo .ma s = .next (done (s.mldPath o h fmt (reg.toNat + d))) := by
  have hpath : fromPath .ma o.f.left = true := by
    rw [fromPath, lane0_left, hv]
    rfl
  rw [execMld, State.firedLeft_eq hm.1, hpath, mldNames, if_pos rfl, matOp_fires hm]
  simp only [hpath, left0_poison hp, Bool.not_true, Bool.false_and, Bool.false_eq_true, if_false, if_true]

/-- Settles O29: MLD from a tile and from the path, and MST, each by its equation. -/
theorem matrixLoadsComplete : Obligations.MatrixLoadsComplete := by
  unfold Obligations.MatrixLoadsComplete
  refine ⟨fun h fmt reg tile pten pt t mo kind s s2 s3 o d tl x hm hp hk hpred ht hv hs hx he =>
      execMld_fromTile hm hp hk hpred ht hv hs hx he, ?path,
    fun h fmt reg tile pten pt t mo kind s s1 o d x l segs hm ho hp hpred hv hs hx hfits hin hl =>
      execMst_notes (mo := mo) hm ho hp hpred hv hs hx hfits hin hl⟩
  case path =>
    intro h fmt reg tile pten pt t mo s o d p rest hm hp hv hfb ht5 hpath hw hn
    obtain ⟨u, hu, htaken⟩ := s.mldPath_takes o h (r := reg.toNat + d) hfb ht5 hpath hw hn
    exact ⟨u, (execMld_fromPath hm hp hv).trans (congrArg Host.Outcome.next hu), htaken⟩

/-! ### The elements of an accumulator (R325) -/

/-- An element of lists of one length joined: the one at its place in the list that holds it. -/
theorem getElem?_flatMap_uniform {α β : Type} (f : α → List β) (n : Nat) (l : List α) (hn : ∀ a ∈ l, (f a).length = n)
    (i j : Nat) (hj : j < n) : (l.flatMap f)[n * i + j]? = l[i]?.bind fun a => (f a)[j]? := by
  induction l generalizing i with
  | nil => rfl
  | cons a l ih =>
    have ha : (f a).length = n := hn a List.mem_cons_self
    cases i with
    | zero => simp [List.getElem?_append_left, ha, hj]
    | succ i =>
      have hpast : (f a).length ≤ n * (i + 1) + j := by rw [ha, Nat.mul_succ]; omega
      have hrest : n * (i + 1) + j - (f a).length = n * i + j := by rw [ha, Nat.mul_succ]; omega
      rw [List.flatMap_cons, List.getElem?_append_right hpast, hrest,
        ih (fun b hb => hn b (List.mem_cons_of_mem _ hb)) i, List.getElem?_cons_succ]

/-- The word of a bank of 64-element rows at (i, j). -/
theorem bankOf_getD {rows : List (List Nat)} (hr : ∀ r ∈ rows, r.length = 64) (i j : Nat) (hj : j < 64) :
    (bankOf rows).getD (64 * i + j) 0 = BitVec.ofNat 32 (rowsAt rows i j) := by
  rw [List.getD_eq_getElem?_getD, bankOf,
    getElem?_flatMap_uniform _ 64 rows (fun r hm => by rw [List.length_map, hr r hm]) i j hj, rowsAt]
  cases hi : rows[i]? with
  | none => simp [List.getD_eq_getElem?_getD, hi]
  | some r =>
    have hlen : j < r.length := by rw [hr r (List.mem_of_getElem? hi)]; exact hj
    simp [List.getD_eq_getElem?_getD, hi, hlen]

@[simp] theorem AccReg.cur_setCur (a : AccReg) (l : List Word) : (a.setCur l).cur = l := by
  unfold AccReg.setCur
  split
  next h => simp [AccReg.cur, h]
  next h => simp [AccReg.cur, h]

@[simp] theorem AccReg.active_setCur (a : AccReg) (l : List Word) : (a.setCur l).active = a.active := by
  unfold AccReg.setCur; split <;> rfl

@[simp] theorem AccReg.int_setCur (a : AccReg) (l : List Word) : (a.setCur l).int = a.int := by
  unfold AccReg.setCur; split <;> rfl

/-- The poison of a register is beside its banks. -/
theorem AccReg.poison_setCur (a : AccReg) (l : List Word) :
    (a.setCur l).prow = a.prow ∧ (a.setCur l).pcol = a.pcol ∧ (a.setCur l).psum = a.psum := by
  unfold AccReg.setCur; split <;> exact ⟨rfl, rfl, rfl⟩

/-- The elements of a register whose active bank holds rows of 64 words. -/
theorem AccReg.at_of_cur {a : AccReg} {rows : List (List Nat)} (hc : a.cur = bankOf rows) (hr : ∀ r ∈ rows, r.length = 64)
    (i j : Nat) (hj : j < 64) : a.at i j = rowsAt rows i j % 2 ^ 32 := by
  rw [AccReg.at, hc, bankOf_getD hr i j hj, BitVec.toNat_ofNat]

theorem AccReg.cur_put (a : AccReg) (rows : List (List Nat)) : (a.put rows).cur = bankOf rows := a.cur_setCur _

theorem AccReg.at_put (a : AccReg) {rows : List (List Nat)} (hr : ∀ r ∈ rows, r.length = 64) (i j : Nat) (hj : j < 64) :
    (a.put rows).at i j = rowsAt rows i j % 2 ^ 32 := AccReg.at_of_cur (a.cur_put rows) hr i j hj

theorem AccReg.at_lt (a : AccReg) (i j : Nat) : a.at i j < 2 ^ 32 := BitVec.isLt _

theorem Core.acc_setAcc_same (k : Core) (i : Nat) (a : AccReg) : (k.setAcc i a).acc i = a := by simp [Core.acc, Core.setAcc]

theorem Core.acc_setAcc_other (k : Core) (i j : Nat) (a : AccReg) (h : j ≠ i) : (k.setAcc i a).acc j = k.acc j := by
  simp [Core.acc, Core.setAcc, aget_aset_other _ _ _ _ _ h]

/-! ### MZERO (R337) -/

theorem bit_eq_zero (b : BitVec 1) : (b == 0) = !(b == 1) := by revert b; decide

theorem rowsAt_replicate (r : List Nat) (i j : Nat) (hi : i < 64) : rowsAt (List.replicate 64 r) i j = r.getD j 0 := by
  rw [rowsAt, List.getD_replicate _ hi]

theorem AccReg.at_cleared (a : AccReg) (int : Bool) (i j : Nat) (hi : i < 64) (hj : j < 64) : (a.cleared int).at i j = 0 := by
  have hput := a.at_put (rows := zeroRows) (fun r hr => by rw [List.eq_of_mem_replicate hr, List.length_replicate]) i j hj
  have hzero : rowsAt zeroRows i j = 0 := by
    rw [zeroRows, rowsAt_replicate _ i j hi]
    exact List.getD_replicate _ hj
  exact hput.trans (by rw [hzero]; rfl)

/-- The other bank of a cleared register stays. -/
theorem AccReg.cleared_bank (a : AccReg) (int : Bool) :
    if (a.cleared int).active then (a.cleared int).bank0 = a.bank0 else (a.cleared int).bank1 = a.bank1 := by
  cases ha : a.active with
  | true => simp [AccReg.cleared, AccReg.put, AccReg.setCur, ha]
  | false => simp [AccReg.cleared, AccReg.put, AccReg.setCur, ha]

/-- A register that MZERO with EMPTY clears after its own: -Inf in column 0. -/
def AccReg.emptied (a : AccReg) : AccReg :=
  (a.cleared false).put (List.replicate 64 (negInf32 :: List.replicate 63 0))

theorem AccReg.at_emptied (a : AccReg) (i j : Nat) (hi : i < 64) (hj : j < 64) :
    a.emptied.at i j = if j = 0 then 0xFF800000 else 0 := by
  have hput := (a.cleared false).at_put (rows := List.replicate 64 (negInf32 :: List.replicate 63 0))
    (fun r hr => by rw [List.eq_of_mem_replicate hr]; rfl) i j hj
  rw [AccReg.emptied, hput, rowsAt_replicate _ i j hi]
  cases j with
  | zero => rfl
  | succ j =>
    rw [List.getD_cons_succ, List.getD_replicate _ (Nat.lt_of_succ_lt_succ hj)]
    rfl

/-- The registers after MZERO of register `n`. -/
def Core.zeroed (k : Core) (int empty : Bool) (n : Nat) : Core :=
  if empty then (k.setAcc n ((k.acc n).cleared (!empty && int))).setAcc (n + 1) (k.acc (n + 1)).emptied
  else k.setAcc n ((k.acc n).cleared (!empty && int))

theorem Core.zeroed_frame (k : Core) (int empty : Bool) (n : Nat) :
    k.zeroed int empty n = { k with accs := (k.zeroed int empty n).accs } := by
  unfold Core.zeroed; split <;> rfl

theorem Core.acc_zeroed_same (k : Core) (int empty : Bool) (n : Nat) :
    (k.zeroed int empty n).acc n = (k.acc n).cleared (!empty && int) := by
  unfold Core.zeroed
  split
  · rw [Core.acc_setAcc_other _ _ _ _ (by omega), Core.acc_setAcc_same]
  · rw [Core.acc_setAcc_same]

theorem Core.acc_zeroed_next (k : Core) (int : Bool) (n : Nat) :
    (k.zeroed int true n).acc (n + 1) = (k.acc (n + 1)).emptied := by
  rw [Core.zeroed, if_pos rfl, Core.acc_setAcc_same]

theorem Core.acc_zeroed_other (k : Core) (int empty : Bool) (n m : Nat) (hm : m ≠ n) (he : empty = true → m ≠ n + 1) :
    (k.zeroed int empty n).acc m = k.acc m := by
  unfold Core.zeroed
  split
  next h => rw [Core.acc_setAcc_other _ _ _ _ (he h), Core.acc_setAcc_other _ _ _ _ hm]
  next => rw [Core.acc_setAcc_other _ _ _ _ hm]

theorem execMzero_clears {s : State} {o : OpIn} {h : OpWord} {acc : BitVec 3} {int empty : BitVec 1} {d : Nat}
    (hm : MatReady (namesOf fun d => .acc (acc.toNat + d) :: (if empty = 1 then [.acc (acc.toNat + d + 1)] else [])) s o h d) :
    execMzero h acc int empty s = .next (completes
      (s.modCore o.c fun k => k.zeroed (int == 1) (empty == 1) (acc.toNat + d)) o h 0) := by
  rw [execMzero, matOp_fires hm]
  refine congrArg (fun f : Core → Core => Host.Outcome.next (completes (s.modCore o.c f) o h 0)) (funext fun k => ?_)
  unfold Core.zeroed
  by_cases he : empty = 1
  · subst he
    rw [if_pos rfl, if_pos (show ((1 : BitVec 1) == 1) = true from rfl), Core.acc_setAcc_other _ _ _ _ (Nat.succ_ne_self _)]
    rfl
  · have hne : ¬ (empty == 1) = true := by simpa using he
    rw [if_neg he, if_neg hne, bit_eq_zero]

/-- Settles O30: MZERO's registers are those of `Core.zeroed`. -/
theorem matrixClear : Obligations.MatrixClear := by
  unfold Obligations.MatrixClear
  intro h acc int empty s o d n hn hm
  subst hn
  refine ⟨((s.core o.c).zeroed (int == 1) (empty == 1) (acc.toNat + d)).accs, ?_, ?same, ?next, ?other⟩
  · refine (execMzero_clears hm).trans ?_
    exact congrArg (fun k => Host.Outcome.next (completes (s.setCore o.c k) o h 0)) (Core.zeroed_frame _ _ _ _)
  case same =>
    intro a ha
    obtain rfl : a = ((s.core o.c).acc (acc.toNat + d)).cleared (!(empty == 1) && int == 1) :=
      ha.trans (Core.acc_zeroed_same _ _ _ _)
    refine ⟨fun i j hi hj => AccReg.at_cleared _ _ i j hi hj, ?_, rfl, rfl, rfl, rfl, AccReg.active_setCur _ _,
      AccReg.cleared_bank _ _⟩
    rw [bit_eq_zero]; rfl
  case next =>
    intro he a ha
    subst he
    obtain rfl : a = ((s.core o.c).acc (acc.toNat + d + 1)).emptied := ha.trans (Core.acc_zeroed_next _ _ _)
    exact ⟨fun i j hi hj => AccReg.at_emptied _ i j hi hj, AccReg.int_setCur _ _, rfl, AccReg.poison_setCur _ _⟩
  case other =>
    intro m hmn he
    exact Core.acc_zeroed_other _ _ _ _ m hmn fun h1 => he (beq_iff_eq.mp h1)

end Sys2Proof.Machine

namespace Sys2Proof.Machine

open Sys2Proof Sys2Proof.Claims

/-! ### Products, compression, conversions and moves (R338 to R344, R350) -/

theorem modCore_setMa (s : State) (o : OpIn) (i : Nat) (f : Core → MaReg) :
    (s.modCore o.c fun k => k.setMa i (f k)) = withMa s o i (f (s.core o.c)) := rfl

theorem modCore_setAcc (s : State) (o : OpIn) (i : Nat) (f : Core → AccReg) :
    (s.modCore o.c fun k => k.setAcc i (f k)) = withAcc s o i (f (s.core o.c)) := rfl

section

variable {s : State} {o : OpIn} {h : OpWord} {d : Nat}

theorem execMma_accumulates {fmt : Fmt} {acc : BitVec 3} {ma mb : BitVec 4} {a b : MaReg}
    (hm : MatReady (namesOf fun d => [.acc acc.toNat, .ma (ma.toNat + d), .ma (mb.toNat + d)]) s o h d)
    (hok : (s.core o.c).productBad fmt [ma.toNat + d, mb.toNat + d] acc.toNat = none)
    (ha : a = (s.core o.c).ma (ma.toNat + d)) (hb : b = (s.core o.c).ma (mb.toNat + d)) :
    execMma h fmt acc ma mb s = .next (completes (withAcc s o acc.toNat (((s.core o.c).acc acc.toNat).product (fmtInt fmt)
      (mmaRows fmt a b ((s.core o.c).acc acc.toNat).rows) a.prow b.prow)) o h 0) := by
  subst ha hb
  rw [execMma, matOp_fires hm]
  simp only [hok]
  rfl

/-- What a product leaves of its accumulator: it is written, in its bank, as the format's type. -/
theorem AccReg.product_flags (a : AccReg) (int : Bool) (rows : List (List Nat)) (pa pb : Nat) :
    (a.product int rows pa pb).written = true ∧ (a.product int rows pa pb).int = int ∧
      (a.product int rows pa pb).active = a.active := ⟨rfl, rfl, a.active_setCur _⟩

theorem execMmsp_accumulates {fmt : Fmt} {acc : BitVec 3} {ma mb : BitVec 4} {md : BitVec 3} {pat : BitVec 1}
    (hm : MatReady (namesOf fun d => [.acc acc.toNat, .ma (ma.toNat + d), .ma (mb.toNat + d),
        .ma (mb.toNat + d + 1), .md (md.toNat + d)]) s o h d)
    (hok : (s.core o.c).productBad fmt [ma.toNat + d, mb.toNat + d, mb.toNat + d + 1] acc.toNat = none)
    (hmask : ((s.core o.c).md (md.toNat + d)).badMask pat.toNat = none) :
    ∃ rows pa pb, execMmsp h fmt acc ma mb md pat s = .next (completes (withAcc s o acc.toNat
      (((s.core o.c).acc acc.toNat).product (fmtInt fmt) rows pa pb)) o h 0) := by
  rw [execMmsp, matOp_fires hm]
  simp only [hok, hmask]
  exact ⟨_, _, _, rfl⟩

theorem execMcomp_compresses {fmt : Fmt} {ma ms : BitVec 4} {md : BitVec 3} {pat : BitVec 1} {gap : BitVec 3}
    (hm : MatReady (namesOf fun d => [.ma (ma.toNat + d), .ma (ms.toNat + d),
        .ma (ms.toNat + d + 1), .md (md.toNat + d)]) s o h d)
    (hheld : ((s.core o.c).ma (ms.toNat + d)).heldIn fmt = true)
    (hheld1 : ((s.core o.c).ma (ms.toNat + d + 1)).heldIn fmt = true) :
    ∃ prow rows scale data, execMcomp h fmt ma ms md pat gap s = .next (completes (s.modCore o.c fun k =>
        { k.setMa (ma.toNat + d) (maMake fmt false prow rows scale) with
          mds := aset k.mds (md.toNat + d) { data := data, written := true, prow := 0 } }) o h 0) := by
  have hfound : ([(s.core o.c).ma (ms.toNat + d), (s.core o.c).ma (ms.toNat + d + 1)].find? fun m => !m.heldIn fmt) = none := by
    simp [hheld, hheld1]
  rw [execMcomp, matOp_fires hm]
  simp only [hfound]
  exact ⟨_, _, _, _, rfl⟩

theorem execMqnt_quantises {fmt : Fmt} {acc : BitVec 3} {ma : BitVec 4} {gap : BitVec 3} {orient : BitVec 1}
    (hm : MatReady (namesOf fun d => [.acc (acc.toNat + d), .ma (ma.toNat + d)]) s o h d) :
    execMqnt h fmt acc ma gap orient s = .next (completes (withMa s o (ma.toNat + d)
      (quantAcc fmt gap.toNat (orient == 1) ((s.core o.c).acc (acc.toNat + d)))) o h 0) := by
  rw [execMqnt, matOp_fires hm, modCore_setMa s o, done_finishM]

theorem execMtrn_transposes {ma ms : BitVec 4}
    (hm : MatReady (namesOf fun d => [.ma (ma.toNat + d), .ma (ms.toNat + d)]) s o h d) :
    execMtrn h ma ms s = .next (completes (withMa s o (ma.toNat + d)
      ((s.core o.c).ma (ms.toNat + d)).transpose) o h 0) := by
  rw [execMtrn, matOp_fires hm, modCore_setMa s o, done_finishM]

theorem execMdeq_converts {df sf : Fmt} {ma ms : BitVec 4} {strict : BitVec 1} {m : MaReg}
    (hm : MatReady (namesOf fun d => [.ma (ma.toNat + d), .ma (ms.toNat + d)]) s o h d)
    (hsrc : m = (s.core o.c).ma (ms.toNat + d)) (hfmt : m.fmt = fmtCode sf)
    (hbad : strict = 1 → sf = .tern5 → m.badBytes = []) :
    execMdeq h df sf ma ms strict s = .next (done ((withMa s o (ma.toNat + d) (maMake df false m.prow
      ((List.range 64).map fun r => List.zipWith (deqElem df sf) (m.ints sf r) (m.vals r)) [])).finishL o h
        (BitVec.ofNat 32 (if sf = .tern5 then m.badBytes.length else 0)))) := by
  have hlen : (if sf = .tern5 then m.badBytes else []).length = if sf = .tern5 then m.badBytes.length else 0 := by
    split <;> rfl
  have hstrict : strict = 1 → (if sf = .tern5 then m.badBytes else []) = [] := fun h1 => by
    split
    next ht => exact hbad h1 ht
    next => rfl
  rw [← hlen]
  subst hsrc
  rw [execMdeq, matOp_fires hm]
  simp only [hfmt, ne_eq, not_true_eq_false, if_false]
  generalize hb : (if sf = .tern5 then ((s.core o.c).ma (ms.toNat + d)).badBytes else []) = bad at *
  by_cases h1 : strict = 1
  · subst h1
    obtain rfl := hstrict rfl
    rfl
  · have hlax : (strict == 1) = false := beq_false_of_ne h1
    simp only [hlax]
    rfl

theorem execMaccr_reads {acc : BitVec 3} {row : BitVec 6} {half : BitVec 1} {a : AccReg} {ls : List Lane}
    (hm : MatReady { regs := fun _ => [.acc acc.toNat], field := row.toNat, top := 63, mem := false } s o h d)
    (hn : o.f.n = 32) (ha : a = (s.core o.c).acc acc.toNat)
    (hls : ls = (List.range 32).map (fun c => { val := BitVec.ofNat 32 (a.at (row.toNat + d) (32 * half.toNat + c)),
                                                poison := a.elemPoison (row.toNat + d) (32 * half.toNat + c) })) :
    execMaccr h acc row half 0 s = .next (done (s.finish o h true { first := 0, lanes := ls } { first := 0, lanes := ls })) := by
  subst ha hls
  rw [execMaccr, matOp_fires hm]
  simp only [hn, ne_eq, not_true_eq_false, if_false, if_true]

theorem execMaccr_writes {acc : BitVec 3} {row : BitVec 6} {half : BitVec 1} {a : AccReg}
    (hm : MatReady { regs := fun _ => [.acc acc.toNat], field := row.toNat, top := 63, mem := false } s o h d)
    (hn : o.f.n = 32) (ha : a = (s.core o.c).acc acc.toNat) :
    execMaccr h acc row half 1 s =
      .next (completes (withAcc s o acc.toNat (a.writeHalf (row.toNat + d) half.toNat o.f.left)) o h 0) := by
  subst ha
  rw [execMaccr, matOp_fires hm]
  simp only [hn, ne_eq, not_true_eq_false, if_false]
  rfl

theorem execPtset_sets {pt : BitVec 4} {half : BitVec 1} {v : Nat} (hm : MatReady (namesOf fun _ => [.pt pt.toNat]) s o h d)
    (hp : (left0 o).poison = false) (hv : v = (s.core o.c).pt pt.toNat) :
    execPtset h pt half s = .next (completes (s.modCore o.c fun k =>
      { k with pts := aset k.pts pt.toNat (if half = 0 then v / 2 ^ 32 * 2 ^ 32 + (left0 o).val.toNat
          else v % 2 ^ 32 + (left0 o).val.toNat * 2 ^ 32) }) o h 0) := by
  subst hv
  rw [execPtset, matOp_fires hm]
  simp only [left0_poison hp, Bool.false_eq_true, if_false]
  rfl

theorem execPtop_combines {pd pa pb : BitVec 4} {op : PtOp}
    (hm : MatReady (namesOf fun _ => [.pt pd.toNat, .pt pa.toNat, .pt pb.toNat]) s o h d) :
    execPtop h pd pa pb op s = .next (completes (s.modCore o.c fun k =>
      { k with pts := aset k.pts pd.toNat (ptFun op (k.pt pa.toNat) (k.pt pb.toNat)) }) o h 0) := by
  rw [execPtop, matOp_fires hm]
  rfl

end

/-- Settles O31: each form by its equation; MQNT and MTRN write what their functions give. -/
theorem matrixFormsComplete : Obligations.MatrixFormsComplete := by
  unfold Obligations.MatrixFormsComplete
  refine ⟨fun h fmt acc ma mb s o d a b hm hok ha hb => execMma_accumulates hm hok ha hb, ?mmsp, ?mcomp,
    fun h fmt acc ma gap orient s o d hm => execMqnt_quantises hm,
    fun h df sf ma ms strict s o d m hm hsrc hfmt hbad => execMdeq_converts hm hsrc hfmt hbad,
    fun h ma ms s o d hm => execMtrn_transposes hm,
    fun h acc row half s o d a ls hm hn ha hls => ⟨execMaccr_reads hm hn ha hls, execMaccr_writes hm hn ha⟩,
    fun h pt half s o d v hm hp hv => execPtset_sets hm hp hv, ?ptop⟩
  case mmsp =>
    intro h fmt acc ma mb md pat s o d hm hok hmask
    obtain ⟨rows, pa, pb, he⟩ := execMmsp_accumulates hm hok hmask
    exact ⟨_, he, AccReg.product_flags _ _ rows pa pb⟩
  case mcomp =>
    intro h fmt ma ms md pat gap s o d hm hheld hheld1
    obtain ⟨prow, rows, scale, data, he⟩ := execMcomp_compresses hm hheld hheld1
    exact ⟨_, _, he, rfl, rfl, rfl, rfl, rfl⟩
  case ptop =>
    intro h pd pa pb op s o d hm
    cases op with
    | and => exact execPtop_combines hm
    | or => exact execPtop_combines hm
    | xor => exact execPtop_combines hm
    | andn => exact execPtop_combines hm

/-! ### The elements of a packed row (R210, R217, R324) -/

theorem ofBytes_zeros (n : Nat) : ofBytes (List.replicate n 0) = 0 := by
  induction n with
  | zero => rfl
  | succ n ih => rw [List.replicate_succ, ofBytes, ih]; rfl

theorem ofBytes_append_zeros (a : List Byte) (n : Nat) : ofBytes (a ++ List.replicate n 0) = ofBytes a := by
  induction a with
  | nil => exact ofBytes_zeros n
  | cons x a ih => rw [List.cons_append, ofBytes, ih, ofBytes]

theorem ofBytes_toBytes (n x : Nat) : ofBytes (toBytes n x) = x % 256 ^ n := by
  induction n generalizing x with
  | zero => simp [toBytes, ofBytes, Nat.mod_one]
  | succ n ih =>
    have hbyte : (BitVec.ofNat 8 x).toNat = x % 256 := BitVec.toNat_ofNat ..
    rw [toBytes, ofBytes, ih, hbyte, pow_succ', Nat.mod_mul]

theorem drop_toBytes (n x o : Nat) : (toBytes n x).drop o = toBytes (n - o) (x / 256 ^ o) := by
  induction o generalizing n x with
  | zero => simp
  | succ o ih =>
    cases n with
    | zero => simp [toBytes]
    | succ n => rw [toBytes, List.drop_succ_cons, ih, Nat.succ_sub_succ, Nat.div_div_eq_div_mul, pow_succ']

theorem take_toBytes (n x k : Nat) : (toBytes n x).take k = toBytes (min k n) x := by
  induction k generalizing n x with
  | zero => simp [toBytes]
  | succ k ih =>
    cases n with
    | zero => simp [toBytes]
    | succ n => rw [toBytes, List.take_succ_cons, ih, Nat.succ_min_succ, toBytes]

/-- A number read among the bytes of another; past them it reads zeros. -/
theorem leAt_toBytes (n x o k : Nat) : leAt (toBytes n x) o k = x / 256 ^ o % 256 ^ min k (n - o) := by
  rw [leAt, slice, drop_toBytes, take_toBytes, ofBytes_append_zeros, ofBytes_toBytes]

/-- Bits read below bit `k` do not see what stands above it. -/
theorem bits_mod_two_pow (x : Nat) {lo w k : Nat} (h : lo + w ≤ k) : bits (x % 2 ^ k) lo w = bits x lo w := by
  obtain ⟨m, rfl⟩ := Nat.exists_eq_add_of_le h
  rw [bits, bits, Nat.add_assoc, pow_add, Nat.mod_mul_right_div_self, Nat.mod_mod_of_dvd _ (pow_dvd_pow 2 (Nat.le_add_right w m))]

/-- Bits read among the bytes of a number. -/
theorem bitsAt_toBytes (n x : Nat) {o w : Nat} (h : o + w ≤ 8 * n) : bitsAt (toBytes n x) o w = bits x o w := by
  have hwindow : o % 8 + w ≤ 8 * min (w / 8 + 2) (n - o / 8) := by omega
  have hbyte : ∀ k, (256 : Nat) ^ k = 2 ^ (8 * k) := fun k => by rw [pow_mul]; norm_num
  rw [bitsAt, leAt_toBytes, hbyte, hbyte, bits_mod_two_pow _ hwindow, bits, bits, Nat.div_div_eq_div_mul, ← pow_add,
    Nat.div_add_mod]

/-- The elements of a row stand one after another. -/
theorem elemBit_succ (f : Fmt) (e : Nat) : elemBit f e + fmtBits f ≤ elemBit f (e + 1) := by
  cases f with
  | fb6 => simp only [elemBit, fmtBits]; omega
  | _ => simp only [elemBit, fmtBits]; omega

theorem elemBit_mono (f : Fmt) {a b : Nat} (h : a < b) : elemBit f a + fmtBits f ≤ elemBit f b := by
  induction b with
  | zero => omega
  | succ b ih =>
    obtain hlt | rfl := Nat.lt_succ_iff_lt_or_eq.mp h
    · exact (ih hlt).trans ((Nat.le_add_right _ _).trans (elemBit_succ f b))
    · exact elemBit_succ f a

theorem rowBits_concat (f : Fmt) (es : List Nat) (e : Nat) :
    rowBits f (es ++ [e]) = rowBits f es + e % 2 ^ fmtBits f * 2 ^ elemBit f es.length := by
  simp [rowBits, List.zipIdx_append]

/-- The elements of a row lie below where the next would stand. -/
theorem rowBits_lt (f : Fmt) (es : List Nat) : rowBits f es < 2 ^ elemBit f es.length := by
  induction es using List.reverseRecOn with
  | nil => exact Nat.two_pow_pos _
  | append_singleton es e ih =>
    have hfits : 2 ^ (elemBit f es.length + fmtBits f) ≤ 2 ^ elemBit f (es ++ [e]).length :=
      Nat.pow_le_pow_right (by decide) (by rw [List.length_append]; exact elemBit_succ f es.length)
    have he : e % 2 ^ fmtBits f + 1 ≤ 2 ^ fmtBits f := Nat.mod_lt _ (Nat.two_pow_pos _)
    rw [rowBits_concat]
    refine Nat.lt_of_lt_of_le ?_ hfits
    calc rowBits f es + e % 2 ^ fmtBits f * 2 ^ elemBit f es.length
        < 2 ^ elemBit f es.length + e % 2 ^ fmtBits f * 2 ^ elemBit f es.length := Nat.add_lt_add_right ih _
      _ = (e % 2 ^ fmtBits f + 1) * 2 ^ elemBit f es.length := by ring
      _ ≤ 2 ^ fmtBits f * 2 ^ elemBit f es.length := Nat.mul_le_mul_right _ he
      _ = 2 ^ (elemBit f es.length + fmtBits f) := by rw [pow_add, Nat.mul_comm]

/-- The bits of an element of a packed row. -/
theorem bits_rowBits (f : Fmt) (es : List Nat) (c : Nat) (hc : c < es.length) :
    bits (rowBits f es) (elemBit f c) (fmtBits f) = es[c] % 2 ^ fmtBits f := by
  induction es using List.reverseRecOn with
  | nil => exact absurd hc (Nat.not_lt_zero c)
  | append_singleton es e ih =>
    rw [rowBits_concat]
    by_cases hlast : c < es.length
    · have hbelow : elemBit f c + fmtBits f ≤ elemBit f es.length := elemBit_mono f hlast
      rw [List.getElem_append_left hlast, ← ih hlast, ← bits_mod_two_pow _ hbelow, Nat.add_mul_mod_self_right,
        bits_mod_two_pow _ hbelow]
    · have hat : c = es.length := by rw [List.length_append, List.length_singleton] at hc; omega
      subst hat
      rw [List.getElem_concat_length rfl, bits, Nat.add_mul_div_right _ _ (Nat.two_pow_pos _),
        Nat.div_eq_of_lt (rowBits_lt f es), Nat.zero_add, Nat.mod_mod]

/-- A row of up to 64 elements of a format of up to 16 bits lies within a register row. -/
theorem elemBit_fits (f : Fmt) (hw : fmtBits f ≤ 16) {c : Nat} (hc : c < 64) : elemBit f c + fmtBits f ≤ 1024 := by
  cases f with
  | fp32 => exact absurd hw (by decide)
  | int32 => exact absurd hw (by decide)
  | _ => simp only [elemBit, fmtBits]; omega

/-- Packing a row keeps its elements. -/
theorem elemAt_packRow (f : Fmt) (hw : fmtBits f ≤ 16) (es : List Nat) {c : Nat} (hc : c < es.length) (h64 : c < 64) :
    elemAt f (packRow f es) c = es[c] % 2 ^ fmtBits f := by
  rw [elemAt, packRow, bitsAt_toBytes 128 _ (elemBit_fits f hw h64), bits_rowBits f es c hc]

theorem elemAt_lt (f : Fmt) (bs : List Byte) (e : Nat) : elemAt f bs e < 2 ^ fmtBits f := Nat.mod_lt _ (Nat.two_pow_pos _)

/-! ### MTRN (R343) -/

@[simp] theorem length_packRow (f : Fmt) (es : List Nat) : (packRow f es).length = 128 := length_toBytes _ _

/-- Part `i` of strings of one length joined. -/
theorem slice_flatMap_uniform {α : Type} (f : α → List Byte) (n : Nat) (l : List α) (hn : ∀ a ∈ l, (f a).length = n) (i : Nat)
    (hi : i < l.length) : slice (l.flatMap f) (n * i) n = f l[i] := by
  have hlen : (f l[i]).length = n := hn _ (List.getElem_mem hi)
  have hdrop : (l.flatMap f).drop (n * i) = (l.drop i).flatMap f := by
    clear hlen
    induction l generalizing i with
    | nil => simp
    | cons a l ih =>
      have ha : (f a).length = n := hn a List.mem_cons_self
      cases i with
      | zero => simp
      | succ i =>
        have hpast : n * (i + 1) = (f a).length + n * i := by rw [ha, Nat.mul_succ, Nat.add_comm]
        rw [List.flatMap_cons, hpast, List.drop_append, List.drop_eq_nil_of_le (Nat.le_add_right _ _),
          Nat.add_sub_cancel_left, List.nil_append, List.drop_succ_cons]
        exact ih (fun b hb => hn b (List.mem_cons_of_mem _ hb)) i (Nat.lt_of_succ_lt_succ hi)
  rw [slice, hdrop, List.drop_eq_getElem_cons hi, List.flatMap_cons, List.take_left' hlen, hlen, Nat.sub_self,
    List.replicate_zero, List.append_nil]

theorem MaReg.getElem?_codes (m : MaReg) (f : Fmt) (r : Nat) {c : Nat} (hc : c < 64) :
    (m.codes f r)[c]? = some (elemAt f (m.row r) c) := by
  simp [MaReg.codes, hc]

/-- Row `r` of a transposed register: column `r` of its source, packed. -/
theorem MaReg.row_transpose {m : MaReg} {f : Fmt} (hf : fmtOf m.fmt = some f) (ht5 : f ≠ .tern5) (hw : m.written = true)
    {r : Nat} (hr : r < 64) :
    m.transpose.row r = packRow f ((List.range 64).map fun c => elemAt f (m.row c) r) := by
  have hdata : m.transpose.data = (List.range 64).flatMap fun r =>
      packRow f (((List.range 64).map (m.codes f)).map fun x => x.getD r 0) := by
    cases f with
    | tern5 => exact absurd rfl ht5
    | _ => simp only [MaReg.transpose, hf, hw, if_true]
  rw [MaReg.row, hdata, slice_flatMap_uniform _ 128 _ (fun _ _ => length_packRow _ _) r (by rw [List.length_range]; exact hr),
    List.getElem_range, List.map_map]
  refine congrArg (packRow f) (List.map_congr_left fun c _ => ?_)
  rw [Function.comp_apply, List.getD_eq_getElem?_getD, m.getElem?_codes f c hr, Option.getD_some]

theorem MaReg.codes_transpose {m : MaReg} {f : Fmt} (hf : fmtOf m.fmt = some f) (ht5 : f ≠ .tern5) (hbits : fmtBits f ≤ 16)
    (hw : m.written = true) {r c : Nat} (hr : r < 64) (hc : c < 64) :
    (m.transpose.codes f r)[c]? = (m.codes f c)[r]? := by
  rw [m.transpose.getElem?_codes f r hc, m.getElem?_codes f c hr, MaReg.row_transpose hf ht5 hw hr,
    elemAt_packRow f hbits _ (by rw [List.length_map, List.length_range]; exact hc) hc, List.getElem_map, List.getElem_range,
    Nat.mod_eq_of_lt (elemAt_lt f _ _)]

/-! ### MACCR's half row (R344) -/

theorem AccReg.length_rows (a : AccReg) : ∀ r ∈ a.rows, r.length = 64 := by
  intro r hr
  obtain ⟨i, -, rfl⟩ := List.mem_map.mp hr
  rw [AccReg.row, List.length_map, List.length_range]

theorem AccReg.rowsAt_rows (a : AccReg) {i j : Nat} (hi : i < 64) (hj : j < 64) : rowsAt a.rows i j = a.at i j := by
  simp [rowsAt, AccReg.rows, AccReg.row, List.getD_eq_getElem?_getD, hi, hj]

/-- A list with a stretch of it replaced. -/
theorem getElem?_replaced {α : Type} (l v : List α) (o k : Nat) (hl : o ≤ l.length) :
    (l.take o ++ v ++ l.drop (o + v.length))[k]? = if o ≤ k ∧ k < o + v.length then v[k - o]? else l[k]? := by
  have ho : (l.take o).length = o := by rw [List.length_take, Nat.min_eq_left hl]
  by_cases hbelow : k < o
  · rw [if_neg (by omega), List.append_assoc, List.getElem?_append_left (by omega), List.getElem?_take_of_lt hbelow]
  · by_cases hin : k < o + v.length
    · rw [if_pos ⟨Nat.not_lt.mp hbelow, hin⟩, List.append_assoc, List.getElem?_append_right (by omega), ho,
        List.getElem?_append_left (by omega)]
    · have hlen : (l.take o ++ v).length = o + v.length := by rw [List.length_append, ho]
      rw [if_neg (by omega), List.getElem?_append_right (by omega), hlen, List.getElem?_drop]
      congr 1
      omega

theorem length_bankOf {rows : List (List Nat)} (hr : ∀ r ∈ rows, r.length = 64) : (bankOf rows).length = 64 * rows.length := by
  induction rows with
  | nil => rfl
  | cons r rows ih =>
    have hrest := ih fun x hx => hr x (List.mem_cons_of_mem _ hx)
    have hhead := hr r List.mem_cons_self
    rw [bankOf] at hrest ⊢
    rw [List.flatMap_cons, List.length_append, List.length_map, hhead, hrest, List.length_cons]
    omega

theorem AccReg.at_writeHalf (a : AccReg) {row half : Nat} {ls : List Lane} (hrow : row < 64) (hhalf : half < 2)
    (hlen : ls.length = 32) (hp : Clean ls) {i j : Nat} (hi : i < 64) (hj : j < 64) :
    (a.writeHalf row half ls).at i j =
      if i = row ∧ 32 * half ≤ j ∧ j < 32 * half + 32 then (ls.getD (j - 32 * half) zeroLane).val.toNat else a.at i j := by
  have hvals : (ls.map fun l => if l.poison && !a.isInt then BitVec.ofNat 32 fp32.defNaN else l.val) = ls.map Lane.val :=
    List.map_congr_left fun l hl => by simp [hp l hl]
  have hcur : (a.writeHalf row half ls).cur = (bankOf a.rows).take (64 * row + 32 * half) ++ ls.map Lane.val ++
      (bankOf a.rows).drop (64 * row + 32 * half + (ls.map Lane.val).length) := by
    rw [List.length_map, hlen, ← hvals]
    exact a.cur_setCur _
  have hroom : 64 * row + 32 * half ≤ (bankOf a.rows).length := by
    rw [length_bankOf a.length_rows, AccReg.rows, List.length_map, List.length_range]
    omega
  have hold : (bankOf a.rows).getD (64 * i + j) 0 = BitVec.ofNat 32 (a.at i j) := by
    rw [bankOf_getD a.length_rows i j hj, a.rowsAt_rows hi hj]
  have hplace : (64 * row + 32 * half ≤ 64 * i + j ∧ 64 * i + j < 64 * row + 32 * half + 32) ↔
      (i = row ∧ 32 * half ≤ j ∧ j < 32 * half + 32) := by omega
  rw [AccReg.at, hcur, List.getD_eq_getElem?_getD, getElem?_replaced _ _ _ _ hroom, List.length_map, hlen]
  simp only [hplace]
  split
  next hin =>
    have hoff : 64 * i + j - (64 * row + 32 * half) = j - 32 * half := by omega
    have hlt : j - 32 * half < ls.length := by omega
    rw [hoff, List.getD_eq_getElem?_getD, List.getElem?_map, List.getElem?_eq_getElem hlt]
    rfl
  next =>
    rw [← List.getD_eq_getElem?_getD, hold, BitVec.toNat_ofNat, Nat.mod_eq_of_lt (a.at_lt i j)]

/-- Settles O32: the packing of a row keeps its elements (`elemAt_packRow`), and a half row replaces a stretch of the active
bank. -/
theorem transposedAndHalfRow : Obligations.TransposedAndHalfRow := by
  unfold Obligations.TransposedAndHalfRow
  exact ⟨fun m f hf ht5 hbits hw => ⟨fun r c hr hc => MaReg.codes_transpose hf ht5 hbits hw hr hc, rfl, rfl, rfl, rfl⟩,
    fun a row half ls hrow hhalf hlen hp i j hi hj => a.at_writeHalf hrow hhalf hlen hp hi hj⟩

end Sys2Proof.Machine

namespace Sys2Proof.Machine

open Sys2Proof Sys2Proof.Claims

/-! ### The correcting forms (R345 to R349) -/

theorem kvBad_none {k v : MaReg} (hk : k.fmt = 1 ∨ k.fmt = 2) (hv : v.fmt = k.fmt) : kvBad k v = none := by
  have hfloat : ¬ (k.fmt ≠ 1 ∧ k.fmt ≠ 2) := by omega
  rw [kvBad, if_neg hfloat, if_neg (not_not.mpr hv)]

/-- A bound that is not in force is not violated (R349). -/
theorem violates_off (bound x : Nat) : violates false false bound x = false := rfl

theorem guardE_off {g : GdReg} (he : g.een = false) (hn : g.nf = false) (t : Nat) (e : List Nat) : guardE g t e = none := by
  refine List.findSome?_eq_none_iff.mpr fun p _ => ?_
  rw [he, hn, violates_off]
  rfl

theorem guardS_off {g : GdReg} (hs : g.sen = false) (hn : g.nf = false) (t : Nat) (rows : List (List Nat)) :
    guardS g t rows = none := by
  refine List.findSome?_eq_none_iff.mpr fun r _ => List.findSome?_eq_none_iff.mpr fun p _ => ?_
  rw [hs, hn, violates_off]
  rfl

theorem wyRows_off {g : GdReg} (he : g.een = false) (hn : g.nf = false) (m : List (List Nat)) (t : Nat)
    (l : List (List Nat × List Nat)) : ∃ ws, wyRows g m t l = .ok ws := by
  induction l generalizing t with
  | nil => exact ⟨[], rfl⟩
  | cons p l ih =>
    obtain ⟨ws, hws⟩ := ih (t + 1)
    simp only [wyRows, guardE_off he hn, hws]
    exact ⟨_, rfl⟩

section

variable {s : State} {o : OpIn} {h : OpWord} {d : Nat}

theorem execMstep_sets {ss : BitVec 2} {mode : BitVec 1} (hm : MatReady (namesOf fun _ => [.ss ss.toNat]) s o h d)
    (hp : (left0 o).poison = false)
    (hmem : mode = 1 → (left0 o).val.toNat % 4 = 0 ∧ (left0 o).val.toNat + 256 ≤ 0x200000) :
    execMstep h ss mode s = .next (completes (s.modCore o.c fun k =>
      { k with sss := aset k.sss ss.toNat { mode := mode.toNat, value := (left0 o).val } }) o h 0) := by
  have hin : ¬ (mode = 1 ∧ (o.value % 4 ≠ 0 ∨ 0x200000 < o.value + 256)) := fun ⟨h1, hbad⟩ =>
    hbad.elim (absurd (hmem h1).1) (Nat.not_lt.mpr (hmem h1).2)
  have hval : BitVec.ofNat 32 o.value = (left0 o).val := (BitVec.ofNat_toNat 32 _).trans (BitVec.setWidth_eq _)
  rw [execMstep, matOp_fires hm]
  simp only [left0_poison hp, hin, hval, Bool.false_eq_true, if_false]
  rfl

theorem execMgrd_sets {gd : BitVec 2} {s1 : State} {bs : List Byte} (hm : MatReady (memNames fun _ => [.gd gd.toNat]) s o h d)
    (hb : s.paramBlock o 16 8 345 = .ok (bs, s1)) (hhi : leAt bs 8 8 < 8) (he : badBound (leAt bs 0 4) = false)
    (hs : badBound (leAt bs 4 4) = false) :
    execMgrd h gd s = .next (completes (s1.modCore o.c fun k =>
      { k with gds := aset k.gds gd.toNat (GdReg.mk (BitVec.ofNat 32 (leAt bs 0 4)) (BitVec.ofNat 32 (leAt bs 4 4)) (bit (leAt bs 8 8) 2)
        (bit (leAt bs 8 8) 1) (bit (leAt bs 8 8) 0)) }) o h 0) := by
  have hok : ¬ (leAt bs 8 8 / 8 ≠ 0 ∨ badBound (leAt bs 0 4) = true ∨ badBound (leAt bs 4 4) = true) := by
    simp [Nat.div_eq_of_lt hhi, he, hs]
  rw [execMgrd, matOp_fires hm]
  simp only [hb, hok, if_false]
  rfl

theorem floatOk_of {a : AccReg} (ha : a.written = true → a.int = false) : a.floatOk = true := by
  cases hw : a.written with
  | false => simp [AccReg.floatOk, hw]
  | true => simp [AccReg.floatOk, ha hw]

theorem execMcor_corrects {acc : BitVec 3} {mk mv : BitVec 4} {ss gd : BitVec 2} {n : BitVec 5} {half : BitVec 1} {s1 : State}
    {k v : MaReg} {a : AccReg} {rs bs : List Nat} {p : Bool} {m : List (List Nat)}
    (hm : MatReady (memNames fun d => [.acc acc.toNat, .ma (mk.toNat + d), .ma (mv.toNat + d), .ss ss.toNat, .gd gd.toNat])
      s o h d)
    (hk : k = (s.core o.c).ma (mk.toNat + d)) (hv : v = (s.core o.c).ma (mv.toNat + d)) (ha : a = (s.core o.c).acc acc.toNat)
    (hkf : k.fmt = 1 ∨ k.fmt = 2) (hvf : v.fmt = k.fmt) (hfloat : a.written = true → a.int = false)
    (hrs : rs = (List.range (n.toNat + 1)).map (fun t => 32 * half.toNat + t))
    (hb : s.betas o ((s.core o.c).ss ss.toNat) rs = .ok (bs, p, s1))
    (hd : deltaRun ((s.core o.c).gd gd.toNat) 0 (List.zipWith (fun b r => (b, k.f32Row r, v.f32Row r)) bs rs) a.rows = .ok m) :
    execMcor h acc mk mv ss gd n half s = .next (completes (withAcc s1 o acc.toNat
      { a.asFloat.flip m with psum := a.psum || (p || k.marked rs || v.marked rs) }) o h 0) := by
  subst hk hv ha hrs
  rw [execMcor, matOp_fires hm]
  simp only [kvBad_none hkf hvf, floatOk_of hfloat, hb, hd, Bool.not_true, Bool.false_eq_true, if_false]
  rfl

/-- A float register whose active bank is replaced stays a float register, and is written. -/
theorem AccReg.flags_putFloat (a : AccReg) (rows : List (List Nat)) (p : Bool) :
    ({ a.asFloat.put rows with psum := p } : AccReg).int = false ∧ ({ a.asFloat.put rows with psum := p } : AccReg).written = true :=
  ⟨AccReg.int_setCur _ _, rfl⟩

theorem AccReg.flags_flipFloat (a : AccReg) (rows : List (List Nat)) (p : Bool) :
    ({ a.asFloat.flip rows with psum := p } : AccReg).int = false ∧ ({ a.asFloat.flip rows with psum := p } : AccReg).written = true ∧
      ({ a.asFloat.flip rows with psum := p } : AccReg).active = !a.active :=
  ⟨AccReg.int_setCur _ _, rfl, AccReg.active_setCur _ _⟩

theorem execMtri_inverts {acc : BitVec 3} {mk : BitVec 4} {ss : BitVec 2} {c : BitVec 6} {s1 : State} {k : MaReg}
    {bs : List Nat} {p : Bool} (hm : MatReady (memNames fun _ => [.acc acc.toNat, .ma mk.toNat, .ss ss.toNat]) s o h d)
    (hk : k = (s.core o.c).ma mk.toNat) (hkf : k.fmt = 1 ∨ k.fmt = 2)
    (hb : s.betas o ((s.core o.c).ss ss.toNat) (List.range (c.toNat + 1)) = .ok (bs, p, s1)) :
    ∃ (a : AccReg) (t : List (List Nat)) (q : Bool), execMtri h acc mk ss c s = .next (completes (withAcc s1 o acc.toNat
      { a.asFloat.put t with psum := q }) o h 0) := by
  subst hk
  rw [execMtri, matOp_fires hm]
  simp only [kvBad_none hkf rfl, hb]
  exact ⟨_, _, _, rfl⟩

theorem execMwy_corrects {acc atri : BitVec 3} {mk mv : BitVec 4} {gd : BitVec 2} {c : BitVec 6} {k v : MaReg}
    (hm : MatReady (namesOf fun _ => [.acc acc.toNat, .acc atri.toNat, .ma mk.toNat, .ma mv.toNat, .gd gd.toNat]) s o h d)
    (hk : k = (s.core o.c).ma mk.toNat) (hv : v = (s.core o.c).ma mv.toNat) (hkf : k.fmt = 1 ∨ k.fmt = 2)
    (hvf : v.fmt = k.fmt) (ha : ((s.core o.c).acc acc.toNat).floatOk = true) (ht : ((s.core o.c).acc atri.toNat).floatOk = true)
    (he : ((s.core o.c).gd gd.toNat).een = false) (hs : ((s.core o.c).gd gd.toNat).sen = false)
    (hn : ((s.core o.c).gd gd.toNat).nf = false) :
    ∃ (rows : List (List Nat)) (q : Bool), execMwy h acc atri mk mv gd c s = .next (completes (withAcc s o acc.toNat
      { ((s.core o.c).acc acc.toNat).asFloat.flip rows with psum := q }) o h 0) := by
  subst hk hv
  obtain ⟨ws, hws⟩ := wyRows_off he hn ((s.core o.c).acc acc.toNat).rows 0
    (List.zip ((List.range (c.toNat + 1)).map ((s.core o.c).ma mk.toNat).f32Row)
      ((List.range (c.toNat + 1)).map ((s.core o.c).ma mv.toNat).f32Row))
  rw [execMwy, matOp_fires hm]
  simp only [kvBad_none hkf hvf, ha, ht, hws, guardS_off hs hn, Bool.not_true, Bool.or_self, Bool.false_eq_true, if_false]
  exact ⟨_, _, rfl⟩

end

/-! ### The Ply (R351, R352) -/

theorem modCore_setAcc_setAcc (s : State) (o : OpIn) (i j : Nat) (a b : AccReg) :
    (s.modCore o.c fun k => (k.setAcc i a).setAcc j b) = withAcc (withAcc s o i a) o j b := by
  rw [withAcc, withAcc, State.modCore_modCore]

/-- PLYC's new row of the sums and of the outputs (R352). -/
def plycOut (oa sa ob sb : AccReg) (i : Nat) : List Nat × List Nat :=
  match plycRow ((sa.row i).getD 0 0) ((sa.row i).getD 1 0) (oa.row i) (sb.at i 0) (sb.at i 1) (ob.row i) with
  | some (m, l, r) => (setML (sa.row i) m l, r)
  | none => (sa.row i, oa.row i)

theorem AccReg.length_row (a : AccReg) (i : Nat) : (a.row i).length = 64 := by
  rw [AccReg.row, List.length_map, List.length_range]

theorem AccReg.getD_row (a : AccReg) (i : Nat) {j : Nat} (hj : j < 64) : (a.row i).getD j 0 = a.at i j := by
  simp [AccReg.row, List.getD_eq_getElem?_getD, hj]

theorem length_plycOut (oa sa ob sb : AccReg) (i : Nat) :
    (plycOut oa sa ob sb i).1.length = 64 ∧ (plycOut oa sa ob sb i).2.length = 64 := by
  rw [plycOut]
  split
  next m l r hrow =>
    rw [plycRow] at hrow
    split at hrow
    · contradiction
    · cases hrow
      simp [setML, AccReg.length_row]
  next => exact ⟨sa.length_row i, oa.length_row i⟩

/-- A row whose two maxima are -Inf stays as it is (R352). -/
theorem plycOut_none {oa sa ob sb : AccReg} {i : Nat}
    (h : plycRow (sa.at i 0) (sa.at i 1) (oa.row i) (sb.at i 0) (sb.at i 1) (ob.row i) = none) :
    plycOut oa sa ob sb i = (sa.row i, oa.row i) := by
  rw [← sa.getD_row i (by decide : 0 < 64), ← sa.getD_row i (by decide : 1 < 64)] at h
  rw [plycOut, h]

/-- An element of an accumulator whose rows were computed one by one: of a row that is a register's row, that register's. -/
theorem AccReg.at_put_map (a : AccReg) {f : Nat → List Nat} (hf : ∀ i, (f i).length = 64) {b : AccReg} {i j : Nat} (hi : i < 64)
    (hj : j < 64) (hrow : f i = b.row i) : (a.put ((List.range 64).map f)).at i j = b.at i j := by
  have hlen : ∀ r ∈ (List.range 64).map f, r.length = 64 := by
    intro r hr
    obtain ⟨k, -, rfl⟩ := List.mem_map.mp hr
    exact hf k
  have hat : rowsAt ((List.range 64).map f) i j = b.at i j := by
    rw [← b.getD_row i hj, ← hrow]
    simp [rowsAt, List.getD_eq_getElem?_getD, hi]
  rw [a.at_put hlen i j hj, hat, Nat.mod_eq_of_lt (b.at_lt i j)]

section

variable {s : State} {o : OpIn} {h : OpWord} {d : Nat}

theorem execPly_attends {acc : BitVec 3} {mq mk mv : BitVec 4} {first causal : BitVec 1} {s1 : State} {bs : List Byte}
    {b : PlyBlock}
    (hm : MatReady (memNames fun _ => [.acc acc.toNat, .acc (acc.toNat + 1), .ma mq.toNat, .ma mk.toNat, .ma mv.toNat]) s o h d)
    (hb : s.paramBlock o 32 32 351 = .ok (bs, s1)) (hblock : plyBlock bs (causal == 1) = some b)
    (hok : plyBad ((s.core o.c).ma mq.toNat) ((s.core o.c).ma mk.toNat) ((s.core o.c).ma mv.toNat) = none)
    (ha : ((s.core o.c).acc acc.toNat).floatOk = true) (ha1 : ((s.core o.c).acc (acc.toNat + 1)).floatOk = true) :
    ∃ (rows rows1 : List (List Nat)) (p p1 : Bool), execPly h acc mq mk mv first causal s = .next (completes (withAcc (withAcc s1 o
      acc.toNat { ((s.core o.c).acc acc.toNat).asFloat.put rows with psum := p }) o (acc.toNat + 1)
      { ((s.core o.c).acc (acc.toNat + 1)).asFloat.put rows1 with psum := p1 }) o h 0) := by
  rw [execPly, matOp_fires hm]
  simp only [hb, hblock, hok, ha, ha1, Bool.not_true, Bool.or_self, Bool.false_eq_true, if_false, modCore_setAcc_setAcc, done_finishM]
  exact ⟨_, _, _, _, rfl⟩

theorem execPlyc_combines {x y : BitVec 3} {oa sa ob sb : AccReg}
    (hm : MatReady (namesOf fun _ => [.acc x.toNat, .acc (x.toNat + 1), .acc y.toNat, .acc (y.toNat + 1)]) s o h d)
    (hoa : oa = (s.core o.c).acc x.toNat) (hsa : sa = (s.core o.c).acc (x.toNat + 1))
    (hob : ob = (s.core o.c).acc y.toNat) (hsb : sb = (s.core o.c).acc (y.toNat + 1))
    (hfloat : [oa, sa, ob, sb].all AccReg.floatOk = true) :
    execPlyc h x y s = .next (completes (withAcc (withAcc s o x.toNat
        { oa.asFloat.put ((List.range 64).map fun i => (plycOut oa sa ob sb i).2) with psum := oa.psum || ob.psum }) o (x.toNat + 1)
        { sa.asFloat.put ((List.range 64).map fun i => (plycOut oa sa ob sb i).1) with psum := sa.psum || sb.psum }) o h 0) := by
  subst hoa hsa hob hsb
  rw [execPlyc, matOp_fires hm]
  simp only [hfloat, Bool.not_true, Bool.false_eq_true, if_false, modCore_setAcc_setAcc, done_finishM, List.map_map]
  rfl

theorem execPlyf_divides {acc : BitVec 3} {a t : AccReg} (hm : MatReady (namesOf fun _ => [.acc acc.toNat, .acc (acc.toNat + 1)]) s o h d)
    (ha : a = (s.core o.c).acc acc.toNat) (ht : t = (s.core o.c).acc (acc.toNat + 1)) (hfa : a.floatOk = true)
    (hft : t.floatOk = true) :
    execPlyf h acc s = .next (completes (withAcc s o acc.toNat (a.asFloat.put ((List.range 64).map fun i =>
      (a.row i).map fun x => if absF32 (t.at i 1) = 0 then 0 else divF32 x (t.at i 1)))) o h 0) := by
  subst ha ht
  rw [execPlyf, matOp_fires hm]
  simp only [hfa, hft, Bool.not_true, Bool.or_self, Bool.false_eq_true, if_false]
  rw [modCore_setAcc s o, done_finishM]

end

/-- Settles O33: a form at a time; the flags of the registers written are those of `AccReg.asFloat`. -/
theorem correctingFormsComplete : Obligations.CorrectingFormsComplete := by
  unfold Obligations.CorrectingFormsComplete
  refine ⟨fun h ss mode s o d hm hp hmem => execMstep_sets hm hp hmem,
    fun h gd s s1 o d bs hm hb hhi he hs => execMgrd_sets hm hb hhi he hs,
    fun h acc mk mv ss gd n half s s1 o d k v a rs bs p m hm hk hv ha hkf hvf hfloat hrs hb hd =>
      execMcor_corrects hm hk hv ha hkf hvf hfloat hrs hb hd, ?mtri, ?mwy, ?ply, ?plyc,
    fun h acc s o d hm hfa hft => execPlyf_divides hm rfl rfl hfa hft⟩
  case mtri =>
    intro h acc mk ss c s s1 o d k bs p hm hk hkf hb
    obtain ⟨a, t, q, hexec⟩ := execMtri_inverts hm hk hkf hb
    exact ⟨_, hexec, a.flags_putFloat t q⟩
  case mwy =>
    intro h acc atri mk mv gd c s o d k v hm hk hv hkf hvf ha ht he hs hn
    obtain ⟨rows, q, hexec⟩ := execMwy_corrects hm hk hv hkf hvf ha ht he hs hn
    exact ⟨_, hexec, AccReg.flags_flipFloat _ rows q⟩
  case ply =>
    intro h acc mq mk mv first causal s s1 o d bs b hm hb hblock hok ha ha1
    obtain ⟨rows, rows1, p, p1, hexec⟩ := execPly_attends hm hb hblock hok ha ha1
    obtain ⟨hint, hwritten⟩ := ((s.core o.c).acc acc.toNat).flags_putFloat rows p
    exact ⟨_, _, hexec, hint, hwritten, AccReg.flags_putFloat _ rows1 p1⟩
  case plyc =>
    intro h x y s o d hm hfloat
    have hall : [(s.core o.c).acc x.toNat, (s.core o.c).acc (x.toNat + 1), (s.core o.c).acc y.toNat,
        (s.core o.c).acc (y.toNat + 1)].all AccReg.floatOk = true := by
      simpa [List.all_eq_true] using hfloat
    refine ⟨_, _, execPlyc_combines hm rfl rfl rfl rfl hall, AccReg.int_setCur _ _, rfl, AccReg.int_setCur _ _, rfl,
      fun i hi hnone j hj => ⟨?_, ?_⟩⟩
    · exact AccReg.at_put_map _ (fun k => (length_plycOut _ _ _ _ k).2) hi hj (congrArg Prod.snd (plycOut_none hnone))
    · exact AccReg.at_put_map _ (fun k => (length_plycOut _ _ _ _ k).1) hi hj (congrArg Prod.fst (plycOut_none hnone))

end Sys2Proof.Machine

namespace Sys2Proof.Machine

open Sys2Proof Sys2Proof.Claims

/-! ### Fields of a little-endian word -/

theorem slice_eq_map (bs : List Byte) (o n : Nat) : slice bs o n = (List.range n).map fun i => bs.getD (o + i) 0 := by
  have hlen : (slice bs o n).length = n := by simp [slice]
  refine List.ext_getElem (by simp [hlen]) fun i hi _ => ?_
  have hin : i < n := hlen ▸ hi
  rw [List.getElem_map, List.getElem_range, List.getD_eq_getElem?_getD]
  simp only [slice, List.getElem_append, List.length_take, List.length_drop]
  split
  next h => rw [List.getElem_take, List.getElem_drop, List.getElem?_eq_getElem, Option.getD_some]
  next h => rw [List.getElem_replicate, List.getElem?_eq_none (by omega), Option.getD_none]

theorem slice_add (bs : List Byte) (o a b : Nat) : slice bs o (a + b) = slice bs o a ++ slice bs (o + a) b := by
  simp only [slice_eq_map, List.range_add, List.map_append, List.map_map, Function.comp_def, Nat.add_assoc]

theorem ofBytes_append (a b : List Byte) : ofBytes (a ++ b) = ofBytes a + 256 ^ a.length * ofBytes b := by
  induction a with
  | nil => simp [ofBytes]
  | cons x a ih => rw [List.cons_append, ofBytes, ofBytes, ih, List.length_cons, pow_succ']; ring

theorem ofBytes_lt (a : List Byte) : ofBytes a < 256 ^ a.length := by
  induction a with
  | nil => exact Nat.one_pos
  | cons x a ih =>
    have hx : x.toNat < 256 := x.isLt
    rw [ofBytes, List.length_cons, pow_succ']
    omega

theorem leAt_lt (bs : List Byte) (o n : Nat) : leAt bs o n < 256 ^ n := by
  have hlt := ofBytes_lt (slice bs o n)
  rwa [slice_eq_map, List.length_map, List.length_range, ← slice_eq_map] at hlt

theorem leAt_add (bs : List Byte) (o a b : Nat) : leAt bs o (a + b) = leAt bs o a + 256 ^ a * leAt bs (o + a) b := by
  rw [leAt, slice_add, ofBytes_append, slice_eq_map bs o a, List.length_map, List.length_range, ← slice_eq_map]
  rfl

/-- The two low halves of a 32-bit word in a descriptor's 8-byte word. -/
theorem bits_leAt_halves (bs : List Byte) (o : Nat) :
    bits (leAt bs o 8) 0 16 = leAt bs o 2 ∧ bits (leAt bs o 8) 16 16 = leAt bs (o + 2) 2 := by
  have hword : leAt bs o 8 = leAt bs o 2 + 256 ^ 2 * (leAt bs (o + 2) 2 + 256 ^ 2 * leAt bs (o + 2 + 2) 4) := by
    rw [← leAt_add, ← leAt_add]
  have hlow := leAt_lt bs o 2
  have hhigh := leAt_lt bs (o + 2) 2
  rw [hword, bits, bits]
  constructor <;> omega

/-! ### The Warper (R353) -/

theorem length_planEntry (pages : List Nat) (c free j : Nat) : (planEntry pages c free j).length = 16 := by
  simp [planEntry]

/-- A plan holds 16 bytes for each core, and the total. -/
theorem length_plan (pages : List Nat) (c free total : Nat) :
    ((List.range c).flatMap (planEntry pages c free) ++ toBytes 8 total).length = 16 * c + 8 := by
  simp [List.length_flatMap, length_planEntry, Nat.mul_comm]

theorem foldl_add_eq_sum (l : List Nat) : l.foldl (fun a b => a + b) 0 = l.sum := List.sum_eq_foldl.symm

section

variable {s : State} {o : OpIn} {h : OpWord} {d : Nat}

theorem execWarp_plans {s1 s2 : State} {n c : Nat} {bs lb out : List Byte} {pages : List Nat} {ts : List (Target × Nat)}
    (hm : MatReady (memNames fun _ => []) s o h d) (hover : o.overCount = false) (hb : s.paramBlock o 32 32 353 = .ok (bs, s1))
    (hn : n = bits (leAt bs 8 8) 0 16) (hc : c = bits (leAt bs 8 8) 16 16)
    (hfields : ¬ (2 ^ 56 ≤ leAt bs 0 8 ∨ leAt bs 0 8 % 4 ≠ 0 ∨ n = 0 ∨ c = 0 ∨ 4096 < c ∨ 2 ^ 32 ≤ leAt bs 8 8 ∨
      2 ^ 56 ≤ leAt bs 16 8 ∨ leAt bs 16 8 % 16 ≠ 0 ∨ leAt bs 24 8 ≠ 0))
    (hload : s1.load o (leAt bs 0 8) (4 * n) = .ok (lb, false, s2))
    (hpages : pages = (List.range n).map fun i => pagesOf (leAt lb (4 * i) 4)) (htotal : pages.sum < 2 ^ 32)
    (hout : out = (List.range c).flatMap (planEntry pages c s2.drawFree.1) ++ toBytes 8 pages.sum)
    (hacc : s2.drawFree.2.access o .write (leAt bs 16 8) out.length = .ok ts) :
    execWarp h s = .next (completes ((s2.drawFree.2.noteAccess o .write (leAt bs 16 8) ts).atCommit o
      (.store o.f.slot (segsOf ts out false))) o h 0) := by
  subst hn hc hpages hout
  rw [execWarp, matOp_fires hm]
  simp only [hover, hb, hfields, hload, hacc, foldl_add_eq_sum, Nat.not_le.mpr htotal, Bool.false_eq_true, if_false, done_finishM]

/-! ### The Reel's forms (R354, R355) -/

theorem execReel_queues {s1 : State} {bs : List Byte} {m : ReelCmd} (hm : MatReady (memNames fun _ => []) s o h d)
    (hans : o.f.answered = none) (hb : s.paramBlock o 64 64 354 = .ok (bs, s1))
    (hcmd : reelCmd (((s.core o.c).reel.map fun m => m.id).foldl max 0 + 1) o.i.tag.colour (words64 bs) = some m)
    (hroom : (s.core o.c).reel.length < 4) :
    execReel h 0 s = .next (completes (s1.modCore o.c fun k => { k with reel := k.reel ++ [m] }) o h 0) := by
  rw [execReel, matOp_fires hm]
  simp only [hans, hb, OpIn.colour, hcmd, Nat.not_le.mpr hroom, if_false]
  rfl

theorem execReel_appends {s1 : State} {bs : List Byte} (hm : MatReady (memNames fun _ => []) s o h d)
    (hans : o.f.answered = none) (hb : s.paramBlock o 64 64 354 = .ok (bs, s1)) (hroom : (s.core o.c).reel.length < 4) :
    execReel h 1 s = .next (done (s1.reelAppend o h (words64 bs))) := by
  rw [execReel, matOp_fires hm]
  simp only [hans, hb, Nat.not_le.mpr hroom, if_false, if_true]

theorem execReel_answered {app : BitVec 1} {v : Word} (hm : MatReady (memNames fun _ => []) s o h d)
    (hans : o.f.answered = some v) (hdone : s.partDone o.c reelAgent 0 = true) :
    execReel h app s = .next (done (s.finishL o h v)) := by
  rw [execReel, matOp_fires hm]
  simp only [hans, State.reelAnswer, hdone, if_true]

/-- An append with good fields whose rows have been read is performed on its pages. -/
theorem State.reelAppend_ok {s2 s3 : State} {w : List Nat} {kr vr : List PByte} (hlink : w.getD 0 0 < 2 ^ 56)
    (hk : w.getD 1 0 + 256 ≤ 0x200000) (hv : w.getD 2 0 + 256 ≤ 0x200000) (hfree : w.getD 3 0 < 2 ^ 56)
    (hrest : ∀ x ∈ w.drop 4, x = 0) (hkr : s.kvRow o (w.getD 1 0) = .ok (kr, s2)) (hvr : s2.kvRow o (w.getD 2 0) = .ok (vr, s3)) :
    (∀ res slot s4, s3.append o.c (w.getD 0 0) (w.getD 3 0) kr vr = .ok (res, slot, s4) →
      s.reelAppend o h w = (s4.dropAnswers o.c reelAgent).reelAnswer o h (BitVec.ofNat 32 (res + 256 * slot))) ∧
    (s3.append o.c (w.getD 0 0) (w.getD 3 0) kr vr = .error .empty →
      s.reelAppend o h w = (s.dropAnswers o.c reelAgent).finishL o h 3) := by
  have hzero : (w.drop 4).all (fun x => x == 0) = true := by simpa [List.all_eq_true] using hrest
  have hgood : ¬ (2 ^ 56 ≤ w.getD 0 0 ∨ 0x200000 < w.getD 1 0 + 256 ∨ 0x200000 < w.getD 2 0 + 256 ∨ 2 ^ 56 ≤ w.getD 3 0 ∨
      (w.drop 4).all (fun x => x == 0) = false) := by
    simp only [hzero, Bool.true_eq_false, or_false]
    omega
  constructor
  · intro res slot s4 happ
    simp only [State.reelAppend, hgood, hkr, hvr, happ, if_false]
  · intro happ
    simp only [State.reelAppend, hgood, hkr, hvr, happ, if_false]

end

/-- Settles O34: WARP by the fields of its descriptor and the length of a plan, REEL by its three ends. -/
theorem warperAndReelComplete : Obligations.WarperAndReelComplete := by
  unfold Obligations.WarperAndReelComplete
  refine ⟨?warp, fun h s s1 o d bs m hm hans hb hcmd hroom => execReel_queues hm hans hb hcmd hroom, ?append,
    fun h app s o d v hm hans hdone => execReel_answered hm hans hdone⟩
  case warp =>
    intro h s s1 s2 o d lens n c plan bs lb out pages ts hm hover hb hlens hn hc hplan hl56 hl4 hn0 hc0 hc4096 hw32 hp56 hp16 hw3
      hload hpages htotal hout hacc
    obtain ⟨hlow, hhigh⟩ := bits_leAt_halves bs 8
    subst hlens hplan
    refine execWarp_plans hm hover hb (hn.trans hlow.symm) (hc.trans hhigh.symm) (by omega) hload hpages htotal hout ?_
    rwa [hout, length_plan]
  case append =>
    intro h s s1 s2 s3 o d bs w kr vr hm hans hb hroom hw hlink hk hv hfree hrest hkr hvr
    subst hw
    obtain ⟨hok, hempty⟩ := State.reelAppend_ok (h := h) hlink hk hv hfree hrest hkr hvr
    have happend := execReel_appends hm hans hb hroom
    constructor
    · intro res slot s4 happ hdone
      have hexec := happend.trans (congrArg (fun t => Host.Outcome.next (done t)) (hok res slot s4 happ))
      rwa [State.reelAnswer, if_pos hdone] at hexec
    · intro happ
      exact happend.trans (congrArg (fun t => Host.Outcome.next (done t)) (hempty happ))

end Sys2Proof.Machine

namespace Sys2Proof.Machine

open Sys2Proof Sys2Proof.Claims

/-! ### The collective forms (R318, R320) -/

/-- A collective form is `collOp` with its parameters and scope. -/
theorem exec_collective {i : Instr} {h : OpWord} {m : CollForm} {scope : Nat} (hi : collective i = some (h, m, scope)) (s : State) :
    exec i s = collOp h m scope s := by
  unfold collective at hi
  split at hi
  case h_1 => cases hi; rfl
  case h_2 => cases hi; rfl
  case h_3 => cases hi; rfl
  case h_4 => cases hi; rfl
  case h_5 => cases hi; rfl
  case h_6 => cases hi; rfl
  case h_7 => contradiction

theorem CollIssue.isOf_iff (x : CollIssue) (o : OpIn) :
    x.isOf o = true ↔ x.iid = o.f.iid ∧ x.slot = o.f.slot ∧ x.first = o.f.first := by
  simp [CollIssue.isOf, and_assoc]

/-- The number of a collective is that of its own issue, else the next of its GID (R320). -/
theorem Core.collNumber_eq (k : Core) (o : OpIn) (gid : Nat) :
    k.collNumber o gid = match k.collOpen.find? fun x => x.gid == gid with
      | some x => if x.iid = o.f.iid ∧ x.slot = o.f.slot ∧ x.first = o.f.first then x.seq else aget 0 k.collSeq gid
      | none => aget 0 k.collSeq gid := by
  rw [Core.collNumber, Core.collOf]
  cases k.collOpen.find? fun x => x.gid == gid with
  | none => rfl
  | some x => exact if_congr (x.isOf_iff o) rfl rfl

theorem collOp_arrives {h : OpWord} {m : CollForm} {scope : Nat} {s s1 s2 s3 : State} {o : OpIn} {bs : List Byte}
    {src : List PByte} {group : List Nat} {gid : Nat} {p : CollPart} (hf : Fires s o) (hans : o.f.answered = none)
    (harr : s.hasArrived o.c = false) (hrel : s.releaseWaits o = false) (hp : (left0 o).poison = false) (hscope : scope ≠ 7)
    (haddr : ¬ (o.value % 64 ≠ 0 ∨ 0x200000 ≤ o.value)) (hb : s.readBlock o .collective o.value 64 = .ok (bs, s1))
    (hgroup : s1.readGroup o (bits ((words64 bs).getD 3 0) 0 56) = .ok (group, s2)) (hgid : gid = bits ((words64 bs).getD 2 0) 32 32)
    (hok : s.collOk o.c m (words64 bs) group (s.radius scope) = true) (htag : TokenFits s o h) (hturn : s.collBusy o gid = false)
    (hsrc : s2.arrivalBlock o m group (bits ((words64 bs).getD 2 0) 0 32) ((words64 bs).getD 0 0) = .ok (src, s3))
    (hpart : p = {
      idx := group.findIdx (fun e => e == s.ownEntry o.c), core := o.c, iid := o.i.iid, slot := o.f.slot,
      agent := s.agent o.c o.colour, epoch := (s3.raiseEpoch (s3.agent o.c o.colour)).2, radius := s.radius scope,
      params := [m.form, m.op, m.fmt, m.mode, m.root, bits ((words64 bs).getD 2 0) 0 32, group.length],
      src := (words64 bs).getD 0 0, dst := (words64 bs).getD 1 0, first := o.f.first }) :
    collOp h m scope s = .next (done ((s3.raiseEpoch (s3.agent o.c o.colour)).1.arriveColl o gid ((s.core o.c).collNumber o gid)
      (s.ownEntry o.c) group p src)) := by
  subst hgid hpart
  rw [collOp, runOp_fires hf]
  simp only [hans, harr, hrel, left0_poison hp, hscope, haddr, hb, hgroup, hok, tagBadM_false htag, hturn, hsrc, Option.isSome_none,
    Bool.not_true, Bool.false_eq_true, if_false]

/-- Settles O35: the checks of `collOp` are met one after another. -/
theorem collectivesArrive : Obligations.CollectivesArrive := by
  unfold Obligations.CollectivesArrive
  intro i h m scope s s1 s2 s3 o bs src group d gid seq p hi hf hans harr hrel hp hscope halign hrange hb hd hgroup hgid hok htag
    hturn hseq hsrc hpart
  have hlow : ∀ x, bits x 0 56 = x % 2 ^ 56 ∧ bits x 0 32 = x % 2 ^ 32 := fun x => by simp [bits]
  subst hd
  rw [← (hlow _).1] at hgroup
  rw [← (hlow _).2] at hsrc hpart
  rw [exec_collective hi, collOp_arrives hf hans harr hrel hp hscope (not_or.mpr ⟨not_not.mpr halign, Nat.not_le.mpr hrange⟩) hb
    hgroup hgid hok htag hturn hsrc hpart, Core.collNumber_eq]
  subst hseq
  rfl

end Sys2Proof.Machine

namespace Sys2Proof.Machine

open Sys2Proof Sys2Proof.Claims

/-- A camera write that is taken completes its form (R145, R364). -/
theorem State.camWrite_ok {s s1 : State} {o : OpIn} (h : OpWord) {bv : Nat} {b : List Byte} (hw : s.writeCamera o.c bv b = .ok s1) :
    s.camWrite o h bv b = s1.finishM o h 0 := by
  unfold State.camWrite
  rw [hw]

section

variable {s : State} {o : OpIn} {h : OpWord} (hf : Fires s o)

include hf

/-! ### Camera registers (R363 to R365) -/

theorem execCamld_loads {bv : BitVec 3} {s1 s2 : State} {b : List Byte} (hport : PortFree s o true) (hfit : TokenFits s o h)
    (hb : s.camBlock o 128 64 = .ok (b, s1)) (hw : s1.writeCamera o.c bv.toNat b = .ok s2) :
    execCamld h bv s = .next (completes s2 o h 0) := by
  rw [execCamld, carderOp_fires hf hport]
  simp only [tagBadM_false hfit, hb, State.camWrite_ok h hw, done_finishM, Bool.false_eq_true, if_false]

theorem execCamst_notes {bv : BitVec 3} {ts : List (Target × Nat)} (hport : PortFree s o true) (hfit : TokenFits s o h)
    (hover : o.overCount = false) (hload : ((s.core o.c).cam bv.toNat).loaded = true) (hp : (left0 o).poison = false)
    (haddr : ¬ (o.value % 64 ≠ 0 ∨ 0x200000 < o.value + 128)) (ha : s.access o .write o.value 128 = .ok ts) :
    execCamst h bv s = .next (completes ((s.noteAccess o .write o.value ts).atCommit o
      (.store o.f.slot (segsOf ts ((s.core o.c).cam bv.toNat).bytes false))) o h 0) := by
  rw [execCamst, carderOp_fires hf hport]
  simp only [hover, hload, left0_poison hp, haddr, tagBadM_false hfit, ha, done_finishM, Bool.not_true, Bool.false_eq_true, if_false]

theorem execCamcomp_composes {bvd bvs : BitVec 3} {s1 s2 : State} {m : Camera} {p : List Byte} (hport : PortFree s o true)
    (hfit : TokenFits s o h) (hm : m = (s.core o.c).cam bvs.toNat) (hload : m.loaded = true)
    (hb : s.camBlock o 64 16 = .ok (p, s1))
    (hw : s1.writeCamera o.c bvd.toNat
      (composeM m.bytes p ++ slice m.bytes 64 20 ++ List.replicate 12 0 ++ slice m.bytes 96 32) = .ok s2) :
    execCamcomp h bvd bvs s = .next (completes s2 o h 0) := by
  subst hm
  rw [execCamcomp, carderOp_fires hf hport]
  simp only [hload, tagBadM_false hfit, hb, State.camWrite_ok h hw, done_finishM, Bool.not_true, Bool.false_eq_true, if_false]

/-! ### Gathers (R366, R367) -/

theorem gatherOp_completes {march : Bool} {bv tile rowoff : Nat} {psel : PSel} {s1 : State} {t : Tile} {v : View} {gs : List GLane}
    (hport : PortFree s o true) (hfit : TokenFits s o h) (ht : t = (s.core o.c).tile tile) (hvalid : t.valid = true)
    (hstate : t.state = 1) (hview : s.view o.c bv = some v) (hrows : o.rowsPass rowoff 256 t.len = false)
    (hpois : o.poisonLane false = none) (hgs : gs = gathered s o v march)
    (hw : s.writeRows o o.f.first (gatherRows o t rowoff gs) (s.countCases o.c bv gs) = .ok s1) :
    gatherOp h march bv tile rowoff psel s = .next (done (s1.finish o h true
      { first := o.f.first, lanes := gs.map fun g => g.depth }
      { first := o.f.first, lanes := gs.map fun g => { val := truth (g.case == pselNum psel), poison := false } })) := by
  subst ht hgs
  rw [gatherRows, gathered, zeroLane] at hw
  rw [gatherOp, carderOp_fires hf hport]
  simp only [hvalid, hstate, hview, hrows, hpois, tagBadM_false hfit, hw, Bool.not_true, not_true_eq_false, Bool.false_eq_true, ne_eq,
    if_false]
  rfl

/-! ### Scatters (R368) -/

theorem execPscat_notes {bv : BitVec 3} {tile : BitVec 8} {rowoff : BitVec 12} {s1 : State} {t : Tile} {v : View}
    {rows : List (List PByte)} {ls : List PLane} (hport : PortFree s o true) (hfit : TokenFits s o h)
    (hview : s.view o.c bv.toNat = some v) (hover : o.overCount = false) (ht : t = (s.core o.c).tile tile.toNat)
    (hvalid : t.valid = true) (hstate : t.state = 2) (hrows : o.rowsPass rowoff.toNat 320 t.len = false)
    (hpois : o.poisonLane true = none)
    (hread : s.readRows (o.afterFill t) 320 o.f.first
      ((List.range o.f.n).map fun j => t.base * 64 + (rowoff.toNat + o.rowIdx j) * 320)
      (s.acquireAll (s.agent o.c o.colour) t.rels) = .ok (rows, s1))
    (hls : ls = o.scatterLanes rows) (hclean : ∀ p ∈ ls, p.poison = false)
    (hland : camStrict v.b = true → ∀ p ∈ ls, (p.cell v).isSome = true) :
    execPscat h bv tile rowoff s = .next (done (((s1.bumpCamera o.c bv.toNat 0
      (ls.filter fun p => (p.cell v).isNone).length).noteScatter o bv.toNat v ls).finish o h false (allLanes o 0)
        { first := o.f.first, lanes := ls.map fun p => { val := truth (p.cell v).isNone, poison := false } })) := by
  subst ht hls
  have hwhole : (o.scatterLanes rows).find? (fun p => p.poison) = none := List.find?_eq_none.mpr fun p hp => by simp [hclean p hp]
  have hstrict : (if camStrict v.b then (o.scatterLanes rows).find? fun p => (p.cell v).isNone else none) = none := by
    split
    next hon => exact List.find?_eq_none.mpr fun p hp => by simpa using Option.isSome_iff_ne_none.mp (hland hon p hp)
    next => rfl
  rw [execPscat, carderOp_fires hf hport]
  simp only [hview, hover, hvalid, hstate, hrows, hpois, tagBadM_false hfit, hread, hwhole, hstrict, Bool.not_true,
    not_true_eq_false, Bool.false_eq_true, ne_eq, if_false]
  rfl

/-! ### World steps and counters (R369, R370) -/

theorem execPstep_waits {store : BitVec 6} (hport : PortFree s o false) (hans : o.f.answered = none) (hfit : TokenFits s o h)
    (hid : store.toNat < (s.part (s.corePart o.c)).storeCount) (hbound : s.boundElsewhere o.c store.toNat = false)
    (hdesc : descOk (s.descOf (s.corePart o.c) store.toNat) = true) :
    execPstep h store s = .next (done ((s.bindStore o.c store.toNat).hold o .carder (.world store.toNat))) := by
  rw [execPstep, carderOp_fires hf hport]
  simp only [hans, Nat.not_le.mpr hid, hbound, hdesc, tagBadM_false hfit, Option.isSome_none, Bool.not_true, Bool.false_eq_true,
    if_false]

theorem execPstep_answered {store : BitVec 6} {v : Word} (hport : PortFree s o false) (hans : o.f.answered = some v) :
    execPstep h store s = .next (done (s.finish o h false (oneLane o.f.first v) (oneLane o.f.first v))) := by
  rw [execPstep, carderOp_fires hf hport]
  simp only [hans, Option.isSome_some, if_true]
  rfl

end

/-- The counter that PSTAT reads (R370): the camera's own, or one of its store's descriptor. -/
def pstatCount (s : State) (o : OpIn) (m : Camera) (k : Nat) : Nat :=
  if k < 3 then m.count k else w32 (s.descOf (s.corePart o.c) (camStore m.bytes)) (64 + 4 * (k - 3))

/-- The machine after PSTAT: with CLR, a counter of the camera itself is cleared (R370). -/
def pstatClear (s : State) (o : OpIn) (m : Camera) (bv : Nat) (clr : BitVec 1) (k : Nat) : State :=
  if clr = 1 ∧ k < 3 then
    s.modCore o.c fun c => { c with cams := aset c.cams bv { m with bytes := patch m.bytes (84 + 4 * k) (toBytes 4 0) } }
  else s

theorem execPstat_answers {s : State} {o : OpIn} {h : OpWord} {clr : BitVec 1} {which : PWhich} {bv : BitVec 3} {m : Camera}
    (hf : Fires s o) (hport : PortFree s o false) (hm : m = (s.core o.c).cam bv.toNat) (hload : m.loaded = true)
    (hfit : Fits s o h (oneLane o.f.first 0)) :
    execPstat h clr which bv s = .next (done ((pstatClear s o m bv.toNat clr (pwhichNum which)).finish o h true
      (oneLane o.f.first (BitVec.ofNat 32 (pstatCount s o m (pwhichNum which))))
      (oneLane o.f.first (BitVec.ofNat 32 (pstatCount s o m (pwhichNum which)))))) := by
  subst hm
  have hunloaded : (!((s.core o.c).cam bv.toNat).loaded) = false := by rw [hload, Bool.not_true]
  have htag : ∀ v, s.tagBad o h.tg.toNat (single o.f.first v) = false := fun v => hfit
  rw [execPstat, carderOp_fires hf hport]
  simp only [hunloaded, htag, Bool.false_eq_true, if_false]
  rfl

/-- Settles O36: a form at a time. -/
theorem cameraFormsComplete : Obligations.CameraFormsComplete := by
  unfold Obligations.CameraFormsComplete
  refine ⟨fun h bv s s1 s2 o b hf hport hfit hb hw => execCamld_loads hf hport hfit hb hw, ?camst, ?camcomp⟩
  case camst =>
    intro h bv s o a ts hf hport hfit hover hload hp ha halign hend hacc
    subst ha
    exact execCamst_notes hf hport hfit hover hload hp (not_or.mpr ⟨not_not.mpr halign, Nat.not_lt.mpr hend⟩) hacc
  case camcomp =>
    intro h bvd bvs s s1 s2 o m p hf hport hfit hload hm hb hw
    subst hm
    exact execCamcomp_composes hf hport hfit rfl hload hb hw

/-- A gather form is `gatherOp` with its fields. -/
theorem exec_gathers {i : Instr} {h : OpWord} {march : Bool} {bv tile rowoff : Nat} {psel : PSel}
    (hi : gathers i = some (h, march, bv, tile, rowoff, psel)) (s : State) : exec i s = gatherOp h march bv tile rowoff psel s := by
  unfold gathers at hi
  split at hi
  case h_1 => cases hi; rfl
  case h_2 => cases hi; rfl
  case h_3 => contradiction

/-- Settles O37: both forms are `gatherOp`. -/
theorem gathersComplete : Obligations.GathersComplete := by
  unfold Obligations.GathersComplete
  intro i h march bv tile rowoff psel s s1 o t v gs hi hf hport hfit ht hvalid hstate hview hrows hpois hgs hw
  rw [exec_gathers hi, gatherOp_completes hf hport hfit ht hvalid hstate hview hrows hpois hgs hw]
  cases psel with
  | hit => rfl
  | unseen => rfl
  | outside => rfl

/-- Settles O38: a form at a time; PSTEP by whether it has been answered, PSTAT by its counter. -/
theorem scatterAndWorldFormsComplete : Obligations.ScatterAndWorldFormsComplete := by
  unfold Obligations.ScatterAndWorldFormsComplete
  refine ⟨fun h bv tile rowoff s s1 o t v rows ls hf hport hfit hview hover ht hvalid hstate hrows hpois hread hls hclean hland =>
    execPscat_notes hf hport hfit hview hover ht hvalid hstate hrows hpois hread hls hclean hland, ?pstep, ?pstat⟩
  case pstep =>
    intro h store s o hf hport hfit hid hbound hdesc
    cases hans : o.f.answered with
    | none => exact execPstep_waits hf hport hans hfit hid hbound hdesc
    | some v => exact execPstep_answered hf hport hans
  case pstat =>
    intro h clr which bv s o m v hf hport hm hload hfit hlost hblend hclip hunseen hconf
    have hv : v = BitVec.ofNat 32 (pstatCount s o m (pwhichNum which)) := by
      cases which with
      | clipped => exact hclip rfl
      | unseen => exact hunseen rfl
      | conflost => exact hconf rfl
      | lostbrick => exact hlost rfl
      | blendovf => exact hblend rfl
    subst hv
    refine ⟨_, execPstat_answers hf hport hm hload hfit, ?_, ?_, ?_⟩
    · rintro rfl
      exact if_neg fun hclr => absurd hclr.1 (by decide)
    · intro hstore
      refine if_neg fun hown => absurd hown.2 ?_
      obtain rfl | rfl := hstore <;> decide
    · rintro rfl rfl
      exact if_pos ⟨rfl, by decide⟩

end Sys2Proof.Machine

namespace Sys2Proof.Machine

open Sys2Proof Sys2Proof.Claims

/-! ### The frame of the Spindle's forms (R373, R383, R393) -/

theorem spindleOp_fires {waits : Bool} {s : State} {o : OpIn} {h : OpWord} (hr : SpindleReady s o h waits) (g : OpIn → State) :
    spindleOp waits s g = .next (done (g o)) := by
  obtain ⟨⟨hfire, hop, hover⟩, hhead, hport, harr, hearlier, hfit⟩ := hr
  exact spindleOp_go s waits o g hfire hop hover hport harr hearlier (hhead ▸ tagBadM_false hfit)

theorem spTake_eq_taken (s : State) (o : OpIn) : s.spTake o = taken s o := rfl

theorem spGive_eq_given (s : State) (o : OpIn) : s.spGive o = given s o := rfl

theorem finishV_whole (s : State) (o : OpIn) (h : OpWord) (v : Word) :
    s.finishV o h { val := v, poison := false } = s.finish o h true (allLanes o v) (allLanes o v) := rfl

/-! ### Bindings (R384) -/

theorem aget_mapVal {α : Type} (d : α) (f : α → α) (hd : f d = d) (l : List (Nat × α)) (j : Nat) :
    aget d (l.map fun p => (p.1, f p.2)) j = f (aget d l j) := by
  induction l with
  | nil => exact hd.symm
  | cons p l ih =>
    obtain ⟨k, x⟩ := p
    simp only [List.map_cons, aget]
    split
    · rfl
    · exact ih

/-- A binding after a later one took its table (R384). -/
def State.unboundFrom (s : State) (c skein : Nat) (b : Binding) : Binding :=
  if b.bound && s.sameTable c b.skein skein then Binding.zero else b

theorem State.dropTable_eq (s : State) (o : OpIn) (skein : Nat) :
    s.dropTable o skein = s.modCore o.c fun k => { k with binds := k.binds.map fun p => (p.1, s.unboundFrom o.c skein p.2) } := by
  have hfree : (fun p : Nat × Binding => if p.2.bound && s.sameTable o.c p.2.skein skein then (p.1, Binding.zero) else p) =
      fun p => (p.1, s.unboundFrom o.c skein p.2) := by
    funext p
    rw [State.unboundFrom]
    split <;> rfl
  rw [State.dropTable, hfree]

theorem State.bind_dropTable (s : State) (o : OpIn) (skein j : Nat) :
    ((s.dropTable o skein).core o.c).bind j = s.unboundFrom o.c skein ((s.core o.c).bind j) := by
  rw [State.dropTable_eq, State.core_modCore_same]
  exact aget_mapVal Binding.zero (s.unboundFrom o.c skein) rfl _ j

/-- Dropping a table changes the bindings of its core alone. -/
theorem State.dropTable_frame (s : State) (o : OpIn) (skein : Nat) :
    { s.dropTable o skein with cores := s.cores } = s ∧
      (∀ c, { (s.dropTable o skein).core c with binds := (s.core c).binds } = s.core c) ∧
      ∀ c, c ≠ o.c → (s.dropTable o skein).core c = s.core c := by
  have hother : ∀ c, c ≠ o.c → (s.dropTable o skein).core c = s.core c := fun c hc => State.core_modCore_other s o.c c _ hc
  refine ⟨rfl, fun c => ?_, hother⟩
  by_cases hc : c = o.c
  · rw [hc, State.dropTable_eq, State.core_modCore_same]
  · rw [hother c hc]

/-- What a binding holds of the table's header and its program (R384). -/
def bindingOf (skein : Nat) (ws hw : List Nat) : Binding :=
  { bound := true, skein := skein, prog := ws, ks := (hw.drop 6).map (BitVec.ofNat 32), temp := BitVec.ofNat 32 (hw.getD 1 0),
    vocab := hw.getD 3 0, maskptr := hw.getD 4 0 + hw.getD 5 0 * 2 ^ 32, cands := [], poisoned := false, nonfin := false }

section

variable {s : State} {o : OpIn} {h : OpWord}

theorem execSkbind_unbinds {bind : BitVec 3} {s1 : State} {bs : List Byte} (hr : SpindleReady s o h true)
    (hp : (left0 o).poison = false) (haddr : ¬ (o.value % 16 ≠ 0 ∨ 0x200000 ≤ o.value))
    (hb : s.readBlock o .spindle o.value 16 = .ok (bs, s1)) (hn : leAt bs 12 4 < 128) (hzero : leAt bs 0 8 = 0) :
    execSkbind h bind s = .next (completes (given ((taken s1.drawFree.2 o).modCore o.c fun k =>
      { k with binds := aset k.binds bind.toNat Binding.zero }) o) o h (BitVec.ofNat 32 s1.drawFree.1)) := by
  have hfields : ¬ (2 ^ 56 ≤ 0 ∨ 128 ≤ leAt bs 12 4) := by omega
  rw [execSkbind, spindleOp_fires hr]
  simp only [left0_poison hp, haddr, hb, hfields, hzero, Bool.false_eq_true, if_false, if_true]
  rfl

theorem execSkbind_binds {bind : BitVec 3} {s1 s2 s3 : State} {bs pb : List Byte} {skein prog n : Nat} {ws hw : List Nat}
    (hr : SpindleReady s o h true) (hp : (left0 o).poison = false) (haddr : ¬ (o.value % 16 ≠ 0 ∨ 0x200000 ≤ o.value))
    (hb : s.readBlock o .spindle o.value 16 = .ok (bs, s1)) (hskein : skein = leAt bs 0 8) (hprog : prog = leAt bs 8 4)
    (hn : n = leAt bs 12 4) (hn0 : n ≠ 0) (hn64 : n ≤ 64) (hs0 : skein ≠ 0) (hs56 : skein < 2 ^ 56) (hs64 : skein % 64 = 0)
    (hp2 : prog % 2 = 0) (hpend : prog < 0x200000) (hpb : s1.readBlock o .spindle prog (2 * n) = .ok (pb, s2))
    (hkeep : keepProg ((List.range n).map fun i => leAt pb (2 * i) 2) = some ws)
    (hhw : (taken s2 o).headerWords o.c skein bindWords = .ok (hw, false, s3)) (htemp : tempOk (hw.getD 1 0) = true)
    (htopk : hw.getD 2 0 < 128) (hvocab : hw.getD 3 0 ≠ 0) (hmask : hw.getD 4 0 + hw.getD 5 0 * 2 ^ 32 < 2 ^ 56) :
    execSkbind h bind s = .next (completes (given ((s3.dropTable o skein).modCore o.c fun k =>
      { k with binds := aset k.binds bind.toNat (bindingOf skein ws hw) }) o) o h (BitVec.ofNat 32 (hw.getD 0 0))) := by
  subst hskein hprog hn
  have hbits : bits (leAt bs 12 4) 0 7 = leAt bs 12 4 := by
    rw [bits]
    omega
  have hfields : ¬ (2 ^ 56 ≤ leAt bs 0 8 ∨ 128 ≤ leAt bs 12 4) := by omega
  have hprogram : ¬ (leAt bs 0 8 % 64 ≠ 0 ∨ leAt bs 8 4 % 2 ≠ 0 ∨ leAt bs 12 4 = 0 ∨ 64 < leAt bs 12 4 ∨ 0x200000 ≤ leAt bs 8 4) := by
    omega
  have hheader : (!tempOk (hw.getD 1 0) || hw.getD 2 0 / 128 != 0 || hw.getD 3 0 == 0 ||
      decide (2 ^ 56 ≤ hw.getD 4 0 + hw.getD 5 0 * 2 ^ 32)) = false := by
    rw [htemp, Nat.div_eq_of_lt htopk, beq_eq_false_iff_ne.mpr hvocab, decide_eq_false (Nat.not_le.mpr hmask)]
    rfl
  rw [execSkbind, spindleOp_fires hr]
  simp only [left0_poison hp, haddr, hb, hbits, hfields, hs0, hprogram, hpb, hkeep, spTake_eq_taken, hhw, hheader,
    Bool.false_eq_true, if_false]
  rfl

/-! ### SPIN and DRAW (R382, R385) -/

theorem execSpin_offers {bind : BitVec 3} {s1 : State} {b : Binding} {ls : List LLane} (hr : SpindleReady s o h false)
    (hb : b = (s.core o.c).bind bind.toNat) (hbound : b.bound = true)
    (hrun : s.lwRun o.c b b.prog (o.logitLanes b.vocab) = .ok (ls, s1)) :
    execSpin h bind s = .next (completes ((s1.dropAnswers o.c spindleAgent).modCore o.c fun k =>
      { k with binds := aset k.binds bind.toNat (ls.foldl Binding.offer b) }) o h 0) := by
  subst hb
  rw [execSpin, spindleOp_fires hr]
  simp only [hbound, hrun, Bool.not_true, Bool.false_eq_true, if_false]
  rfl

end

/-- A binding emptied of its candidates by a DRAW (R382). -/
def Binding.emptied (b : Binding) : Binding := { b with cands := [], poisoned := false, nonfin := false }

/-- The machine after a DRAW: its binding is empty, and it is counted (R382). -/
def State.drawn (s : State) (o : OpIn) (bind : Nat) (b : Binding) (failed : Bool) : State :=
  (s.setBind o bind b.emptied).modCore o.c fun k =>
    { k with regs := { k.regs with
        spFails := if failed then satAdd k.regs.spFails 1 0xFFFF else k.regs.spFails,
        spDraws := if failed then k.regs.spDraws else satAdd k.regs.spDraws 1 0xFFFF } }

theorem State.bind_drawn (s : State) (o : OpIn) (bind : Nat) (b : Binding) (failed : Bool) :
    ((s.drawn o bind b failed).core o.c).bind bind = b.emptied := by
  rw [State.drawn, State.core_modCore_same, State.setBind, State.core_modCore_same]
  exact aget_aset_same ..

/-- The token of a DRAW: the fail token, or that of the candidate drawn (R382). -/
def drawToken (b : Binding) (win : Nat) (failed : Bool) : Nat :=
  if failed then 0xFFFFFFFF else (b.cands.getD win { tok := 0, val := 0 }).tok

theorem execDraw_draws {s s1 s2 : State} {o : OpIn} {h : OpWord} {bind : BitVec 3} {b : Binding} {hw : List Nat} {failed : Bool}
    {win : Nat} (hr : SpindleReady s o h true) (hb : b = (s.core o.c).bind bind.toNat) (hbound : b.bound = true)
    (hhw : (taken s o).headerWords o.c b.skein [0, 1, 2, 3, 5, 6] = .ok (hw, false, s1)) (hk1 : 1 ≤ hw.getD 4 0)
    (hk64 : hw.getD 4 0 ≤ 64) (hp0 : fp32.lt 0 (hw.getD 5 0) = true) (hp1 : fp32.le (hw.getD 5 0) 0x3F800000 = true)
    (hfailed : failed = (bit (hw.getD 3 0) 2 || b.poisoned || b.cands.isEmpty))
    (hwin : win = drawWin b (hw.getD 4 0) (hw.getD 5 0) (BitVec.ofNat 32 (hw.getD 0 0)) (BitVec.ofNat 32 (hw.getD 1 0))
      (BitVec.ofNat 32 (hw.getD 2 0)))
    (hdraw : s1.drawHeader o.c b (if failed then none else some win) = .ok s2) :
    execDraw h bind s = .next (done ((given (s2.drawn o bind.toNat b failed) o).finish o h true
      (allLanes o (BitVec.ofNat 32 (drawToken b win failed))) (allLanes o (truth failed)))) := by
  subst hb
  have htopk : ¬ (hw.getD 4 0 = 0 ∨ 64 < hw.getD 4 0) := by omega
  have hunbound : (!((s.core o.c).bind bind.toNat).bound) = false := by rw [hbound, Bool.not_true]
  rw [execDraw, spindleOp_fires hr]
  simp only [hunbound, spTake_eq_taken, hhw, htopk, hp0, hp1, ← hfailed, ← hwin, hdraw, Bool.not_true, Bool.or_self,
    Bool.false_eq_true, if_false]
  cases failed with
  | false => rfl
  | true => rfl

/-- Settles O39: SKBIND by its two ends, SPIN and DRAW each by its equation. -/
theorem spindleFormsComplete : Obligations.SpindleFormsComplete := by
  unfold Obligations.SpindleFormsComplete
  refine ⟨?unbind, ?bind, fun h bind s s1 o b ls hr hb hbound hrun => execSpin_offers hr hb hbound hrun, ?draw⟩
  case unbind =>
    intro h bind s s1 o bs hr hp halign hend hb hn hzero
    exact ⟨_, execSkbind_unbinds hr hp (not_or.mpr ⟨not_not.mpr halign, Nat.not_le.mpr hend⟩) hb hn hzero⟩
  case bind =>
    intro h bind s s1 s2 s3 o bs pb skein prog n ws hw hr hp halign hend hb _ hskein hprog hn hs0 hs56 hs64 hp2 hn0 hn64 hpend hpb
      hkeep hhw htemp htopk hvocab hmask
    obtain ⟨hstate, hbinds, hother⟩ := s3.dropTable_frame o skein
    refine ⟨_, _, execSkbind_binds hr hp (not_or.mpr ⟨not_not.mpr halign, Nat.not_le.mpr hend⟩) hb hskein hprog hn hn0 hn64 hs0 hs56
      hs64 hp2 hpend hpb hkeep hhw htemp htopk hvocab hmask, rfl, rfl, rfl, rfl, rfl, rfl, rfl, rfl, rfl, rfl, hstate, hbinds, hother,
      fun j => ?_⟩
    rw [State.bind_dropTable, State.unboundFrom]
    exact if_congr (Bool.and_eq_true_iff) rfl rfl
  case draw =>
    intro h bind s s1 s2 o b hw failed win hr hb hbound hhw hk1 hk64 hp0 hp1 hfailed hwin hdraw
    refine ⟨_, _, execDraw_draws hr hb hbound hhw hk1 hk64 hp0 hp1 hfailed hwin hdraw, ?_, ?_, s2.bind_drawn o bind.toNat b failed,
      rfl⟩
    · rintro rfl
      rfl
    · rintro rfl
      rfl

section

variable {s : State} {o : OpIn} {h : OpWord} {bind : BitVec 3} {b : Binding} (hr : SpindleReady s o h true)
  (hb : b = (s.core o.c).bind bind.toNat) (hbound : b.bound = true)

include hr hb hbound

/-! ### SKUPD, SKRD and SKWR (R386, R387) -/

theorem execSkupd_of_noToken {inc : BitVec 8} (hp : (left0 o).poison = false) (hv : (left0 o).val = 0xFFFFFFFF) :
    execSkupd h inc bind s = .next (done ((given (taken s o) o).finish o h true (allLanes o 0) (allLanes o 0))) := by
  subst hb
  have hvalue : o.value = 0xFFFFFFFF := congrArg BitVec.toNat hv
  rw [execSkupd, spindleOp_fires hr]
  simp only [hbound, left0_poison hp, hvalue, Bool.not_true, Bool.false_eq_true, if_false, if_true]
  rfl

theorem execSkupd_counts {inc : BitVec 8} {u : CountUpd} {s1 : State} (hp : (left0 o).poison = false)
    (hv : (left0 o).val ≠ 0xFFFFFFFF)
    (hupd : (taken s o).updateCount o.c b.skein (left0 o).val.toNat inc.toNat = .ok (u, s1)) (hu : u.poison = false) :
    execSkupd h inc bind s = .next (done ((given (s1.modCore o.c fun k => { k with binds := aset k.binds bind.toNat b }) o).finish o h
      true (allLanes o (BitVec.ofNat 32 u.count)) (allLanes o (BitVec.ofNat 32 u.count)))) := by
  subst hb
  have hvalue : o.value ≠ 0xFFFFFFFF := fun he => hv (BitVec.eq_of_toNat_eq he)
  have hcount : (taken s o).updateCount o.c ((s.core o.c).bind bind.toNat).skein o.value inc.toNat = .ok (u, s1) := hupd
  have hunbound : (!((s.core o.c).bind bind.toNat).bound) = false := by rw [hbound, Bool.not_true]
  rw [execSkupd, spindleOp_fires hr]
  simp only [hunbound, left0_poison hp, hvalue, spTake_eq_taken, hcount, hu, Bool.or_false, finishV_whole, Bool.false_eq_true, if_false]
  rfl

theorem execSkrd_reads {word : BitVec 5} {s1 : State} {x : Nat}
    (hload : (taken s o).engLoad o.c spindleAgent (b.skein + 4 * word.toNat) 4 = .ok (x, false, s1)) :
    execSkrd h word bind s = .next (done ((given s1 o).finish o h true (allLanes o (BitVec.ofNat 32 x))
      (allLanes o (BitVec.ofNat 32 x)))) := by
  subst hb
  rw [execSkrd, spindleOp_fires hr]
  simp only [hbound, spTake_eq_taken, hload, finishV_whole, spGive_eq_given, Bool.not_true, Bool.false_eq_true, if_false]

theorem execSkwr_writes {word : BitVec 5} {s1 : State} (hp : (left0 o).poison = false)
    (hrmw : (taken s o).headerRmw o.c b.skein word.toNat [8, (left0 o).val.toNat] (fun _ => (left0 o).val.toNat) = .ok s1) :
    execSkwr h word bind s = .next (completes (given (s1.modCore o.c fun k =>
      { k with binds := aset k.binds bind.toNat (b.cache word.toNat (left0 o).val) }) o) o h 0) := by
  subst hb
  have hwrite : (taken s o).headerRmw o.c ((s.core o.c).bind bind.toNat).skein word.toNat [8, o.value] (fun _ => o.value) = .ok s1 :=
    hrmw
  rw [execSkwr, spindleOp_fires hr]
  simp only [hbound, left0_poison hp, spTake_eq_taken, hwrite, Bool.not_true, Bool.false_eq_true, if_false]
  rfl

end

/-- Settles O40: SKUPD by whether its token is one, SKRD and SKWR each by its equation. -/
theorem skeinFormsComplete : Obligations.SkeinFormsComplete := by
  unfold Obligations.SkeinFormsComplete
  exact ⟨fun h inc bind s o b hr hb hbound hp => ⟨fun hv => execSkupd_of_noToken hr hb hbound hp hv,
      fun hv u s1 hupd hu => execSkupd_counts hr hb hbound hp hv hupd hu⟩,
    fun h word bind s s1 o b x hr hb hbound hload => execSkrd_reads hr hb hbound hload,
    fun h word bind s s1 o b hr hb hbound hp hrmw => execSkwr_writes hr hb hbound hp hrmw⟩

end Sys2Proof.Machine

/-! PROOFS. The statements that the earlier sittings left: the tile states of TSTATE and the tile predicates of MLD and
MST, the atomics and LDLK, the steps of the engines, and that every step keeps memory in its canonical form. -/

namespace Sys2Proof.Machine

open Sys2Proof Sys2Proof.Claims

/-! ### The changes that TSTATE makes (R119, R310) -/

theorem tileEvent_eq (ev state : Nat) : tileEvent ev state =
    (if ev = 0 ∧ state = 0 then some 1 else if ev = 1 ∧ state = 1 then some 2 else if ev = 2 ∧ state = 2 then some 3
     else if ev = 3 ∧ (state = 2 ∨ state = 3) then some 0 else none) := by
  unfold tileEvent
  split
  case h_6 h0 h1 h2 h3 h4 =>
    have hnone : ¬ (ev = 0 ∧ state = 0) ∧ ¬ (ev = 1 ∧ state = 1) ∧ ¬ (ev = 2 ∧ state = 2) ∧
        ¬ (ev = 3 ∧ (state = 2 ∨ state = 3)) := by
      refine ⟨fun h => h0 h.1 h.2, fun h => h1 h.1 h.2, fun h => h2 h.1 h.2, fun h => ?_⟩
      obtain hs | hs := h.2
      · exact h4 h.1 hs
      · exact h3 h.1 hs
    obtain ⟨n0, n1, n2, n3⟩ := hnone
    rw [if_neg n0, if_neg n1, if_neg n2, if_neg n3]
  all_goals rfl

/-- A TSTATE form whose event R119 does not list for the state of its tile takes the illegal-operand trap. -/
theorem tstateOp_illegal {s : State} {o : OpIn} (hf : Fires s o) (h : OpWord) {ev : Nat} (hport : PortFree s o false)
    (hw : s.releaseWaits o = false) (hn : (left0 o).val.toNat < 256)
    (hv : ((s.core o.c).tile (left0 o).val.toNat).valid = true)
    (he : tileEvent ev ((s.core o.c).tile (left0 o).val.toNat).state = none) :
    tstateOp h ev s = .next (trapped s o 2 (left0 o).val.toNat 119 0 o.f.first) := by
  have hin : ¬ (256 ≤ o.value ∨ ((s.core o.c).tile o.value).valid = false) := by
    rw [not_or, Bool.not_eq_false]
    exact ⟨Nat.not_le.mpr hn, hv⟩
  have hev : tileEvent ev ((s.core o.c).tile o.value).state = none := he
  rw [tstateOp, carderOp_fires hf hport]
  simp only [hw, hin, hev, Bool.false_eq_true, if_false]
  rfl

/-- Settles O25: R119's table by `tileEvent_eq`, and the trap of what it does not list by `tstateOp_illegal`. -/
theorem tileStates : Obligations.TileStates := by
  unfold Obligations.TileStates
  refine fun ev state => ⟨tileEvent_eq ev state, fun h s o hf hport hw hn hv => ?_⟩
  have htrap := fun {e : Nat} (he : tileEvent e ((s.core o.c).tile (left0 o).val.toNat).state = none) =>
    tstateOp_illegal hf h hport hw hn hv he
  refine ⟨fun hs => htrap (e := 0) ?_, fun hs => htrap (e := 1) ?_, fun hs => htrap (e := 2) ?_,
    fun h2 h3 => htrap (e := 3) ?_⟩
  · simp [tileEvent_eq, hs]
  · simp [tileEvent_eq, hs]
  · simp [tileEvent_eq, hs]
  · simp [tileEvent_eq, h2, h3]

/-! ### Tile predicates (R121, R331) -/

theorem State.tilePred_clear {s : State} {c pt tile : Nat} (hb : (s.core c).pt pt / 2 ^ (tile % 64) % 2 = 0) :
    s.tilePred c 1 pt tile = false := by
  simp [State.tilePred, bit, hb]

section

variable {s : State} {o : OpIn} {h : OpWord} {fmt : Fmt} {reg : BitVec 4} {tile : BitVec 8} {pt : BitVec 4} {t mo : BitVec 1}
  {kind : MKind} {d : Nat} (hm : MatReady (loadNames kind reg.toNat tile.toNat 1 pt.toNat) s o h d)
  (hb : ((s.core o.c).pt pt.toNat) / 2 ^ ((tile.toNat + d) % 64) % 2 = 0)

include hm hb

theorem execMld_predicateClear (hk : kind = .ma → (left0 o).val ≠ 0xFFFFFFFF) :
    execMld h fmt reg tile 1 pt t mo kind s = .next (completes s o h 0) := by
  have hpath := fromPath_eq_false hk
  have hpred : s.tilePred o.c (1 : BitVec 1).toNat pt.toNat (tile.toNat + d) = false := State.tilePred_clear hb
  rw [execMld, State.firedLeft_eq hm.1, hpath]
  refine (matOp_fires hm _).trans (congrArg (fun t => Host.Outcome.next (done t)) ?_)
  simp only [hpath, hpred, Bool.not_false, Bool.and_true, if_true]
  rfl

theorem execMst_predicateClear (ho : o.overCount = false) :
    execMst h fmt reg tile 1 pt t mo kind s = .next (completes s o h 0) := by
  have hpred : s.tilePred o.c (1 : BitVec 1).toNat pt.toNat (tile.toNat + d) = false := State.tilePred_clear hb
  refine (matOp_fires hm _).trans (congrArg (fun t => Host.Outcome.next (done t)) ?_)
  simp only [ho, hpred, Bool.not_false, Bool.false_eq_true, if_false, if_true]
  rfl

end

/-- Settles O28: the predicate is its definition; MLD and MST under a clear bit by their equations. -/
theorem tilePredicate : Obligations.TilePredicate := by
  unfold Obligations.TilePredicate
  exact ⟨fun s c pten pt tile => rfl, fun h fmt reg tile pt t mo kind s o d hm hb =>
    ⟨fun hk => execMld_predicateClear hm hb hk, fun ho => execMst_predicateClear (mo := mo) hm hb ho⟩⟩

/-! ### Atomics and locks at their ports (R134, R304 to R307) -/

theorem atomValue_eq (op : AtomOp) (m v : Word) : atomValue op m v = atomic304 op m v := by
  cases op with
  | mins => simp only [atomValue, atomic304, BitVec.sle_eq_decide, decide_eq_true_eq]
  | maxs =>
    simp only [atomValue, atomic304, BitVec.sle_eq_decide, decide_eq_true_eq]
    rcases lt_trichotomy m.toInt v.toInt with hlt | heq | hgt
    · rw [if_neg (not_le.mpr hlt), if_pos hlt.le]
    · rw [if_pos heq.ge, if_pos heq.le, BitVec.eq_of_toInt_eq heq]
    · rw [if_pos hgt.le, if_neg (not_le.mpr hgt)]
  | maxu =>
    simp only [atomValue, atomic304]
    rcases lt_trichotomy m.toNat v.toNat with hlt | heq | hgt
    · rw [if_neg (not_le.mpr hlt), if_pos hlt.le]
    · rw [if_pos heq.ge, if_pos heq.le, BitVec.eq_of_toNat_eq heq]
    · rw [if_pos hgt.le, if_neg (not_le.mpr hgt)]
  | _ => rfl

theorem atomicAddr_eq : Claims.atomicAddr = atomAddr := by
  funext g hi l
  rw [Claims.atomicAddr, atomAddr, addrOf, Nat.add_assoc]

theorem State.skip_reachPort (s : State) (o : OpIn) : (s.reachPort o).2.f.skip = o.f.skip := by
  unfold State.reachPort
  split
  · rfl
  · rfl

/-- An atomic form that may be performed now, all of whose lanes complete, sends its results (R134, R304 to R306). -/
theorem State.atomForm_performs {s : State} {o : OpIn} {h : OpWord} {ord : MemOrd} {scope : Nat} {addrs : List Nat}
    {operands : List Lane} {ts : List Target} {upd : Nat → Word → Word} {res : AtomResult} {ask : AtomAsk} {r : AtomRun}
    (hr : AtomicReady s o h ord scope addrs operands ts) (he : r = performed s o ord scope addrs ts upd ask)
    (hstop : r.stop = none) : s.atomForm o h ord scope addrs operands upd res ask =
      r.st.finish (s.reachPort o).2 h true (res o.f.skip r.olds).1 (res o.f.skip r.olds).2 := by
  obtain ⟨-, hover, hscope, hleft, hops, halign, hplaces, hfit, hgot, hpending, hrel, hport, hlocks⟩ := hr
  have hidx : firstIdx (fun a => a % 4 != 0) addrs = none := firstIdx_none _ _ fun a ha => by simp [halign a ha]
  have hfailed : (o.f.ticket.got.any fun g => g.2 == .failed) = false := by simpa using hgot
  have hmode : ((s.core o.c).regs.atomPending.isSome && o.f.ticket.turn.isNone) = false := by
    obtain hnone | hsome := hpending
    · simp [hnone]
    · simp [Option.isNone_eq_false_iff.mpr hsome]
  have hwait : (ordReleases ord && s.releaseWaits o) = false := Bool.and_eq_false_imp.mpr hrel
  have hfree : (ts.find? fun t => (s.core o.c).regs.atomLock && (s.lockSet t.loc || s.lockQueued o t.loc)) = none := by
    refine List.find?_eq_none.mpr fun t ht => ?_
    rw [Bool.not_eq_true, Bool.and_eq_false_imp]
    intro hlock
    rw [(hlocks t ht hlock).1, (hlocks t ht hlock).2, Bool.or_false]
  have hrun : State.atomLanes (s.reachPort o).2
      { release := s.releaseRadius o ord scope, acquire := if ordAcquires ord then some (s.radius scope) else none,
        relaxed := ord == .relaxed } upd ask o.f.skip (ts.drop o.f.skip)
      (s.reachPort o).2.farRun (addrs.foldl (fun s a => s.cachePage o.c a) (s.reachPort o).1) = r := he.symm
  simp only [State.atomForm, hover, if_neg hscope, anyPoison_false _ hleft, anyPoison_false _ hops, hidx, hplaces,
    tagBadM_false hfit, hfailed, hmode, hwait, hport, hfree, State.atomPerform, hrun, hstop, s.skip_reachPort,
    Bool.false_eq_true, if_false]

/-- LDLK on whole and aligned addresses of its own scratchpad, all of whose lanes take their bits (R307). -/
theorem State.lockForm_performs {s : State} {o : OpIn} {h : OpWord} {ts : List Target} {r : AtomRun} (hleft : Clean o.f.left)
    (ha : ∀ x ∈ o.f.left, x.val.toNat % 4 = 0 ∧ x.val.toNat < 0x200000)
    (hplaces : s.atomPlaces o o.f.first (o.f.left.map fun x => x.val.toNat) = .ok ts) (hfit : TokenFits s o h)
    (hrun : State.lockLanes o o.f.skip (ts.drop o.f.skip) s = (r, none)) (hstop : r.stop = none) :
    s.lockForm o h = r.st.finish o h true { first := o.f.first + o.f.skip, lanes := r.olds }
      { first := o.f.first + o.f.skip, lanes := r.olds } := by
  have haddr : firstIdx lockAddrBad (o.f.left.map fun x => x.val.toNat) = none := by
    refine firstIdx_none _ _ fun a hm => ?_
    obtain ⟨x, hx, rfl⟩ := List.mem_map.mp hm
    have ⟨halign, hown⟩ := ha x hx
    simp [lockAddrBad, halign, hown]
  simp only [State.lockForm, anyPoison_false _ hleft, haddr, hplaces, tagBadM_false hfit, hrun, hstop, Bool.false_eq_true,
    if_false]

/-- Settles O22: ATOM and CAS are one atomic form, by `atomForm_performs`; LDLK by `lockForm_performs`. -/
theorem atomicsComplete : Obligations.AtomicsComplete := by
  unfold Obligations.AtomicsComplete
  refine ⟨?atom, ?cas, fun h ord scope g hi s o hf har => ?partner,
    fun h s o ts r hf hport hleft ha hplaces hfit hrun hstop =>
      (carderOp_fires hf hport _).trans (congrArg (fun t => Host.Outcome.next (done t))
        (State.lockForm_performs hleft ha hplaces hfit hrun hstop))⟩
  case atom =>
    intro h op ord scope g hi s o addrs ts r hf haddrs hr he hstop
    subst haddrs
    rw [atomicAddr_eq] at hr he
    refine (carderOp_fires hf hr.1 _).trans (congrArg (fun t => Host.Outcome.next (done t)) ?_)
    simp only [atomValue_eq]
    exact State.atomForm_performs hr he hstop
  case cas =>
    intro h ord scope g hi s o addrs ts r hf har haddrs hr he hstop
    subst haddrs
    rw [atomicAddr_eq] at hr he
    rw [exec, execCas, if_neg har]
    exact (carderOp_fires hf hr.1 _).trans (congrArg (fun t => Host.Outcome.next (done t))
      (State.atomForm_performs hr he hstop))
  case partner =>
    rw [exec, execCas, if_pos har]
    exact runOp_fires hf _

end Sys2Proof.Machine

namespace Sys2Proof.Machine

open Sys2Proof Sys2Proof.Claims

/-! ### Nodes and the Shuttle (R124, R129, R130) -/

section

variable {s : State} {core node : Nat} {n : Node} (hn : (s.core core).node node = n) (hs : n.state = 1)
  (hb : n.badElem = none) (hg : s.isGated core = false)

include hn hs hb hg

theorem execNodeElementRead_reads {s1 : State} {x : Nat × QEntry} {out : NodeOut} (hload : descStore n.desc = false ∨ n.kind = 5)
    (hroom : (s.core core).nodeRoom n = true) (he : s.nodeElem core node n = .ok (x :: out, s1)) :
    execNodeElementRead core node s = .next ((s1.dropAnswers core n.opener).modCore core fun k =>
      (k.placeElem node (x :: out)).modNode node fun y => { y.advance with ahead := y.ahead + 1 }) := by
  subst hn
  have hkind : (descStore ((s.core core).node node).desc && ((s.core core).node node).kind != 5) = false := by
    obtain hd | hk := hload
    · simp [hd]
    · simp [hk]
  have hruns : ¬ (((s.core core).node node).state ≠ 1 ∨ ((s.core core).node node).badElem.isSome = true) := by simp [hs, hb]
  simp only [execNodeElementRead, hg, State.nodeGo, if_neg hruns, hkind, hroom, he, Bool.not_true, Bool.false_eq_true, if_false]

theorem execNodeElementRead_stores (hd : descStore n.desc = true) (hk : n.kind ≠ 5) :
    execNodeElementRead core node s = .next (s.nodeStore core node n) := by
  subst hn
  have hkind : (descStore ((s.core core).node node).desc && ((s.core core).node node).kind != 5) = true := by simp [hd, hk]
  have hruns : ¬ (((s.core core).node node).state ≠ 1 ∨ ((s.core core).node node).badElem.isSome = true) := by simp [hs, hb]
  simp only [execNodeElementRead, hg, State.nodeGo, if_neg hruns, hkind, Bool.false_eq_true, if_false, if_true]

end

theorem execShuttleEntryStart_starts {s : State} {core n : Nat} {e : ShEntry}
    (he : findIdx? (fun (e : ShEntry) => e.st == .waiting) (s.core core).shuttle 0 = some (n, e))
    (hst : e.entry.stage < (s.core core).regs.shadv) (hg : s.isGated core = false) (hl : (s.core core).endl = false)
    (hbob : e.entry.boben = false) (hp : s.inProgress core ≤ 3) :
    execShuttleEntryStart core s = .next (s.modCore core fun k => k.modEntry n fun e => { e with st := .running }) := by
  have hgo : ¬ ((s.core core).regs.shadv ≤ e.entry.stage ∨ s.isGated core = true ∨ (s.core core).endl = true ∨
      (e.entry.boben && !((s.core core).bob e.entry.bob).canStart) = true ∨ 3 < s.inProgress core) := by
    simp [hst, hg, hl, hbob, hp]
  simp only [execShuttleEntryStart, he, if_neg hgo]
  simp only [hbob, Bool.false_eq_true, if_false]

theorem execShuttleRowCopy_copies {s s1 s2 : State} {core n : Nat} {e : ShEntry} {bs : List PByte}
    (he : (s.core core).shuttle[n]? = some e) (hst : e.st = .running) (hw : e.withheld = none) (hg : s.isGated core = false)
    (hb : s.rowBlocked core n (e.entry.row e.row).1 (e.entry.row e.row).2 e.entry.rowbytes = false)
    (hr : s.engRead core shuttleAgent true (e.entry.row e.row).1 e.entry.rowbytes = .ok (bs, s1))
    (hwr : s1.engWrite core shuttleAgent true (e.entry.row e.row).2 bs n = .ok s2) :
    execShuttleRowCopy core n s = .next ((s2.dropAnswers core shuttleAgent).modCore core fun k =>
      k.modEntry n fun e => e.rowDone (bs.any fun b => b.2)) := by
  have hgo : (e.st != .running || e.withheld.isSome ||
      s.rowBlocked core n (e.entry.row e.row).1 (e.entry.row e.row).2 e.entry.rowbytes) = false := by simp [hst, hw, hb]
  simp only [execShuttleRowCopy, hg, State.rowGo, he, hgo, hr, hwr, Bool.false_eq_true, if_false]

theorem execShuttleCompletionPost_posts {s : State} {core n : Nat} {e : ShEntry}
    (he : (List.zipIdx (s.core core).shuttle).find? (fun p =>
      (s.core core).mayPost p.2 p.1 && s.partDone core shuttleAgent p.2) = some (e, n)) :
    execShuttleCompletionPost core s = .next ((s.fillDone core shuttleAgent e.entry.bob e.err e.poison).modCore core
      fun k => k.modEntry n fun x => { x with st := .posted }) := by
  simp only [execShuttleCompletionPost, he]

/-! ### Requests performed at their ports (R134 to R136) -/

theorem runOp_of_firing {s : State} {p : Nat × Firing} (hf : s.firing = some p) (g : OpIn → State) :
    ∃ u, runOp s g = .next u := by
  simp only [runOp, hf]
  split
  · exact ⟨_, rfl⟩
  · exact ⟨_, rfl⟩

theorem exec_of_firing {i : Instr} {s : State} {p : Nat × Firing} (hi : i.opWord? ≠ none) (hf : s.firing = some p) :
    ∃ u, exec i s = .next u := by
  obtain ⟨g, hg⟩ := exec_isOp i s hi
  rw [hg]
  exact runOp_of_firing hf g

/-- A matched set that has been started on an instruction is the one being executed. -/
theorem State.firing_start {s t : State} {c : Nat} {f : Firing} {i : Instr} (h : s.start c f = (t, some i)) :
    ∃ p, t.firing = some p := by
  unfold State.start at h
  dsimp only at h
  repeat' split at h
  all_goals cases h
  all_goals exact ⟨_, rfl⟩

theorem State.firing_retry {s t : State} {c n : Nat} {i : Instr} (h : s.retry c n = (t, some i)) : ∃ p, t.firing = some p := by
  unfold State.retry at h
  split at h
  · cases h
  · split at h
    · cases h
    · exact State.firing_start h

/-- What is tried again and is an operation goes on to a next state. -/
theorem exec_of_retry {s t : State} {c n : Nat} {i : Instr} (h : s.retry c n = (t, some i)) (hi : i.opWord? ≠ none) :
    ∃ u, exec i t = .next u :=
  have ⟨_, hf⟩ := State.firing_retry h
  exec_of_firing hi hf

theorem execBurtexAtomic_performs {s t : State} {core n : Nat} {hd : Held} {i : Instr}
    (hh : (s.core core).heldWhere Held.atPort = some (n, hd)) (hr : s.retry core n = (t, some i))
    (hi : (∃ h opc ord scope g hi, i = .atom h opc ord scope g hi) ∨ ∃ h ord scope g hi, i = .cas h ord scope g hi) :
    ∃ u, execBurtexAtomic core s = .next u ∧ exec i t = .next u := by
  obtain ⟨h, opc, ord, scope, g, hi, rfl⟩ | ⟨h, ord, scope, g, hi, rfl⟩ := hi
  all_goals
    obtain ⟨u, hu⟩ := exec_of_retry hr (Option.some_ne_none _)
    refine ⟨u, ?_, hu⟩
    simp only [execBurtexAtomic, hh, hr]
    exact hu

theorem execLockGrant_performs {s t : State} {core n : Nat} {hd : Held} {i : Instr}
    (hh : (List.zipIdx (s.core core).held).find? (fun p => s.lockReady core p.1) = some (hd, n))
    (hr : s.retry core n = (t, some i)) (hi : (∃ h, i = .ldlk h) ∨ (∃ h opc ord scope g hi, i = .atom h opc ord scope g hi) ∨
      ∃ h ord scope g hi, i = .cas h ord scope g hi) :
    ∃ u, execLockGrant core s = .next u ∧ exec i t = .next u := by
  obtain ⟨h, rfl⟩ | ⟨h, opc, ord, scope, g, hi, rfl⟩ | ⟨h, ord, scope, g, hi, rfl⟩ := hi
  all_goals
    obtain ⟨u, hu⟩ := exec_of_retry hr (Option.some_ne_none _)
    refine ⟨u, ?_, hu⟩
    simp only [execLockGrant, hh, hr]
    exact hu

theorem execAtommodeSwitch_switches {s : State} {core : Nat} {b : Bool} (hb : (s.core core).regs.atomPending = some b)
    (hn : ∀ h ∈ (s.core core).held, (s.core core).atomInFlight h = false) : ∃ t, execAtommodeSwitch core s = .next t ∧
    (t.core core).regs.atomLock = b ∧ (t.core core).regs.atomPending = none ∧ t.mem = s.mem := by
  have hnone : (s.core core).held.any (s.core core).atomInFlight = false := by simpa using hn
  refine ⟨s.setCore core { s.core core with regs := { (s.core core).regs with atomLock := b, atomPending := none } },
    ?_, ?_, ?_, rfl⟩
  · simp only [execAtommodeSwitch, hb, hnone, Bool.false_eq_true, if_false]
  · rw [State.core_setCore_same]
  · rw [State.core_setCore_same]

/-! ### A page of the Reel (R138, R354) -/

/-- The second byte of an 8-byte word. -/
theorem bits_leAt_second_byte (bs : List Byte) (o : Nat) : bits (leAt bs o 8) 8 8 = leAt bs (o + 1) 1 := by
  have hword : leAt bs o 8 = leAt bs o 1 + 256 ^ 1 * (leAt bs (o + 1) 1 + 256 ^ 1 * leAt bs (o + 1 + 1) 6) := by
    rw [← leAt_add, ← leAt_add]
  have hlow := leAt_lt bs o 1
  have hnext := leAt_lt bs (o + 1) 1
  rw [hword, bits]
  omega

/-- A page that is not its chain's last, copied to its slot (R138). -/
theorem State.reelCopy_notLast {s s1 s2 : State} {c q : Nat} {m : ReelCmd} {bad : Bool} {bs : List PByte}
    (hr : s.engRead c reelAgent true q 0x8040 = .ok (bs, s1))
    (hw : s1.engWrite c reelAgent true (m.slotbase + m.k % m.nslot * 0x8040) bs m.id = .ok s2)
    (hlink : leAt (bs.map fun b => b.1) 0 7 ≠ 0) (hfull : 64 ≤ leAt (bs.map fun b => b.1) 9 1)
    (hmax : m.maxpages = 0 ∨ m.k + 1 < m.maxpages) {poison : Bool}
    (hp : poison = (bad || bit (leAt (bs.map fun b => b.1) 8 8) 1 || bs.any fun b => b.2)) :
    s.reelCopy c m q bad = .ok ({ m with
      k := m.k + 1, started := false, poison := m.poison || poison, link := q, posts := m.posts ++ [(false, poison)],
      stage := .follow }, s2) := by
  subst hp
  have hread : s.engRead c reelAgent true q pageBytes = .ok (bs, s1) := hr
  have hwrite : s1.engWrite c reelAgent true (m.slotbase + m.k % m.nslot * pageBytes) bs m.id = .ok s2 := hw
  have hlast : (leAt (bs.map fun b => b.1) 0 7 == 0 || decide (bits (leAt (bs.map fun b => b.1) 8 8) 8 8 < 64) ||
      (m.maxpages != 0 && decide (m.maxpages ≤ m.k + 1))) = false := by
    rw [bits_leAt_second_byte]
    obtain h0 | h1 := hmax
    · simp [hlink, hfull, h0]
    · simp [hlink, hfull, h1]
  simp only [State.reelCopy, hread, hwrite, reelAcc, bind, Except.bind, pure, Except.pure, hlast, Bool.false_eq_true, if_false]

theorem execReelPageFill_copies {s s0 s1 s2 : State} {core q : Nat} {bad poison : Bool} {m : ReelCmd} {bs : List PByte}
    (h0 : s0 = s.reelFlush core) (hm : (s0.core core).reel.find? (fun m => m.withheld.isNone && !m.ended) = some m)
    (hst : m.started = true) (hl : m.lost = false) (hstage : m.stage = .copy q bad) (hend : m.ended = false)
    (hr : s0.engRead core reelAgent true q 0x8040 = .ok (bs, s1))
    (hw : s1.engWrite core reelAgent true (m.slotbase + m.k % m.nslot * 0x8040) bs m.id = .ok s2)
    (hp : poison = (bad || bit (leAt (bs.map fun b => b.1) 8 8) 1 || bs.any fun b => b.2))
    (hlink : leAt (bs.map fun b => b.1) 0 7 ≠ 0) (hfull : 64 ≤ leAt (bs.map fun b => b.1) 9 1)
    (hmax : m.maxpages = 0 ∨ m.k + 1 < m.maxpages) :
    execReelPageFill core s = .next ((s2.dropAnswers core reelAgent).reelDone core { m with
      k := m.k + 1, started := false, poison := m.poison || poison, link := q, posts := m.posts ++ [(false, poison)],
      stage := .follow }) := by
  subst h0
  have hcopy := State.reelCopy_notLast hr hw hlink hfull hmax hp
  have hlost : (m.lost && !m.stage.finishes) = false := by rw [hl, Bool.false_and]
  have hgoes : (m.stage.finishes && !(s.reelFlush core).partDone core reelAgent m.id) = false := by
    rw [hstage]
    rfl
  have hstg : (s.reelFlush core).reelStage core m = (s.reelFlush core).reelCopy core m q bad := by
    rw [State.reelStage, hstage]
  simp only [execReelPageFill, hm, hst, State.reelGo, hlost, State.reelRun, hgoes, hstg, hcopy, hend, Bool.not_false, Bool.or_true,
    Bool.false_eq_true, if_false, if_true]

/-- Settles O53: each step by its equation; a request at its port by what it is when it is tried again. -/
theorem engineStepsComplete : Obligations.EngineStepsComplete := by
  unfold Obligations.EngineStepsComplete
  refine ⟨fun s s1 core node n x out hn hs hb hg hl hroom he => execNodeElementRead_reads hn hs hb hg hl hroom he,
    fun s core node n hn hs hb hg hd hk => execNodeElementRead_stores hn hs hb hg hd hk,
    fun s core n e he hst hg hl hbob hp => execShuttleEntryStart_starts he hst hg hl hbob hp, ?row,
    fun s core n e he => execShuttleCompletionPost_posts he,
    fun s t core n hd i hh hr hi => execBurtexAtomic_performs hh hr hi,
    fun s t core n hd i hh hr hi => execLockGrant_performs hh hr hi,
    fun s core b hb hn => execAtommodeSwitch_switches hb hn, ?reel⟩
  case row =>
    intro s s1 s2 core n src dst e bs he hsrc hdst hst hw hg hb hr hwr
    subst hsrc hdst
    exact execShuttleRowCopy_copies he hst hw hg hb hr hwr
  case reel =>
    intro s s0 s1 s2 core q bad poison m bs raw h0 hm hst hl hstage hend hr hraw hw hp hlink hfull hmax
    subst hraw
    exact execReelPageFill_copies h0 hm hst hl hstage hend hr hw hp hlink hfull hmax

end Sys2Proof.Machine

/-! ### Memory in its canonical form (R110, R111) -/

namespace Sys2Proof.Machine

open Sys2Proof

/-- A core whose scratchpad is in canonical form. -/
def Core.MemWf (k : Core) : Prop := Memory.wf k.scratch = true

/-- A state whose memories are in canonical form: `State.memOk`, part by part. -/
def State.MemWf (s : State) : Prop :=
  Memory.wf s.mem = true ∧ Memory.wf s.fw.recovery = true ∧ (∀ p ∈ s.cores, p.2.MemWf) ∧ ∀ x ∈ s.images, x.kept.MemWf

theorem State.memOk_iff (s : State) : s.memOk = true ↔ s.MemWf := by
  simp only [State.memOk, State.MemWf, Core.MemWf, Bool.and_eq_true, List.all_eq_true, and_assoc]

/-- An outcome whose next state, if it has one, is in canonical form. -/
def NextWf : Host.Outcome State Fault Refusal → Prop
  | .next t => t.MemWf
  | .fault _ => True
  | .refused _ => True

theorem NextWf.ite {c : Prop} [Decidable c] {x y : Host.Outcome State Fault Refusal} (hx : NextWf x) (hy : NextWf y) :
    NextWf (if c then x else y) := by
  split
  · exact hx
  · exact hy

/-- What a computation that may fail gives has a property. -/
def Gives {ε α : Type} (P : α → Prop) : Except ε α → Prop
  | .error _ => True
  | .ok a => P a

/-- A computation that gives a result or a state in which the failure has been dealt with: the one has a property, the
other is in canonical form. -/
def GivesOr {α : Type} (P : α → Prop) : Except State α → Prop
  | .error t => t.MemWf
  | .ok a => P a

theorem Gives.of_ok {ε α : Type} {P : α → Prop} {x : Except ε α} (h : Gives P x) {a : α} (e : x = .ok a) : P a := by
  subst e
  exact h

theorem Gives.bind {ε α β : Type} {P : α → Prop} {Q : β → Prop} {x : Except ε α} {f : α → Except ε β} (h : Gives P x)
    (hf : ∀ a, P a → Gives Q (f a)) : Gives Q (x >>= f) := by
  cases x with
  | error e => trivial
  | ok a => exact hf a h

theorem Gives.ite {ε α : Type} {P : α → Prop} {c : Prop} [Decidable c] {x y : Except ε α} (hx : Gives P x) (hy : Gives P y) :
    Gives P (if c then x else y) := by
  split
  · exact hx
  · exact hy

theorem Gives.ite_bind {ε α β : Type} {P : α → Prop} {Q : β → Prop} {c : Prop} [Decidable c] {x y : Except ε α}
    {f : α → Except ε β} (hx : Gives P x) (hy : Gives P y) (hf : ∀ a, P a → Gives Q (f a)) :
    Gives Q (if c then x >>= f else y >>= f) := .ite (.bind hx hf) (.bind hy hf)

theorem Gives.ite_ok {ε α : Type} {P : α → Prop} {c : Prop} [Decidable c] {a : α} {x : Except ε α} (ha : P a) (hx : Gives P x) :
    Gives P (if c then .ok a else x) := by
  split
  · exact ha
  · exact hx

theorem Gives.reelAcc {α : Type} {P : α → Prop} {x : Except AccErr α} (h : Gives P x) : Gives P (reelAcc x) := by
  cases x with
  | error e => trivial
  | ok a => exact h

theorem GivesOr.of_ok {α : Type} {P : α → Prop} {x : Except State α} (h : GivesOr P x) {a : α} (e : x = .ok a) :
    P a := by
  subst e
  exact h

theorem GivesOr.of_error {α : Type} {P : α → Prop} {x : Except State α} (h : GivesOr P x) {t : State} (e : x = .error t) :
    t.MemWf := by
  subst e
  exact h

section

variable {s : State}

theorem State.MemWf.ite {c : Prop} [Decidable c] {t : State} (hs : s.MemWf) (ht : t.MemWf) :
    (if c then s else t).MemWf := by
  split
  · exact hs
  · exact ht

theorem State.MemWf.ite_fst {β : Type} {c : Prop} [Decidable c] {p q : State × β} (hp : p.1.MemWf) (hq : q.1.MemWf) :
    (if c then p else q).1.MemWf := by
  split
  · exact hp
  · exact hq

theorem State.MemWf.foldl {α : Type} {f : State → α → State} {l : List α} (hs : s.MemWf)
    (hf : ∀ (t : State) (a : α), t.MemWf → (f t a).MemWf) : (l.foldl f s).MemWf :=
  List.foldlRecOn l f hs fun t ht a _ => hf t a ht

theorem Core.MemWf.foldl {α : Type} {k : Core} {f : Core → α → Core} {l : List α} (hk : k.MemWf)
    (hf : ∀ (u : Core) (a : α), u.MemWf → (f u a).MemWf) : (l.foldl f k).MemWf :=
  List.foldlRecOn l f hk fun u hu a _ => hf u a hu

theorem State.MemWf.of_fst {β : Type} {p : State × β} {b : β} (h : p.1.MemWf) (e : p = (s, b)) : s.MemWf := by
  subst e
  exact h

theorem State.MemWf.with_asks {x : List Ask} (hs : s.MemWf) : ({ s with asks := x } : State).MemWf := hs

theorem State.MemWf.with_collAcq {x : List ((Agent × Agent) × Nat)} (hs : s.MemWf) :
    ({ s with collAcq := x } : State).MemWf := hs

theorem State.MemWf.with_colls {x : List Coll} (hs : s.MemWf) : ({ s with colls := x } : State).MemWf := hs

theorem State.MemWf.with_owrites {x : List OrderedWrite} (hs : s.MemWf) :
    ({ s with owrites := x } : State).MemWf := hs

theorem State.MemWf.with_power {x : Power} (hs : s.MemWf) : ({ s with power := x } : State).MemWf := hs

theorem State.MemWf.with_sent {x : List WireFlit} (hs : s.MemWf) : ({ s with sent := x } : State).MemWf := hs

theorem State.MemWf.with_firing {x : Option (Nat × Firing)} (hs : s.MemWf) :
    ({ s with firing := x } : State).MemWf := hs

theorem State.MemWf.with_launches {l : List Launch} (hs : s.MemWf) : ({ s with launches := l } : State).MemWf := hs

theorem State.MemWf.with_memRecs {x : List (Nat × LineRec)} (hs : s.MemWf) :
    ({ s with memRecs := x } : State).MemWf := hs

/-- Another physical memory, in canonical form too. -/
theorem State.MemWf.with_mem {m : List Host.Cell} (hs : s.MemWf) (hm : Memory.wf m = true) :
    ({ s with mem := m } : State).MemWf :=
  ⟨hm, hs.2⟩

/-- Other firmware state, with a recovery window in canonical form. -/
theorem State.MemWf.with_fw {f : Firmware} (hs : s.MemWf) (hf : Memory.wf f.recovery = true) :
    ({ s with fw := f } : State).MemWf := by
  obtain ⟨hmem, -, hrest⟩ := hs
  exact ⟨hmem, hf, hrest⟩

/-- Other images, whose scratchpads are in canonical form. -/
theorem State.MemWf.with_images {l : List Image} (hs : s.MemWf) (hl : ∀ x ∈ l, x.kept.MemWf) :
    ({ s with images := l } : State).MemWf := by
  obtain ⟨hmem, hrec, hcores, -⟩ := hs
  exact ⟨hmem, hrec, hcores, hl⟩

theorem State.MemWf.of_mem_images (hs : s.MemWf) {x : Image} (hx : x ∈ s.images) : x.kept.MemWf := by
  obtain ⟨-, -, -, himages⟩ := hs
  exact himages x hx

/-- Some of the images discarded. -/
theorem State.MemWf.filter_images {p : Image → Bool} (hs : s.MemWf) :
    ({ s with images := s.images.filter p } : State).MemWf :=
  hs.with_images fun _ hx => hs.of_mem_images (List.mem_of_mem_filter hx)

theorem State.MemWf.wf_mem (hs : s.MemWf) : Memory.wf s.mem = true := hs.1

theorem State.MemWf.wf_recovery (hs : s.MemWf) : Memory.wf s.fw.recovery = true := by
  obtain ⟨-, hrec, -⟩ := hs
  exact hrec

theorem Core.MemWf.with_mapping {k : Core} {x : Option Nat} (hk : k.MemWf) :
    ({ k with mapping := x } : Core).MemWf := hk

theorem Core.memWf_reset : Core.reset.MemWf := rfl

theorem mem_aset {α : Type} {l : List (Nat × α)} {i : Nat} {v : α} {p : Nat × α} (h : p ∈ aset l i v) :
    p ∈ l ∨ p = (i, v) := by
  induction l with
  | nil => exact .inr (List.mem_singleton.mp h)
  | cons q r ih =>
    obtain ⟨k, w⟩ := q
    rw [aset] at h
    split at h
    · obtain rfl | hr := List.mem_cons.mp h
      · exact .inr rfl
      · exact .inl (List.mem_cons_of_mem _ hr)
    · obtain rfl | hr := List.mem_cons.mp h
      · exact .inl List.mem_cons_self
      · exact (ih hr).imp (List.mem_cons_of_mem _) id

theorem aget_mem_or {α : Type} (d : α) (l : List (Nat × α)) (i : Nat) :
    (∃ p ∈ l, aget d l i = p.2) ∨ aget d l i = d := by
  induction l with
  | nil => exact .inr rfl
  | cons q r ih =>
    obtain ⟨k, w⟩ := q
    rw [aget]
    split
    · exact .inl ⟨(k, w), List.mem_cons_self, rfl⟩
    · exact ih.imp_left fun ⟨p, hp, he⟩ => ⟨p, List.mem_cons_of_mem _ hp, he⟩

theorem State.MemWf.core (hs : s.MemWf) (c : Nat) : (s.core c).MemWf := by
  obtain ⟨-, -, hcores, -⟩ := hs
  obtain ⟨p, hp, he⟩ | he := aget_mem_or Core.reset s.cores c
  · rw [State.core, he]
    exact hcores p hp
  · rw [State.core, he]
    exact Core.memWf_reset

theorem State.MemWf.setCore {c : Nat} {k : Core} (hs : s.MemWf) (hk : k.MemWf) : (s.setCore c k).MemWf := by
  obtain ⟨hmem, hrec, hcores, himages⟩ := hs
  refine ⟨hmem, hrec, fun p hp => ?_, himages⟩
  obtain hold | rfl := mem_aset hp
  · exact hcores p hold
  · exact hk

theorem State.MemWf.modCore {c : Nat} {f : Core → Core} (hs : s.MemWf) (hf : ∀ k : Core, k.MemWf → (f k).MemWf) :
    (s.modCore c f).MemWf := hs.setCore (hf _ (hs.core c))

/-- A core changed in all but its scratchpad. -/
theorem State.MemWf.modCore_same {c : Nat} {f : Core → Core} (hs : s.MemWf) (hf : ∀ k : Core, (f k).scratch = k.scratch) :
    (s.modCore c f).MemWf := hs.modCore fun k hk => by rw [Core.MemWf, hf k]; exact hk

theorem State.MemWf.ite_modCore_same {p : Prop} [Decidable p] {c : Nat} {f : Core → Core} (hs : s.MemWf)
    (hf : ∀ k : Core, (f k).scratch = k.scratch) : (if p then s.modCore c f else s).MemWf := .ite (hs.modCore_same hf) hs

theorem State.MemWf.writeLoc {l : Loc} {bs : List Byte} (hs : s.MemWf) : (s.writeLoc l bs).MemWf := by
  cases l with
  | scratch c a => exact hs.modCore fun k hk => Memory.wf_memWrite k.scratch a bs hk
  | phys a =>
    obtain ⟨hmem, hrest⟩ := hs
    exact ⟨Memory.wf_memWrite s.mem a bs hmem, hrest⟩

end

end Sys2Proof.Machine

namespace Sys2Proof.Machine

open Sys2Proof

/-! Every function of the model that makes a state or a core keeps the canonical form of its memories, in the order in
which the model defines them: each lemma follows the branches of its function and cites the lemmas of what the function
calls. -/

section

variable {s : State} {k : Core} {o : OpIn} {h : OpWord} {c : ℕ} {i : Instance} {l : Launch} {m : Mapping}

/-! ### The functions of Machine/Access -/

theorem State.MemWf.modPart {p : ℕ} {f : Part → Part} (hs : s.MemWf) : (s.modPart p f).MemWf := hs

theorem State.MemWf.modFq {i : ℕ} {f : FaultQ → FaultQ} (hs : s.MemWf) : (s.modFq i f).MemWf := hs

theorem State.MemWf.modPort {n : ℕ} {f : Port → Port} (hs : s.MemWf) : (s.modPort n f).MemWf := hs

theorem State.MemWf.modLaunch {lid : ℕ} {f : Launch → Launch} (hs : s.MemWf) : (s.modLaunch lid f).MemWf := hs

theorem State.MemWf.drawFree (hs : s.MemWf) : s.drawFree.2.MemWf := hs

theorem State.MemWf.setPoison {l : Loc} {p : Bool} (hs : s.MemWf) : (s.setPoison l p).MemWf := by
  unfold State.setPoison
  dsimp only
  split
  · exact hs.modCore fun _ hk => hk
  · exact hs

theorem State.MemWf.performSeg {g : Seg} (hs : s.MemWf) : (s.performSeg g).MemWf := by
  unfold State.performSeg
  dsimp only
  split
  · exact hs.writeLoc.setPoison
  split
  · exact hs.writeLoc.setPoison
  · exact hs.writeLoc

theorem State.MemWf.emit {m : HostMsg} (hs : s.MemWf) : (s.emit m).MemWf := hs

theorem State.MemWf.cacheTlb {e : TlbEntry} (hs : s.MemWf) : (s.cacheTlb c e).MemWf := by
  unfold State.cacheTlb
  dsimp only
  split
  · exact hs.setCore (hs.core _)
  · exact hs.drawFree.setCore (hs.core _)

/-! ### The functions of Machine/Faults -/

theorem State.MemWf.loseRec {f : FRec} (hs : s.MemWf) : (s.loseRec f).MemWf := by
  unfold State.loseRec
  split
  · exact hs
  · exact hs.modFq

theorem State.MemWf.ringVector {i : ℕ} (hs : s.MemWf) : (s.ringVector i).MemWf := by
  unfold State.ringVector
  dsimp only
  split
  · exact hs.emit
  · exact hs

theorem State.MemWf.noteHost {queue : ℕ} {l : Loc} {bs : List Byte} (hs : s.MemWf) :
    (s.noteHost queue l bs).MemWf := by
  unfold State.noteHost
  split
  · split
    · exact hs.emit
    · exact hs
  · exact hs

theorem State.MemWf.tellHost {queue : ℕ} {l : Loc} {bs : List Byte} (hs : s.MemWf) :
    (s.tellHost queue l bs).MemWf := hs.writeLoc.noteHost

theorem State.MemWf.postRec {f : FRec} (hs : s.MemWf) : (s.postRec f).MemWf := by
  unfold State.postRec
  dsimp only
  split
  · exact hs.loseRec
  split
  · exact hs.modFq.loseRec
  · exact hs.tellHost.modFq.ringVector

theorem State.MemWf.serviceFault {f : FRec} {owner : FaultOwner} (hs : s.MemWf) :
    (s.serviceFault f owner).1.MemWf := .postRec hs

theorem State.MemWf.withdrawFault {id : ℕ} (hs : s.MemWf) : (s.withdrawFault id).MemWf := hs

theorem State.MemWf.postPoisonedWalk {c pa : ℕ} (hs : s.MemWf) : (s.postPoisonedWalk c pa).MemWf := hs.postRec

theorem State.MemWf.endLaunch {lid status detail : ℕ} (hs : s.MemWf) : (s.endLaunch lid status detail).MemWf :=
  hs.modLaunch

/-! ### The functions of Machine/Ops -/

theorem Core.MemWf.modInst {iid : ℕ} {f : Instance → Instance} (hk : k.MemWf) : (k.modInst iid f).MemWf := hk

theorem Core.MemWf.modColour {id : ℕ} {f : Colour → Colour} (hk : k.MemWf) : (k.modColour id f).MemWf := hk

theorem Core.MemWf.nameInstance {tag : Tag} {block : ℕ} {handler : Bool} (hk : k.MemWf) :
    (k.nameInstance tag block handler).1.MemWf := hk

theorem Core.MemWf.park {iid : ℕ} {firing : Option Firing} (hk : k.MemWf) : (k.park iid firing).MemWf := hk

theorem State.MemWf.doubleTrap (hs : s.MemWf) : (s.doubleTrap c).MemWf := .endLaunch (hs.modCore fun _ hk => hk)

theorem State.MemWf.raiseAt {t : Trap} (hs : s.MemWf) : (s.raiseAt c t i).MemWf := by
  unfold State.raiseAt
  dsimp only
  split
  · exact hs.setCore (.modInst (hs.core _))
  split
  · exact .doubleTrap (hs.setCore (.park (hs.core _)))
  · exact .modCore (hs.setCore (.park (hs.core _))) fun _ hk => hk

theorem State.MemWf.raise {t : Trap} (hs : s.MemWf) : (s.raise c t).MemWf := by
  unfold State.raise
  split
  · exact hs.raiseAt
  · exact hs.modCore fun _ hk => hk

theorem State.MemWf.raiseBeside {t : Trap} (hs : s.MemWf) : (s.raiseBeside c i t).MemWf := by
  unfold State.raiseBeside
  split
  · exact hs.modCore fun _ hk => hk
  · exact hs.raise

theorem State.MemWf.deliverTrap {t : Trap} {entry : ℕ} (hs : s.MemWf) : (s.deliverTrap c t entry).MemWf := by
  unfold State.deliverTrap
  dsimp only
  exact hs.performSeg.modCore fun _ hk0 => hk0

theorem Core.MemWf.unpark {iid : ℕ} (hk : k.MemWf) : (k.unpark iid).MemWf := by
  unfold Core.unpark
  dsimp only
  split
  · exact hk
  · exact hk

theorem State.MemWf.trapOp {cause addr detail aux lane : ℕ} (hs : s.MemWf) :
    (s.trapOp o cause addr detail aux lane).MemWf := hs.raise

theorem State.MemWf.illegal {value rule : ℕ} (hs : s.MemWf) : (s.illegal o value rule).MemWf := hs.trapOp

theorem State.MemWf.poisonTrap {addr kind : ℕ} {ls : List Lane} (hs : s.MemWf) :
    (s.poisonTrap o addr kind ls).MemWf := hs.trapOp

theorem State.MemWf.hold {u : HUnit} {w : Wait} (hs : s.MemWf) : (s.hold o u w).MemWf := by
  unfold State.hold
  dsimp only
  refine hs.modCore fun _ hk => ?_
  split
  · exact hk
  · exact hk

theorem State.MemWf.runOp {g : OpIn → State} (hs : s.MemWf) (hg : ∀ o, (g o).MemWf) : NextWf (runOp s g) := by
  unfold Machine.runOp
  split
  · trivial
  split
  · exact hs
  · exact State.MemWf.with_firing (.ite hs.illegal (hg _))

theorem Core.MemWf.sendRun {iid : ℕ} {d : ℕ × ℕ} {r : Run} {ot : Option Tag} (hk : k.MemWf) :
    (k.sendRun o iid d r ot).MemWf := by
  unfold Core.sendRun
  split
  · split
    · exact hk
    · exact hk
  split
  · exact hk
  · exact hk

theorem Core.MemWf.instanceFor {t : Tag} (hk : k.MemWf) : (k.instanceFor o t).1.MemWf := by
  unfold Core.instanceFor
  split
  · exact hk
  split
  · exact hk
  split
  · exact hk
  · exact hk.nameInstance

theorem Core.MemWf.sendPiece {second : Bool} {p : Tag × Run} {ot : Option Tag} (hk : k.MemWf) :
    (k.sendPiece o second p ot).MemWf := by
  unfold Core.sendPiece
  dsimp only
  refine .foldl ?_ fun _ _ ht => ht.sendRun
  split
  · exact hk.instanceFor
  · exact hk

theorem Core.MemWf.sendTo {tg : ℕ} {second : Bool} {r : Run} (hk : k.MemWf) : (k.sendTo o tg second r).MemWf := by
  unfold Core.sendTo
  split
  · exact hk
  split
  · exact hk.sendPiece
  split
  · exact hk
  · exact hk.foldl fun _ _ ht1 => ht1.sendPiece

theorem State.MemWf.tagTrap {tg : ℕ} (hs : s.MemWf) : (s.tagTrap o tg).MemWf := hs.trapOp

theorem State.MemWf.retireOp (hs : s.MemWf) : (s.retireOp o).MemWf := hs.modCore fun _ hk => hk

theorem State.MemWf.fireAgain {f : Firing} (hs : s.MemWf) : (s.fireAgain o f).MemWf := by
  unfold State.fireAgain
  split
  · exact hs.modCore fun _ hk => hk
  split
  · exact hs.hold
  · exact hs.modCore fun _ hk => hk

theorem State.MemWf.finish {isData : Bool} {r0 r1 : Run} (hs : s.MemWf) : (s.finish o h isData r0 r1).MemWf := by
  unfold State.finish
  dsimp only
  split
  · exact hs.tagTrap
  split
  · exact .retireOp (hs.modCore fun _ hk => hk.sendTo.sendTo)
  refine .fireAgain ?_
  split
  · exact hs.modCore fun _ hk => hk.sendTo.sendTo
  · exact hs

theorem State.MemWf.finishC {v : Word} (hs : s.MemWf) : (s.finishC o h v).MemWf := hs.finish

theorem State.MemWf.finishN (hs : s.MemWf) : (s.finishN o h).MemWf := hs.finish

theorem State.MemWf.atCommit {e : Effect} (hs : s.MemWf) : (s.atCommit o e).MemWf := hs.modCore fun _ hk => hk

/-! ### The functions of Machine/Link -/

theorem State.MemWf.modRoute {m : ℕ} {f : Route → Route} (hs : s.MemWf) : (s.modRoute m f).MemWf := hs

theorem State.MemWf.transmit {s : State} {port : ℕ} {l : List (ℕ × List Byte)} (hs : s.MemWf) :
    (s.transmit port l).MemWf := by
  unfold State.transmit
  dsimp only
  split
  · exact hs
  · exact hs.modPort.with_sent.transmit

theorem State.MemWf.sendFlits {port : ℕ} {fs : List Flit} (hs : s.MemWf) : (s.sendFlits port fs).MemWf :=
  hs.transmit

theorem State.MemWf.pump {port : ℕ} (hs : s.MemWf) : (s.pump port).MemWf := by
  unfold State.pump
  dsimp only
  split
  · exact hs.modPort.sendFlits
  · exact hs

theorem State.MemWf.sendOn {port cls hop : ℕ} {payload : List Byte} {origin : Origin} (hs : s.MemWf) :
    (s.sendOn port cls hop payload origin).MemWf := .pump (.modPort hs)

theorem State.MemWf.countUndel (hs : s.MemWf) : s.countUndel.MemWf := hs

theorem State.MemWf.checkRoute {m : ℕ} (hs : s.MemWf) : (s.checkRoute m).MemWf := by
  have one : ∀ t : State, t.MemWf → State.MemWf (match (t.route m).use with
      | some (w, alt) => if t.routeSendable w then t else t.countUndel.modRoute m fun r => r.fail alt
      | none => t) := fun t ht => by
    split
    · exact .ite ht ht.countUndel.modRoute
    · exact ht
  exact one _ (one s hs)

theorem State.MemWf.postUndeliverable {lid : Option ℕ} {core : ℕ} {write : Bool} {addr : ℕ} (hs : s.MemWf) :
    (s.postUndeliverable lid core write addr).MemWf := by
  unfold State.postUndeliverable
  split
  · exact hs.postRec
  · exact hs.postRec

theorem State.MemWf.sendWrite {o : OrderedWrite} (hs : s.MemWf) : (s.sendWrite o).MemWf := by
  unfold State.sendWrite
  dsimp only
  split
  · exact hs
  · exact .sendOn hs

theorem State.MemWf.sendWrites {s : State} {m n : ℕ} (hs : s.MemWf) : (s.sendWrites m n).MemWf := by
  unfold State.sendWrites
  split
  · exact hs
  split
  · exact hs
  · exact hs.sendWrite.sendWrites

theorem State.MemWf.sendAsk {q : Ask} (hs : s.MemWf) : (s.sendAsk q).MemWf := by
  unfold State.sendAsk
  dsimp only
  split
  · exact hs
  · exact .sendOn hs

theorem State.MemWf.ask {asker : Asker} {addr len : ℕ} {atomic : List ℕ} {release : Option ℕ} {acc : Acc}
    (hs : s.MemWf) :
    (s.ask asker addr len atomic release acc).MemWf := .sendAsk (.checkRoute hs)

theorem Core.MemWf.lostWrite {who part addr : ℕ} (hk : k.MemWf) : (k.lostWrite who part addr).MemWf := by
  unfold Core.lostWrite
  split
  · split
    · exact hk
    · exact hk
  split
  · exact hk
  · exact hk

theorem State.MemWf.loseWrite {o : OrderedWrite} (hs : s.MemWf) : (s.loseWrite o).MemWf := by
  unfold State.loseWrite
  dsimp only
  split
  · exact hs.postUndeliverable
  split
  · split
    · exact hs.postUndeliverable.modCore fun _ hk => hk.lostWrite
    · exact hs.postUndeliverable
  · exact hs.postUndeliverable

theorem State.MemWf.failover {m : ℕ} (hs : s.MemWf) : (s.failover m).MemWf := by
  unfold State.failover
  dsimp only
  split
  · exact hs.sendWrites
  · exact .foldl hs fun _ _ ht => ht.loseWrite

theorem State.MemWf.orderedWrite {m a : ℕ} {bytes : List Byte} {poison : Bool} {acc : Option Acc} {part : ℕ}
    (hs : s.MemWf) :
    (s.orderedWrite m a bytes poison acc part).MemWf := .failover (.checkRoute hs)

theorem State.MemWf.sendBody {m cls : ℕ} {lid : Option ℕ} {body : List Byte} (hs : s.MemWf) :
    (s.sendBody m cls lid body).MemWf := by
  unfold State.sendBody
  dsimp only
  split
  · exact hs.checkRoute.postUndeliverable
  · exact hs.checkRoute.sendOn

theorem State.MemWf.sendPacket {m cls kind : ℕ} {lid : Option ℕ} {args : List ℕ} {bs : List Byte} (hs : s.MemWf)
    :
    (s.sendPacket m cls kind lid args bs).MemWf := hs.sendBody

theorem State.MemWf.returnPacket {hop : ℕ} {payload : List Byte} (hs : s.MemWf) :
    (s.returnPacket hop payload).MemWf := hs.countUndel.sendPacket

theorem State.MemWf.returnParcel {q : Parcel} (hs : s.MemWf) : (s.returnParcel q).MemWf := by
  unfold State.returnParcel
  dsimp only
  split
  · exact hs.returnPacket
  · exact hs.countUndel.with_owrites
  · split
    · exact hs.countUndel.sendAsk
    · exact hs.countUndel
  · exact hs.countUndel.sendBody

theorem State.MemWf.failPort {port : ℕ} (hs : s.MemWf) : (s.failPort port).MemWf := hs

theorem State.MemWf.retirePort {port : ℕ} (hs : s.MemWf) : (s.retirePort port).MemWf := by
  unfold State.retirePort
  dsimp only
  split
  · exact hs
  · exact .foldl (hs.modPort.failPort.foldl fun _ _ ht => ht.returnParcel) fun _ _ ht => ht.failover

/-! ### The functions of Machine/Operands -/

theorem State.MemWf.sendData {lanes : OpIn → List Lane} (hs : s.MemWf) : NextWf (sendData h s lanes) :=
  hs.runOp fun _ => hs.finish

theorem State.MemWf.elem1 {g : Word → Word} (hs : s.MemWf) : NextWf (elem1 h g s) := hs.sendData

theorem State.MemWf.elem2 {g : Word → Word → Word} (hs : s.MemWf) : NextWf (elem2 h g s) := hs.sendData

theorem State.MemWf.elem3 {g : Word → Word → Word → Word} (hs : s.MemWf) : NextWf (elem3 h g s) := by
  unfold Machine.elem3
  split
  · exact hs.runOp fun _ => hs
  · exact hs.sendData

theorem State.MemWf.elemPred {g : Word → Word → Bool} (hs : s.MemWf) : NextWf (elemPred h g s) :=
  hs.runOp fun _ => hs.finish

/-! ### The functions of Machine/Race -/

theorem State.MemWf.setRec {l : Loc} {r : LineRec} (hs : s.MemWf) : (s.setRec l r).MemWf := by
  unfold State.setRec
  split
  · exact hs.modCore fun _ hk => hk
  · exact hs

theorem State.MemWf.recordAcc {l : Loc} {x : Acc} (hs : s.MemWf) : (s.recordAcc l x).MemWf := by
  unfold State.recordAcc
  dsimp only
  split
  · exact hs.setRec
  split
  · exact hs
  · exact hs.setRec

theorem State.MemWf.clearRecs {ls : List (Loc × ℕ)} (hs : s.MemWf) : (s.clearRecs ls).MemWf := by
  refine hs.foldl fun t q ht => ?_
  split
  · exact ht.with_memRecs
  · exact ht

theorem State.MemWf.raiseEpoch {a : Agent} (hs : s.MemWf) : (s.raiseEpoch a).1.MemWf := hs

theorem State.MemWf.raiseAcq {b a : Agent} {e : ℕ} (hs : s.MemWf) : (s.raiseAcq b a e).MemWf := by
  unfold State.raiseAcq
  split
  · exact hs
  · exact hs

theorem State.MemWf.raiseColl {b a : Agent} {e : ℕ} (hs : s.MemWf) : (s.raiseColl b a e).MemWf :=
  hs.raiseAcq.with_collAcq

theorem State.MemWf.markRelease {l : Loc} {r : Release} (hs : s.MemWf) : (s.markRelease l r).MemWf := hs.setRec

theorem State.MemWf.handOver {a b : Agent} (hs : s.MemWf) : (s.handOver a b).MemWf := hs.raiseEpoch.raiseAcq

theorem State.MemWf.cachePage {c va : ℕ} (hs : s.MemWf) : (s.cachePage c va).MemWf := by
  unfold State.cachePage
  split
  · split
    · exact hs
    split
    · exact hs.cacheTlb
    · exact hs
  · exact hs

theorem State.MemWf.recordIf {c : Prop} [Decidable c] {line : Loc} {a : Acc} (hs : s.MemWf) :
    (if c then s.recordAcc line a else s).MemWf :=
  .ite hs.recordAcc hs

theorem State.MemWf.noteAccess {use : Use} {va : ℕ} {ts : List (Target × ℕ)} (hs : s.MemWf) :
    (s.noteAccess o use va ts).MemWf := by
  refine hs.cachePage.foldl fun t q ht => ?_
  split
  · exact .modCore_same (.ite ht ht.recordAcc) fun _ => rfl
  · exact ht

theorem State.MemWf.noteFar {c va : ℕ} (hs : s.MemWf) : (s.noteFar c va).MemWf := by
  unfold State.noteFar
  dsimp only
  split
  · split
    · split
      · exact hs.checkRoute
      · exact hs
    · exact hs
  · exact hs

theorem State.MemWf.notePoisoned {c va : ℕ} (hs : s.MemWf) : (s.notePoisoned c va).MemWf := by
  unfold State.notePoisoned
  split
  · split
    · exact hs.postPoisonedWalk
    · exact hs
  · exact hs

theorem State.MemWf.askOne {asker : Asker} {acc : Acc} {atomic : List ℕ} {release : Option ℕ} {p : ℕ × ℕ}
    (hs : s.MemWf) :
    (s.askOne asker acc atomic release p).MemWf := by
  unfold State.askOne
  dsimp only
  split
  · exact hs.ask
  · exact hs.raiseEpoch.ask

theorem State.MemWf.askFor {asker : Asker} {acc : Acc} {atomic : List ℕ} {release : Option ℕ}
    {ps : List (ℕ × ℕ)} (hs : s.MemWf) :
    (s.askFor asker acc atomic release ps).MemWf := by
  unfold State.askFor
  refine hs.foldl fun _ _ ht => ?_
  split
  · exact ht
  · exact ht.askOne

theorem State.MemWf.holdFar {u : HUnit} (hs : s.MemWf) : (s.holdFar o u).MemWf := .hold hs

theorem State.MemWf.accFail {u : HUnit} {write : Bool} {lane : ℕ} {e : AccErr} (hs : s.MemWf) :
    (s.accFail o u write lane e).MemWf := by
  unfold State.accFail
  dsimp only
  split
  · split
    · exact hs.noteFar.trapOp
    · exact hs.noteFar.serviceFault.hold
  · exact hs.notePoisoned.postRec.trapOp
  · exact hs.trapOp
  · exact hs.askFor.holdFar
  · exact hs.trapOp

theorem State.MemWf.accTrap {write : Bool} {e : AccErr} (hs : s.MemWf) : (s.accTrap o write e).MemWf := by
  unfold State.accTrap
  dsimp only
  split
  · exact hs.noteFar.trapOp
  · exact hs.accFail

theorem State.MemWf.loadP {va n : ℕ} (hs : s.MemWf) : Gives (fun r => r.2.MemWf) (s.loadP o va n) := by
  unfold State.loadP
  split
  · trivial
  · exact hs.noteAccess

theorem State.MemWf.load {va n : ℕ} (hs : s.MemWf) : Gives (fun r => r.2.2.MemWf) (s.load o va n) := by
  unfold State.load
  split
  · trivial
  next he => exact hs.loadP.of_ok he

/-! ### The functions of Machine/Regs -/

theorem Core.MemWf.modNode {i : ℕ} {f : Node → Node} (hk : k.MemWf) : (k.modNode i f).MemWf := hk

theorem Core.MemWf.writeLow {c n v : ℕ} (hk : k.MemWf) : (k.writeLow c n v).MemWf := by
  unfold Core.writeLow
  dsimp only
  split
  · exact hk
  · exact hk
  · exact hk
  · exact hk
  · exact hk
  · exact hk
  · exact hk
  · exact hk
  · exact hk
  · exact hk
  · exact hk
  · exact hk
  · exact hk
  · exact hk
  · exact hk

theorem Core.MemWf.writeSr {c n v : ℕ} (hk : k.MemWf) : (k.writeSr c n v).MemWf := by
  unfold Core.writeSr
  split
  · exact hk.writeLow
  split
  · exact hk
  split
  · exact hk
  split
  · exact hk
  split
  · exact hk
  split
  · exact hk
  split
  · exact hk
  · exact hk

/-! ### The functions of Machine/World -/

theorem State.MemWf.modStore {p id : ℕ} {f : Store → Store} (hs : s.MemWf) : (s.modStore p id f).MemWf := hs

theorem State.MemWf.bindStore {c id : ℕ} (hs : s.MemWf) : (s.bindStore c id).MemWf := by
  unfold State.bindStore
  dsimp only
  split
  · exact hs
  · exact hs.with_mem (Memory.wf_memWrite _ _ _ hs.wf_mem)

theorem State.MemWf.unbindStore {t : Store} (hs : s.MemWf) : (s.unbindStore t).MemWf :=
  hs.with_mem (Memory.wf_memSet _ _ _ hs.wf_mem)

theorem State.MemWf.writeCamera {c bv : ℕ} {b : List Byte} (hs : s.MemWf) :
    Gives State.MemWf (s.writeCamera c bv b) := by
  unfold State.writeCamera
  dsimp only
  split
  · trivial
  split
  · trivial
  split
  · trivial
  · exact hs.bindStore.modCore fun _ hk => hk

theorem State.MemWf.bumpCamera {c bv which n : ℕ} (hs : s.MemWf) : (s.bumpCamera c bv which n).MemWf := by
  unfold State.bumpCamera
  split
  · exact hs
  · exact hs.modCore fun _ hk => hk

theorem State.MemWf.bufferWrite {t : Store} {w : SWrite} (hs : s.MemWf) : (s.bufferWrite t w).MemWf := by
  unfold State.bufferWrite
  split
  · exact hs.modStore
  · exact hs.modStore
  · exact .modStore (hs.with_mem (List.foldlRecOn (motive := fun m => Memory.wf m = true) _ _
      (Memory.wf_memWrite _ _ _ hs.wf_mem) fun m hm _ _ => Memory.wf_memWrite m _ _ hm))

theorem State.MemWf.closeCell {t : Store} {g : List SWrite} (hs : s.MemWf) : (s.closeCell t g).MemWf := by
  unfold State.closeCell
  split
  · exact hs
  split
  · exact hs.modStore
  split
  · refine .foldl ?_ fun _ _ ht => ht.bumpCamera
    split
    · exact hs.with_mem (Memory.wf_memWrite _ _ _ hs.wf_mem)
    · exact hs
  · exact hs

theorem State.MemWf.writeBack {p id : ℕ} (hs : s.MemWf) : (s.writeBack p id).MemWf := by
  unfold State.writeBack
  split
  · exact hs
  · have hm : ∀ m a bs, Memory.wf m = true → Memory.wf (memWrite m a bs) = true := Memory.wf_memWrite
    exact .modStore (hs.with_mem (hm _ _ _ (hm _ _ _ (hm _ _ _ hs.wf_mem))))

theorem State.MemWf.closeStep {t : Store} (hs : s.MemWf) : (s.closeStep t).MemWf :=
  .writeBack (.modStore (hs.foldl fun _ _ ht1 => ht1.closeCell))

/-! ### The functions of Machine/Tiles -/

theorem State.MemWf.releaseAll {s : State} {l : List Agent} (hs : s.MemWf) : (s.releaseAll l).1.MemWf := by
  unfold State.releaseAll
  dsimp only
  split
  · exact hs
  · exact hs.raiseEpoch.releaseAll

theorem State.MemWf.acquireAll {b : Agent} {rels : List (Agent × ℕ)} (hs : s.MemWf) :
    (s.acquireAll b rels).MemWf := hs.foldl fun _ _ ht => ht.raiseAcq

theorem State.MemWf.tileDone {c i : ℕ} (hs : s.MemWf) : (s.tileDone c i).MemWf := by
  unfold State.tileDone
  dsimp only
  split
  · exact hs.releaseAll.modCore fun _ hk => hk
  · exact hs

theorem State.MemWf.countLine {a : Agent} {addr : ℕ} {write : Bool} (hs : s.MemWf) :
    (s.countLine c a addr write).MemWf := hs.foldl fun _ _ ht => .tileDone (ht.modCore fun _ hk => hk)

theorem State.MemWf.tileAcquire {a : Agent} {addr : ℕ} (hs : s.MemWf) : (s.tileAcquire c a addr).MemWf :=
  hs.foldl fun _ _ ht => ht.acquireAll

theorem State.MemWf.transport {acc : Option Acc} {g : Seg} {part : ℕ} (hs : s.MemWf) :
    (s.transport acc g part).MemWf := by
  unfold State.transport
  split
  · split
    · exact hs
    · exact hs.orderedWrite
  · exact hs

theorem State.MemWf.performWrite {acc : Option Acc} {g : Seg} {part : optParam ℕ 0} (hs : s.MemWf) :
    (s.performWrite acc g part).MemWf := by
  unfold State.performWrite
  dsimp only
  split
  · split
    · exact hs.performSeg.transport.modCore fun _ hk => hk
    · exact hs.performSeg.transport
  · exact hs.performSeg.transport

theorem State.MemWf.acquireTargets {a : Agent} {ts : List (Target × ℕ)} (hs : s.MemWf) :
    (s.acquireTargets c a ts).MemWf := by
  refine hs.foldl fun t q ht => ?_
  split
  · exact .ite ht.tileAcquire ht
  · exact ht

theorem State.MemWf.writeNow {counted : Bool} {va : ℕ} {ts : List (Target × ℕ)} {bs : List PByte} (hs : s.MemWf)
    :
    (s.writeNow o counted va ts bs).MemWf := by
  refine .foldl (.foldl (State.MemWf.cachePage (.ite hs.acquireTargets hs)) fun _ _ ht =>
      ht.performWrite) fun t q ht => ?_
  have hacc : ∀ (c d : Prop) [Decidable c] [Decidable d] line a f,
      (if c then (if d then t.recordAcc line a else t).modCore o.c fun k => k.modInst o.f.iid f
        else if d then t.recordAcc line a else t).MemWf := fun _ _ _ _ _ _ _ =>
    .ite (ht.recordIf.modCore_same fun _ => rfl) ht.recordIf
  dsimp only
  split
  · exact .ite (hacc ..).countLine (hacc ..)
  · exact hacc ..

theorem State.MemWf.carderOp {accesses : Bool} {g : OpIn → State} (hs : s.MemWf) (hg : ∀ o, (g o).MemWf) :
    NextWf (carderOp s accesses g) := by
  unfold Machine.carderOp
  refine hs.runOp fun _ => ?_
  split
  · exact hs.hold
  split
  · exact hs.hold
  · exact hg _

theorem State.MemWf.illegalAt {value rule lane : ℕ} (hs : s.MemWf) : (s.illegalAt o value rule lane).MemWf :=
  hs.trapOp

theorem State.MemWf.finishM {v : Word} (hs : s.MemWf) : (s.finishM o h v).MemWf := hs.finish

theorem State.MemWf.finishL {v : Word} (hs : s.MemWf) : (s.finishL o h v).MemWf := hs.finish

/-! ### The functions of Machine/Carder -/

theorem State.MemWf.loadLanes {s0 : State} {o : OpIn} {n : ℕ} {ext : List Byte → Word} {n1 : ℕ} {l : List ℕ}
    {t : State} (hs0 : s0.MemWf) (ht : t.MemWf) :
    GivesOr (fun r => r.2.MemWf) (s0.loadLanes o n ext n1 l t) := by
  unfold State.loadLanes
  split
  · exact ht
  split
  · exact hs0.accFail
  next he =>
    split
    next he1 => exact (hs0.loadLanes (ht.load.of_ok he)).of_error he1
    next he1 => exact ((hs0.loadLanes (ht.load.of_ok he)).of_ok he1 : State.MemWf _)

theorem State.MemWf.loadForm {n : ℕ} {ext : List Byte → Word} {addrLanes : List Lane} {addrs : List ℕ}
    (hs : s.MemWf) :
    (s.loadForm o h n ext addrLanes addrs).MemWf := by
  unfold State.loadForm
  split
  · exact hs.poisonTrap
  split
  · exact hs.illegalAt
  split
  next he1 => exact (hs.loadLanes hs).of_error he1
  next he1 =>
    split
    · exact hs.tagTrap
    · exact .finish ((hs.loadLanes hs).of_ok he1)

theorem State.MemWf.execLd {ty : LdTy} (hs : s.MemWf) : NextWf (execLd h ty s) := by
  unfold Machine.execLd
  refine hs.carderOp fun _ => ?_
  split
  · exact hs.loadForm
  split
  · exact hs.illegalAt
  · exact hs.loadForm

theorem State.MemWf.execLdv {sh : BitVec 3} {high : BitVec 24} (hs : s.MemWf) : NextWf (execLdv h sh high s) := by
  unfold Machine.execLdv
  dsimp only
  refine hs.carderOp fun _ => ?_
  split
  · exact hs.loadForm
  · exact hs.loadForm

theorem State.MemWf.storeLanes {s : State} {o : OpIn} {n n1 : ℕ} {l : List ℕ} (hs : s.MemWf) :
    GivesOr (fun _ => True) (s.storeLanes o n n1 l) := by
  unfold State.storeLanes
  split
  · trivial
  split
  · exact hs.accFail
  split
  next he1 => exact hs.storeLanes.of_error he1
  · trivial

theorem State.MemWf.noteStores {l : List (ℕ × List (Target × ℕ))} (hs : s.MemWf) : (s.noteStores o l).MemWf :=
  hs.foldl fun _ _ ht => ht.noteAccess

theorem State.MemWf.storeForm {n : ℕ} {addrs : List ℕ} (hs : s.MemWf) : (s.storeForm o h n addrs).MemWf := by
  unfold State.storeForm
  dsimp only
  split
  · exact hs.illegal
  split
  · exact hs.poisonTrap
  split
  · exact hs.illegalAt
  split
  next he1 => exact hs.storeLanes.of_error he1
  split
  · exact hs.poisonTrap
  split
  · exact hs.tagTrap
  · exact hs.noteStores.atCommit.finishM

theorem State.MemWf.execSt {ty : StTy} (hs : s.MemWf) : NextWf (execSt h ty s) :=
  hs.carderOp fun _ => hs.storeForm

theorem State.MemWf.execStv {high : BitVec 24} (hs : s.MemWf) : NextWf (execStv h high s) :=
  hs.carderOp fun _ => hs.storeForm

theorem State.MemWf.reachPort (hs : s.MemWf) : (s.reachPort o).1.MemWf := by
  unfold State.reachPort
  split
  · exact hs
  · exact hs

theorem State.MemWf.noteAtomic {t : Target} {d : Order} (hs : s.MemWf) : (s.noteAtomic o t d).MemWf := by
  have h2 : ∀ (c d : Prop) [Decidable c] [Decidable d] a line x,
      (if d then (if c then (s.raiseEpoch a).1 else s).recordAcc line x else if c then
          (s.raiseEpoch a).1 else s).MemWf :=
    fun _ _ _ _ _ _ _ => .recordIf (.ite hs.raiseEpoch hs)
  refine .ite_modCore_same ?_ fun _ => rfl
  dsimp only
  cases d.release with
  | none =>
    split
    · exact .ite (h2 ..).raiseAcq (h2 ..)
    · exact h2 ..
  | some r =>
    split
    · exact .ite (.raiseAcq (.ite (h2 ..).markRelease (h2 ..))) (.ite (h2 ..).markRelease (h2 ..))
    · exact .ite (h2 ..).markRelease (h2 ..)

theorem State.MemWf.rmw {t : Target} {d : Order} {old : Lane} {upd : Word → Word} (hs : s.MemWf) :
    (s.rmw o t d old upd).2.MemWf := hs.noteAtomic.writeLoc

theorem State.MemWf.atomLanes {o : OpIn} {d : Order} {upd : ℕ → Word → Word} {ask : AtomAsk} {n : ℕ}
    {l : List Target} {x : FarRun} {t : State} (ht : t.MemWf) :
    (State.atomLanes o d upd ask n l x t).st.MemWf := by
  unfold State.atomLanes
  dsimp only
  split
  · exact ht
  split
  · exact ht
  · exact ht.rmw.atomLanes
  split
  · exact ht.rmw.atomLanes
  · exact ht
  · exact ht

theorem State.MemWf.atomPlaces {s : State} {o : OpIn} {n : ℕ} {l : List ℕ} (hs : s.MemWf) :
    GivesOr (fun _ => True) (s.atomPlaces o n l) := by
  induction l generalizing n with
  | nil => trivial
  | cons va rest ih =>
    unfold State.atomPlaces
    split
    · exact hs.accFail
    · exact hs.accFail
    split
    · exact ih.of_error ‹_›
    · trivial
    · trivial

theorem State.MemWf.atomPerform {d : Order} {ts : List Target} {upd : ℕ → Word → Word} {res : AtomResult}
    {ask : AtomAsk} (hs : s.MemWf) :
    (s.atomPerform o h d ts upd res ask).MemWf := by
  unfold State.atomPerform
  dsimp only
  split
  · exact hs.atomLanes.finish
  · exact .accFail (hs.atomLanes.modCore fun _ hk => hk.sendTo.sendTo)

theorem State.MemWf.atomForm {ord : MemOrd} {scope : ℕ} {addrs : List ℕ} {operands : List Lane}
    {upd : ℕ → Word → Word} {res : AtomResult} {ask : AtomAsk} (hs : s.MemWf) :
    (s.atomForm o h ord scope addrs operands upd res ask).MemWf := by
  unfold State.atomForm
  split
  · exact hs.illegal
  split
  · exact hs.illegal
  split
  · exact hs.poisonTrap
  split
  · exact hs.poisonTrap
  split
  · exact hs.illegalAt
  split
  · exact hs.atomPlaces.of_error ‹_›
  refine .ite hs.tagTrap (.ite hs.accFail (.ite hs.hold (.ite hs.hold (.ite hs.reachPort.hold ?_))))
  split
  · exact hs.reachPort.hold
  · exact .atomPerform (hs.reachPort.foldl fun _ _ ht => ht.cachePage)

theorem State.MemWf.execAtom {opc : AtomOp} {ord : MemOrd} {scope : BitVec 3} {g : BitVec 1} {hi : BitVec 16}
    (hs : s.MemWf) :
    NextWf (execAtom h opc ord scope g hi s) := hs.carderOp fun _ => hs.atomForm

theorem State.MemWf.execCas {ord : MemOrd} {scope : BitVec 3} {g : BitVec 1} {hi : BitVec 16} (hs : s.MemWf) :
    NextWf (execCas h ord scope g hi s) := by
  unfold Machine.execCas
  dsimp only
  split
  · exact hs.runOp fun _ => hs
  · exact hs.carderOp fun _ => hs.atomForm

theorem State.MemWf.lockLanes {o : OpIn} {n : ℕ} {l : List Target} {t : State} (ht : t.MemWf) :
    (State.lockLanes o n l t).1.st.MemWf := by
  unfold State.lockLanes
  dsimp only
  split
  · exact ht
  split
  · exact ht
  split
  · exact ht
  · exact .lockLanes (.rmw (ht.modCore fun _ hk => hk))

theorem State.MemWf.lockForm (hs : s.MemWf) : (s.lockForm o h).MemWf := by
  unfold State.lockForm
  dsimp only
  split
  · exact hs.poisonTrap
  split
  · exact hs.illegalAt
  split
  next he1 => exact hs.atomPlaces.of_error he1
  split
  · exact hs.tagTrap
  split
  · exact .accFail (hs.lockLanes.modCore fun _ hk => hk.sendTo.sendTo)
  · exact .hold (.reachPort (hs.lockLanes.modCore fun _ hk => hk.sendTo.sendTo))
  · exact hs.lockLanes.finish

theorem State.MemWf.execLdlk (hs : s.MemWf) : NextWf (execLdlk h s) := hs.carderOp fun _ => hs.lockForm

theorem State.MemWf.unlockLanes {s : State} {o : OpIn} {n : ℕ} {l : List ℕ} (hs : s.MemWf) :
    GivesOr (fun _ => True) (s.unlockLanes o n l) := by
  unfold State.unlockLanes
  split
  · trivial
  split
  · exact hs.accFail
  · exact hs.accFail
  split
  · exact hs.accFail
  split
  next he2 => exact hs.unlockLanes.of_error he2
  · trivial

theorem State.MemWf.execStul (hs : s.MemWf) : NextWf (execStul h s) := by
  unfold Machine.execStul
  dsimp only
  refine hs.carderOp fun _ => ?_
  split
  · exact hs.illegal
  split
  · exact hs.poisonTrap
  split
  · exact hs.illegalAt
  split
  next he1 => exact hs.unlockLanes.of_error he1
  split
  · exact hs.tagTrap
  · exact .finishM (.foldl (.atCommit (hs.foldl fun _ _ ht => ht.modCore fun _ hk => hk)) fun _ _ ht =>
      ht.atCommit)

theorem State.MemWf.execFence {kind : FenceKind} {scope : BitVec 3} (hs : s.MemWf) :
    NextWf (execFence h kind scope s) := by
  unfold Machine.execFence
  dsimp only
  refine hs.carderOp fun _ => ?_
  split
  · exact hs.illegal
  split
  · split
    · exact hs.hold
    split
    · exact hs.tagTrap
    refine .finishM ?_
    split
    · exact hs
    refine hs.foldl fun _ _ ht => ?_
    split
    · split
      · exact ht.raiseAcq
      · exact ht
    · exact ht
  split
  · exact hs.hold
  split
  · exact hs.tagTrap
  refine .finishM ?_
  split
  · exact hs
  refine hs.foldl fun _ _ ht => ?_
  split
  · split
    · exact ht.raiseAcq
    · exact ht
  · exact ht

theorem State.MemWf.execPref (hs : s.MemWf) : NextWf (execPref h s) :=
  hs.carderOp fun _ => .finishM (hs.foldl fun _ _ ht => ht.cachePage)

theorem State.MemWf.tstateOp {ev : ℕ} (hs : s.MemWf) : NextWf (tstateOp h ev s) := by
  unfold Machine.tstateOp
  dsimp only
  refine hs.carderOp fun _ => ?_
  split
  · exact hs.hold
  split
  · exact hs.illegal
  split
  · exact hs.illegal
  split
  · exact hs.tagTrap
  refine .finishM ?_
  refine .modCore ?_ fun _ hk => hk
  split
  · exact hs.releaseAll
  · exact hs

theorem State.MemWf.execTstateFill (hs : s.MemWf) : NextWf (execTstateFill h s) := hs.tstateOp

theorem State.MemWf.execTstatePublish (hs : s.MemWf) : NextWf (execTstatePublish h s) := hs.tstateOp

theorem State.MemWf.execTstateDrain (hs : s.MemWf) : NextWf (execTstateDrain h s) := hs.tstateOp

theorem State.MemWf.execTstateRelease (hs : s.MemWf) : NextWf (execTstateRelease h s) := hs.tstateOp

theorem State.MemWf.execTwait (hs : s.MemWf) : NextWf (execTwait h s) := by
  unfold Machine.execTwait
  dsimp only
  refine hs.runOp fun _ => ?_
  split
  · exact hs.hold
  split
  · exact hs.illegal
  split
  · exact hs.hold
  refine .finishM ?_
  split
  · exact hs.acquireAll
  · exact hs

theorem State.MemWf.readBlock {u : HUnit} {va n : ℕ} (hs : s.MemWf) :
    GivesOr (fun r => r.2.MemWf) (s.readBlock o u va n) := by
  unfold State.readBlock
  split
  · exact hs.accFail
  next he =>
    split
    · exact hs.poisonTrap
    · exact hs.load.of_ok he

theorem State.MemWf.execSopen {node : BitVec 4} (hs : s.MemWf) : NextWf (execSopen h node s) := by
  unfold Machine.execSopen
  dsimp only
  refine hs.carderOp fun _ => ?_
  split
  · exact hs.hold
  split
  · exact hs.poisonTrap
  split
  · exact hs.illegal
  split
  next he => exact hs.readBlock.of_error he
  next he =>
    split
    · exact hs.illegal
    split
    · exact hs.illegal
    split
    · exact hs.tagTrap
    · exact .finishM (.modCore (hs.readBlock.of_ok he) fun _ hk => hk)

theorem State.MemWf.execSclose {node : BitVec 4} (hs : s.MemWf) : NextWf (execSclose h node s) := by
  unfold Machine.execSclose
  dsimp only
  refine hs.carderOp fun _ => ?_
  split
  · exact hs.hold
  split
  · exact hs.tagTrap
  split
  · exact hs.finishM
  refine .finishM ?_
  refine .modCore ?_ fun _ hk => hk
  split
  · exact hs.withdrawFault
  · exact hs

theorem State.MemWf.rowForm {tile desc rowoff state : ℕ} {go : State → ℕ → List (ℕ × ℕ) → State} (hs : s.MemWf)
    (hgo : ∀ t n l, State.MemWf t → (go t n l).MemWf) :
    (s.rowForm o h tile desc rowoff state go).MemWf := by
  unfold State.rowForm
  dsimp only
  split
  · exact hs.illegal
  split
  · exact hs.poisonTrap
  split
  · exact hs.hold
  split
  next he => exact hs.readBlock.of_error he
  next he =>
    split
    · exact hs.illegal
    split
    · exact hs.illegalAt
    split
    · exact hs.tagTrap
    · exact hgo _ _ _ (hs.readBlock.of_ok he)

theorem State.MemWf.readRows {s0 : State} {o : OpIn} {rb n : ℕ} {l : List ℕ} {t : State} (hs0 : s0.MemWf)
    (ht : t.MemWf) :
    GivesOr (fun r => r.2.MemWf) (s0.readRows o rb n l t) := by
  unfold State.readRows
  split
  · exact ht
  split
  · exact hs0.accFail
  next he =>
    split
    next he1 => exact (hs0.readRows (ht.loadP.of_ok he)).of_error he1
    next he1 => exact ((hs0.readRows (ht.loadP.of_ok he)).of_ok he1 : State.MemWf _)

theorem State.MemWf.writeRows {s0 : State} {o : OpIn} {n : ℕ} {l : List (ℕ × List PByte)} {t : State}
    (hs0 : s0.MemWf) (ht : t.MemWf) :
    GivesOr State.MemWf (s0.writeRows o n l t) := by
  unfold State.writeRows
  split
  · exact ht
  split
  · exact hs0.accFail
  · exact hs0.writeRows ht.writeNow

theorem State.MemWf.execGrows {tile : BitVec 8} {desc rowoff : BitVec 12} (hs : s.MemWf) :
    NextWf (execGrows h tile desc rowoff s) := by
  unfold Machine.execGrows
  refine hs.carderOp fun _ => ?_
  refine hs.rowForm fun _ _ _ hs1 => ?_
  split
  next he => exact (hs.readRows hs1).of_error he
  next he =>
    split
    next he1 => exact (hs.writeRows ((hs.readRows hs1).of_ok he)).of_error he1
    next he1 => exact .finishM ((hs.writeRows ((hs.readRows hs1).of_ok he)).of_ok he1)

theorem State.MemWf.execScat {tile : BitVec 8} {desc rowoff : BitVec 12} (hs : s.MemWf) :
    NextWf (execScat h tile desc rowoff s) := by
  unfold Machine.execScat
  dsimp only
  refine hs.carderOp fun _ => ?_
  split
  · exact hs.illegal
  refine hs.rowForm fun _ _ _ hs1 => ?_
  split
  next he => exact (hs.readRows hs1.acquireAll).of_error he
  next he =>
    split
    next he1 => exact hs.storeLanes.of_error he1
    split
    · exact hs.poisonTrap
    · exact .finishM (.atCommit (.noteStores ((hs.readRows hs1.acquireAll).of_ok he)))

theorem State.MemWf.execCwalk {first cnt : BitVec 5} (hs : s.MemWf) : NextWf (execCwalk h first cnt s) := by
  unfold Machine.execCwalk
  dsimp only
  refine hs.carderOp fun _ => ?_
  split
  · exact hs.poisonTrap
  split
  · exact hs.illegal
  split
  · exact hs.illegal
  split
  next he => exact (hs.loadLanes hs).of_error he
  next he =>
    split
    · exact hs.tagTrap
    · exact .finish ((hs.loadLanes hs).of_ok he)

/-! ### The functions of Machine/Seq -/

theorem Core.MemWf.nameSuccessor {colour block : ℕ} {t : Tag} (hk : k.MemWf) :
    (k.nameSuccessor colour block t).MemWf := by
  unfold Core.nameSuccessor
  dsimp only
  split
  · split
    · exact hk
    · exact hk.nameInstance
  split
  · exact hk
  · exact hk.nameInstance

theorem State.MemWf.asBranch {next : Option ℕ} {act : State → State} (hs : s.MemWf)
    (hact : ∀ t, State.MemWf t → (act t).MemWf) :
    (s.asBranch o h next act).MemWf := by
  unfold State.asBranch
  dsimp only
  split
  · split
    · exact hs.finishN
    · exact hs.illegal
  split
  · exact hs.illegal
  split
  · exact hs.tagTrap
  refine .finishN ?_
  refine .modCore (hact _ hs) fun _ hk => ?_
  refine .modInst ?_
  split
  · exact hk.nameSuccessor
  · exact hk

theorem State.MemWf.execBra {d : BitVec 32} (hs : s.MemWf) : NextWf (execBra h d s) := by
  unfold Machine.execBra
  dsimp only
  refine hs.runOp fun _ => ?_
  split
  · exact hs.asBranch fun _ ha => ha
  split
  · exact hs.poisonTrap
  · exact hs.asBranch fun _ ha => ha

theorem State.MemWf.execBri (hs : s.MemWf) : NextWf (execBri h s) := by
  unfold Machine.execBri
  refine hs.runOp fun _ => ?_
  split
  · exact hs.poisonTrap
  · exact hs.asBranch fun _ ha => ha

theorem State.MemWf.execCallb {dc dr : BitVec 16} (hs : s.MemWf) : NextWf (execCallb h dc dr s) := by
  unfold Machine.execCallb
  dsimp only
  refine hs.runOp fun _ => ?_
  split
  · exact hs.poisonTrap
  split
  · exact hs.illegal
  split
  · exact hs.hold
  split
  · exact hs.accTrap
  · exact hs.asBranch fun _ ht => ht.noteAccess.atCommit

theorem State.MemWf.execRetb (hs : s.MemWf) : NextWf (execRetb h s) := by
  unfold Machine.execRetb
  dsimp only
  refine hs.runOp fun _ => ?_
  split
  · exact hs.hold
  split
  · exact hs.hold
  split
  · exact hs.illegal
  split
  · exact hs.accTrap
  next he =>
    split
    · exact hs.poisonTrap
    · exact .asBranch (hs.load.of_ok he) fun _ ht => ht.atCommit

theorem State.MemWf.execSpawn {ds : BitVec 16} (hs : s.MemWf) : NextWf (execSpawn h ds s) := by
  unfold Machine.execSpawn
  dsimp only
  refine hs.runOp fun _ => ?_
  split
  · exact hs.hold
  split
  · exact hs.accTrap
  split
  · exact hs.illegal
  split
  · exact hs.illegal
  split
  · exact hs.tagTrap
  · exact hs.hold

theorem State.MemWf.grantSpawn {ds : BitVec 16} {narg : ℕ} (hs : s.MemWf) : (s.grantSpawn o h ds narg).MemWf := by
  unfold State.grantSpawn
  dsimp only
  split
  · exact hs.finish
  · exact .hold (.handOver (hs.modCore fun _ hk => .sendTo (.foldl (.nameInstance hk) fun _ _ ht => ht)))

theorem State.MemWf.takeHeld {c n : ℕ} (hs : s.MemWf) : (s.takeHeld c n).MemWf := hs.modCore fun _ hk => hk

theorem State.MemWf.completeAt {c n : ℕ} {hd : Held} {v : Word} {fin : State → OpIn → State} (hs : s.MemWf)
    (hfin : ∀ t o, State.MemWf t → (fin t o).MemWf) :
    (s.completeAt c n hd v fin).MemWf := by
  unfold State.completeAt
  dsimp only
  split
  · exact hs.takeHeld
  split
  · exact hs.takeHeld.modCore fun _ hk => hk
  split
  · exact hs.takeHeld.illegal
  · exact hfin _ _ hs.takeHeld

theorem State.MemWf.execSpawnGrant {core : ℕ} (hs : s.MemWf) : NextWf (execSpawnGrant core s) := by
  unfold Machine.execSpawnGrant
  split
  · exact hs
  split
  · split
    · exact hs.takeHeld.grantSpawn
    · exact hs
  · exact hs

theorem State.MemWf.execSret (hs : s.MemWf) : NextWf (execSret h s) := by
  unfold Machine.execSret
  refine hs.runOp fun _ => ?_
  split
  · exact hs.illegal
  · exact hs.asBranch fun _ ht => ht.atCommit

theorem State.MemWf.execColourRelease {core colour : ℕ} (hs : s.MemWf) :
    NextWf (execColourRelease core colour s) := by
  unfold Machine.execColourRelease
  dsimp only
  split
  · split
    · exact hs.setCore (hs.core _)
    · exact hs
  split
  · exact hs.setCore (hs.core _)
  · exact hs

theorem State.MemWf.sendTagged {t : Tag} {base : ℕ} (hs : s.MemWf) : (s.sendTagged o t base).MemWf := by
  unfold State.sendTagged
  dsimp only
  refine .retireOp ?_
  refine hs.modCore fun _ hk => ?_
  split
  · exact hk.foldl fun _ _ ht1 => ht1.sendPiece.sendPiece
  · exact hk.sendPiece.sendPiece

theorem State.MemWf.overflowTrap {detail : ℕ} (hs : s.MemWf) : (s.overflowTrap o detail).MemWf := hs.trapOp

theorem State.MemWf.tagenterGo {shape : List ℕ} {w : ℕ} {t : Tag} (hs : s.MemWf) :
    (execTagenter.go h s o shape w t).MemWf := by
  unfold execTagenter.go
  dsimp only
  split
  · exact hs.overflowTrap
  · exact .sendTagged (hs.modCore_same fun _ => rfl)

theorem State.MemWf.execTagenter {width : BitVec 5} (hs : s.MemWf) : NextWf (execTagenter h width s) := by
  unfold Machine.execTagenter
  refine hs.runOp fun _ => .ite hs.overflowTrap ?_
  split
  · exact .ite hs.illegal hs.tagenterGo
  · exact hs.tagenterGo

theorem State.MemWf.execTagleave (hs : s.MemWf) : NextWf (execTagleave h s) := by
  unfold Machine.execTagleave
  dsimp only
  refine hs.runOp fun _ => ?_
  split
  · exact hs.overflowTrap
  split
  · exact hs.overflowTrap
  · exact hs.sendTagged

theorem State.MemWf.unspill {c q : ℕ} (hs : s.MemWf) : (s.unspill c q).1.MemWf := by
  unfold State.unspill
  dsimp only
  split
  · exact hs
  split
  · exact hs
  · exact hs.modCore fun _ hk => hk

theorem State.MemWf.pushQueue {c q : ℕ} {e : QEntry} (hs : s.MemWf) : Gives State.MemWf (s.pushQueue c q e) := by
  unfold State.pushQueue
  dsimp only
  split
  · exact hs.modCore fun _ hk => hk
  split
  · trivial
  · exact .modCore (hs.foldl fun _ _ ht => ht.performWrite) fun _ hk => hk

theorem Core.MemWf.taken {n : Option ℕ} (hk : k.MemWf) : (k.taken n).MemWf := by
  unfold Core.taken
  split
  · exact hk
  · exact hk

theorem State.MemWf.takeBad {n : ℕ} {t : Trap} (hs : s.MemWf) : (s.takeBad o n t).MemWf := by
  unfold State.takeBad
  dsimp only
  refine .raise ?_
  split
  · exact .postRec (hs.modCore fun _ hk => hk)
  · exact hs.modCore fun _ hk => hk

theorem State.MemWf.popQueue {q : ℕ} (hs : s.MemWf) : (s.popQueue o h q).MemWf := by
  unfold State.popQueue
  dsimp only
  split
  · exact hs.hold
  split
  · exact hs.accTrap
  · split
    · exact hs.takeBad
    · exact hs.hold
  split
  · split
    · exact hs.tagTrap
    refine .finish ?_
    refine .unspill ?_
    split
    · exact .raiseAcq (hs.unspill.modCore fun _ hk => .taken hk)
    · exact hs.unspill.modCore fun _ hk => .taken hk
  split
  · exact hs.tagTrap
  refine .finish ?_
  refine .unspill ?_
  split
  · exact .raiseAcq (hs.modCore fun _ hk => .taken hk)
  · exact hs.modCore fun _ hk => .taken hk

theorem State.MemWf.execRead {reg : BitVec 5} (hs : s.MemWf) : NextWf (execRead h reg s) := by
  unfold Machine.execRead
  dsimp only
  refine hs.runOp fun _ => ?_
  split
  · exact hs.hold
  split
  · exact hs.popQueue
  · exact hs.finish

theorem State.MemWf.execWrite {reg : BitVec 5} (hs : s.MemWf) : NextWf (execWrite h reg s) := by
  unfold Machine.execWrite
  dsimp only
  refine hs.runOp fun _ => ?_
  split
  · exact hs.illegal
  split
  · exact hs.illegal
  split
  · exact hs.illegal
  · exact hs.atCommit.finishN

theorem State.MemWf.execMfsr {num : BitVec 16} (hs : s.MemWf) : NextWf (execMfsr h num s) := by
  unfold Machine.execMfsr
  dsimp only
  refine hs.runOp fun _ => ?_
  split
  · exact hs.hold
  · exact hs.finish

theorem State.MemWf.execMtsr {num : BitVec 16} (hs : s.MemWf) : NextWf (execMtsr h num s) := by
  unfold Machine.execMtsr
  dsimp only
  refine hs.runOp fun _ => ?_
  split
  · exact hs.illegal
  split
  · exact hs.poisonTrap
  split
  · exact hs.trapOp
  split
  · exact hs.illegal
  · exact hs.atCommit.finishN

theorem State.MemWf.execPhase (hs : s.MemWf) : NextWf (execPhase h s) := by
  unfold Machine.execPhase
  refine hs.runOp fun _ => ?_
  split
  · exact hs.finishC
  split
  · exact hs.tagTrap
  · exact hs.hold

theorem State.MemWf.execJoin (hs : s.MemWf) : NextWf (execJoin h s) := hs.elem2

theorem State.MemWf.execRep {_n : BitVec 8} {_stride : BitVec 4} (hs : s.MemWf) :
    NextWf (execRep h _n _stride s) := hs.runOp fun _ => hs.finishN

theorem State.MemWf.execShadv (hs : s.MemWf) : NextWf (execShadv h s) := by
  unfold Machine.execShadv
  dsimp only
  refine hs.runOp fun _ => ?_
  split
  · exact hs.hold
  split
  · exact hs.tagTrap
  · exact .finishC (.handOver (hs.modCore fun _ hk => hk))

theorem State.MemWf.execBobinit {slots : BitVec 8} {bob : BitVec 4} (hs : s.MemWf) :
    NextWf (execBobinit h slots bob s) := by
  unfold Machine.execBobinit
  dsimp only
  refine hs.runOp fun _ => ?_
  split
  · exact hs.illegal
  split
  · exact hs.tagTrap
  · exact .finishC (hs.modCore fun _ hk => hk)

theorem State.MemWf.execBobwait {n : BitVec 8} {bob : BitVec 4} (hs : s.MemWf) : NextWf (execBobwait h n bob s) := by
  unfold Machine.execBobwait
  dsimp only
  refine hs.runOp fun _ => ?_
  split
  · exact hs.hold
  · exact .finishC (hs.foldl fun _ _ ht => ht.raiseAcq)

theorem State.MemWf.execBobrel {count : BitVec 8} {bob : BitVec 4} (hs : s.MemWf) :
    NextWf (execBobrel h count bob s) := by
  unfold Machine.execBobrel
  dsimp only
  refine hs.runOp fun _ => ?_
  split
  · exact hs.hold
  split
  · exact hs.illegal
  split
  · exact hs.tagTrap
  · exact .finishC (hs.raiseEpoch.modCore fun _ hk => hk)

theorem State.MemWf.execSyscall {code : BitVec 16} (hs : s.MemWf) : NextWf (execSyscall h code s) := by
  unfold Machine.execSyscall
  refine hs.runOp fun _ => ?_
  split
  · exact hs.finish
  · exact hs.trapOp

theorem State.MemWf.execBrk {code : BitVec 16} (hs : s.MemWf) : NextWf (execBrk h code s) := by
  unfold Machine.execBrk
  dsimp only
  refine hs.runOp fun _ => ?_
  split
  · exact hs.finishC
  · exact hs.trapOp

theorem State.MemWf.execTrapif (hs : s.MemWf) : NextWf (execTrapif h s) := by
  unfold Machine.execTrapif
  dsimp only
  refine hs.runOp fun _ => ?_
  split
  · exact hs.finish
  split
  · exact hs.poisonTrap
  split
  · exact hs.trapOp
  · exact hs.finish

theorem State.MemWf.execEret (hs : s.MemWf) : NextWf (execEret h s) := by
  unfold Machine.execEret
  refine hs.runOp fun _ => ?_
  split
  · exact hs.trapOp
  split
  · exact hs.poisonTrap
  split
  · exact hs.illegal
  · exact hs.atCommit.finishN

theorem State.MemWf.execEndl (hs : s.MemWf) : NextWf (execEndl h s) := by
  unfold Machine.execEndl
  refine hs.runOp fun _ => ?_
  split
  · exact hs.illegal
  · exact hs.asBranch fun _ ht => ht.atCommit

/-! ### The functions of Machine/Streams -/

theorem State.MemWf.head {t : Stream} (hs : s.MemWf) : Gives (fun r => r.2.2.MemWf) (s.head o t) := by
  unfold State.head
  dsimp only
  split
  · exact hs
  split
  · trivial
  next he =>
    split
    · exact hs.load.of_ok he
    · exact hs.load.of_ok he

theorem State.MemWf.sendPairs {n : ℕ} {ps : List Pair} (hs : s.MemWf) : (s.sendPairs o h n ps).MemWf :=
  hs.finish

theorem State.MemWf.streamFail {e : StreamErr} (hs : s.MemWf) : (s.streamFail o e).MemWf := by
  unfold State.streamFail
  split
  · exact hs.accFail
  · exact hs.poisonTrap

theorem State.MemWf.streamOp {accesses : Bool} {g : OpIn → State} (hs : s.MemWf) (hg : ∀ o, (g o).MemWf) :
    NextWf (streamOp s accesses g) := by
  unfold Machine.streamOp
  refine hs.carderOp fun _ => ?_
  split
  · exact hs.hold
  · exact hg _

theorem Gives.merge {o : OpIn} {m : MergeKind} {n fuel : ℕ} {r : Merge} (hr : r.st.MemWf) :
    Gives (fun r => r.st.MemWf) (merge o m n fuel r) := by
  induction fuel generalizing r with
  | zero => exact hr
  | succ fuel ih =>
    unfold Machine.merge
    split
    · exact hr
    split
    · trivial
    next ha =>
      have hsa : State.MemWf _ := hr.head.of_ok ha
      split
      · exact hsa
      split
      · trivial
      next hb =>
        have hsb : State.MemWf _ := hsa.head.of_ok hb
        split
        · exact hsb
        · split
          · trivial
          · exact ih hsb
        · split
          · trivial
          · exact ih hsb
        · split
          · trivial
          split
          · trivial
          split
          · exact ih hsb
          split
          · exact ih hsb
          · exact ih hsb

theorem State.MemWf.mergeOp {m : MergeKind} {n : BitVec 5} {b a : BitVec 3} (hs : s.MemWf) :
    NextWf (mergeOp h m n b a s) := by
  unfold Machine.mergeOp
  dsimp only
  refine hs.streamOp fun _ => ?_
  split
  · exact hs.illegal
  split
  · exact hs.tagTrap
  split
  · exact hs.streamFail
  next he => exact .sendPairs (.modCore_same ((Gives.merge hs).of_ok he) fun _ => rfl)

theorem State.MemWf.execSisect {n : BitVec 5} {b a : BitVec 3} (hs : s.MemWf) : NextWf (execSisect h n b a s) :=
  hs.mergeOp

theorem State.MemWf.execSunion {n : BitVec 5} {b a : BitVec 3} (hs : s.MemWf) : NextWf (execSunion h n b a s) :=
  hs.mergeOp

theorem State.MemWf.execSdiff {n : BitVec 5} {b a : BitVec 3} (hs : s.MemWf) : NextWf (execSdiff h n b a s) :=
  hs.mergeOp

theorem State.MemWf.execSmadd {fp : BitVec 1} {n : BitVec 5} {b a : BitVec 3} (hs : s.MemWf) :
    NextWf (execSmadd h fp n b a s) := hs.mergeOp

theorem Gives.nextPairs {o : OpIn} {n : ℕ} {r : Merge} (hr : r.st.MemWf) :
    Gives (fun r => r.st.MemWf) (nextPairs o n r) := by
  induction n generalizing r with
  | zero => exact hr
  | succ n ih =>
    unfold Machine.nextPairs
    split
    · trivial
    next he => exact hr.head.of_ok he
    next he => exact ih (hr.head.of_ok he)

theorem State.MemWf.execSnext {n : BitVec 5} {a : BitVec 3} (hs : s.MemWf) : NextWf (execSnext h n a s) := by
  unfold Machine.execSnext
  dsimp only
  refine hs.streamOp fun _ => ?_
  split
  · exact hs.illegal
  split
  · exact hs.tagTrap
  split
  · exact hs.streamFail
  next he => exact .sendPairs (.modCore_same ((Gives.nextPairs hs).of_ok he) fun _ => rfl)

theorem State.MemWf.execStld {a : BitVec 3} (hs : s.MemWf) : NextWf (execStld h a s) := by
  unfold Machine.execStld
  dsimp only
  refine hs.streamOp fun _ => ?_
  split
  · exact hs.tagTrap
  split
  · exact .finish (hs.modCore fun _ hk => hk)
  split
  · exact hs.poisonTrap
  split
  · exact hs.illegal
  split
  next he => exact hs.readBlock.of_error he
  next he => exact .finish (.modCore (hs.readBlock.of_ok he) fun _ hk => hk)

theorem State.MemWf.execStst {a : BitVec 3} (hs : s.MemWf) : NextWf (execStst h a s) :=
  hs.streamOp fun _ => hs.finish

/-! ### The functions of Machine/Collective -/

theorem State.MemWf.readGroup {va : ℕ} (hs : s.MemWf) : GivesOr (fun r => r.2.MemWf) (s.readGroup o va) := by
  unfold State.readGroup
  dsimp only
  split
  · exact hs
  split
  next he => exact hs.readBlock.of_error he
  next he =>
    split
    · exact hs.readBlock.of_ok he
    split
    next he1 => exact (State.MemWf.readBlock (hs.readBlock.of_ok he)).of_error he1
    next he1 => exact ((State.MemWf.readBlock (hs.readBlock.of_ok he)).of_ok he1 : State.MemWf _)

theorem State.MemWf.joinColl {gid seq own : ℕ} {group : List ℕ} {p : CollPart} (hs : s.MemWf) :
    (s.joinColl gid seq own group p).MemWf := by
  unfold State.joinColl
  dsimp only
  split
  · exact hs
  · exact hs

theorem State.MemWf.leaveColls {p : Coll → CollPart → Bool} (hs : s.MemWf) : (s.leaveColls p).MemWf := hs

theorem State.MemWf.tellArrival {gid seq : ℕ} {group : List ℕ} {p : CollPart} {src : List PByte} (hs : s.MemWf)
    :
    (s.tellArrival gid seq group p src).MemWf := hs.foldl fun _ _ ht => ht.sendPacket

theorem State.MemWf.collLoad {s : State} {o : OpIn} {n n1 n2 : ℕ} (hs : s.MemWf) :
    Gives (fun r => r.2.MemWf) (s.collLoad o n n1 n2) := by
  unfold State.collLoad
  dsimp only
  split
  · exact hs
  split
  · exact hs
  split
  · trivial
  next he =>
    split
    · trivial
    next he1 => exact ((State.MemWf.collLoad (hs.loadP.of_ok he)).of_ok he1 : State.MemWf _)

theorem State.MemWf.arrivalBlock {m : CollForm} {group : List ℕ} {count src : ℕ} (hs : s.MemWf) :
    Gives (fun r => r.2.MemWf) (s.arrivalBlock o m group count src) := by
  unfold State.arrivalBlock
  dsimp only
  split
  · exact hs
  · exact hs.collLoad

theorem State.MemWf.arriveColl {gid seq own : ℕ} {group : List ℕ} {p : CollPart} {src : List PByte}
    (hs : s.MemWf) :
    (s.arriveColl o gid seq own group p src).MemWf :=
  .hold (.tellArrival (.joinColl (hs.modCore fun _ hk => hk)))

theorem State.MemWf.collOp {m : CollForm} {scope : ℕ} (hs : s.MemWf) : NextWf (collOp h m scope s) := by
  unfold Machine.collOp
  refine hs.runOp fun _ => .ite hs.finishM (.ite hs.hold (.ite hs.hold (.ite hs.poisonTrap (.ite hs.illegal
      (.ite hs.illegal ?_)))))
  split
  · exact hs.readBlock.of_error ‹_›
  next hblock =>
    have h1 : State.MemWf _ := hs.readBlock.of_ok hblock
    dsimp only
    split
    · exact h1.readGroup.of_error ‹_›
    next hgroup =>
      have h2 : State.MemWf _ := h1.readGroup.of_ok hgroup
      refine .ite hs.illegal (.ite hs.tagTrap (.ite hs.hold ?_))
      split
      · exact hs.accFail
      next harr =>
        have h3 : State.MemWf _ := h2.arrivalBlock.of_ok harr
        exact h3.raiseEpoch.arriveColl

theorem State.MemWf.execCred {op : CredOp} {fmt : Fmt} {mode : BitVec 1} {scope : BitVec 3} (hs : s.MemWf) :
    NextWf (execCred h op fmt mode scope s) := hs.collOp

theorem State.MemWf.execCbc {scope : BitVec 3} {root : BitVec 12} (hs : s.MemWf) :
    NextWf (execCbc h scope root s) := hs.collOp

theorem State.MemWf.execCag {scope : BitVec 3} (hs : s.MemWf) : NextWf (execCag h scope s) := hs.collOp

theorem State.MemWf.execCa2a {scope : BitVec 3} (hs : s.MemWf) : NextWf (execCa2a h scope s) := hs.collOp

theorem State.MemWf.leaveColl {k : Coll} {p : CollPart} {n : ℕ} (hs : s.MemWf) : (s.leaveColl k p n).MemWf :=
  hs.takeHeld.with_colls

theorem State.MemWf.endColl {k : Coll} (hs : s.MemWf) : (s.endColl k).MemWf := hs

theorem State.MemWf.collStore {s : State} {o : OpIn} {n n1 : ℕ} {l : List PByte} (hs : s.MemWf) :
    Gives State.MemWf (s.collStore o n n1 l) := by
  unfold State.collStore
  dsimp only
  split
  · exact hs
  split
  · exact hs
  split
  · trivial
  · exact hs.writeNow.collStore

theorem State.MemWf.collFail {k : Coll} {p : CollPart} {write : Bool} {e : AccErr} (hs : s.MemWf) :
    (s.collFail k p o write e).MemWf := by
  unfold State.collFail
  split
  · exact hs
  · exact hs.leaveColl.accFail

theorem State.MemWf.collReads {s0 : State} {k : Coll} {l : List (CollPart × OpIn)} {t : State} (hs0 : s0.MemWf)
    (ht : t.MemWf) :
    GivesOr (fun r => r.2.MemWf) (s0.collReads k l t) := by
  unfold State.collReads
  dsimp only
  split
  · exact ht
  split
  · exact hs0.collFail
  next he =>
    split
    next he1 => exact (hs0.collReads (ht.collLoad.of_ok he)).of_error he1
    next he1 => exact ((hs0.collReads (ht.collLoad.of_ok he)).of_ok he1 : State.MemWf _)

theorem State.MemWf.collWrites {s0 : State} {k : Coll} {blocks : List (List PByte)} {free : ℕ → ℕ}
    {l : List (CollPart × OpIn)} {t : State} (hs0 : s0.MemWf) (ht : t.MemWf) :
    GivesOr State.MemWf (s0.collWrites k blocks free l t) := by
  unfold State.collWrites
  dsimp only
  split
  · exact ht
  split
  · exact hs0.collFail
  next he => exact hs0.collWrites (ht.collStore.of_ok he)

theorem State.MemWf.collDone {k : Coll} {p : CollPart} (hs : s.MemWf) : (s.collDone k p).MemWf := by
  unfold State.collDone
  dsimp only
  split
  · exact hs
  split
  · exact hs
  · exact .completeAt (.modCore (hs.foldl fun _ _ ht => ht.raiseColl) fun _ hc => hc) fun _ _ ht => ht.finishM

theorem State.MemWf.collMismatch {k : Coll} {p : CollPart} (hs : s.MemWf) : (s.collMismatch k p).MemWf := by
  unfold State.collMismatch
  dsimp only
  split
  · exact hs
  split
  · exact hs
  · exact hs.takeHeld.trapOp

theorem State.MemWf.execCollectiveComplete (hs : s.MemWf) : NextWf (execCollectiveComplete s) := by
  unfold Machine.execCollectiveComplete
  dsimp only
  split
  · exact hs
  split
  · exact hs.endColl.foldl fun _ _ ht => ht.collMismatch
  split
  next he1 => exact (hs.collReads hs).of_error he1
  next he1 =>
    split
    next he2 => exact (hs.collWrites (.drawFree ((hs.collReads hs).of_ok he1))).of_error he2
    next he2 => exact .foldl (.endColl ((hs.collWrites (.drawFree
        ((hs.collReads hs).of_ok he1))).of_ok he2)) fun _ _ ht => ht.collDone

/-! ### The functions of Machine/Far -/

theorem State.MemWf.learnAcq {s : State} {b : Agent} {l : List ℕ} (hs : s.MemWf) : (s.learnAcq b l).MemWf := by
  unfold State.learnAcq
  split
  · exact hs.raiseAcq.learnAcq
  · exact hs

theorem State.MemWf.learn {q : List Byte} (hs : s.MemWf) : (s.learn q).MemWf := hs.learnAcq

theorem State.MemWf.farNote {checked : Bool} {x : Acc} {ps : List (ℕ × ℕ)} (hs : s.MemWf) :
    (s.farNote checked x ps).MemWf := by
  unfold State.farNote
  split
  · exact hs.foldl fun _ _ ht => ht.recordAcc
  · exact hs

theorem State.MemWf.answerFar {q : List Byte} {kind : ℕ} {args : List ℕ} {bs : List Byte} (hs : s.MemWf) :
    (s.answerFar q kind args bs).MemWf := hs.sendPacket

theorem State.MemWf.takeWrite {q : List Byte} (hs : s.MemWf) : (s.takeWrite q).MemWf := by
  unfold State.takeWrite
  dsimp only
  refine .answerFar ?_
  split
  · exact .clearRecs (hs.foldl fun _ _ ht => ht.performSeg)
  · exact hs.foldl fun _ _ ht => ht.performSeg

theorem State.MemWf.serveCheck {q : List Byte} (hs : s.MemWf) : (s.serveCheck q).MemWf := by
  unfold State.serveCheck
  dsimp only
  split
  · exact hs.answerFar
  · exact hs.farNote.answerFar

theorem State.MemWf.serveRead {q : List Byte} (hs : s.MemWf) : (s.serveRead q).MemWf := by
  unfold State.serveRead
  dsimp only
  split
  · exact hs.answerFar
  · exact hs.farNote.answerFar

theorem State.MemWf.serveAtomic {q : List Byte} (hs : s.MemWf) : (s.serveAtomic q).MemWf := by
  unfold State.serveAtomic
  dsimp only
  split
  · exact hs.answerFar
  refine .answerFar ?_
  split
  · exact hs.farNote.writeLoc
  · exact hs.farNote.writeLoc.markRelease

theorem State.MemWf.noteFarRelease {pa : ℕ} {q : List Byte} (hs : s.MemWf) : (s.noteFarRelease pa q).MemWf :=
  hs.setRec

theorem State.MemWf.takeAnswer {a : Ask} {q : List Byte} (hs : s.MemWf) : (s.takeAnswer a q).1.MemWf := by
  unfold State.takeAnswer
  dsimp only
  split
  · exact hs
  split
  · exact hs
  split
  · exact hs.foldl fun _ _ ht => ht.performSeg.setPoison
  · exact hs.noteFarRelease

theorem State.MemWf.settleAsk {a : Ask} {st : AskSt} (hs : s.MemWf) : (s.settleAsk a st).MemWf := by
  unfold State.settleAsk
  dsimp only
  split
  · exact hs.with_asks
  split
  · exact hs.with_asks
  · exact hs.with_asks
  · refine State.MemWf.with_images (.ite (hs.with_asks.modCore_same fun _ => rfl) hs.with_asks) fun x hx => ?_
    obtain ⟨y, hy, rfl⟩ := List.mem_map.mp hx
    have hold : y ∈ s.images := by
      split at hy <;> exact hy
    split
    · exact hs.of_mem_images (x := y) hold
    · exact hs.of_mem_images hold

theorem State.MemWf.takeResponse {q : List Byte} (hs : s.MemWf) : (s.takeResponse q).MemWf := by
  unfold State.takeResponse
  dsimp only
  split
  · split
    · exact hs.takeAnswer.settleAsk
    · exact hs
  · exact hs

theorem State.MemWf.takeArrival {q : List Byte} (hs : s.MemWf) : (s.takeArrival q).MemWf := hs.joinColl

theorem State.MemWf.serve {s0 : State} {q : List Byte} (hs0 : s0.MemWf) : (s0.serve q).MemWf := by
  unfold State.serve
  dsimp only
  split
  · exact hs0.learn.serveRead
  · exact hs0.learn.serveCheck
  · exact hs0.learn.serveAtomic

theorem State.MemWf.deliverPacket {port header : ℕ} {payload : List Byte} (hs : s.MemWf) :
    (s.deliverPacket port header payload).MemWf := by
  unfold State.deliverPacket
  dsimp only
  split
  · exact .serve hs
  · exact .takeResponse hs
  · exact .takeWrite hs
  split
  · exact .takeArrival (.learn hs)
  · exact hs

theorem State.MemWf.forward {port header : ℕ} {payload : List Byte} (hs : s.MemWf) :
    (s.forward port header payload).MemWf := by
  unfold State.forward
  dsimp only
  split
  · exact hs.returnPacket
  split
  · exact hs.sendOn
  · exact hs.deliverPacket

/-! ### The functions of Machine/Twinik -/

theorem State.MemWf.sendControl {port kind seq : ℕ} (hs : s.MemWf) : (s.sendControl port kind seq).MemWf :=
  hs.transmit

theorem State.MemWf.nak {port seq : ℕ} (hs : s.MemWf) : (s.nak port seq).MemWf := by
  unfold State.nak
  dsimp only
  split
  · exact hs
  split
  · exact hs.modPort
  · exact hs.retirePort
  · exact hs.modPort.sendFlits

theorem State.MemWf.linkAck {port seq : ℕ} (hs : s.MemWf) : (s.linkAck port seq).MemWf := hs.modPort.pump

theorem State.MemWf.checkFailed {port seq : ℕ} (hs : s.MemWf) : (s.checkFailed port seq).MemWf := by
  unfold State.checkFailed
  split
  · exact hs.sendControl.modPort
  · exact hs.retirePort
  · exact hs.modPort.sendControl

theorem State.MemWf.acceptFlit {port header : ℕ} {payload : List Byte} (hs : s.MemWf) :
    (s.acceptFlit port header payload).MemWf := by
  unfold State.acceptFlit
  dsimp only
  split
  · exact hs.modPort.sendControl.forward
  · exact hs.modPort.sendControl.modPort
  · exact hs.modPort.sendControl.modPort
  · exact hs.modPort.sendControl.modPort.forward
  · exact hs.modPort.sendControl

theorem State.MemWf.execTwinikFlitReceive {port : ℕ} {header : Word} {payload : List Byte} {check : Word}
    (hs : s.MemWf) :
    NextWf (execTwinikFlitReceive port header payload check s) := by
  unfold Machine.execTwinikFlitReceive
  dsimp only
  split
  · exact hs
  split
  · exact hs.checkFailed
  split
  · exact hs
  · exact hs.linkAck
  · exact hs.nak
  split
  · exact hs.acceptFlit
  · exact hs

theorem State.MemWf.execTwinikNakReceive {port seq : ℕ} (hs : s.MemWf) :
    NextWf (execTwinikNakReceive port seq s) := hs.nak

theorem State.MemWf.execTwinikAckReceive {module id : ℕ} (hs : s.MemWf) :
    NextWf (execTwinikAckReceive module id s) := .failover hs

theorem State.MemWf.execUndeliverableResponse {module : ℕ} {alternate : Bool} {packet : Option ℕ} (hs : s.MemWf)
    :
    NextWf (execUndeliverableResponse module alternate packet s) := by
  refine State.MemWf.failover ?_
  cases packet with
  | none => exact hs.modRoute
  | some id =>
    dsimp only
    split
    · exact .sendAsk (.checkRoute hs.modRoute.with_owrites)
    · exact hs.modRoute.with_owrites

theorem State.MemWf.execPortRetrain {port : ℕ} (hs : s.MemWf) : NextWf (execPortRetrain port s) := by
  unfold Machine.execPortRetrain
  split
  · exact hs
  · exact hs.modPort

theorem State.MemWf.execPortRetrainDone {port : ℕ} {ok : Bool} (hs : s.MemWf) :
    NextWf (execPortRetrainDone port ok s) := by
  unfold Machine.execPortRetrainDone
  dsimp only
  split
  · exact hs
  split
  · exact hs.retirePort
  · exact hs.modPort.sendFlits.pump

theorem State.MemWf.execPortRetire {port : ℕ} (hs : s.MemWf) : NextWf (execPortRetire port s) := hs.retirePort

theorem State.MemWf.extend {i : ℕ} {x : List Byte} (hs : s.MemWf) : (s.extend i x).MemWf := hs

theorem State.MemWf.writeRoute {m word v : ℕ} (hs : s.MemWf) : (s.writeRoute m word v).MemWf := by
  unfold State.writeRoute
  dsimp only
  refine .failover ?_
  refine .extend ?_
  split
  · exact hs.modRoute
  · exact hs.modRoute
  · exact hs

theorem State.MemWf.execRouteTableWrite {module word value : ℕ} (hs : s.MemWf) :
    NextWf (execRouteTableWrite module word value s) := by
  unfold Machine.execRouteTableWrite
  split
  · exact hs.writeRoute
  · exact hs

/-! ### The functions of Machine/Boot -/

theorem bootCores_memWf {f : FabricFaults} : ∀ p ∈ bootCores f, p.2.MemWf := by
  refine List.foldlRecOn (motive := fun ks : List (Nat × Core) => ∀ p ∈ ks, p.2.MemWf) _ _ ?_ ?_
  · simp
  · intro ks hks c _ p hp
    obtain hold | rfl := mem_aset hp
    · exact hks p hold
    · exact Core.memWf_reset

theorem State.MemWf.afterReset {cores : List ℕ} {elems : FabricFaults} (hs : s.MemWf) :
    (s.afterReset cores elems).MemWf :=
  ⟨hs.wf_mem, hs.wf_recovery, bootCores_memWf, fun _ hx => absurd hx List.not_mem_nil⟩

theorem State.MemWf.boot (hs : s.MemWf) : s.boot.MemWf := by
  unfold State.boot
  split
  · exact .extend (.extend (hs.with_fw hs.wf_recovery))
  · exact hs.with_fw hs.wf_recovery

theorem State.MemWf.execDeviceReset {cores : List ℕ} {elems : FabricFaults} (hs : s.MemWf) :
    NextWf (execDeviceReset cores elems s) := hs.afterReset.boot

theorem State.MemWf.loadFirmware {cores : List ℕ} {elems : FabricFaults} (hs : s.MemWf) :
    (s.loadFirmware cores elems).MemWf := by
  unfold State.loadFirmware
  refine .ite (hs.with_fw hs.wf_recovery) ?_
  split
  · exact (hs.with_fw (f := { s.fw with state := 2, image := s.fw.window }) hs.wf_recovery).afterReset.boot
  · exact hs.with_fw hs.wf_recovery

theorem State.MemWf.execFirmwareLoad {len : ℕ} {cores : List ℕ} {elems : FabricFaults} (hs : s.MemWf) :
    NextWf (execFirmwareLoad len cores elems s) := by
  have hlen : ({ s with fw := { s.fw with len := len % 65536 } } : State).MemWf := hs.with_fw hs.wf_recovery
  exact State.MemWf.ite hlen.loadFirmware hlen

theorem State.MemWf.execMeasurementExtend {reg : ℕ} (hs : s.MemWf) : NextWf (execMeasurementExtend reg s) := by
  unfold Machine.execMeasurementExtend
  dsimp only
  split
  · exact hs
  · exact .extend hs

theorem State.MemWf.execQuoteBuild (hs : s.MemWf) : NextWf (execQuoteBuild s) := hs

theorem State.MemWf.execQuoteComplete (hs : s.MemWf) : NextWf (execQuoteComplete s) := by
  unfold Machine.execQuoteComplete
  dsimp only
  split
  · exact hs
  · exact hs

/-! ### The functions of Machine/MatReg -/

theorem State.MemWf.matOp {names : MNames} {g : OpIn → ℕ → State} (hs : s.MemWf) (hg : ∀ o n, (g o n).MemWf) :
    NextWf (matOp names s g) := by
  unfold Machine.matOp
  dsimp only
  refine hs.runOp fun _ => ?_
  split
  · exact hs.hold
  split
  · exact hs.hold
  split
  · exact hs.tagTrap
  split
  · split
    · split
      · exact hs.illegal
      split
      · exact hs.illegal
      · exact hg _ _
    split
    · exact hs.illegal
    split
    · exact hs.illegal
    · exact hg _ _
  split
  · exact hs.illegal
  split
  · exact hs.illegal
  · exact hg _ _

theorem State.MemWf.formatTrap {want got : ℕ} (hs : s.MemWf) : (s.formatTrap o want got).MemWf := hs.trapOp

theorem State.MemWf.paramBlock {n al rule : ℕ} (hs : s.MemWf) :
    GivesOr (fun r => r.2.MemWf) (s.paramBlock o n al rule) := by
  unfold State.paramBlock
  dsimp only
  split
  · exact hs.poisonTrap
  split
  · exact hs.illegal
  · exact hs.readBlock

theorem State.MemWf.loadPieces {s : State} {o : OpIn} {l : List (ℕ × ℕ)} (hs : s.MemWf) :
    Gives (fun r => r.2.MemWf) (s.loadPieces o l) := by
  unfold State.loadPieces
  split
  · exact hs
  split
  · trivial
  next he =>
    split
    · trivial
    next he1 => exact ((State.MemWf.loadPieces (hs.loadP.of_ok he)).of_ok he1 : State.MemWf _)

theorem State.MemWf.loadRows {s : State} {o : OpIn} {d : Operand} {n : ℕ} {l : List ℕ} (hs : s.MemWf) :
    Gives (fun r => r.2.MemWf) (s.loadRows o d n l) := by
  unfold State.loadRows
  split
  · exact hs
  split
  · trivial
  next he =>
    split
    · trivial
    next he1 => exact ((State.MemWf.loadRows (hs.loadPieces.of_ok he)).of_ok he1 : State.MemWf _)

theorem State.MemWf.readOperand (hs : s.MemWf) : GivesOr (fun r => r.2.MemWf) (s.readOperand o) := by
  unfold State.readOperand
  split
  next he => exact hs.paramBlock.of_error he
  next he =>
    split
    · exact hs.illegal
    · exact hs.paramBlock.of_ok he

/-! ### The functions of Machine/Matrix -/

theorem State.MemWf.mldMa {f : Fmt} {reg : ℕ} {t mo : Bool} {d : Operand} (hs : s.MemWf) :
    GivesOr State.MemWf (s.mldMa o f reg t mo d) := by
  unfold State.mldMa
  dsimp only
  split
  · split
    · exact hs.illegal
    split
    · exact hs.accFail
    next he1 =>
      split
      · exact hs.accFail
      next he2 => exact .modCore ((State.MemWf.loadRows (hs.loadRows.of_ok he1)).of_ok he2) fun _ hk => hk
  split
  · exact hs.illegal
  split
  · exact hs.accFail
  next he =>
    split
    · exact hs.accFail
    next he1 => exact .modCore ((State.MemWf.loadRows (hs.loadRows.of_ok he)).of_ok he1) fun _ hk => hk

theorem State.MemWf.mldMd {reg : ℕ} {d : Operand} (hs : s.MemWf) : GivesOr State.MemWf (s.mldMd o reg d) := by
  unfold State.mldMd
  dsimp only
  split
  · exact hs.illegal
  split
  · exact hs.accFail
  next he => exact .modCore (hs.loadRows.of_ok he) fun _ hk => hk

theorem State.MemWf.mldAcc {int : Bool} {reg : ℕ} {d : Operand} (hs : s.MemWf) :
    GivesOr State.MemWf (s.mldAcc o int reg d) := by
  unfold State.mldAcc
  dsimp only
  split
  · exact hs.illegal
  split
  · exact hs.accFail
  next he => exact .modCore (hs.loadRows.of_ok he) fun _ hk => hk

theorem State.MemWf.mldPath {f : Fmt} {reg : ℕ} (hs : s.MemWf) : (s.mldPath o h f reg).MemWf := by
  unfold State.mldPath
  refine .ite hs.formatTrap (.ite hs.illegal (.ite ?_ (.finishM (hs.modCore fun k hk => ?_))))
  · split
    · exact hs.takeBad
    · exact hs.hold
  · exact Core.MemWf.foldl (l := (s.core o.c).matPath.take 64) (f := fun k p => k.taken
      (some p.1)) hk fun _ _ ht => ht

theorem State.MemWf.finishLoad {x : Except State State} {o : OpIn} {h : OpWord} : GivesOr State.MemWf x →
    State.MemWf (match x with
      | .error t => t
      | .ok s => s.finishM o h 0) := by
  intro hx
  cases x with
  | error t => exact hx
  | ok s => exact State.MemWf.finishM hx

theorem State.MemWf.execMld {fmt : Fmt} {reg : BitVec 4} {tile : BitVec 8} {pten : BitVec 1} {pt : BitVec 4}
    {t mo : BitVec 1} {kind : MKind} (hs : s.MemWf) :
    NextWf (execMld h fmt reg tile pten pt t mo kind s) := by
  unfold Machine.execMld
  refine hs.matOp fun _ _ => .ite hs.finishM (.ite hs.poisonTrap (.ite hs.mldPath (.ite hs.illegal
      (.ite hs.hold ?_))))
  have hacq : ∀ a l, (s.acquireAll a l).MemWf := fun _ _ => hs.acquireAll
  dsimp only
  split
  · exact (hacq _ _).readOperand.of_error ‹_›
  next hop =>
    have h2 : State.MemWf _ := (hacq _ _).readOperand.of_ok hop
    refine State.MemWf.finishLoad ?_
    cases kind with
    | ma => exact h2.mldMa
    | md => exact h2.mldMd
    | acc => exact h2.mldAcc

theorem State.MemWf.execMst {fmt : Fmt} {reg : BitVec 4} {tile : BitVec 8} {pten : BitVec 1} {pt : BitVec 4}
    {t _mo : BitVec 1} {kind : MKind} (hs : s.MemWf) :
    NextWf (execMst h fmt reg tile pten pt t _mo kind s) := by
  unfold Machine.execMst
  refine hs.matOp fun _ _ => .ite hs.illegal (.ite hs.finishM (.ite hs.poisonTrap (.ite hs.illegal
      (.ite hs.hold ?_))))
  split
  · exact hs.readOperand.of_error ‹_›
  next hop =>
    have h1 : State.MemWf _ := hs.readOperand.of_ok hop
    dsimp only
    split
    · exact hs.formatTrap
    split
    · exact hs.illegal
    split
    · exact hs.accFail
    · exact h1.noteStores.atCommit.finishM

theorem State.MemWf.execMzero {acc : BitVec 3} {int empty : BitVec 1} (hs : s.MemWf) :
    NextWf (execMzero h acc int empty s) := by
  unfold Machine.execMzero
  dsimp only
  refine hs.matOp fun _ _ => ?_
  refine .finishM ?_
  refine hs.modCore fun _ hk => ?_
  split
  · exact hk
  · exact hk

theorem State.MemWf.execMma {fmt : Fmt} {acc : BitVec 3} {ma mb : BitVec 4} (hs : s.MemWf) :
    NextWf (execMma h fmt acc ma mb s) := by
  unfold Machine.execMma
  dsimp only
  refine hs.matOp fun _ _ => ?_
  split
  · exact hs.formatTrap
  · exact .finishM (hs.modCore fun _ hk => hk)

theorem State.MemWf.execMmsp {fmt : Fmt} {acc : BitVec 3} {ma mb : BitVec 4} {md : BitVec 3} {pat : BitVec 1}
    (hs : s.MemWf) :
    NextWf (execMmsp h fmt acc ma mb md pat s) := by
  unfold Machine.execMmsp
  dsimp only
  refine hs.matOp fun _ _ => ?_
  split
  · exact hs.formatTrap
  split
  · exact hs.trapOp
  · exact .finishM (hs.modCore fun _ hk => hk)

theorem State.MemWf.execMcomp {fmt : Fmt} {ma ms : BitVec 4} {md : BitVec 3} {pat : BitVec 1} {gap : BitVec 3}
    (hs : s.MemWf) :
    NextWf (execMcomp h fmt ma ms md pat gap s) := by
  unfold Machine.execMcomp
  dsimp only
  refine hs.matOp fun _ _ => ?_
  split
  · exact hs.formatTrap
  · exact .finishM (hs.modCore fun _ hk => hk)

theorem State.MemWf.execMqnt {fmt : Fmt} {acc : BitVec 3} {ma : BitVec 4} {gap : BitVec 3} {orient : BitVec 1}
    (hs : s.MemWf) :
    NextWf (execMqnt h fmt acc ma gap orient s) := by
  unfold Machine.execMqnt
  dsimp only
  exact hs.matOp fun _ _ => .finishM (hs.modCore fun _ hk => hk)

theorem State.MemWf.execMdeq {df sf : Fmt} {ma ms : BitVec 4} {strict : BitVec 1} (hs : s.MemWf) :
    NextWf (execMdeq h df sf ma ms strict s) := by
  unfold Machine.execMdeq
  dsimp only
  refine hs.matOp fun _ _ => ?_
  split
  · exact hs.formatTrap
  split
  · exact hs.trapOp
  · exact .finishL (hs.modCore fun _ hk => hk)

theorem State.MemWf.execMtrn {ma ms : BitVec 4} (hs : s.MemWf) : NextWf (execMtrn h ma ms s) := by
  unfold Machine.execMtrn
  dsimp only
  exact hs.matOp fun _ _ => .finishM (hs.modCore fun _ hk => hk)

theorem State.MemWf.execMaccr {acc : BitVec 3} {row : BitVec 6} {half w : BitVec 1} (hs : s.MemWf) :
    NextWf (execMaccr h acc row half w s) := by
  unfold Machine.execMaccr
  dsimp only
  refine hs.matOp fun _ _ => ?_
  split
  · exact hs.illegal
  split
  · exact hs.finish
  · exact .finishM (hs.modCore fun _ hk => hk)

theorem State.MemWf.execPtset {pt : BitVec 4} {half : BitVec 1} (hs : s.MemWf) : NextWf (execPtset h pt half s) := by
  unfold Machine.execPtset
  dsimp only
  refine hs.matOp fun _ _ => ?_
  split
  · exact hs.poisonTrap
  · exact .finishM (hs.modCore fun _ hk => hk)

theorem State.MemWf.execPtop {pd pa pb : BitVec 4} {op : PtOp} (hs : s.MemWf) :
    NextWf (execPtop h pd pa pb op s) := hs.matOp fun _ _ => .finishM (hs.modCore fun _ hk => hk)

/-! ### The functions of Machine/Correct -/

theorem State.MemWf.execMstep {ss : BitVec 2} {mode : BitVec 1} (hs : s.MemWf) : NextWf (execMstep h ss mode s) := by
  unfold Machine.execMstep
  dsimp only
  refine hs.matOp fun _ _ => ?_
  split
  · exact hs.poisonTrap
  split
  · exact hs.illegal
  · exact .finishM (hs.modCore fun _ hk => hk)

theorem State.MemWf.execMgrd {gd : BitVec 2} (hs : s.MemWf) : NextWf (execMgrd h gd s) := by
  unfold Machine.execMgrd
  dsimp only
  refine hs.matOp fun _ _ => ?_
  split
  next he => exact hs.paramBlock.of_error he
  next he =>
    split
    · exact hs.illegal
    · exact .finishM (.modCore (hs.paramBlock.of_ok he) fun _ hk => hk)

theorem State.MemWf.betas {s : State} {o : OpIn} {r : SsReg} {l : List ℕ} (hs : s.MemWf) :
    Gives (fun r => r.2.2.MemWf) (s.betas o r l) := by
  induction l generalizing s with
  | nil => exact hs
  | cons i is ih =>
    unfold State.betas
    split
    · split
      · trivial
      next he =>
        have h1 : State.MemWf _ := (ih hs).of_ok he
        exact h1
    split
    · trivial
    next hload =>
      have h1 : State.MemWf _ := hs.load.of_ok hload
      split
      · trivial
      next he =>
        have h2 : State.MemWf _ := (ih h1).of_ok he
        exact h2

theorem State.MemWf.diverge {v : Violation} (hs : s.MemWf) : (s.diverge o v).MemWf := hs.trapOp

theorem State.MemWf.execMcor {acc : BitVec 3} {mk mv : BitVec 4} {ss gd : BitVec 2} {n : BitVec 5}
    {half : BitVec 1} (hs : s.MemWf) :
    NextWf (execMcor h acc mk mv ss gd n half s) := by
  unfold Machine.execMcor
  dsimp only
  refine hs.matOp fun _ _ => ?_
  split
  · exact hs.formatTrap
  split
  · exact hs.formatTrap
  split
  · exact hs.accFail
  next he1 =>
    split
    · exact hs.diverge
    · exact .finishM (.modCore (hs.betas.of_ok he1) fun _ hx3 => hx3)

theorem State.MemWf.execMtri {acc : BitVec 3} {mk : BitVec 4} {ss : BitVec 2} {c : BitVec 6} (hs : s.MemWf) :
    NextWf (execMtri h acc mk ss c s) := by
  unfold Machine.execMtri
  dsimp only
  refine hs.matOp fun _ _ => ?_
  split
  · exact hs.formatTrap
  split
  · exact hs.accFail
  next he1 => exact .finishM (.modCore (hs.betas.of_ok he1) fun _ hx3 => hx3)

theorem State.MemWf.execMwy {acc atri : BitVec 3} {mk mv : BitVec 4} {gd : BitVec 2} {c : BitVec 6}
    (hs : s.MemWf) :
    NextWf (execMwy h acc atri mk mv gd c s) := by
  unfold Machine.execMwy
  dsimp only
  refine hs.matOp fun _ _ => ?_
  split
  · exact hs.formatTrap
  split
  · exact hs.formatTrap
  split
  · exact hs.diverge
  split
  · exact hs.diverge
  · exact .finishM (hs.modCore fun _ hx4 => hx4)

theorem State.MemWf.execPly {acc : BitVec 3} {mq mk mv : BitVec 4} {first causal : BitVec 1} (hs : s.MemWf) :
    NextWf (execPly h acc mq mk mv first causal s) := by
  unfold Machine.execPly
  dsimp only
  refine hs.matOp fun _ _ => ?_
  split
  next he => exact hs.paramBlock.of_error he
  next he =>
    split
    · exact hs.illegal
    split
    · exact hs.formatTrap
    split
    · exact hs.formatTrap
    · exact .finishM (.modCore (hs.paramBlock.of_ok he) fun _ hx4 => hx4)

theorem State.MemWf.execPlyc {a b : BitVec 3} (hs : s.MemWf) : NextWf (execPlyc h a b s) := by
  unfold Machine.execPlyc
  dsimp only
  refine hs.matOp fun _ _ => ?_
  split
  · exact hs.formatTrap
  · exact .finishM (hs.modCore fun _ hx1 => hx1)

theorem State.MemWf.execPlyf {acc : BitVec 3} (hs : s.MemWf) : NextWf (execPlyf h acc s) := by
  unfold Machine.execPlyf
  dsimp only
  refine hs.matOp fun _ _ => ?_
  split
  · exact hs.formatTrap
  · exact .finishM (hs.modCore fun _ hx1 => hx1)

/-! ### The functions of Machine/Engine -/

theorem State.MemWf.engNote {c who : ℕ} {use : Use} {counted : Bool} {ts : List (Target × ℕ)} (hs : s.MemWf) :
    (s.engNote c who use counted ts).MemWf := by
  refine hs.foldl fun t q ht => ?_
  dsimp only
  split
  · exact .ite ht.recordIf.countLine ht.recordIf
  · exact ht.recordIf

theorem State.MemWf.engRead {c who : ℕ} {counted : Bool} {va n : ℕ} (hs : s.MemWf) :
    Gives (fun r => r.2.MemWf) (s.engRead c who counted va n) := by
  unfold State.engRead
  dsimp only
  split
  · trivial
  · exact hs.cachePage.engNote

theorem State.MemWf.engWrite {c who : ℕ} {counted : Bool} {va : ℕ} {bs : List PByte} {part : optParam ℕ 0}
    (hs : s.MemWf) :
    Gives State.MemWf (s.engWrite c who counted va bs part) := by
  unfold State.engWrite
  dsimp only
  split
  · trivial
  refine .engNote ?_
  refine .foldl ?_ fun _ _ ht => ht.performWrite
  refine .cachePage ?_
  split
  · exact hs.acquireTargets
  · exact hs

theorem State.MemWf.engRmw {c who : ℕ} {sync : Bool} {va n : ℕ} {op : List ℕ} {upd : ℕ → ℕ} (hs : s.MemWf) :
    Gives (fun r => r.2.2.MemWf) (s.engRmw c who sync va n op upd) := by
  unfold State.engRmw
  split
  · trivial
  · trivial
  have hnote : ∀ (c : Prop) [Decidable c] a c0 c1 va who use b ts,
      (((if c then (s.raiseEpoch a).1 else s).cachePage c0 va).engNote c1 who use b ts).MemWf :=
    fun _ _ _ _ _ _ _ _ _ _ => (State.MemWf.ite hs.raiseEpoch hs).cachePage.engNote
  refine State.MemWf.writeLoc (.ite ?_ (hnote ..))
  dsimp only
  split
  · exact .ite (.raiseAcq (.ite (hnote ..).markRelease (hnote ..))) (.ite (hnote ..).markRelease (hnote ..))
  · exact .ite (hnote ..).markRelease (hnote ..)

theorem State.MemWf.engLoad {c who va n : ℕ} (hs : s.MemWf) :
    Gives (fun r => r.2.2.MemWf) (s.engLoad c who va n) := hs.engRmw

theorem State.MemWf.engAsk {c who : ℕ} {atomic : List ℕ} {release : Option ℕ} {ps : List (ℕ × ℕ)} (hs : s.MemWf)
    :
    (s.engAsk c who atomic release ps).MemWf := hs.askFor

theorem State.MemWf.dropAnswers {c who : ℕ} (hs : s.MemWf) : (s.dropAnswers c who).MemWf := hs

theorem State.MemWf.engOpFail {u : HUnit} {who : ℕ} {write : Bool} {e : AccErr} (hs : s.MemWf) :
    (s.engOpFail o u who write e).MemWf := by
  unfold State.engOpFail
  split
  · exact hs.accFail
  · exact hs.dropAnswers.accFail

/-! ### The functions of Machine/Reel -/

theorem State.MemWf.fillStart {c who b : ℕ} (hs : s.MemWf) : (s.fillStart c who b).MemWf := by
  unfold State.fillStart
  dsimp only
  refine .modCore ?_ fun _ hk => hk
  split
  · exact hs.raiseAcq
  · exact hs

theorem State.MemWf.fillDone {c who b : ℕ} {err poison : Bool} (hs : s.MemWf) :
    (s.fillDone c who b err poison).MemWf := hs.raiseEpoch.modCore fun _ hk => hk

theorem State.MemWf.engFail {src : TrapSrc} {owner : FaultOwner} {write : Bool} {e : AccErr} (hs : s.MemWf) :
    (s.engFail c src owner write e).1.MemWf := by
  unfold State.engFail
  cases e with
  | translation va => exact .ite_fst hs.noteFar.postRec (.ite_fst hs.raise hs.serviceFault)
  | protection va => exact hs.notePoisoned.postRec.raise
  | race line a => exact hs.raise
  | farRace pa d x => exact hs.raise
  | remote who m r ps => exact hs

theorem State.MemWf.execWarp (hs : s.MemWf) : NextWf (execWarp h s) := by
  unfold Machine.execWarp
  dsimp only
  refine hs.matOp fun _ _ => ?_
  split
  · exact hs.illegal
  split
  next he => exact hs.paramBlock.of_error he
  next he =>
    split
    · exact hs.illegal
    split
    · exact hs.accFail
    next he1 =>
      split
      · exact hs.poisonTrap
      split
      · exact hs.illegal
      split
      · exact hs.accFail
      · exact .finishM (.atCommit (.noteAccess (.drawFree ((State.MemWf.load
          (hs.paramBlock.of_ok he)).of_ok he1))))

theorem State.MemWf.reelRmw {c va : ℕ} {op : List ℕ} {upd : ℕ → ℕ} (hs : s.MemWf) :
    Gives (fun r => r.2.MemWf) (s.reelRmw c va op upd) := by
  unfold State.reelRmw
  split
  · trivial
  next he => exact hs.engRmw.of_ok he

theorem State.MemWf.reelCas {c va k want new : ℕ} (hs : s.MemWf) :
    Gives (fun r => r.2.MemWf) (s.reelCas c va k want new) := hs.reelRmw

theorem State.MemWf.popFree {s : State} {c free k n : ℕ} (hs : s.MemWf) :
    Gives (fun r => r.2.MemWf) (s.popFree c free k n) := by
  induction n generalizing s with
  | zero => trivial
  | succ n ih =>
    unfold State.popFree
    exact .bind hs.reelRmw fun _ h1 => .ite True.intro (.bind (.reelAcc h1.engRead) fun _ h2 =>
      .bind h2.reelCas fun _ h3 => .ite h3 (ih h3))

theorem State.MemWf.pushFree {s : State} {c free p k part n : ℕ} (hs : s.MemWf) :
    Gives State.MemWf (s.pushFree c free p k part n) := by
  unfold State.pushFree
  dsimp only
  split
  · trivial
  refine .bind hs.reelRmw fun _ hs1 => ?_
  refine .bind (.reelAcc hs1.engWrite) fun _ hr1 => ?_
  refine .bind hr1.reelCas fun _ hs2 => ?_
  split
  · exact hs2
  · exact hs2.pushFree

theorem State.MemWf.relink {m : ReelCmd} {p d : ℕ} {bad : Bool} (hs : s.MemWf) :
    Gives (fun r => r.2.MemWf) (s.relink c m p d bad) := by
  unfold State.relink
  dsimp only
  refine .bind hs.reelCas fun _ hs1 => ?_
  split
  · exact hs1
  · exact .bind hs1.pushFree fun _ hr1 => hr1

theorem State.MemWf.reelFollow {m : ReelCmd} (hs : s.MemWf) : Gives (fun r => r.2.MemWf) (s.reelFollow c m) := by
  unfold State.reelFollow
  dsimp only
  refine .bind (.reelAcc hs.engRead) fun _ hs1 => ?_
  split
  · exact hs1
  split
  · split
    · exact hs1
    refine .bind hs1.popFree fun _ hs2 => ?_
    refine .bind (.reelAcc hs2.engRead) fun _ hs3 => ?_
    refine .bind (.reelAcc hs3.engWrite) fun _ hr3 => ?_
    split
    · exact hr3
    · exact hr3.relink
  split
  · exact hs1
  refine .bind hs1.popFree fun _ hs2 => ?_
  refine .bind (.reelAcc hs2.engRead) fun _ hs3 => ?_
  refine .bind (.reelAcc hs3.engWrite) fun _ hr3 => ?_
  split
  · exact hr3
  · exact hr3.relink

theorem State.MemWf.reelRecheck {m : ReelCmd} {p d : ℕ} (hs : s.MemWf) :
    Gives (fun r => r.2.MemWf) (s.reelRecheck c m p d) :=
  .bind (.reelAcc hs.engRead) fun _ hs1 => .bind (.reelAcc hs1.engWrite) fun _ hr1 => hr1.relink

theorem State.MemWf.abortStep {c skein page : ℕ} (hs : s.MemWf) : Gives State.MemWf (s.abortStep c skein page) := by
  unfold State.abortStep
  split
  · exact hs
  · exact .bind hs.engRmw fun _ h1 => .bind h1.engRmw fun _ h2 => .bind h2.engRmw fun _ h3 => h3

theorem State.MemWf.writeDone {m : ReelCmd} {k : ℕ} {err poison : Bool} (hs : s.MemWf) :
    Gives State.MemWf (s.writeDone c m k err poison) :=
  Gives.bind hs.engRmw fun _ h1 => h1

theorem State.MemWf.reelCopy {m : ReelCmd} {q : ℕ} {bad : Bool} (hs : s.MemWf) :
    Gives (fun r => r.2.MemWf) (s.reelCopy c m q bad) :=
  .bind (.reelAcc hs.engRead) fun _ hs1 => .bind (.reelAcc hs1.engWrite) fun _ hr1 => hr1

theorem State.MemWf.unstart {m : ReelCmd} (hs : s.MemWf) : (s.unstart c m).MemWf := hs.modCore fun _ hk => hk

theorem State.MemWf.reelFinish {m : ReelCmd} {last : Option Bool} (hs : s.MemWf) :
    Gives (fun r => r.2.MemWf) (s.reelFinish c m last) := by
  unfold State.reelFinish
  dsimp only
  refine .bind (.reelAcc hs.writeDone) fun _ hr => ?_
  split
  · exact hr.unstart
  · exact hr

theorem State.MemWf.reelStage {m : ReelCmd} (hs : s.MemWf) : Gives (fun r => r.2.MemWf) (s.reelStage c m) := by
  unfold State.reelStage
  split
  · exact hs.reelFollow
  · exact hs.reelRecheck
  · exact .bind (.reelAcc hs.abortStep) fun _ hr => hr
  · exact hs.reelCopy
  · exact hs.reelFinish

theorem State.MemWf.reelPost {s : State} {c bob n : ℕ} (hs : s.MemWf) : (s.reelPost c bob n).MemWf := by
  unfold State.reelPost
  dsimp only
  split
  · exact hs
  split
  · exact hs
  split
  · exact hs
  split
  · exact .reelPost (.modCore (hs.foldl fun _ _ ht => ht.fillDone) fun _ hk => hk)
  · exact .modCore (hs.foldl fun _ _ ht => ht.fillDone) fun _ hk => hk

theorem State.MemWf.putReel {m : ReelCmd} (hs : s.MemWf) : (s.putReel c m).MemWf := hs.modCore fun _ hk => hk

theorem State.MemWf.reelDone {m : ReelCmd} (hs : s.MemWf) : (s.reelDone c m).MemWf := hs.putReel.reelPost

theorem State.MemWf.reelError {m : ReelCmd} (hs : s.MemWf) : (s.reelError c m).MemWf := by
  unfold State.reelError
  dsimp only
  split
  · exact hs.reelDone
  · exact hs.putReel

theorem State.MemWf.reelStop {m : ReelCmd} {e : ReelErr} (hs : s.MemWf) : (s.reelStop c m e).MemWf := by
  unfold State.reelStop
  dsimp only
  split
  · exact hs.dropAnswers.putReel
  · exact hs.dropAnswers.reelError
  · exact hs.engAsk.putReel
  split
  · exact hs.dropAnswers.engFail.putReel
  · exact hs.dropAnswers.engFail.reelError

theorem State.MemWf.reelRun {s : State} {c n : ℕ} {x : ReelCmd} (hs : s.MemWf) : (s.reelRun c n x).MemWf := by
  unfold State.reelRun
  dsimp only
  split
  · exact hs.putReel
  split
  · exact hs.putReel
  split
  · exact hs.reelStop
  next he =>
    split
    · exact .reelDone (.dropAnswers (hs.reelStage.of_ok he))
    · exact .reelRun (.dropAnswers (hs.reelStage.of_ok he))

theorem State.MemWf.reelGo {m : ReelCmd} (hs : s.MemWf) : (s.reelGo c m).MemWf := hs.reelRun

theorem State.MemWf.reelFlush (hs : s.MemWf) : (s.reelFlush c).MemWf := hs.foldl fun _ _ ht => ht.reelPost

theorem State.MemWf.execReelPageFill {core : ℕ} (hs : s.MemWf) : NextWf (execReelPageFill core s) := by
  unfold Machine.execReelPageFill
  dsimp only
  split
  · exact hs.reelFlush
  split
  · exact hs.reelFlush.reelGo
  split
  · exact hs.reelFlush
  · exact hs.reelFlush.fillStart.reelGo

theorem State.MemWf.writeKV {c page slot : ℕ} {kr vr : List PByte} (hs : s.MemWf) :
    Gives State.MemWf (s.writeKV c page slot kr vr) :=
  Gives.bind (Gives.reelAcc hs.engWrite) fun _ h1 => Gives.reelAcc h1.engWrite

theorem State.MemWf.append {c link free : ℕ} {kr vr : List PByte} (hs : s.MemWf) :
    Gives (fun r => r.2.2.MemWf) (s.append c link free kr vr) := by
  unfold State.append
  generalize 0x4040 = offset
  refine .bind hs.popFree fun _ h1 => .bind h1.reelRmw fun _ h2 => .bind h2.reelRmw fun _ h3 => ?_
  dsimp only
  split
  · exact .bind h3.writeKV fun _ h4 => .bind h4.pushFree fun _ h5 => h5
  · refine .bind h3.reelRmw fun _ h4 => .bind h4.reelRmw fun _ h5 => .bind (.reelAcc h5.engWrite) fun _ h6 =>
      .bind (.reelAcc h6.engRead) fun _ h7 => ?_
    refine Gives.ite_bind (P := State.MemWf) h7 (.reelAcc h7.engWrite) fun _ h8 => .bind
        (.reelAcc h8.engRead) fun _ h9 => ?_
    exact Gives.ite_bind (P := State.MemWf) h9 (.reelAcc h9.engWrite) fun _ h10 =>
        .bind h10.writeKV fun _ h11 =>
      .bind h11.reelCas fun _ h12 => h12
  · exact .bind h3.pushFree fun _ h4 => h4

theorem State.MemWf.kvRow {a : ℕ} (hs : s.MemWf) : Gives (fun r => r.2.MemWf) (s.kvRow o a) := hs.collLoad

theorem State.MemWf.reelAnswer {v : Word} (hs : s.MemWf) : (s.reelAnswer o h v).MemWf := by
  unfold State.reelAnswer
  split
  · exact hs.finishL
  · exact hs.hold

theorem State.MemWf.reelAppend {d : List ℕ} (hs : s.MemWf) : (s.reelAppend o h d).MemWf := by
  unfold State.reelAppend
  dsimp only
  split
  · exact hs.illegal
  split
  · exact hs.accFail
  next he =>
    split
    · exact hs.accFail
    next he1 =>
      split
      · exact hs.dropAnswers.hold
      · exact hs.dropAnswers.finishL
      · exact hs.engOpFail
      next he2 => exact .reelAnswer (.dropAnswers ((State.MemWf.append ((State.MemWf.kvRow
          (hs.kvRow.of_ok he)).of_ok he1)).of_ok he2))

theorem State.MemWf.execReel {append : BitVec 1} (hs : s.MemWf) : NextWf (execReel h append s) := by
  unfold Machine.execReel
  dsimp only
  refine hs.matOp fun _ _ => ?_
  split
  · exact hs.reelAnswer
  split
  next he1 => exact hs.paramBlock.of_error he1
  next he1 =>
    split
    · split
      · exact hs.hold
      · exact .reelAppend (hs.paramBlock.of_ok he1)
    split
    · exact hs.illegal
    split
    · exact hs.hold
    · exact .finishM (.modCore (hs.paramBlock.of_ok he1) fun _ hk => hk)

/-! ### The functions of Machine/Spindle -/

theorem State.MemWf.spRead {c va n : ℕ} (hs : s.MemWf) : Gives (fun r => r.2.2.MemWf) (s.spRead c va n) :=
  .bind hs.engRead fun _ hs1 => hs1

theorem State.MemWf.lookup {c table x b : ℕ} (hs : s.MemWf) :
    Gives (fun r => r.2.2.MemWf) (s.lookup c table x b) := by
  refine Gives.bind hs.spRead fun _ h1 => ?_
  dsimp only
  split
  · exact h1
  · exact .bind h1.spRead fun _ h2 => h2

theorem State.MemWf.lwLane {b : Binding} {w : ℕ} {l : LLane} (hs : s.MemWf) :
    Gives (fun r => r.2.MemWf) (s.lwLane c b w l) := by
  unfold State.lwLane
  dsimp only
  split
  · exact .bind hs.lookup fun _ h1 => h1
  · exact .bind hs.lookup fun _ h1 => h1
  · split
    · exact hs
    · exact .bind hs.spRead fun _ h1 => h1
  · exact hs

theorem State.MemWf.lwLanes {s : State} {c : ℕ} {b : Binding} {w : ℕ} {l : List LLane} (hs : s.MemWf) :
    Gives (fun r => r.2.MemWf) (s.lwLanes c b w l) := by
  unfold State.lwLanes
  split
  · exact hs
  split
  · trivial
  next he =>
    split
    · trivial
    next he1 => exact ((State.MemWf.lwLanes (hs.lwLane.of_ok he)).of_ok he1 : State.MemWf _)

theorem State.MemWf.lwRun {s : State} {c : ℕ} {b : Binding} {l : List ℕ} {l1 : List LLane} (hs : s.MemWf) :
    Gives (fun r => r.2.MemWf) (s.lwRun c b l l1) := by
  unfold State.lwRun
  split
  · exact hs
  split
  · trivial
  next he => exact State.MemWf.lwRun (hs.lwLanes.of_ok he)

theorem State.MemWf.spindleOp {waits : Bool} {g : OpIn → State} (hs : s.MemWf) (hg : ∀ o, (g o).MemWf) :
    NextWf (spindleOp waits s g) := by
  unfold Machine.spindleOp
  refine hs.runOp fun _ => ?_
  split
  · exact hs.hold
  split
  · exact hs.hold
  split
  · exact hs.hold
  split
  · exact hs.tagTrap
  · exact hg _

theorem State.MemWf.spTake (hs : s.MemWf) : (s.spTake o).MemWf := hs.handOver

theorem State.MemWf.spGive (hs : s.MemWf) : (s.spGive o).MemWf := hs.dropAnswers.handOver

theorem State.MemWf.spFail {write : Bool} {e : AccErr} (hs : s.MemWf) : (s.spFail o write e).MemWf :=
  hs.engOpFail

theorem State.MemWf.setBind {i : ℕ} {b : Binding} (hs : s.MemWf) : (s.setBind o i b).MemWf :=
  hs.modCore fun _ hk => hk

theorem State.MemWf.dropTable {skein : ℕ} (hs : s.MemWf) : (s.dropTable o skein).MemWf :=
  hs.modCore fun _ hk => hk

theorem State.MemWf.headerWords {s : State} {c skein : ℕ} {l : List ℕ} (hs : s.MemWf) :
    Gives (fun r => r.2.2.MemWf) (s.headerWords c skein l) := by
  unfold State.headerWords
  split
  · exact hs
  split
  · trivial
  next he =>
    split
    · trivial
    next he1 => exact ((State.MemWf.headerWords (hs.engLoad.of_ok he)).of_ok he1 : State.MemWf _)

theorem State.MemWf.headerRmw {c skein w : ℕ} {op : List ℕ} {upd : ℕ → ℕ} (hs : s.MemWf) :
    Gives State.MemWf (s.headerRmw c skein w op upd) := by
  unfold State.headerRmw
  split
  · trivial
  next he => exact hs.engRmw.of_ok he

theorem State.MemWf.execSkbind {bind : BitVec 3} (hs : s.MemWf) : NextWf (execSkbind h bind s) := by
  unfold Machine.execSkbind
  dsimp only
  refine hs.spindleOp fun _ => ?_
  split
  · exact hs.poisonTrap
  split
  · exact hs.illegal
  split
  next he => exact hs.readBlock.of_error he
  next he =>
    split
    · exact hs.illegal
    split
    · exact .finishM (.spGive (.setBind (.spTake (.drawFree (hs.readBlock.of_ok he)))))
    split
    · exact hs.illegal
    split
    next he1 => exact (State.MemWf.readBlock (hs.readBlock.of_ok he)).of_error he1
    next he1 =>
      split
      · exact hs.illegal
      split
      · exact hs.spFail
      next he3 =>
        split
        · exact hs.poisonTrap
        split
        · exact hs.illegal
        · exact .finishM (.spGive (.setBind (.dropTable ((State.MemWf.headerWords (.spTake
            ((State.MemWf.readBlock (hs.readBlock.of_ok he)).of_ok he1))).of_ok he3))))

theorem State.MemWf.execSpin {bind : BitVec 3} (hs : s.MemWf) : NextWf (execSpin h bind s) := by
  unfold Machine.execSpin
  dsimp only
  refine hs.spindleOp fun _ => ?_
  split
  · exact hs.illegal
  split
  · exact hs.spFail
  next he => exact .finishM (.setBind (.dropAnswers (hs.lwRun.of_ok he)))

theorem State.MemWf.drawHeader {b : Binding} {win : Option ℕ} (hs : s.MemWf) :
    Gives State.MemWf (s.drawHeader c b win) := by
  unfold State.drawHeader
  dsimp only
  split
  · exact hs.headerRmw
  · exact .bind hs.headerRmw fun _ hr => .bind hr.headerRmw fun _ hr1 => hr1.headerRmw

theorem State.MemWf.execDraw {bind : BitVec 3} (hs : s.MemWf) : NextWf (execDraw h bind s) := by
  unfold Machine.execDraw
  dsimp only
  refine hs.spindleOp fun _ => ?_
  split
  · exact hs.illegal
  split
  · exact hs.spFail
  next he =>
    split
    · exact hs.poisonTrap
    split
    · exact hs.illegal
    split
    · exact hs.illegal
    split
    · exact hs.spFail
    next he1 => exact .finish (.spGive (.modCore (.setBind ((State.MemWf.drawHeader
        (hs.spTake.headerWords.of_ok he)).of_ok he1)) fun _ hk => hk))

theorem State.MemWf.countAt {c skein : ℕ} {mv : Moves} {i : ℕ} (hs : s.MemWf) :
    Gives (fun r => r.2.2.MemWf) (s.countAt c skein mv i) := by
  unfold State.countAt
  split
  · exact hs
  · exact hs.engLoad

theorem State.MemWf.walkCounts {s : State} {c skein n : ℕ} {x : Moves} {n1 n2 : ℕ} {x1 : Bool} (hs : s.MemWf) :
    Gives (fun r => r.2.2.MemWf) (s.walkCounts c skein n x n1 n2 x1) := by
  unfold State.walkCounts
  dsimp only
  split
  · exact hs
  split
  · trivial
  next he =>
    split
    · exact State.MemWf.walkCounts (hs.countAt.of_ok he)
    · exact hs.countAt.of_ok he

theorem State.MemWf.planCount {c skein x inc : ℕ} (hs : s.MemWf) :
    Gives (fun r => r.2.MemWf) (s.planCount c skein x inc) := by
  refine Gives.bind hs.countAt fun _ h1 => .bind h1.countAt fun _ h2 => ?_
  refine .ite_ok h2 (.ite_ok h2 (.ite_ok h2 (.ite_ok h2 (.bind h2.walkCounts fun _ h3 => ?_))))
  dsimp only
  split
  · exact h3
  · exact h3

theorem State.MemWf.writeCounts {s : State} {c skein : ℕ} {x : Moves} (hs : s.MemWf) :
    Gives State.MemWf (s.writeCounts c skein x) := by
  unfold State.writeCounts
  split
  · exact hs
  split
  · trivial
  next he =>
    split
    · trivial
    next he1 => exact (State.MemWf.engRmw (hs.writeCounts.of_ok he)).of_ok he1

theorem State.MemWf.updateCount {c skein x inc : ℕ} (hs : s.MemWf) :
    Gives (fun r => r.2.MemWf) (s.updateCount c skein x inc) := by
  unfold State.updateCount
  refine .bind hs.planCount fun _ h1 => .bind h1.writeCounts fun _ h2 => ?_
  exact Gives.ite_bind (P := State.MemWf) h2 h2.headerRmw fun _ h3 => h3

theorem State.MemWf.finishV {l : Lane} (hs : s.MemWf) : (s.finishV o h l).MemWf := hs.finish

theorem State.MemWf.execSkupd {inc : BitVec 8} {bind : BitVec 3} (hs : s.MemWf) :
    NextWf (execSkupd h inc bind s) := by
  unfold Machine.execSkupd
  refine hs.spindleOp fun _ => .ite hs.illegal (.ite hs.poisonTrap (.ite hs.spTake.spGive.finishV ?_))
  split
  · exact hs.spFail
  next he =>
    have h1 : State.MemWf _ := hs.spTake.updateCount.of_ok he
    exact h1.setBind.spGive.finishV

theorem State.MemWf.execSkrd {word : BitVec 5} {bind : BitVec 3} (hs : s.MemWf) :
    NextWf (execSkrd h word bind s) := by
  unfold Machine.execSkrd
  dsimp only
  refine hs.spindleOp fun _ => ?_
  split
  · exact hs.illegal
  split
  · exact hs.spFail
  next he => exact .finishV (.spGive (hs.spTake.engLoad.of_ok he))

theorem State.MemWf.execSkwr {word : BitVec 5} {bind : BitVec 3} (hs : s.MemWf) :
    NextWf (execSkwr h word bind s) := by
  unfold Machine.execSkwr
  dsimp only
  refine hs.spindleOp fun _ => ?_
  split
  · exact hs.illegal
  split
  · exact hs.poisonTrap
  split
  · exact hs.spFail
  next he => exact .finishM (.spGive (.setBind (hs.spTake.headerRmw.of_ok he)))

/-! ### The functions of Machine/Projective -/

theorem State.MemWf.camBlock {n al : ℕ} (hs : s.MemWf) : GivesOr (fun r => r.2.MemWf) (s.camBlock o n al) := by
  unfold State.camBlock
  dsimp only
  split
  · exact hs.poisonTrap
  split
  · exact hs.illegal
  split
  · exact hs.accFail
  next he =>
    split
    · exact hs.poisonTrap
    · exact hs.load.of_ok he

theorem State.MemWf.camWrite {bv : ℕ} {b : List Byte} (hs : s.MemWf) : (s.camWrite o h bv b).MemWf := by
  unfold State.camWrite
  split
  · exact hs.illegal
  · exact hs.trapOp
  next he => exact .finishM (hs.writeCamera.of_ok he)

theorem State.MemWf.execCamld {bv : BitVec 3} (hs : s.MemWf) : NextWf (execCamld h bv s) := by
  unfold Machine.execCamld
  refine hs.carderOp fun _ => ?_
  split
  · exact hs.tagTrap
  split
  next he => exact hs.camBlock.of_error he
  next he => exact .camWrite (hs.camBlock.of_ok he)

theorem State.MemWf.execCamst {bv : BitVec 3} (hs : s.MemWf) : NextWf (execCamst h bv s) := by
  unfold Machine.execCamst
  dsimp only
  refine hs.carderOp fun _ => ?_
  split
  · exact hs.illegal
  split
  · exact hs.illegal
  split
  · exact hs.poisonTrap
  split
  · exact hs.illegal
  split
  · exact hs.tagTrap
  split
  · exact hs.accFail
  · exact hs.noteAccess.atCommit.finishM

theorem State.MemWf.execCamcomp {bvd bvs : BitVec 3} (hs : s.MemWf) : NextWf (execCamcomp h bvd bvs s) := by
  unfold Machine.execCamcomp
  dsimp only
  refine hs.carderOp fun _ => ?_
  split
  · exact hs.illegal
  split
  · exact hs.tagTrap
  split
  next he => exact hs.camBlock.of_error he
  next he => exact .camWrite (hs.camBlock.of_ok he)

theorem State.MemWf.projPoison {lane : ℕ} {ls : List Lane} (hs : s.MemWf) : (s.projPoison o lane ls).MemWf :=
  hs.trapOp

theorem State.MemWf.countCases {c bv : ℕ} {gs : List GLane} (hs : s.MemWf) : (s.countCases c bv gs).MemWf :=
  hs.bumpCamera.bumpCamera

theorem State.MemWf.gatherOp {march : Bool} {bv tile rowoff : ℕ} {psel : PSel} (hs : s.MemWf) :
    NextWf (gatherOp h march bv tile rowoff psel s) := by
  unfold Machine.gatherOp
  dsimp only
  refine hs.carderOp fun _ => ?_
  split
  · exact hs.illegal
  split
  · exact hs.illegal
  split
  · exact hs.illegal
  split
  · exact hs.projPoison
  split
  · exact hs.hold
  split
  · exact hs.tagTrap
  split
  next he2 => exact (hs.writeRows hs.countCases).of_error he2
  next he2 => exact .finish ((hs.writeRows hs.countCases).of_ok he2)

theorem State.MemWf.execPgath {bv : BitVec 3} {tile : BitVec 8} {rowoff : BitVec 12} {psel : PSel}
    (hs : s.MemWf) :
    NextWf (execPgath h bv tile rowoff psel s) := hs.gatherOp

theorem State.MemWf.execPmarch {bv : BitVec 3} {tile : BitVec 8} {rowoff : BitVec 12} {psel : PSel}
    (hs : s.MemWf) :
    NextWf (execPmarch h bv tile rowoff psel s) := hs.gatherOp

theorem State.MemWf.noteScatter {bv : ℕ} {v : View} {ls : List PLane} (hs : s.MemWf) :
    (s.noteScatter o bv v ls).MemWf := by
  refine hs.foldl fun t p ht => ?_
  split
  · exact ht.atCommit
  · exact ht

theorem State.MemWf.execPscat {bv : BitVec 3} {tile : BitVec 8} {rowoff : BitVec 12} (hs : s.MemWf) :
    NextWf (execPscat h bv tile rowoff s) := by
  unfold Machine.execPscat
  dsimp only
  refine hs.carderOp fun _ => ?_
  split
  · exact hs.illegal
  split
  · exact hs.illegal
  split
  · exact hs.illegal
  split
  · exact hs.illegal
  split
  · exact hs.projPoison
  split
  · exact hs.hold
  split
  · exact hs.tagTrap
  split
  next he2 => exact (hs.readRows hs.acquireAll).of_error he2
  next he2 =>
    split
    · exact hs.projPoison
    split
    · exact hs.illegalAt
    · exact .finish (.noteScatter (.bumpCamera ((hs.readRows hs.acquireAll).of_ok he2)))

theorem State.MemWf.execPstep {store : BitVec 6} (hs : s.MemWf) : NextWf (execPstep h store s) := by
  unfold Machine.execPstep
  dsimp only
  refine hs.carderOp fun _ => ?_
  split
  · exact hs.finishC
  split
  · exact hs.illegal
  split
  · exact hs.trapOp
  split
  · exact hs.illegal
  split
  · exact hs.tagTrap
  · exact hs.bindStore.hold

theorem State.MemWf.execPstat {clr : BitVec 1} {which : PWhich} {bv : BitVec 3} (hs : s.MemWf) :
    NextWf (execPstat h clr which bv s) := by
  unfold Machine.execPstat
  dsimp only
  refine hs.carderOp fun _ => ?_
  split
  · exact hs.illegal
  split
  · split
    · exact hs.tagTrap
    refine .finish ?_
    split
    · exact hs.modCore fun _ hc4 => hc4
    · exact hs
  split
  · exact hs.tagTrap
  refine .finish ?_
  split
  · exact hs.modCore fun _ hc4 => hc4
  · exact hs

/-! ### The functions of Machine/Mapping -/

theorem Core.MemWf.makeRoom {n : ℕ} {k : Core} {n1 n2 : ℕ} (hk : k.MemWf) : (Core.makeRoom n k n1 n2).1.MemWf := by
  unfold Core.makeRoom
  split
  · exact hk
  split
  · exact hk
  split
  · exact hk
  · exact .makeRoom hk

theorem State.MemWf.mapTrap {e : MapErr} (hs : s.MemWf) : (s.mapTrap c i e).MemWf := by
  unfold State.mapTrap
  dsimp only
  split
  · exact .raise (hs.setCore (hs.core _))
  · exact .raise (hs.setCore (hs.core _))
  · exact .raise (.noteFar (hs.setCore (hs.core _)))
  · exact .raise (.postRec (.notePoisoned (hs.setCore (hs.core _))))
  · exact .raise (hs.setCore (hs.core _))

theorem Core.MemWf.addMapping {p : ℕ × ℕ × ℕ} (hk : k.MemWf) : (k.addMapping m p).MemWf := hk

theorem State.MemWf.execBlockMapping {core : ℕ} (hs : s.MemWf) : NextWf (execBlockMapping core s) := by
  unfold Machine.execBlockMapping
  dsimp only
  split
  · exact hs.setCore (hs.core _)
  split
  · exact hs.mapTrap
  split
  · exact hs.mapTrap
  split
  · exact .doubleTrap (hs.setCore (hs.core _))
  split
  · exact hs.mapTrap
  split
  · exact hs.setCore (.makeRoom (hs.core _))
  split
  · exact .mapTrap (hs.setCore (.makeRoom (hs.core _)))
  · exact hs.setCore (.addMapping (.makeRoom (hs.core _)))

/-! ### The functions of Machine/Frames -/

theorem State.MemWf.framePiece {l : Loc} {bs : List Byte} {bad : Bool} (hs : s.MemWf) :
    (s.framePiece l bs bad).MemWf := by
  unfold State.framePiece
  split
  · exact hs
  · exact hs.performWrite

theorem State.MemWf.syncFrame (hs : s.MemWf) : (s.syncFrame c i).MemWf := by
  unfold State.syncFrame
  refine hs.foldl fun _ _ ht => ?_
  split
  · exact ht.framePiece
  · exact ht

theorem State.MemWf.tellFrame {e : XFault × ℕ} (hs : s.MemWf) : (s.tellFrame c i e).MemWf := by
  unfold State.tellFrame
  dsimp only
  split
  · exact hs
  split
  · exact .raiseBeside (.postRec (.notePoisoned (hs.modCore fun _ hk => hk)))
  split
  · exact .raiseBeside (.noteFar (hs.modCore fun _ hk => hk))
  · exact .serviceFault (.noteFar (hs.modCore fun _ hk => hk))

theorem State.MemWf.frameFault_getD (hs : s.MemWf) : ((s.frameFault c i).getD s).MemWf := by
  unfold State.frameFault
  cases s.frameErr c i with
  | none => exact hs
  | some e => exact hs.tellFrame

theorem State.MemWf.keepFrame (hs : s.MemWf) : (s.keepFrame c i).MemWf :=
  .ite hs.syncFrame.frameFault_getD hs.syncFrame

theorem State.MemWf.keepFrames (hs : s.MemWf) : (s.keepFrames c).MemWf := hs.foldl fun _ _ ht => ht.keepFrame

theorem State.MemWf.syncFrames (hs : s.MemWf) : s.syncFrames.MemWf := hs.foldl fun _ _ ht => ht.keepFrames

/-! ### The functions of Machine/Fabric -/

theorem State.MemWf.tokenTrap {t : Token} (hs : s.MemWf) : (s.tokenTrap c i m t).MemWf := hs.raise

theorem Core.MemWf.enterSets {sets : List Firing} (hk : k.MemWf) : (k.enterSets i sets).MemWf := by
  unfold Core.enterSets
  dsimp only
  split
  · exact hk
  · exact hk

theorem State.MemWf.of_frameFault {s t : State} (hs : s.MemWf) (h : s.frameFault c i = some t) : t.MemWf := by
  have hd := hs.frameFault_getD (c := c) (i := i)
  rwa [h] at hd

theorem State.MemWf.deliver {c n : ℕ} {t : Token} (hs : s.MemWf) : (s.deliver c n t i m).MemWf := by
  have hcore : ∀ x n j sets, ({ s.core c with inflight := x, nextTok := n }.enterSets j sets).MemWf :=
    fun _ _ _ _ => Core.MemWf.enterSets (hs.core c)
  have htoken : ∀ u : State, u.MemWf → State.MemWf (match t.acq with
      | some (a, e) => u.raiseAcq (s.agent c i.tag.colour) a e
      | none => u) := fun u hu => by
    split
    · exact hu.raiseAcq
    · exact hu
  have hset := fun x n j sets => hs.setCore (c := c) (hcore x n j sets)
  unfold State.deliver
  refine .ite (htoken _ (hset ..)) ?_
  split
  · exact htoken _ (hset ..)
  split
  · exact hs
  split
  · exact hs.of_frameFault ‹_›
  · exact (htoken _ (hset ..)).modCore_same fun _ => rfl

theorem State.MemWf.execTokenArrival {core n : ℕ} (hs : s.MemWf) : NextWf (execTokenArrival core n s) := by
  unfold Machine.execTokenArrival
  dsimp only
  split
  · exact hs
  split
  · exact hs.setCore (hs.core _)
  split
  · exact hs
  split
  · exact hs
  split
  · exact hs.tokenTrap
  · exact hs.deliver

theorem Core.MemWf.admitInst {f : FrameRef} (hk : k.MemWf) : (k.admitInst i m f).MemWf := hk

theorem Core.MemWf.waits {cycles : ℕ} (hk : k.MemWf) : (k.waits cycles).MemWf := hk

theorem State.MemWf.execBlockAdmission {core cycles : ℕ} (hs : s.MemWf) :
    NextWf (execBlockAdmission core cycles s) := by
  have hk : ((s.core core).waits cycles).MemWf := (hs.core core).waits
  unfold Machine.execBlockAdmission
  dsimp only
  split
  · exact hs.setCore hk
  split
  · exact hs.setCore hk
  split
  · exact hs.setCore hk
  split
  · exact (hs.setCore hk).doubleTrap
  split
  · exact hs.setCore hk
  · exact hs.setCore hk.admitInst

theorem State.MemWf.execFrameExhaustion {core : ℕ} (hs : s.MemWf) : NextWf (execFrameExhaustion core s) := by
  unfold Machine.execFrameExhaustion
  dsimp only
  split
  · exact hs.raise
  · exact hs

/-! ### The functions of Machine/Nodes -/

theorem State.MemWf.nodeIndex {n : Node} (hs : s.MemWf) : Gives (fun r => r.2.2.MemWf) (s.nodeIndex c n) := by
  unfold State.nodeIndex
  dsimp only
  split
  · exact hs
  split
  · trivial
  next he => exact hs.engRead.of_ok he

theorem State.MemWf.nodeRead {n : Node} {bad : Bool} {va : ℕ} (hs : s.MemWf) :
    Gives (fun r => r.2.MemWf) (s.nodeRead c n bad va) := by
  unfold State.nodeRead
  split
  · trivial
  next he => exact hs.engRead.of_ok he

theorem State.MemWf.projElem {c i : ℕ} {n : Node} {v : View} {bv : ℕ} (hs : s.MemWf) :
    Gives (fun r => r.2.MemWf) (s.projElem c i n v bv) := by
  have hdepth : ∀ (b : Bool) va, Gives (fun r : List PByte × State => r.2.MemWf)
      (if b then .ok ([], s) else s.engRead c n.opener true va 4) := fun _ _ => .ite_ok hs hs.engRead
  unfold State.projElem
  dsimp only
  split
  · trivial
  next he =>
    have h1 : State.MemWf _ := (hdepth _ _).of_ok he
    exact h1.countCases

theorem State.MemWf.nodeElem {c i : ℕ} {n : Node} (hs : s.MemWf) : Gives (fun r => r.2.MemWf) (s.nodeElem c i n) := by
  unfold State.nodeElem
  dsimp only
  split
  · split
    · exact hs
    · exact hs.projElem
  split
  · trivial
  next he =>
    split
    · split
      · trivial
      next he2 =>
        split
        · trivial
        next he3 => exact ((State.MemWf.nodeRead ((State.MemWf.nodeRead
            (hs.nodeIndex.of_ok he)).of_ok he2)).of_ok he3 : State.MemWf _)
    split
    · trivial
    next he1 => exact ((State.MemWf.nodeRead (hs.nodeIndex.of_ok he)).of_ok he1 : State.MemWf _)

theorem Core.MemWf.placeElem {i : ℕ} {out : NodeOut} (hk : k.MemWf) : (k.placeElem i out).MemWf := by
  unfold Core.placeElem
  refine hk.foldl fun _ _ ht => ?_
  split
  · exact ht
  · exact ht

theorem State.MemWf.nodeWithhold {c i : ℕ} {n : Node} {write : Bool} {va : ℕ} (hs : s.MemWf) :
    (s.nodeWithhold c i n write va).MemWf := by
  unfold State.nodeWithhold
  dsimp only
  split
  · exact hs.noteFar.raise.modCore fun _ hk => hk
  · exact hs.noteFar.serviceFault.modCore fun _ hk => hk

theorem State.MemWf.nodeFail {c i : ℕ} {n : Node} {e : AccErr} (hs : s.MemWf) : (s.nodeFail c i n e).MemWf := by
  unfold State.nodeFail
  dsimp only
  split
  · exact hs.dropAnswers.nodeWithhold
  · exact hs.notePoisoned.dropAnswers.modCore fun _ hk => hk
  · exact hs.dropAnswers.modCore fun _ hk => hk
  · exact hs.dropAnswers.modCore fun _ hk => hk
  · exact hs.engAsk

theorem State.MemWf.storeAddrs {n : Node} (hs : s.MemWf) : Gives (fun r => r.2.2.MemWf) (s.storeAddrs c n) := by
  unfold State.storeAddrs
  split
  · trivial
  next he => exact hs.nodeIndex.of_ok he

theorem State.MemWf.storeFail {c i iid : ℕ} {n : Node} {e : StoreErr} (hs : s.MemWf) :
    (s.storeFail c i iid n e).MemWf := by
  unfold State.storeFail
  have htrap : ∀ (x : Option Instance) (f : Instance → Trap) (t : State), t.MemWf → State.MemWf (match x with
      | some x => if x.status == .parked then t else t.raise c (f x)
      | none => t) := fun x f t ht => by
    split
    · exact .ite ht ht.raise
    · exact ht
  dsimp only
  split
  · exact hs.dropAnswers.nodeWithhold
  · exact .ite hs (htrap _ _ _ hs.dropAnswers.notePoisoned.postRec)
  · exact htrap _ _ _ hs
  · exact htrap _ _ _ hs.dropAnswers
  · exact hs.engAsk
  · exact htrap _ _ _ hs
  · exact htrap _ _ _ hs

theorem State.MemWf.nodeStore {c i : ℕ} {n : Node} (hs : s.MemWf) : (s.nodeStore c i n).MemWf := by
  unfold State.nodeStore
  dsimp only
  split
  · split
    · exact hs
    split
    · exact hs.storeFail
    next he1 =>
      split
      · exact hs.storeFail
      split
      · exact hs.storeFail
      · exact .modCore (.dropAnswers (hs.storeAddrs.of_ok he1)) fun _ hk => .foldl hk fun _ _ ht => ht
  split
  · exact hs
  split
  · exact hs.storeFail
  next he =>
    split
    · exact hs.storeFail
    split
    · exact hs.storeFail
    · exact .modCore (.dropAnswers (hs.storeAddrs.of_ok he)) fun _ hk => .foldl hk fun _ _ ht => ht

theorem State.MemWf.nodeGo {c i : ℕ} (hs : s.MemWf) : (s.nodeGo c i).MemWf := by
  unfold State.nodeGo
  dsimp only
  split
  · exact hs
  split
  · exact hs.nodeStore
  split
  · exact hs
  split
  · exact hs.nodeFail
  · exact hs
  next he => exact .modCore (.dropAnswers (hs.nodeElem.of_ok he)) fun _ hk => hk.placeElem.modNode

theorem State.MemWf.execNodeElementRead {core node : ℕ} (hs : s.MemWf) :
    NextWf (execNodeElementRead core node s) := by
  unfold Machine.execNodeElementRead
  split
  · exact hs
  · exact hs.nodeGo

/-! ### The functions of Machine/Shuttle -/

theorem Core.MemWf.modEntry {e : ℕ} {f : ShEntry → ShEntry} (hk : k.MemWf) : (k.modEntry e f).MemWf := by
  unfold Core.modEntry
  split
  · exact hk
  · exact hk

theorem State.MemWf.execShuttleEntryStart {core : ℕ} (hs : s.MemWf) : NextWf (execShuttleEntryStart core s) := by
  unfold Machine.execShuttleEntryStart
  dsimp only
  split
  · exact hs
  split
  · exact hs
  refine .modCore ?_ fun _ hk => hk.modEntry
  split
  · exact hs.fillStart
  · exact hs

theorem State.MemWf.rowFail {c n : ℕ} {write : Bool} {e : AccErr} (hs : s.MemWf) : (s.rowFail c n write e).MemWf := by
  unfold State.rowFail
  dsimp only
  split
  · exact hs.engAsk
  · exact hs.dropAnswers.engFail.modCore fun _ hk => hk.modEntry

theorem State.MemWf.rowGo {c n : ℕ} (hs : s.MemWf) : (s.rowGo c n).MemWf := by
  unfold State.rowGo
  dsimp only
  split
  · exact hs
  split
  · exact hs
  split
  · exact hs.rowFail
  next he1 =>
    split
    · exact hs.rowFail
    next he2 => exact .modCore (.dropAnswers ((State.MemWf.engWrite
        (hs.engRead.of_ok he1)).of_ok he2)) fun _ hk => hk.modEntry

theorem State.MemWf.execShuttleRowCopy {core entry : ℕ} (hs : s.MemWf) :
    NextWf (execShuttleRowCopy core entry s) := by
  unfold Machine.execShuttleRowCopy
  split
  · exact hs
  · exact hs.rowGo

theorem State.MemWf.execShuttleCompletionPost {core : ℕ} (hs : s.MemWf) :
    NextWf (execShuttleCompletionPost core s) := by
  unfold Machine.execShuttleCompletionPost
  dsimp only
  split
  · exact hs
  · exact hs.fillDone.modCore fun _ hk => hk.modEntry

/-! ### The functions of Machine/Eret -/

theorem State.MemWf.substitute {v : Word} (hs : s.MemWf) : (s.substitute o v).MemWf := by
  unfold State.substitute
  dsimp only
  split
  · exact hs.retireOp
  split
  · exact hs.finishN
  · exact hs.finish

theorem State.MemWf.payOwed {c iid : ℕ} (hs : s.MemWf) : (s.payOwed c iid).MemWf := by
  unfold State.payOwed
  split
  · exact hs
  split
  · exact .raise (hs.modCore fun _ hk => hk)
  · exact hs

theorem Core.MemWf.offLanes {iid slot : ℕ} {idxs : List ℕ} (hk : k.MemWf) : (k.offLanes iid slot idxs).MemWf :=
  hk

theorem State.MemWf.substTrap {t : Trap} {v : Word} (hs : s.MemWf) : (s.substTrap c t v).MemWf := by
  unfold State.substTrap
  dsimp only
  split
  · exact hs
  refine .payOwed ?_
  split
  · split
    · exact .substitute (.modCore (hs.modCore fun _ hk => .unpark hk) fun _ hk => hk)
    · exact hs.modCore fun _ hk => .unpark hk
  · exact hs.modCore fun _ hk => .unpark hk
  split
  · exact .substitute (hs.modCore fun _ hk => .offLanes (.unpark hk))
  · exact hs.modCore fun _ hk => .unpark hk

theorem State.MemWf.remap {c iid : ℕ} (hs : s.MemWf) : (s.remap c iid).MemWf := by
  have hroom : ∀ n l size nslot, (Core.makeRoom n { s.core c with mappings := l } size nslot).1.MemWf :=
    fun _ _ _ _ => Core.MemWf.makeRoom (hs.core c)
  unfold State.remap
  dsimp only
  split
  · exact hs
  split
  · exact hs
  split
  · exact hs
  split
  · exact hs.mapTrap.modCore_same fun _ => rfl
  split
  · exact hs.mapTrap.modCore_same fun _ => rfl
  split
  · exact hs.mapTrap.modCore_same fun _ => rfl
  split
  · exact hs.setCore (hroom _ _ _ _)
  split
  · exact hs.mapTrap.modCore_same fun _ => rfl
  · exact hs.setCore (.with_mapping (.addMapping (hroom _ _ _ _)))

theorem State.MemWf.resumeInst {c iid : ℕ} {t : Trap} {v : Word} (hs : s.MemWf) : (s.resumeInst c iid t v).MemWf := by
  unfold State.resumeInst
  dsimp only
  refine .payOwed ?_
  split
  · refine .remap ?_
    refine .modCore ?_ fun _ hk => hk.unpark
    split
    · split
      · exact hs.modCore fun _ hk => hk
      · exact hs
    · exact hs
  refine .modCore ?_ fun _ hk => hk.unpark
  split
  · split
    · exact hs.modCore fun _ hk => hk
    · exact hs
  · exact hs

theorem Core.MemWf.freeEntry {e : ℕ} (hk : k.MemWf) : (k.freeEntry e).MemWf := hk.modEntry

theorem State.MemWf.tryAgain {src : TrapSrc} (hs : s.MemWf) : (s.tryAgain c src).MemWf := by
  unfold State.tryAgain
  dsimp only
  split
  · exact .rowGo (hs.modCore fun _ hk => hk.freeEntry)
  · split
    · exact .reelGo (hs.modCore fun _ hk => hk)
    · exact hs.modCore fun _ hk => hk
  · exact .nodeGo (hs.modCore fun _ hk => hk)
  · exact hs

theorem State.MemWf.resume {t : Trap} {v : Word} (hs : s.MemWf) : (s.resume c t v).MemWf := by
  unfold State.resume
  dsimp only
  split
  · exact hs.tryAgain.modLaunch
  · exact hs.tryAgain
  · exact hs.tryAgain
  · exact hs.tryAgain.resumeInst
  · exact hs.tryAgain

theorem Core.MemWf.retrySpill {t : Trap} (hk : k.MemWf) : (k.retrySpill t).MemWf := by
  unfold Core.retrySpill
  split
  · exact hk
  · exact hk

theorem State.MemWf.endByHandler {c code : ℕ} (hs : s.MemWf) : (s.endByHandler c code).MemWf := hs.endLaunch

theorem State.MemWf.eretAct {c addr : ℕ} (hs : s.MemWf) : (s.eretAct c addr).MemWf := by
  unfold State.eretAct
  dsimp only
  split
  · exact hs
  split
  · exact .resume (hs.setCore (.retrySpill (hs.core _)))
  · split
    · exact .substTrap (hs.setCore (.retrySpill (hs.core _)))
    · exact .endByHandler (hs.setCore (.retrySpill (hs.core _)))
  · exact .endByHandler (hs.setCore (.retrySpill (hs.core _)))

/-! ### The functions of Machine/Arbour -/

theorem State.MemWf.completeHeld {s : State} {c : ℕ} {p : Held → Bool} {v : Word} {n : ℕ} (hs : s.MemWf) :
    (s.completeHeld c p v n).MemWf := by
  unfold State.completeHeld
  split
  · exact hs
  split
  · exact hs
  · exact .completeHeld (hs.completeAt fun _ _ ht => ht.finishC)

theorem State.MemWf.closeArbour {lid : ℕ} (hs : s.MemWf) : (s.closeArbour lid).MemWf := by
  unfold State.closeArbour
  dsimp only
  split
  · exact hs
  split
  · exact hs
  · exact hs.modLaunch.foldl fun _ _ ht => ht.completeHeld

theorem State.MemWf.execArbourArrival {core : ℕ} (hs : s.MemWf) : NextWf (execArbourArrival core s) := by
  unfold Machine.execArbourArrival
  dsimp only
  split
  · split
    · exact hs.takeHeld
    split
    · exact hs
    · exact .closeArbour (.modLaunch (hs.modCore fun _ hk => hk))
  · exact hs

theorem State.MemWf.waitTrap {hd : Held} {cause addr detail aux : ℕ} (hs : s.MemWf) :
    (s.waitTrap c hd cause addr detail aux).MemWf := by
  unfold State.waitTrap
  dsimp only
  split
  · exact hs
  split
  · exact hs
  · exact hs.raise

theorem State.MemWf.stepTimeout {n : ℕ} (hs : s.MemWf) : (s.stepTimeout l n).MemWf := by
  unfold State.stepTimeout
  refine hs.foldl fun _ _ ht => ?_
  split
  · exact ht.waitTrap
  · exact ht

theorem State.MemWf.execBarrierTimeout {core k : ℕ} (hs : s.MemWf) : NextWf (execBarrierTimeout core k s) := by
  unfold Machine.execBarrierTimeout
  dsimp only
  split
  · split
    · exact hs
    split
    · exact hs.stepTimeout
    · split
      · exact hs
      · exact hs.waitTrap
    · exact hs.waitTrap
    · exact hs
  · exact hs

theorem State.MemWf.execQueueStall {core : ℕ} {what : StallAt} (hs : s.MemWf) :
    NextWf (execQueueStall core what s) := by
  unfold Machine.execQueueStall
  dsimp only
  split
  · exact hs
  split
  · split
    · exact hs
    split
    · exact hs.waitTrap
    · exact hs
  split
  · exact hs
  split
  · exact hs.raise
  · exact hs

/-! ### The functions of Machine/Commit -/

theorem State.MemWf.acquireSeg {counted : Bool} {g : Seg} (hs : s.MemWf) : (s.acquireSeg c i counted g).MemWf := by
  unfold State.acquireSeg
  split
  · exact hs.tileAcquire
  · exact hs

theorem State.MemWf.commitSeg {atomic counted : Bool} {rel : Option ℕ} {g : Seg} (hs : s.MemWf) :
    (s.commitSeg c i atomic counted rel g).MemWf := by
  unfold State.commitSeg
  dsimp only
  split
  · refine .countLine ?_
    split
    · refine .markRelease ?_
      split
      · refine .recordAcc ?_
        refine .performWrite ?_
        split
        · exact hs.acquireSeg.raiseEpoch
        · exact hs.acquireSeg
      refine .performWrite ?_
      split
      · exact hs.acquireSeg.raiseEpoch
      · exact hs.acquireSeg
    split
    · refine .recordAcc ?_
      refine .performWrite ?_
      split
      · exact hs.acquireSeg.raiseEpoch
      · exact hs.acquireSeg
    refine .performWrite ?_
    split
    · exact hs.acquireSeg.raiseEpoch
    · exact hs.acquireSeg
  split
  · refine .markRelease ?_
    split
    · refine .recordAcc ?_
      refine .performWrite ?_
      split
      · exact hs.acquireSeg.raiseEpoch
      · exact hs.acquireSeg
    refine .performWrite ?_
    split
    · exact hs.acquireSeg.raiseEpoch
    · exact hs.acquireSeg
  split
  · refine .recordAcc ?_
    refine .performWrite ?_
    split
    · exact hs.acquireSeg.raiseEpoch
    · exact hs.acquireSeg
  refine .performWrite ?_
  split
  · exact hs.acquireSeg.raiseEpoch
  · exact hs.acquireSeg

theorem State.MemWf.commitPieces {s : State} {c : ℕ} {i : Instance} {atomic counted : Bool} {rel : Option ℕ}
    {l : List Seg} (hs : s.MemWf) :
    (s.commitPieces c i atomic counted rel l).MemWf := by
  unfold State.commitPieces
  split
  · exact hs
  · exact hs.commitSeg.commitPieces

theorem State.MemWf.commitStores (hs : s.MemWf) : (s.commitStores c i).MemWf := by
  refine hs.foldl fun t e ht => ?_
  split
  · exact ht.commitPieces
  · exact ht.foldl fun _ _ hu => hu.commitSeg
  · exact ht

theorem State.MemWf.commitPush {slot va : ℕ} {loc : Loc} {ret : ℕ} (hs : s.MemWf) :
    Gives State.MemWf (s.commitPush c i slot va loc ret) := by
  unfold State.commitPush
  dsimp only
  split
  · trivial
  split
  · trivial
  · trivial
  · exact hs.commitSeg.modCore fun _ hk => hk

theorem State.MemWf.commitSret {run : Run} (hs : s.MemWf) : (s.commitSret c i run).MemWf := by
  refine .modCore_same ?_ fun _ => rfl
  dsimp only
  split
  · exact hs.raiseEpoch
  split
  · exact hs.raiseEpoch.takeHeld
  · exact .ite hs.raiseEpoch.takeHeld.tagTrap (.retireOp (hs.raiseEpoch.takeHeld.modCore fun _ hk => hk.sendTo))

theorem State.MemWf.closeNodes (hs : s.MemWf) : (s.closeNodes c).MemWf := by
  refine .modCore_same (hs.foldl fun t p ht => ?_) fun _ => rfl
  split
  · exact ht.withdrawFault
  · exact ht

theorem State.MemWf.commitEndl (hs : s.MemWf) : (s.commitEndl c).MemWf :=
  .closeArbour (.modLaunch (hs.closeNodes.modCore fun _ hk => hk))

theorem State.MemWf.commitPort {q : ℕ} {l : Lane} (hs : s.MemWf) : Gives State.MemWf (s.commitPort c i q l) := by
  unfold State.commitPort
  dsimp only
  split
  · trivial
  split
  next he => exact hs.raiseEpoch.pushQueue.of_ok he
  · trivial

theorem State.MemWf.commitScatter {id : ℕ} {w : SWrite} (hs : s.MemWf) :
    Gives State.MemWf (s.commitScatter c i id w) := by
  unfold State.commitScatter
  dsimp only
  split
  · exact hs
  split
  · trivial
  · exact hs.modStore

theorem State.MemWf.commitEffect {e : Effect} (hs : s.MemWf) : Gives State.MemWf (s.commitEffect c i e) := by
  unfold State.commitEffect
  dsimp only
  split
  · exact hs
  · exact hs
  · exact hs.modCore fun _ hk => hk
  · exact hs.setCore (.modColour (hs.core _))
  · exact hs.commitPort
  · split
    · trivial
    · exact hs.setCore (.writeSr (hs.core _))
  · exact hs.commitPush
  · exact hs.setCore (.modColour (hs.core _))
  · exact hs.commitSret
  · split
    · trivial
    · exact hs.eretAct
  · exact hs.commitEndl
  · exact hs.commitScatter

theorem State.MemWf.commitEffects (hs : s.MemWf) : (State.commitEffects c i s).1.MemWf := by
  refine List.foldlRecOn (motive := fun q : State × List CommitStop => q.1.MemWf) _ _ hs fun q hq e _ => ?_
  split
  next he => exact hq.commitEffect.of_ok he
  · exact hq

theorem State.MemWf.dropCommitAsks {c iid : ℕ} (hs : s.MemWf) : (s.dropCommitAsks c iid).MemWf := hs

theorem State.MemWf.tryCommit (hs : s.MemWf) : Gives State.MemWf (s.tryCommit c i) := by
  unfold State.tryCommit
  split
  · trivial
  · exact hs.commitStores.commitEffects.dropCommitAsks.modCore fun _ hk => hk

theorem State.MemWf.askCommit (hs : s.MemWf) : (s.askCommit c i).MemWf := hs.askFor

theorem State.MemWf.raiseCommit {s0 : State} {t : Trap} (hs0 : s0.MemWf) : (s0.raiseCommit c i t).MemWf := by
  unfold State.raiseCommit
  dsimp only
  refine .raise ?_
  split
  · exact hs0.dropCommitAsks.notePoisoned.postRec
  split
  · exact hs0.dropCommitAsks.noteFar
  · exact hs0.dropCommitAsks

theorem State.MemWf.stallCommit {q : Option ℕ} (hs : s.MemWf) : (s.stallCommit c i q).MemWf := by
  unfold State.stallCommit
  refine hs.modCore fun _ hk => ?_
  split
  · exact hk
  split
  · exact hk
  · exact hk

theorem State.MemWf.spillFault {c q : ℕ} {e : XFault} {va : ℕ} (hs : s.MemWf) : (s.spillFault c q e va).MemWf := by
  unfold State.spillFault
  dsimp only
  refine .raise ?_
  split
  · exact .noteFar (hs.modCore fun _ hk => hk)
  · exact .postRec (.notePoisoned (hs.modCore fun _ hk => hk))

theorem State.MemWf.execInstanceCommit {core : ℕ} (hs : s.MemWf) : NextWf (execInstanceCommit core s) := by
  unfold Machine.execInstanceCommit
  split
  · exact hs
  split
  · exact hs
  split
  next he1 => exact hs.tryCommit.of_ok he1
  · exact hs.raiseCommit
  · exact hs.stallCommit
  · exact hs.spillFault
  · exact hs.askCommit
  · exact hs

theorem State.MemWf.execTrapDelivery {core : ℕ} (hs : s.MemWf) : NextWf (execTrapDelivery core s) := by
  unfold Machine.execTrapDelivery
  dsimp only
  split
  · exact hs
  split
  · exact hs.setCore (hs.core _)
  · exact .deliverTrap (hs.setCore (hs.core _))

/-! ### The functions of Machine/WorldStep -/

theorem State.MemWf.execScatterWriteBuffer {part store n : ℕ} (hs : s.MemWf) :
    NextWf (execScatterWriteBuffer part store n s) := by
  unfold Machine.execScatterWriteBuffer
  dsimp only
  split
  · exact hs
  split
  · exact hs
  split
  · exact hs.modStore
  · exact hs.modStore.bufferWrite

theorem State.MemWf.execWorldStepArrival {core : ℕ} (hs : s.MemWf) : NextWf (execWorldStepArrival core s) := by
  unfold Machine.execWorldStepArrival
  dsimp only
  split
  · exact hs
  split
  · exact hs
  · exact .modStore (hs.modCore fun _ hk => hk)

theorem State.MemWf.execWorldStepClose {part store : ℕ} (hs : s.MemWf) :
    NextWf (execWorldStepClose part store s) := by
  unfold Machine.execWorldStepClose
  dsimp only
  split
  · exact hs
  split
  · exact hs
  split
  · exact hs
  · exact hs.closeStep.foldl fun _ _ ht1 => ht1.completeHeld

theorem State.MemWf.discardSteps {lid : ℕ} (hs : s.MemWf) : (s.discardSteps lid).MemWf :=
  hs.foldl fun _ _ ht => ht.unbindStore

theorem State.MemWf.execProxyAbsenceReceive {module gid : ℕ} (hs : s.MemWf) :
    NextWf (execProxyAbsenceReceive module gid s) := .leaveColls hs

theorem State.MemWf.execProxyWithdrawalReceive {module gid : ℕ} (hs : s.MemWf) :
    NextWf (execProxyWithdrawalReceive module gid s) := hs

/-! ### The functions of Machine/Pavilion -/

theorem State.MemWf.noteDevice {p lnum : ℕ} {e : PavFault} (hs : s.MemWf) : (s.noteDevice p lnum e).MemWf := by
  unfold State.noteDevice
  dsimp only
  split
  · refine .checkRoute ?_
    split
    · exact hs.postRec
    · exact hs
  split
  · exact hs.postRec
  · exact hs

theorem State.MemWf.writePieces {l : List (Loc × ℕ)} {l1 : List Byte} {t : State} (ht : t.MemWf) :
    (writePieces l l1 t).MemWf := by
  unfold Machine.writePieces
  split
  · exact ht
  · exact ht.performWrite.writePieces

theorem State.MemWf.pavFault {e : PavFault} {owner : FaultOwner} (hs : s.MemWf) : (s.pavFault l e owner).1.MemWf :=
  hs.noteDevice.serviceFault

theorem State.MemWf.pavProtection {e : PavFault} (hs : s.MemWf) : (s.pavProtection l e).MemWf :=
  hs.noteDevice.postRec

theorem State.MemWf.writeCompletion {p : ℕ} {r : LaunchRec} {status detail : ℕ} (hs : s.MemWf) :
    (s.writeCompletion p r status detail).MemWf := by
  unfold State.writeCompletion
  dsimp only
  split
  · exact hs.tellHost
  split
  · exact hs.writePieces.clearRecs.foldl fun _ _ ht => ht.noteHost
  · exact hs.noteDevice.postRec

theorem State.MemWf.sendVector {p : ℕ} {r : LaunchRec} (hs : s.MemWf) : (s.sendVector p r).MemWf := by
  unfold State.sendVector
  split
  · exact hs.emit
  · exact hs

theorem State.MemWf.malformed {p : ℕ} {r : LaunchRec} {check : ℕ} (hs : s.MemWf) : (s.malformed p r check).MemWf := by
  unfold State.malformed
  dsimp only
  refine .postRec ?_
  split
  · exact hs.writeCompletion.sendVector
  · exact hs

theorem Core.memWf_fresh {supvec : ℕ} {pl : Placed} : (k.fresh supvec pl).MemWf := Core.memWf_reset

theorem Core.memWf_idle : k.idle.MemWf := Core.memWf_reset

theorem State.MemWf.placeOn {cs : List ℕ} (hs : s.MemWf) : (s.placeOn l cs).MemWf :=
  hs.modLaunch.foldl fun _ _ ht => ht.modCore fun _ _ => Core.memWf_fresh

/-! ### The functions of Machine/Launches -/

theorem State.MemWf.settleResize {p : ℕ} (hs : s.MemWf) : (s.settleResize p).MemWf := by
  unfold State.settleResize
  dsimp only
  split
  · exact hs
  · exact .modPart hs

theorem State.MemWf.settleRetire (hs : s.MemWf) : s.settleRetire.MemWf :=
  .ite hs hs

theorem State.MemWf.settle {p : ℕ} (hs : s.MemWf) : (s.settle p).MemWf := hs.settleRetire.settleResize

theorem State.MemWf.withdrawProxies (hs : s.MemWf) : (s.withdrawProxies l).MemWf :=
  .modLaunch (hs.foldl fun _ _ ht => ht.sendPacket)

theorem State.MemWf.withdrawFaults (hs : s.MemWf) : (s.withdrawFaults l).MemWf :=
  hs.foldl fun _ _ ht => ht.withdrawFault

theorem State.MemWf.finishLaunch {status detail : ℕ} (hs : s.MemWf) : (s.finishLaunch l status detail).MemWf := by
  have h1 : (((s.withdrawFaults l).discardSteps l.lid).withdrawProxies l).MemWf :=
      hs.withdrawFaults.discardSteps.withdrawProxies
  have h2 : ∀ asks, State.MemWf { ((s.withdrawFaults l).discardSteps l.lid).withdrawProxies l with
      images := (((s.withdrawFaults l).discardSteps l.lid).withdrawProxies l).images.filter (fun x =>
          x.lid != l.lid),
      asks := asks } := fun _ =>
    h1.with_images fun x hx => h1.of_mem_images (List.mem_of_mem_filter hx)
  exact State.MemWf.settle (.modPart (.with_launches (.sendVector (.writeCompletion (.foldl (.leaveColls
      (h2 _)) fun _ _ ht =>
    ht.modCore fun _ _ => Core.memWf_idle)))))

theorem State.MemWf.execLaunchComplete {lid : ℕ} (hs : s.MemWf) : NextWf (execLaunchComplete lid s) := by
  unfold Machine.execLaunchComplete
  split
  · exact hs
  split
  · split
    · exact hs.finishLaunch
    · exact hs
  split
  · exact hs.finishLaunch
  · exact hs

theorem State.MemWf.rejectWindow {p offset detail : ℕ} (hs : s.MemWf) : (s.rejectWindow p offset detail).MemWf :=
  hs.postRec

theorem State.MemWf.windowWrite {p q offset o : ℕ} {bytes : List Byte} (hs : s.MemWf) :
    (s.windowWrite p q offset o bytes).MemWf := by
  unfold State.windowWrite
  dsimp only
  split
  · exact hs.rejectWindow
  split
  · exact hs.rejectWindow
  · exact hs

theorem State.MemWf.execLaunchWindowWrite {vf : Option ℕ} {offset : ℕ} {bytes : List Byte} (hs : s.MemWf) :
    NextWf (execLaunchWindowWrite vf offset bytes s) := by
  unfold Machine.execLaunchWindowWrite
  dsimp only
  split
  · exact hs
  split
  · split
    · exact hs.windowWrite
    · exact hs
  split
  · exact hs.windowWrite
  · exact hs

theorem State.MemWf.countAccepted {p q : ℕ} (hs : s.MemWf) : (s.countAccepted p q).MemWf := hs.modPart

theorem State.MemWf.writeSpill {p i : ℕ} {bytes : List Byte} (hs : s.MemWf) : (s.writeSpill p i bytes).MemWf :=
  hs.writePieces.clearRecs

theorem State.MemWf.spillBad {write : Bool} (hs : s.MemWf) : (s.spillBad l write).MemWf := hs.postRec.endLaunch

theorem State.MemWf.acceptRecord {p q : ℕ} {bytes : List Byte} {bad : Bool} (hs : s.MemWf) :
    (s.acceptRecord p q bytes bad).MemWf := by
  unfold State.acceptRecord
  split
  · have hspill : ∀ (b : Prop) [Decidable b] n, State.MemWf
        (if b then (s.countAccepted p q).writeSpill p n bytes else s.countAccepted p q) :=
      fun _ _ _ => .ite hs.countAccepted.writeSpill hs.countAccepted
    have hlaunch : ∀ (t : State) l n, t.MemWf → ({ t with launches := l, nextLid := n } : State).MemWf :=
      fun _ _ _ ht => ht
    have hnew := fun b [Decidable b] n l lid => hlaunch _ l lid (hspill b n)
    exact .ite (hnew ..).spillBad (.ite (hnew ..).endLaunch (hnew ..))
  · exact hs.countAccepted.malformed

theorem State.MemWf.execLaunchAccept {part prio : ℕ} {bad : Bool} (hs : s.MemWf) :
    NextWf (execLaunchAccept part prio bad s) := by
  unfold Machine.execLaunchAccept
  dsimp only
  split
  · exact hs
  split
  · exact hs
  · exact .acceptRecord hs

theorem State.MemWf.execSpillReturn {part prio : ℕ} {bad : Bool} (hs : s.MemWf) :
    NextWf (execSpillReturn part prio bad s) := by
  unfold Machine.execSpillReturn
  dsimp only
  split
  · exact hs
  split
  · exact hs
  split
  · exact hs.spillBad
  · exact hs.modLaunch

theorem State.MemWf.execWaitWordPoll {lid : ℕ} (hs : s.MemWf) : NextWf (execWaitWordPoll lid s) := by
  unfold Machine.execWaitWordPoll
  dsimp only
  split
  · exact hs
  split
  · exact hs
  split
  · split
    · exact hs.modLaunch
    · exact hs
  split
  · exact hs.pavFault.modLaunch
  · exact hs.pavProtection.endLaunch

theorem State.MemWf.execLaunchAging {lid us : ℕ} (hs : s.MemWf) : NextWf (execLaunchAging lid us s) := by
  unfold Machine.execLaunchAging
  split
  · exact hs
  split
  · exact hs.modLaunch
  · exact hs

theorem State.MemWf.requestPreempt {s0 : State} {lid : ℕ} {r : PreReason} (hs0 : s0.MemWf) :
    (s0.requestPreempt lid r).MemWf := by
  unfold State.requestPreempt
  dsimp only
  split
  · exact hs0.modLaunch
  split
  · exact hs0.modLaunch.modLaunch
  · exact hs0.modLaunch.modLaunch
  · exact hs0.modLaunch.modLaunch
  · split
    · exact .modLaunch (hs0.modLaunch.withdrawFaults.foldl fun _ _ ht => ht.modCore fun _ _ => Core.memWf_idle)
    · exact hs0.modLaunch.modLaunch
  · exact hs0.modLaunch

theorem State.MemWf.priorityPreempt (hs : s.MemWf) : (s.priorityPreempt l).MemWf := by
  unfold State.priorityPreempt
  split
  · exact hs
  split
  · exact hs
  · exact hs.foldl fun _ _ ht => ht.requestPreempt

theorem State.MemWf.resumeOn {cs : List ℕ} (hs : s.MemWf) : (s.resumeOn l cs).MemWf :=
  State.MemWf.foldl (.modLaunch hs) fun _ _ ht => ht.modCore fun _ _ => Core.memWf_reset

theorem State.MemWf.tryPlace {lid : ℕ} (hs : s.MemWf) : (s.tryPlace lid).MemWf := by
  unfold State.tryPlace
  split
  · exact hs
  split
  · exact hs
  split
  · split
    · exact hs.resumeOn
    · exact hs.placeOn.settle
  · exact hs.priorityPreempt

theorem State.MemWf.execPlacementPass {part : ℕ} (hs : s.MemWf) : NextWf (execPlacementPass part s) :=
  hs.foldl fun _ _ ht => ht.tryPlace

theorem State.MemWf.execLaunchResume {lid : ℕ} (hs : s.MemWf) : NextWf (execLaunchResume lid s) := by
  unfold Machine.execLaunchResume
  split
  · exact hs
  split
  · exact hs
  split
  · exact hs.tryPlace
  · exact hs

theorem State.MemWf.layBytes {s : State} {c n n1 : ℕ} {l : List PByte} (hs : s.MemWf) :
    (s.layBytes c n n1 l).MemWf := by
  unfold State.layBytes
  dsimp only
  split
  · exact hs
  split
  · exact hs
  · exact hs.performWrite.layBytes

theorem State.MemWf.startCore {args : List PByte} {c rank : ℕ} (hs : s.MemWf) :
    (s.startCore l args c rank).MemWf := hs.layBytes.modCore fun _ hk => .nameInstance hk

theorem State.MemWf.argFail {owner : FaultOwner} {detail : ℕ} {e : PavFault} (hs : s.MemWf) :
    (s.argFail l owner detail e).MemWf := by
  unfold State.argFail
  dsimp only
  split
  · exact hs.pavFault.modLaunch
  · exact hs.pavProtection.endLaunch

theorem State.MemWf.execArgumentCopy {lid : ℕ} (hs : s.MemWf) : NextWf (execArgumentCopy lid s) := by
  unfold Machine.execArgumentCopy
  dsimp only
  split
  · exact hs
  split
  · exact hs
  split
  · exact hs.argFail
  split
  · exact hs.argFail
  split
  · exact hs.endLaunch
  · exact .modLaunch (hs.foldl fun _ _ ht => ht.startCore)

theorem State.MemWf.stopIfDrained {lid : ℕ} (hs : s.MemWf) : (s.stopIfDrained lid).MemWf := by
  unfold State.stopIfDrained
  split
  · exact hs
  split
  · split
    · exact hs.withdrawFaults.endLaunch
    · exact hs
  · exact hs

theorem State.MemWf.stopLaunch {r : PreReason} {lid : ℕ} (hs : s.MemWf) : (s.stopLaunch r lid).MemWf := by
  unfold State.stopLaunch
  split
  · exact hs
  split
  · exact hs.endLaunch
  · exact hs.endLaunch
  · exact hs.endLaunch
  · exact hs.endLaunch
  · exact hs.requestPreempt.stopIfDrained

theorem State.MemWf.cancel {p lnum : ℕ} (hs : s.MemWf) : (s.cancel p lnum).MemWf :=
  hs.foldl fun _ _ ht => ht.stopLaunch

theorem State.MemWf.execLaunchCancel {part lnum : ℕ} (hs : s.MemWf) : NextWf (execLaunchCancel part lnum s) :=
  hs.cancel

theorem State.MemWf.execLaunchWatchdogExpiry {lid : ℕ} (hs : s.MemWf) : NextWf (execLaunchWatchdogExpiry lid s) := by
  unfold Machine.execLaunchWatchdogExpiry
  dsimp only
  split
  · exact hs
  split
  · exact hs
  · exact .modLaunch (hs.postRec.foldl fun _ _ ht => ht.raise)

theorem State.MemWf.execWatchdogTrapUnanswered {lid : ℕ} (hs : s.MemWf) :
    NextWf (execWatchdogTrapUnanswered lid s) := by
  unfold Machine.execWatchdogTrapUnanswered
  split
  · exact hs
  split
  · exact hs.stopLaunch
  · exact hs

theorem State.MemWf.refusePart {p : ℕ} (hs : s.MemWf) : (s.refusePart p).MemWf := hs.modPart

theorem State.MemWf.measurePart {p : ℕ} (hs : s.MemWf) : (s.measurePart p).MemWf := hs.extend

theorem State.MemWf.enable {p : ℕ} (hs : s.MemWf) : (s.enable p).MemWf := by
  unfold State.enable
  split
  · exact hs
  split
  · exact hs.refusePart
  · exact hs.modPart.measurePart

theorem State.MemWf.disable {p : ℕ} (hs : s.MemWf) : (s.disable p).MemWf := by
  unfold State.disable
  split
  · exact hs.modPart.measurePart
  · exact hs

theorem State.MemWf.execPartitionEnable {part : ℕ} (hs : s.MemWf) : NextWf (execPartitionEnable part s) :=
  hs.enable

theorem State.MemWf.execPartitionDisable {part : ℕ} (hs : s.MemWf) : NextWf (execPartitionDisable part s) :=
  hs.disable

theorem State.MemWf.noFits {p : ℕ} (hs : s.MemWf) : (s.noFits p).MemWf := hs.foldl fun _ _ ht => ht.endLaunch

theorem State.MemWf.grow {p n : ℕ} (hs : s.MemWf) : (s.grow p n).MemWf := .measurePart (.modPart hs)

theorem State.MemWf.shrink {p n : ℕ} (hs : s.MemWf) : (s.shrink p n).MemWf :=
  .settle (.noFits (hs.modPart.measurePart.foldl fun _ _ ht => ht.requestPreempt))

theorem State.MemWf.resize {p n : ℕ} (hs : s.MemWf) : (s.resize p n).MemWf := by
  unfold State.resize
  dsimp only
  split
  · exact hs
  split
  · exact hs.refusePart
  split
  · exact hs.grow
  · exact hs.shrink

theorem State.MemWf.execPartitionResize {part granules : ℕ} (hs : s.MemWf) :
    NextWf (execPartitionResize part granules s) := hs.resize

theorem State.MemWf.retireCore {usable : Bool} (hs : s.MemWf) : (s.retireCore c usable).MemWf := by
  unfold State.retireCore
  dsimp only
  split
  · exact hs
  split
  · exact .settle (.noFits (.settle hs))
  split
  · exact .settle (.noFits (.settle (.requestPreempt hs)))
  · exact .endLaunch (.modLaunch hs)

theorem State.MemWf.execCoreRetire {core : ℕ} {device usable : Bool} (hs : s.MemWf) :
    NextWf (execCoreRetire core device usable s) := by
  unfold Machine.execCoreRetire
  dsimp only
  split
  · refine .retireCore ?_
    split
    · exact hs.postRec
    · exact hs
  split
  · exact hs.postRec
  · exact hs

/-! ### The functions of Machine/Answers -/

theorem State.MemWf.execWithheldFaultRecordPost {queue : ℕ} (hs : s.MemWf) :
    NextWf (execWithheldFaultRecordPost queue s) := by
  unfold Machine.execWithheldFaultRecordPost
  dsimp only
  split
  · exact hs
  split
  · exact hs
  · exact .postRec hs

theorem State.MemWf.retryFault {o : Outstanding} (hs : s.MemWf) : (s.retryFault o).MemWf := by
  unfold State.retryFault
  split
  · split
    · exact hs.modCore fun _ hk => hk
    · exact hs
  · exact hs.modCore fun _ hk => hk
  · exact hs.modCore fun _ hk => hk.modEntry
  · exact hs.modCore fun _ hk => hk
  · exact hs.modCore fun _ hk => hk
  · exact hs.modLaunch
  · exact hs.modLaunch
  · exact hs.modLaunch
  · exact hs
  · exact hs

theorem State.MemWf.execFaultResponseRetry {part id : ℕ} (hs : s.MemWf) :
    NextWf (execFaultResponseRetry part id s) := by
  unfold Machine.execFaultResponseRetry
  split
  · exact hs
  · exact hs.withdrawFault.retryFault

theorem State.MemWf.heldTrap {h : Held} {va lane : ℕ} (hs : s.MemWf) : (s.heldTrap c h va lane).MemWf := by
  unfold State.heldTrap
  dsimp only
  split
  · exact hs
  · exact hs.trapOp

theorem State.MemWf.failFault {o : Outstanding} (hs : s.MemWf) : (s.failFault o).MemWf := by
  unfold State.failFault
  dsimp only
  split
  · split
    · exact hs.takeHeld.heldTrap
    · exact hs
  · exact hs.raise.modCore fun _ hk => hk
  · exact hs.raise.modCore fun _ hk => hk.modEntry
  · split
    · exact hs.raise.reelError
    · exact hs
  · split
    · exact hs.raiseBeside
    · exact hs
  · exact hs.modLaunch.endLaunch
  · exact hs.modLaunch.endLaunch
  · exact hs.modLaunch.endLaunch
  · exact hs
  · exact hs

theorem State.MemWf.execFaultResponseFail {part id : ℕ} (hs : s.MemWf) :
    NextWf (execFaultResponseFail part id s) := by
  unfold Machine.execFaultResponseFail
  split
  · exact hs
  · exact hs.withdrawFault.failFault

/-! ### The functions of Machine/Clock -/

theorem State.MemWf.execSupplySagTrip {die : ℕ} (hs : s.MemWf) : NextWf (execSupplySagTrip die s) := by
  unfold Machine.execSupplySagTrip
  dsimp only
  split
  · exact hs
  · exact hs

theorem State.MemWf.execStretchStepUp {die : ℕ} (hs : s.MemWf) : NextWf (execStretchStepUp die s) := by
  unfold Machine.execStretchStepUp
  dsimp only
  split
  · exact hs
  · exact hs

theorem State.MemWf.execStretchStepDown {die : ℕ} (hs : s.MemWf) : NextWf (execStretchStepDown die s) := by
  unfold Machine.execStretchStepDown
  dsimp only
  split
  · exact hs
  · exact hs

theorem State.MemWf.execPackagePowerOverCap (hs : s.MemWf) : NextWf (execPackagePowerOverCap s) :=
  State.MemWf.with_power hs

theorem State.MemWf.execHardSagStop {die : ℕ} (hs : s.MemWf) : NextWf (execHardSagStop die s) := by
  unfold Machine.execHardSagStop
  dsimp only
  split
  · exact .postRec hs
  · exact hs

theorem State.MemWf.execHardSagRestart {die : ℕ} (hs : s.MemWf) : NextWf (execHardSagRestart die s) := by
  unfold Machine.execHardSagRestart
  dsimp only
  split
  · exact hs
  · exact hs

theorem State.MemWf.execPowerCapWrite {value : Word} (hs : s.MemWf) : NextWf (execPowerCapWrite value s) := hs

/-! ### The functions of Machine/Ecc -/

theorem State.MemWf.freezeMapping {c block elem : ℕ} {unread : List (ℕ × ℕ)} (hs : s.MemWf) :
    (s.freezeMapping c block elem unread).MemWf := hs.modCore fun _ hk => hk

theorem Core.MemWf.retireElem {elem : ℕ} (hk : k.MemWf) : (k.retireElem elem).MemWf := hk

theorem State.MemWf.execConfigEccError {core block elem : ℕ} {corrected : Bool} {unread : List (ℕ × ℕ)}
    (hs : s.MemWf) :
    NextWf (execConfigEccError core block elem corrected unread s) := by
  unfold Machine.execConfigEccError
  dsimp only
  split
  · exact hs
  split
  · exact hs
  split
  · exact hs.setCore (hs.core _)
  split
  · exact hs.setCore (.retireElem (hs.core _))
  · exact hs.freezeMapping

theorem State.MemWf.trapInsts {c block : ℕ} {of : Instance → Bool} {cause addr detail : ℕ} (hs : s.MemWf) :
    (s.trapInsts c block of cause addr detail).MemWf := hs.foldl fun _ _ ht => ht.raiseBeside

theorem State.MemWf.trapBlock {of : Instance → Bool} {cause addr detail : ℕ} (hs : s.MemWf) :
    (s.trapBlock c m of cause addr detail).MemWf := .trapInsts (hs.modCore fun _ hk => hk)

theorem State.MemWf.fetchFail {of : Instance → Bool} {x : XFault} {n : ℕ} (hs : s.MemWf) :
    (s.fetchFail c m of x n).MemWf := by
  unfold State.fetchFail
  split
  · exact hs.noteFar.trapBlock
  · exact hs.notePoisoned.postRec.trapBlock

theorem State.MemWf.resumeMapping (hs : s.MemWf) : (s.resumeMapping c m).MemWf := by
  have hroom : ∀ n l size nslot, (Core.makeRoom n { s.core c with mappings := l } size nslot).1.MemWf :=
    fun _ _ _ _ => Core.MemWf.makeRoom (hs.core c)
  unfold State.resumeMapping
  dsimp only
  split
  · exact hs.setCore (hs.core c)
  split
  · exact hs.trapBlock
  split
  · exact hs.setCore (hroom _ _ _ _)
  split
  · exact hs.trapBlock
  · exact hs
  · exact hs.setCore (hroom _ _ _ _)

theorem State.MemWf.execConfigReload {core block : ℕ} (hs : s.MemWf) : NextWf (execConfigReload core block s) := by
  unfold Machine.execConfigReload
  split
  · exact hs
  split
  · exact hs
  split
  · exact hs.fetchFail
  · exact hs
  next bs _ =>
    generalize sm3First64 bs = sig
    split
    · exact hs.resumeMapping
    · exact State.MemWf.trapBlock (.postRec hs)

/-! ### The functions of Machine/Elem -/

theorem State.MemWf.execConst {value : BitVec 32} (hs : s.MemWf) : NextWf (execConst h value s) := hs.elem1

theorem State.MemWf.execMov (hs : s.MemWf) : NextWf (execMov h s) := hs.elem1

theorem State.MemWf.execAdd {ty : ITy} (hs : s.MemWf) : NextWf (execAdd h ty s) := hs.elem2

theorem State.MemWf.execSub {ty : ITy} (hs : s.MemWf) : NextWf (execSub h ty s) := hs.elem2

theorem State.MemWf.execMul {ty : ITy} (hs : s.MemWf) : NextWf (execMul h ty s) := hs.elem2

theorem State.MemWf.execMulh {ty : ITy} (hs : s.MemWf) : NextWf (execMulh h ty s) := hs.elem2

theorem State.MemWf.execShl {ty : ITy} (hs : s.MemWf) : NextWf (execShl h ty s) := hs.elem2

theorem State.MemWf.execShr {ty : ITy} (hs : s.MemWf) : NextWf (execShr h ty s) := hs.elem2

theorem State.MemWf.execSra {ty : ITy} (hs : s.MemWf) : NextWf (execSra h ty s) := hs.elem2

theorem State.MemWf.execMin {ty : ITy} (hs : s.MemWf) : NextWf (execMin h ty s) := hs.elem2

theorem State.MemWf.execMax {ty : ITy} (hs : s.MemWf) : NextWf (execMax h ty s) := hs.elem2

theorem State.MemWf.execAddsat {ty : ITy} (hs : s.MemWf) : NextWf (execAddsat h ty s) := hs.elem2

theorem State.MemWf.execSubsat {ty : ITy} (hs : s.MemWf) : NextWf (execSubsat h ty s) := hs.elem2

theorem State.MemWf.execPackn {ty : ITy} (hs : s.MemWf) : NextWf (execPackn h ty s) := hs.elem2

theorem State.MemWf.execDotp {ty : ITy} (hs : s.MemWf) : NextWf (execDotp h ty s) := hs.elem2

theorem State.MemWf.execMad {ty : ITy} (hs : s.MemWf) : NextWf (execMad h ty s) := hs.elem3

theorem State.MemWf.execDiv {ty : I32Ty} (hs : s.MemWf) : NextWf (execDiv h ty s) := hs.elem2

theorem State.MemWf.execRem {ty : I32Ty} (hs : s.MemWf) : NextWf (execRem h ty s) := hs.elem2

theorem State.MemWf.execAnd (hs : s.MemWf) : NextWf (execAnd h s) := hs.elem2

theorem State.MemWf.execOr (hs : s.MemWf) : NextWf (execOr h s) := hs.elem2

theorem State.MemWf.execXor (hs : s.MemWf) : NextWf (execXor h s) := hs.elem2

theorem State.MemWf.execAndn (hs : s.MemWf) : NextWf (execAndn h s) := hs.elem2

theorem State.MemWf.execRotl (hs : s.MemWf) : NextWf (execRotl h s) := hs.elem2

theorem State.MemWf.execFrcps (hs : s.MemWf) : NextWf (execFrcps h s) := hs.elem2

theorem State.MemWf.execFrsqs (hs : s.MemWf) : NextWf (execFrsqs h s) := hs.elem2

theorem State.MemWf.execClz (hs : s.MemWf) : NextWf (execClz h s) := hs.elem1

theorem State.MemWf.execPopc (hs : s.MemWf) : NextWf (execPopc h s) := hs.elem1

theorem State.MemWf.execAbs {ty : ITy} (hs : s.MemWf) : NextWf (execAbs h ty s) := hs.elem1

theorem State.MemWf.execNeg {ty : ITy} (hs : s.MemWf) : NextWf (execNeg h ty s) := hs.elem1

theorem State.MemWf.execCmp {ty : CondTy} (hs : s.MemWf) : NextWf (execCmp h ty s) := hs.elemPred

theorem State.MemWf.execTst (hs : s.MemWf) : NextWf (execTst h s) := hs.elemPred

theorem State.MemWf.execSel (hs : s.MemWf) : NextWf (execSel h s) := hs.runOp fun _ => hs.finish

theorem State.MemWf.execExtr {sgn : BitVec 1} {pos len : BitVec 5} (hs : s.MemWf) :
    NextWf (execExtr h sgn pos len s) := hs.elem1

theorem State.MemWf.execIns {pos len : BitVec 5} (hs : s.MemWf) : NextWf (execIns h pos len s) := hs.elem2

theorem State.MemWf.execLea {sh : BitVec 3} (hs : s.MemWf) : NextWf (execLea h sh s) := hs.elem2

theorem State.MemWf.execUnpackn {ty : ITy} {half : BitVec 1} (hs : s.MemWf) : NextWf (execUnpackn h ty half s) :=
  hs.elem1

theorem State.MemWf.execUnt5 {ty : UntTy} (hs : s.MemWf) : NextWf (execUnt5 h ty s) := by
  unfold Machine.execUnt5
  refine hs.runOp fun _ => ?_
  split
  · exact hs.trapOp
  · exact hs.finish

theorem State.MemWf.execAcct {ty : I8Ty} (hs : s.MemWf) : NextWf (execAcct h ty s) := hs.elem2

theorem State.MemWf.execFadd {ty : FTy} (hs : s.MemWf) : NextWf (execFadd h ty s) := hs.elem2

theorem State.MemWf.execFaddRounding {ty : FTy} {rm : Rm} (hs : s.MemWf) : NextWf (execFaddRounding h ty rm s) :=
  hs.elem2

theorem State.MemWf.execFsub {ty : FTy} (hs : s.MemWf) : NextWf (execFsub h ty s) := hs.elem2

theorem State.MemWf.execFsubRounding {ty : FTy} {rm : Rm} (hs : s.MemWf) : NextWf (execFsubRounding h ty rm s) :=
  hs.elem2

theorem State.MemWf.execFmul {ty : FTy} (hs : s.MemWf) : NextWf (execFmul h ty s) := hs.elem2

theorem State.MemWf.execFmulRounding {ty : FTy} {rm : Rm} (hs : s.MemWf) : NextWf (execFmulRounding h ty rm s) :=
  hs.elem2

theorem State.MemWf.execFdiv {ty : FTy} (hs : s.MemWf) : NextWf (execFdiv h ty s) := hs.elem2

theorem State.MemWf.execFdivRounding {ty : FTy} {rm : Rm} (hs : s.MemWf) : NextWf (execFdivRounding h ty rm s) :=
  hs.elem2

theorem State.MemWf.execFma {ty : FTy} (hs : s.MemWf) : NextWf (execFma h ty s) := hs.elem3

theorem State.MemWf.execFmaRounding {ty : FTy} {rm : Rm} (hs : s.MemWf) : NextWf (execFmaRounding h ty rm s) :=
  hs.elem3

theorem State.MemWf.execFsqrt {ty : FTy} (hs : s.MemWf) : NextWf (execFsqrt h ty s) := hs.elem1

theorem State.MemWf.execFsqrtRounding {ty : FTy} {rm : Rm} (hs : s.MemWf) : NextWf (execFsqrtRounding h ty rm s) :=
  hs.elem1

theorem State.MemWf.execFmin {ty : FTy} (hs : s.MemWf) : NextWf (execFmin h ty s) := hs.elem2

theorem State.MemWf.execFmax {ty : FTy} (hs : s.MemWf) : NextWf (execFmax h ty s) := hs.elem2

theorem State.MemWf.execFsgn {ty : FTy} {mode : FsgnMode} (hs : s.MemWf) : NextWf (execFsgn h ty mode s) :=
  hs.elem2

theorem State.MemWf.execFcmp {ty : FTy} {cond : FcmpCond} (hs : s.MemWf) : NextWf (execFcmp h ty cond s) :=
  hs.elemPred

theorem State.MemWf.execFclass {ty : FTy} (hs : s.MemWf) : NextWf (execFclass h ty s) := hs.elem1

theorem State.MemWf.execFcvt {group : BitVec 3} {rm : Rm} {src dst : Fmt} (hs : s.MemWf) :
    NextWf (execFcvt h group rm src dst s) := hs.elem1

theorem State.MemWf.execFrint {ty : FTy} {rm : Rm} (hs : s.MemWf) : NextWf (execFrint h ty rm s) := hs.elem1

theorem State.MemWf.execFexpi {ty : FTy} (hs : s.MemWf) : NextWf (execFexpi h ty s) := hs.elem2

theorem State.MemWf.execFexpiRounding {ty : FTy} {rm : Rm} (hs : s.MemWf) : NextWf (execFexpiRounding h ty rm s) :=
  hs.elem2

theorem State.MemWf.execFgetx {ty : FTy} (hs : s.MemWf) : NextWf (execFgetx h ty s) := hs.elem1

theorem State.MemWf.execFrcp (hs : s.MemWf) : NextWf (execFrcp h s) := hs.elem1

theorem State.MemWf.execFrsq (hs : s.MemWf) : NextWf (execFrsq h s) := hs.elem1

theorem State.MemWf.execFexp2f (hs : s.MemWf) : NextWf (execFexp2f h s) := hs.elem1

theorem State.MemWf.execFlog2f (hs : s.MemWf) : NextWf (execFlog2f h s) := hs.elem1

theorem State.MemWf.execVrun {count first : BitVec 5} (hs : s.MemWf) : NextWf (execVrun h count first s) :=
  hs.runOp fun _ => hs.finish

theorem State.MemWf.execVred {ty : VOp} (hs : s.MemWf) : NextWf (execVred h ty s) := hs.runOp fun _ => hs.finish

theorem State.MemWf.execVscan {ty : VOp} (hs : s.MemWf) : NextWf (execVscan h ty s) :=
  hs.runOp fun _ => hs.finish

theorem State.MemWf.execVbcast {j : BitVec 5} (hs : s.MemWf) : NextWf (execVbcast h j s) := hs.sendData

theorem State.MemWf.execVlane {mode : VlaneMode} {k : BitVec 5} (hs : s.MemWf) : NextWf (execVlane h mode k s) :=
  hs.sendData

theorem State.MemWf.execVshuf (hs : s.MemWf) : NextWf (execVshuf h s) := hs.sendData

theorem State.MemWf.execViota {offset : BitVec 32} (hs : s.MemWf) : NextWf (execViota h offset s) := hs.sendData

/-! ### The functions of Machine/Moves -/

theorem State.MemWf.emptyRep {f : Firing} (hs : s.MemWf) : (s.emptyRep c f).MemWf := by
  unfold State.emptyRep
  split
  · exact hs
  · exact hs.finishM

theorem State.MemWf.start {f : Firing} (hs : s.MemWf) : (s.start c f).1.MemWf := by
  unfold State.start
  split
  · exact hs
  split
  · exact hs.raise
  next i _ =>
    cases f.fbBad i with
    | some p => exact hs.trapOp
    | none => exact .ite_fst hs.emptyRep hs.with_firing

theorem Core.MemWf.stamp {f : Firing} (hk : k.MemWf) : (k.stamp f).1.MemWf := hk

theorem State.MemWf.issue {c elem : ℕ} (hs : s.MemWf) : (s.issue c elem).1.MemWf := by
  unfold State.issue
  dsimp only
  split
  · exact hs
  split
  · exact hs
  · exact .start (hs.setCore (.stamp (hs.core _)))

theorem State.MemWf.take {c elem : ℕ} (hs : s.MemWf) : (s.take c elem).MemWf := by
  unfold State.take
  dsimp only
  split
  · exact hs
  split
  · exact hs
  split
  · split
    · exact .hold (hs.setCore (.stamp (hs.core _)))
    split
    · exact .hold (hs.setCore (.stamp (hs.core _)))
    split
    · exact .hold (hs.setCore (.stamp (hs.core _)))
    · exact .hold (.reachPort (hs.setCore (.stamp (hs.core _))))
  · exact hs

theorem State.MemWf.retry {c n : ℕ} (hs : s.MemWf) : (s.retry c n).1.MemWf := by
  unfold State.retry
  split
  · exact hs
  split
  · exact hs
  · exact hs.takeHeld.start

theorem State.MemWf.move {m : Move} (hs : s.MemWf) : (s.move m).1.MemWf := by
  unfold State.move
  split
  · exact hs
  split
  · exact hs.issue
  · exact hs.take
  · split
    · exact hs.retry
    · exact hs
  split
  · exact hs
  · exact hs

theorem State.MemWf.pick (hs : s.MemWf) : s.pick.1.MemWf := by
  unfold State.pick
  split
  · exact hs
  · exact State.MemWf.move hs

theorem NextWf.settled {x : Host.Outcome State Fault Refusal} (hx : NextWf x) : NextWf (settled x) := by
  cases x with
  | next t => exact State.MemWf.syncFrames hx
  | fault e => trivial
  | refused e => trivial

/-! ### The functions of Machine/Ports -/

theorem State.MemWf.execBurtexAtomic {core : ℕ} (hs : s.MemWf) : NextWf (execBurtexAtomic core s) := by
  unfold Machine.execBurtexAtomic
  split
  · exact hs
  split
  next he1 => exact State.MemWf.execAtom (.of_fst hs.retry he1)
  next he1 => exact State.MemWf.execCas (.of_fst hs.retry he1)
  next he1 => exact .of_fst hs.retry he1

theorem State.MemWf.execAtommodeSwitch {core : ℕ} (hs : s.MemWf) : NextWf (execAtommodeSwitch core s) := by
  unfold Machine.execAtommodeSwitch
  dsimp only
  split
  · exact hs
  split
  · exact hs
  · exact hs.setCore (hs.core _)

theorem State.MemWf.execLockGrant {core : ℕ} (hs : s.MemWf) : NextWf (execLockGrant core s) := by
  unfold Machine.execLockGrant
  split
  · exact hs
  split
  next he1 => exact State.MemWf.execLdlk (.of_fst hs.retry he1)
  next he1 => exact State.MemWf.execAtom (.of_fst hs.retry he1)
  next he1 => exact State.MemWf.execCas (.of_fst hs.retry he1)
  next he1 => exact .of_fst hs.retry he1

theorem State.MemWf.execPageWalk {core va : ℕ} (hs : s.MemWf) : NextWf (execPageWalk core va s) := by
  unfold Machine.execPageWalk
  split
  · exact hs.cacheTlb
  · exact hs
  · exact hs.postPoisonedWalk

theorem State.MemWf.execTlbInvalidate {part size va : ℕ} (hs : s.MemWf) :
    NextWf (execTlbInvalidate part size va s) := by
  unfold Machine.execTlbInvalidate
  dsimp only
  split
  · exact hs
  · exact hs.modPart

theorem State.MemWf.execTlbInvalidateDone {part : ℕ} (hs : s.MemWf) : NextWf (execTlbInvalidateDone part s) := by
  unfold Machine.execTlbInvalidateDone
  dsimp only
  split
  · exact hs
  split
  · exact hs
  · exact .modPart (hs.foldl fun _ _ ht => ht.modCore fun _ hk => hk)

theorem State.MemWf.countStack {pa which : ℕ} (hs : s.MemWf) : (s.countStack pa which).MemWf := hs

theorem State.MemWf.countRow {row : ℕ} (hs : s.MemWf) : (s.countRow row).MemWf := hs

theorem State.MemWf.countHand {h : Handoff} {which : ℕ} (hs : s.MemWf) : (s.countHand h which).MemWf := by
  unfold State.countHand
  split
  · exact hs.countStack
  · exact hs.modCore fun _ hk => hk
  · split
    · exact hs.modCore fun _ hk => hk
    · exact hs.countRow
  split
  · exact hs.countRow
  · exact hs

theorem Core.MemWf.strike {x : Place} (hk : k.MemWf) : (k.strike x).MemWf := by
  unfold Core.strike
  dsimp only
  split
  · exact hk
  · exact hk
  · exact hk
  · exact hk
  · exact hk
  · exact hk

theorem State.MemWf.strike {s : State} {x : Handoff} (hs : s.MemWf) : (s.strike x).MemWf := by
  unfold State.strike
  split
  · exact hs.setPoison
  · exact hs.setPoison
  · split
    · exact hs
    · exact hs.setPoison
  · exact hs.setPoison
  · exact hs.modCore fun _ hk => hk.strike
  · exact hs
  · exact hs

theorem State.MemWf.postLasting {h : Handoff} (hs : s.MemWf) : (s.postLasting h).MemWf := by
  unfold State.postLasting
  dsimp only
  split
  · exact hs.postRec
  · exact hs.postRec
  · exact hs.postRec
  · split
    · exact hs.postRec
    · exact hs.postRec
  · split
    · exact hs.postRec
    · exact hs.postRec
  · split
    · exact hs.postRec
    · exact hs.postRec
  · exact hs
  · exact hs

theorem State.MemWf.handFailed {h : Handoff} (hs : s.MemWf) : (s.handFailed h).MemWf := by
  unfold State.handFailed
  split
  · split
    · exact hs.checkFailed
    · exact hs
  · split
    · exact hs.checkFailed
    · exact hs
  · exact hs

theorem State.MemWf.execHandoverTransfer {hand : Handoff} {res : CheckResult} (hs : s.MemWf) :
    NextWf (execHandoverTransfer hand res s) := by
  unfold Machine.execHandoverTransfer
  split
  · exact hs
  · split
    · exact hs.countHand
    · exact hs.handFailed
  · exact hs.handFailed

theorem State.MemWf.execHandoverRetry {passed : Bool} (hs : s.MemWf) : NextWf (execHandoverRetry passed s) := by
  unfold Machine.execHandoverRetry
  split
  · exact hs
  · have h1 : ∀ l, ({ s with handovers := l } : State).MemWf := fun _ => hs
    dsimp only
    split
    · exact (h1 _).countHand
    · exact (h1 _).strike.countHand.postLasting

/-! ### The functions of Machine/Restore -/

theorem Core.MemWf.load1 {bs : List Byte} (hk : k.MemWf) : (k.load1 bs).MemWf :=
  Memory.wf_memWrite _ _ _ hk

theorem Core.MemWf.load2 {bs : List Byte} (hk : k.MemWf) : (k.load2 bs).MemWf := hk.foldl fun _ _ ht => ht

theorem Core.MemWf.load4 {bs : List Byte} (hk : k.MemWf) : (k.load4 bs).MemWf := hk

theorem Core.MemWf.load5 {bs : List Byte} (hk : k.MemWf) : (k.load5 bs).MemWf := hk

theorem Core.MemWf.load6 {bs : List Byte} (hk : k.MemWf) : (k.load6 bs).MemWf := hk

theorem Core.MemWf.load7 {live : ℕ} {bs : List Byte} (hk : k.MemWf) : (k.load7 live bs).MemWf := hk

theorem Core.MemWf.load8 {bs : List Byte} (hk : k.MemWf) : (k.load8 bs).MemWf := hk

theorem Core.MemWf.load9 {bs : List Byte} (hk : k.MemWf) : (k.load9 bs).MemWf := hk

theorem Core.MemWf.load10 {bs : List Byte} (hk : k.MemWf) : (k.load10 bs).MemWf :=
  Memory.wf_memWrite _ _ _ (Memory.wf_memWrite _ _ _ hk)

theorem Core.MemWf.load3 {bs : List Byte} (hk : k.MemWf) : (k.load3 bs).MemWf := hk.foldl fun _ _ ht => ht

theorem Core.MemWf.loadFull {x : ℕ → List Byte} (hk : k.MemWf) : (k.loadFull x).MemWf := hk

theorem Core.MemWf.loadImage {bs : List Byte} (hk : k.MemWf) : (k.loadImage bs).MemWf := by
  have h0 : ({ k with scratch := k.restoreScratch, scratchPoison := k.restorePoison } : Core).MemWf :=
    Memory.wf_memClear _ _ _ (Memory.wf_memClear _ _ _ hk)
  unfold Core.loadImage
  refine .load3 ?_
  split
  · exact h0.load10.load1.load2.load4.load5.load6.load7.load8.load9.loadFull
  · exact h0.load10.load1.load2.load4.load5.load6.load7.load8.load9

/-! ### The functions of Machine/Preempt -/

theorem State.MemWf.execPreemptGating {lid : ℕ} (hs : s.MemWf) : NextWf (execPreemptGating lid s) := by
  unfold Machine.execPreemptGating
  dsimp only
  split
  · exact hs
  split
  · exact hs
  · exact .modLaunch (.foldl (hs.foldl fun _ _ ht => ht.modCore fun _ hk => hk) fun _ _ ht => ht.sendPacket)

theorem Core.MemWf.restored {k old : Core} {f : ℕ → ℕ} {base : ℕ} (hk : k.MemWf) : (k.restored old f base).MemWf :=
  hk

theorem State.MemWf.drawBanks (hs : s.MemWf) : s.drawBanks.2.MemWf := hs

theorem State.MemWf.saveTrap {addr detail c : ℕ} (hs : s.MemWf) : (s.saveTrap addr detail c).MemWf := hs.raise

theorem State.MemWf.goOn {addr detail c : ℕ} (hs : s.MemWf) : (s.goOn addr detail c).MemWf :=
  .saveTrap (hs.modCore fun _ hk => hk)

theorem State.MemWf.goBack {addr detail c : ℕ} (hs : s.MemWf) : (s.goBack l addr detail c).MemWf := by
  unfold State.goBack
  dsimp only
  split
  · exact hs.saveTrap
  · refine .with_images (.setCore hs.saveTrap ?_) fun x hx => ?_
    · exact Core.memWf_reset
    obtain ⟨y, hy, rfl⟩ := List.mem_map.mp hx
    split
    · exact hs.saveTrap.core c
    · exact hs.saveTrap.of_mem_images hy

theorem State.MemWf.failPreempt {lid addr detail : ℕ} (hs : s.MemWf) : (s.failPreempt lid addr detail).MemWf := by
  unfold State.failPreempt
  split
  · exact hs
  next l _ =>
    have hback : ∀ outs (p : ℕ → Bool), State.MemWf
        (l.cores.foldl (fun s c => if p c then s.goBack l addr detail c else s.goOn addr detail c)
          { s with outstanding := outs }) :=
      fun _ _ => State.MemWf.foldl hs fun _ _ ht => .ite ht.goBack ht.goOn
    have hkeep : ∀ (t : State) p f, t.MemWf →
        ((({ t with images := t.images.filter p } : State).withdrawProxies l).modLaunch lid f).MemWf :=
      fun _ _ _ ht => ht.filter_images.withdrawProxies.modLaunch
    refine .closeArbour ?_
    split
    · exact .modPart (.modLaunch (hkeep _ _ _ (hback ..)))
    · exact hkeep _ _ _ (hback ..)

theorem State.MemWf.probeSave {full inflight : Bool} (hs : s.MemWf) : (s.probeSave c l full inflight).MemWf := by
  unfold State.probeSave
  dsimp only
  split
  · split
    · exact hs.setCore (c := c) (hs.core c)
    · exact hs.postRec.failPreempt
  · exact hs.postRec.failPreempt

theorem State.MemWf.drained {full inflight : Bool} (hs : s.MemWf) : (s.drained c l full inflight).MemWf := by
  unfold State.drained
  split
  · exact .stopIfDrained (hs.modCore fun _ hk => hk)
  · exact hs.probeSave

theorem State.MemWf.execQuiescence {core : ℕ} (hs : s.MemWf) : NextWf (execQuiescence core s) := by
  unfold Machine.execQuiescence
  split
  · exact hs
  split
  · exact hs.drained
  · exact hs

theorem State.MemWf.execDrainLimitExpiry {core : ℕ} (hs : s.MemWf) : NextWf (execDrainLimitExpiry core s) := by
  unfold Machine.execDrainLimitExpiry
  split
  · exact hs
  · exact hs.drained

theorem State.MemWf.saveBytes {place : State → ℕ → Except PavFault Loc} {va : ℕ} {l : List (ℕ × ℕ)}
    {l1 : List Byte} {t : State} (ht : t.MemWf) :
    (saveBytes place va l l1 t).1.MemWf := by
  unfold Machine.saveBytes
  split
  · exact ht
  split
  · exact ht
  · exact ht.performWrite.saveBytes

theorem State.MemWf.saveRange {p va : ℕ} {bs : List Byte} (hs : s.MemWf) : (s.saveRange p va bs).1.MemWf :=
  hs.saveBytes

theorem State.MemWf.saveFault {e : PavFault} {off next : ℕ} {sv : Saving} (hs : s.MemWf) :
    (s.saveFault c l e off next sv).MemWf := hs.noteDevice.serviceFault.modCore fun _ hk => hk

theorem State.MemWf.saveCands {c p : ℕ} {l : List (ℕ × Binding)} {t : State} (ht : t.MemWf) :
    (saveCands c p l t).1.MemWf := by
  unfold Machine.saveCands
  split
  · exact ht
  split
  · exact ht.saveCands
  split
  · exact ht
  split
  next he1 => exact .saveCands (.of_fst ht.saveBytes he1)
  next he1 => exact .of_fst ht.saveBytes he1

theorem State.MemWf.releaseSaved {lid : ℕ} (hs : s.MemWf) : (s.releaseSaved lid).MemWf := by
  unfold State.releaseSaved
  dsimp only
  split
  · exact hs
  split
  · exact hs
  · exact .settle (.noFits (.settleRetire (.modLaunch (.leaveColls (.with_asks
      (hs.withdrawFaults.foldl fun _ _ ht => ht.modCore fun _ _ => Core.memWf_idle))))))

theorem State.MemWf.append_image {img : Image} (hs : s.MemWf) (himg : img.kept.MemWf) : ({ s with images :=
  s.images ++ [img] } : State).MemWf := by
  refine hs.with_images fun x hx => ?_
  obtain hold | hnew := List.mem_append.mp hx
  · exact hs.of_mem_images hold
  · obtain rfl := List.mem_singleton.mp hnew
    exact himg

theorem State.MemWf.execImageSave {core : ℕ} (hs : s.MemWf) : NextWf (execImageSave core s) := by
  unfold Machine.execImageSave
  extract_lets k
  split
  · split
    · exact hs
    extract_lets slot
    split
    next he => exact (hs.saveCands.of_fst he).saveFault
    next s1 he =>
      have h1 := hs.saveCands.of_fst he
      extract_lets k1 sections body
      split
      next he => exact (h1.saveRange.of_fst he).saveFault
      next he =>
        have h2 := h1.saveRange.of_fst he
        split
        next he => exact (h2.saveRange.of_fst he).saveFault
        next he =>
          have h3 := h2.saveRange.of_fst he
          exact State.MemWf.releaseSaved (.modCore_same (.append_image h3 (h3.core core)) fun _ => rfl)
  · exact hs

theorem State.MemWf.execSaveResume {part id : ℕ} (hs : s.MemWf) : NextWf (execSaveResume part id s) := by
  unfold Machine.execSaveResume
  dsimp only
  split
  · exact hs
  split
  · split
    · exact hs.withdrawFault.modCore fun _ hk => hk
    · exact hs.withdrawFault
  · exact hs.withdrawFault

theorem State.MemWf.execSaveAbandon {part id : ℕ} (hs : s.MemWf) : NextWf (execSaveAbandon part id s) := by
  unfold Machine.execSaveAbandon
  dsimp only
  split
  · exact hs
  split
  · split
    · exact hs.withdrawFault.failPreempt
    · exact hs.withdrawFault
  · exact hs.withdrawFault.endLaunch
  · exact hs.withdrawFault

theorem State.MemWf.execPreemptRetry {lid : ℕ} (hs : s.MemWf) : NextWf (execPreemptRetry lid s) := by
  unfold Machine.execPreemptRetry
  split
  · exact hs
  split
  · exact hs.modLaunch
  · exact hs

theorem State.MemWf.remapAll {s : State} {c : ℕ} {l : List Mapping} {k : Core} (hs : s.MemWf) (hk : k.MemWf) :
    (s.remapAll c l k).1.MemWf := by
  unfold State.remapAll
  dsimp only
  split
  · exact hk
  · exact hs.remapAll hk

theorem State.MemWf.restoreTrap {q : Mapping × Except MapErr ℕ} (hs : s.MemWf) : (s.restoreTrap c q).MemWf := by
  unfold State.restoreTrap
  split
  · exact hs.trapInsts
  · exact hs.fetchFail
  · exact hs

theorem State.MemWf.reloadBinds {p c : ℕ} (hs : s.MemWf) : (s.reloadBinds p c).MemWf := by
  unfold State.reloadBinds
  split
  · exact hs.modCore fun _ hk => hk
  · exact hs

theorem State.MemWf.finishRestore {lid : ℕ} (hs : s.MemWf) : (s.finishRestore lid).MemWf := by
  unfold State.finishRestore
  dsimp only
  split
  · exact hs
  split
  · exact hs
  · exact .closeArbour (.settle (.modLaunch (.foldl (hs.withdrawProxies.foldl fun _ _ ht =>
      ht.reloadBinds) fun _ _ ht => ht.modCore fun _ hk => hk)))

theorem State.MemWf.restoreCore {img : Image} {bs : List Byte} (hs : s.MemWf) (himg : img.kept.MemWf) :
    (s.restoreCore c l img bs).MemWf := by
  have hmapped : ∀ ms k, k.MemWf → (s.remapAll c ms k).1.MemWf := fun _ _ hk => hs.remapAll hk
  have hplaced : ∀ (k : Core) f base a bs, k.MemWf → Core.MemWf { k.restored (s.core c) f base with
      scratch := memWrite (k.restored (s.core c) f base).scratch a bs } :=
    fun _ _ _ _ _ hk => Memory.wf_memWrite _ _ _ hk.restored
  refine .finishRestore (.modLaunch (.foldl (State.MemWf.with_images (.setCore hs.drawBanks ?_) ?_) ?_))
  · exact hplaced _ _ _ _ _ (hmapped _ _ himg.loadImage)
  · exact fun _ hx => hs.of_mem_images (List.mem_of_mem_filter hx)
  · exact fun _ _ ht => ht.restoreTrap

theorem State.MemWf.execLaunchRestore {core : ℕ} (hs : s.MemWf) : NextWf (execLaunchRestore core s) := by
  unfold Machine.execLaunchRestore
  dsimp only
  split
  · exact hs
  split
  · exact hs
  split
  · exact hs.endLaunch
  next img himg =>
    split
    · exact hs.noteDevice.serviceFault
    split
    · exact hs.endLaunch
    split
    · exact hs.noteDevice.serviceFault
    · exact hs.restoreCore (hs.of_mem_images (List.mem_of_find?_eq_some himg))

/-! ### The functions of Machine/HostRegs -/

theorem State.MemWf.after {o : Host.Outcome State Fault Refusal} (hs : s.MemWf) (ho : NextWf o) :
    (s.after o).MemWf := by
  cases o with
  | next t => exact ho
  | fault e => exact hs
  | refused e => exact hs

theorem State.MemWf.writePartcfg {p v : ℕ} (hs : s.MemWf) : (s.writePartcfg p v).MemWf := by
  unfold State.writePartcfg
  dsimp only
  refine .resize ?_
  split
  · exact hs.modPart.enable
  · exact hs.modPart.disable

theorem State.MemWf.writeTlbinv {p v : ℕ} (hs : s.MemWf) : (s.writeTlbinv p v).MemWf := by
  unfold State.writeTlbinv
  split
  · exact hs.after hs.execTlbInvalidate
  · exact hs.modPart

theorem State.MemWf.writeRacecfg {v : ℕ} (hs : s.MemWf) : (s.writeRacecfg v).MemWf := by
  unfold State.writeRacecfg
  split
  · exact hs
  · exact hs

theorem State.MemWf.writeSavearea {p v : ℕ} (hs : s.MemWf) : (s.writeSavearea p v).MemWf := by
  unfold State.writeSavearea
  split
  · exact hs
  · exact hs.modPart

theorem State.MemWf.writeSaveresp {p v : ℕ} (hs : s.MemWf) : (s.writeSaveresp p v).MemWf :=
  hs.after (.ite hs.execSaveAbandon hs.execSaveResume)

theorem State.MemWf.writeFaultresp {p v : ℕ} (hs : s.MemWf) : (s.writeFaultresp p v).MemWf :=
  hs.after (.ite hs.execFaultResponseFail hs.execFaultResponseRetry)

theorem State.MemWf.writeFqctl {i v : ℕ} (hs : s.MemWf) : (s.writeFqctl i v).MemWf := hs.modFq

theorem State.MemWf.writeCoreret {v : ℕ} (hs : s.MemWf) : (s.writeCoreret v).MemWf := by
  unfold State.writeCoreret
  split
  · exact hs
  split
  · exact hs
  · exact .retireCore hs

theorem State.MemWf.writeTwstat {n v : ℕ} (hs : s.MemWf) : (s.writeTwstat n v).MemWf := by
  unfold State.writeTwstat
  split
  · exact hs.retirePort
  split
  · exact hs.after hs.execPortRetrain
  · exact hs

theorem State.MemWf.writeFwctl {v : ℕ} (hs : s.MemWf) : (s.writeFwctl v).MemWf :=
  .ite (hs.after hs.execFirmwareLoad) (hs.with_fw hs.wf_recovery)

theorem State.MemWf.writeMeasctl {v : ℕ} (hs : s.MemWf) : (s.writeMeasctl v).MemWf := by
  unfold State.writeMeasctl
  dsimp only
  split
  · exact hs.after hs.execMeasurementExtend
  · exact hs

theorem State.MemWf.writeDevice {off v : ℕ} (hs : s.MemWf) : (s.writeDevice off v).MemWf := by
  unfold State.writeDevice
  dsimp only
  split
  · exact hs.writeFwctl
  · exact hs
  · exact hs.writeMeasctl
  · exact hs
  · split
    · exact hs.after hs.execQuoteBuild
    · exact hs
  · exact hs.after hs.execQuoteBuild
  · exact hs
  · exact hs

theorem State.MemWf.writePartReg {which p v : ℕ} (hs : s.MemWf) : (s.writePartReg which p v).MemWf := by
  unfold State.writePartReg
  split
  · exact hs.writePartcfg
  · exact hs.modPart
  · exact hs.modPart
  · exact hs.writeTlbinv
  · exact hs.modPart
  · exact hs.modPart
  · exact hs.writeSavearea
  · exact hs.writeSaveresp
  · exact hs.writeFaultresp
  · exact hs.cancel

theorem State.MemWf.writeFq {i reg v : ℕ} (hs : s.MemWf) : (s.writeFq i reg v).MemWf := by
  unfold State.writeFq
  split
  · exact hs.modFq
  · exact hs.writeFqctl
  · exact hs.modFq
  · exact hs

theorem State.MemWf.writeReg {off v : ℕ} (hs : s.MemWf) : (s.writeReg off v).MemWf := by
  unfold State.writeReg
  refine .ite hs.writeDevice ?_
  split
  · exact hs.writePartReg
  refine .ite hs.writeCoreret (.ite hs.writeRacecfg (.ite hs.writeFq (.ite (.ite hs.writeRoute hs)
      (.ite ?_ ?_))))
  · exact hs.with_fw (Memory.wf_memWrite _ _ _ hs.wf_recovery)
  · split
    · exact hs.writeTwstat
    · exact hs

theorem State.MemWf.execRegisterWrite {vf : Option ℕ} {offset value : ℕ} (hs : s.MemWf) :
    NextWf (execRegisterWrite vf offset value s) := by
  unfold Machine.execRegisterWrite
  split
  · exact hs.writeReg
  split
  · split
    · exact hs.writeReg
    · exact hs
  · exact hs

theorem State.MemWf.execBar4Access {part0 link func va : ℕ} {access : HostAccess} (hs : s.MemWf) :
    NextWf (execBar4Access part0 link func va access s) := by
  unfold Machine.execBar4Access
  dsimp only
  split
  · exact hs
  split
  · split
    · split
      · refine .emit ?_
        split
        · exact hs.emit
        · exact hs
      split
      · refine .emit ?_
        split
        · exact hs.noteDevice.emit
        · exact hs.noteDevice
      · exact hs.emit
    split
    · refine .emit ?_
      split
      · exact hs.emit
      · exact hs
    split
    · refine .emit ?_
      split
      · exact hs.noteDevice.emit
      · exact hs.noteDevice
    · exact hs.emit
  split
  · split
    · refine .emit ?_
      split
      · exact hs.emit
      · exact hs
    split
    · refine .emit ?_
      split
      · exact hs.noteDevice.emit
      · exact hs.noteDevice
    · exact hs.writePieces.clearRecs
  split
  · refine .emit ?_
    split
    · exact hs.emit
    · exact hs
  split
  · refine .emit ?_
    split
    · exact hs.noteDevice.emit
    · exact hs.noteDevice
  · exact hs.writePieces.clearRecs

/-! ### The functions of Machine/Dispatch -/

theorem State.MemWf.exec {i : Instr} (hs : s.MemWf) : NextWf (exec i s) := by
  unfold Machine.exec
  split
  · exact hs.execBra
  · exact hs.execBri
  · exact hs.execCallb
  · exact hs.execRetb
  · exact hs.execSpawn
  · exact hs.execSret
  · exact hs.execTagenter
  · exact hs.execTagleave
  · exact hs.execRead
  · exact hs.execWrite
  · exact hs.execPhase
  · exact hs.execJoin
  · exact hs.execRep
  · exact hs.execShadv
  · exact hs.execBobinit
  · exact hs.execBobwait
  · exact hs.execBobrel
  · exact hs.execSyscall
  · exact hs.execBrk
  · exact hs.execTrapif
  · exact hs.execEret
  · exact hs.execEndl
  · exact hs.execMfsr
  · exact hs.execMtsr
  · exact hs.execConst
  · exact hs.execMov
  · exact hs.execAdd
  · exact hs.execSub
  · exact hs.execMul
  · exact hs.execMulh
  · exact hs.execMad
  · exact hs.execDiv
  · exact hs.execRem
  · exact hs.execAnd
  · exact hs.execOr
  · exact hs.execXor
  · exact hs.execAndn
  · exact hs.execShl
  · exact hs.execShr
  · exact hs.execSra
  · exact hs.execRotl
  · exact hs.execClz
  · exact hs.execPopc
  · exact hs.execMin
  · exact hs.execMax
  · exact hs.execAbs
  · exact hs.execNeg
  · exact hs.execAddsat
  · exact hs.execSubsat
  · exact hs.execCmp
  · exact hs.execSel
  · exact hs.execTst
  · exact hs.execExtr
  · exact hs.execIns
  · exact hs.execLea
  · exact hs.execPackn
  · exact hs.execUnpackn
  · exact hs.execUnt5
  · exact hs.execAcct
  · exact hs.execDotp
  · exact hs.execFadd
  · exact hs.execFaddRounding
  · exact hs.execFsub
  · exact hs.execFsubRounding
  · exact hs.execFmul
  · exact hs.execFmulRounding
  · exact hs.execFma
  · exact hs.execFmaRounding
  · exact hs.execFmin
  · exact hs.execFmax
  · exact hs.execFsgn
  · exact hs.execFcmp
  · exact hs.execFclass
  · exact hs.execFcvt
  · exact hs.execFrint
  · exact hs.execFexpi
  · exact hs.execFexpiRounding
  · exact hs.execFgetx
  · exact hs.execFdiv
  · exact hs.execFdivRounding
  · exact hs.execFsqrt
  · exact hs.execFsqrtRounding
  · exact hs.execFrcp
  · exact hs.execFrsq
  · exact hs.execFrcps
  · exact hs.execFrsqs
  · exact hs.execFexp2f
  · exact hs.execFlog2f
  · exact hs.execVrun
  · exact hs.execVred
  · exact hs.execVscan
  · exact hs.execVbcast
  · exact hs.execVlane
  · exact hs.execVshuf
  · exact hs.execViota
  · exact hs.execLd
  · exact hs.execSt
  · exact hs.execLdv
  · exact hs.execStv
  · exact hs.execAtom
  · exact hs.execCas
  · exact hs.execLdlk
  · exact hs.execStul
  · exact hs.execFence
  · exact hs.execPref
  · exact hs.execTstateFill
  · exact hs.execTstatePublish
  · exact hs.execTstateDrain
  · exact hs.execTstateRelease
  · exact hs.execTwait
  · exact hs.execSopen
  · exact hs.execSclose
  · exact hs.execGrows
  · exact hs.execScat
  · exact hs.execCwalk
  · exact hs.execStld
  · exact hs.execSisect
  · exact hs.execSunion
  · exact hs.execSdiff
  · exact hs.execSmadd
  · exact hs.execSnext
  · exact hs.execStst
  · exact hs.execCred
  · exact hs.execCbc
  · exact hs.execCag
  · exact hs.execCa2a
  · exact hs.execMld
  · exact hs.execMst
  · exact hs.execMzero
  · exact hs.execMma
  · exact hs.execMmsp
  · exact hs.execMcomp
  · exact hs.execMqnt
  · exact hs.execMdeq
  · exact hs.execMtrn
  · exact hs.execMaccr
  · exact hs.execMcor
  · exact hs.execMtri
  · exact hs.execMwy
  · exact hs.execMstep
  · exact hs.execMgrd
  · exact hs.execPtset
  · exact hs.execPtop
  · exact hs.execPly
  · exact hs.execPlyc
  · exact hs.execPlyf
  · exact hs.execWarp
  · exact hs.execReel
  · exact hs.execCamld
  · exact hs.execCamst
  · exact hs.execCamcomp
  · exact hs.execPgath
  · exact hs.execPmarch
  · exact hs.execPscat
  · exact hs.execPstep
  · exact hs.execPstat
  · exact hs.execSkbind
  · exact hs.execSpin
  · exact hs.execDraw
  · exact hs.execSkupd
  · exact hs.execSkrd
  · exact hs.execSkwr
  · exact hs.execDeviceReset
  · exact hs.execSupplySagTrip
  · exact hs.execStretchStepUp
  · exact hs.execStretchStepDown
  · exact hs.execPackagePowerOverCap
  · exact hs.execHardSagStop
  · exact hs.execHardSagRestart
  · exact hs.execPowerCapWrite
  · exact hs.execTwinikFlitReceive
  · exact hs.execTwinikNakReceive
  · exact hs.execTwinikAckReceive
  · exact hs.execUndeliverableResponse
  · exact hs.execPortRetrain
  · exact hs.execPortRetrainDone
  · exact hs.execPortRetire
  · exact hs.execRouteTableWrite
  · exact hs.execHandoverTransfer
  · exact hs.execHandoverRetry
  · exact hs.execFirmwareLoad
  · exact hs.execMeasurementExtend
  · exact hs.execQuoteBuild
  · exact hs.execRegisterWrite
  · exact hs.execBar4Access
  · exact hs.execLaunchWindowWrite
  · exact hs.execLaunchAccept
  · exact hs.execSpillReturn
  · exact hs.execPartitionEnable
  · exact hs.execPartitionDisable
  · exact hs.execPartitionResize
  · exact hs.execWaitWordPoll
  · exact hs.execLaunchAging
  · exact hs.execPlacementPass
  · exact hs.execArgumentCopy
  · exact hs.execLaunchComplete
  · exact hs.execLaunchCancel
  · exact hs.execLaunchWatchdogExpiry
  · exact hs.execWatchdogTrapUnanswered
  · exact hs.execWithheldFaultRecordPost
  · exact hs.execFaultResponseRetry
  · exact hs.execFaultResponseFail
  · exact hs.execCoreRetire
  · exact hs.execLaunchResume
  · exact hs.execTlbInvalidate
  · exact hs.execTlbInvalidateDone
  · exact hs.execPageWalk
  · exact hs.execSpawnGrant
  · exact hs.execColourRelease
  · exact hs.execBlockAdmission
  · exact hs.execBlockMapping
  · exact hs.execTokenArrival
  · exact hs.execInstanceCommit
  · exact hs.execArbourArrival
  · exact hs.execBarrierTimeout
  · exact hs.execFrameExhaustion
  · exact hs.execQueueStall
  · exact hs.execConfigEccError
  · exact hs.execConfigReload
  · exact hs.execNodeElementRead
  · exact hs.execShuttleEntryStart
  · exact hs.execShuttleRowCopy
  · exact hs.execShuttleCompletionPost
  · exact hs.execBurtexAtomic
  · exact hs.execAtommodeSwitch
  · exact hs.execLockGrant
  · exact hs.execReelPageFill
  · exact hs.execScatterWriteBuffer
  · exact hs.execWorldStepArrival
  · exact hs.execWorldStepClose
  · exact hs.execCollectiveComplete
  · exact hs.execProxyAbsenceReceive
  · exact hs.execProxyWithdrawalReceive
  · exact hs.execTrapDelivery
  · exact hs.execPreemptGating
  · exact hs.execQuiescence
  · exact hs.execDrainLimitExpiry
  · exact hs.execImageSave
  · exact hs.execSaveResume
  · exact hs.execSaveAbandon
  · exact hs.execPreemptRetry
  · exact hs.execLaunchRestore
  · exact hs.execQuoteComplete

/-! ### The functions of Machine/Step -/

theorem State.MemWf.step (hs : s.MemWf) : NextWf (step s) := by
  unfold Machine.step
  split
  · exact hs
  split
  next he => exact State.MemWf.syncFrames (hs.pick.of_fst he)
  next he => exact (State.MemWf.exec (hs.pick.of_fst he)).settled

end

end Sys2Proof.Machine

namespace Sys2Proof.Machine

open Sys2Proof

/-- Settles O60: each step is an instruction's own function or the synchronization of the frames, and every function of
the model that makes a state writes memory by `memSet`, `memWrite` or `memClear` alone, which keep the canonical form. -/
theorem memOkKept : Obligations.MemOkKept := by
  unfold Obligations.MemOkKept
  intro s t hs ht
  have hstep : NextWf (step s) := ((State.memOk_iff s).mp hs).step
  rw [ht] at hstep
  exact (State.memOk_iff t).mpr hstep

end Sys2Proof.Machine
